-- ==== Sys2Proof/Word.lean ====
section
/-! DEFINITION. The word and byte types, the model's unit of time, and the one sparse map that holds every
memory, every register page and every set of like instances: a list of key and value pairs in one canonical
form (keys strictly rising, no entry equal to what an unlisted key reads as). -/

namespace Sys2Proof

abbrev Word := BitVec 32
abbrev Byte := BitVec 8

/-- Instants and durations, in units of 31.25 ps (1/32 ns), the largest unit in which the fine edge step
(156.25 ps), the timebase tick tb (2.5 ns) and the nanosecond of R32 are all whole. They are those of the device's own
timebase: on a follower, whose timebase is steered (R378), every tb, and with it every carrier and every derived edge, is 80
units still (DEDUCED, log 60). -/
abbrev Time := Nat

/-- One fine edge step of 156.25 ps. -/
def fineStep : Time := 5
/-- One nanosecond. -/
def ns : Time := 32
/-- One timebase tick, tb = 2.5 ns. -/
def tb : Time := 80
/-- One microsecond. -/
def us : Time := 32000
/-- One millisecond. -/
def ms : Time := 32000000

/-- A sparse map. The value of an unlisted key is given by a default function that is passed to every
operation. -/
abbrev SMap (β : Type) := List (Nat × β)

namespace SMap

/-- The value at key `a`; an unlisted key reads as `d a`. -/
def get {β : Type} (d : Nat → β) : SMap β → Nat → β
  | [], a => d a
  | (k, v) :: m, a => if a = k then v else get d m a

/-- `m` with key `a` taken out. -/
def erase {β : Type} : SMap β → Nat → SMap β
  | [], _ => []
  | (k, v) :: m, a => if a = k then erase m a else (k, v) :: erase m a

/-- `m` with the value `v` at key `a`, in rising order of keys. -/
def insert {β : Type} : SMap β → Nat → β → SMap β
  | [], a, v => [(a, v)]
  | (k, w) :: m, a, v =>
    if a < k then (a, v) :: (k, w) :: m
    else if a = k then (a, v) :: m
    else (k, w) :: insert m a v

/-- Write `v` at key `a`, keeping the canonical form: a value equal to what the unlisted key reads as is not
listed. -/
def set {β : Type} [DecidableEq β] (d : Nat → β) (m : SMap β) (a : Nat) (v : β) : SMap β :=
  if v = d a then erase m a else insert m a v

/-- Every key of `m` is above `k`. -/
def above {β : Type} (k : Nat) : SMap β → Bool
  | [] => true
  | (a, _) :: m => k < a && above k m

/-- The canonical form: keys strictly rising and no entry equal to its default. -/
def wf {β : Type} [DecidableEq β] (d : Nat → β) : SMap β → Bool
  | [] => true
  | (k, v) :: m => above k m && decide (v ≠ d k) && wf d m

end SMap

/-- The bits of `n` from bit `lo`, `w` of them. -/
def bits (n lo w : Nat) : Nat := (n >>> lo) % 2 ^ w

/-- Bit `i` of `n`. -/
def bitOf (n i : Nat) : Bool := n.testBit i

/-- `n` with the `w` bits from bit `lo` replaced by `v`. -/
def setBits (n lo w v : Nat) : Nat :=
  n - (bits n lo w <<< lo) + ((v % 2 ^ w) <<< lo)

/-- `n` with bit `i` set. -/
def setBit (n i : Nat) : Nat := n ||| (1 <<< i)

/-- `n` with the bits of `m` cleared. -/
def clearMask (n m : Nat) : Nat := n - (n &&& m)

/-- `n` with bit `i` cleared. -/
def clearBit (n i : Nat) : Nat := clearMask n (1 <<< i)

/-- The value `n + k`, saturated at `max`. -/
def satAdd (n k max : Nat) : Nat := if n + k > max then max else n + k

/-- The two's-complement reading of the low `w` bits of `n`. -/
def toSigned (n w : Nat) : Int :=
  if (n % 2 ^ w) < 2 ^ (w - 1) then (n % 2 ^ w : Nat) else (n % 2 ^ w : Nat) - (2 ^ w : Nat)

/-- The low `w` bits of the two's complement of `i`. -/
def ofSigned (i : Int) (w : Nat) : Nat := (i % (2 ^ w : Nat)).toNat

/-- 1 for true and 0 for false. -/
def b2n (b : Bool) : Nat := if b then 1 else 0

/-- The ceiling of `a / b`. -/
def ceilDiv (a b : Nat) : Nat := (a + b - 1) / b

/-- The two models of the family (R4). -/
inductive Variant where
  | hz9610
  | hz9605
  deriving DecidableEq, Repr

/-- A processor unit as the source of an access: the pair (0 to 5 for AP0 to AP5, 6 for SV) and, while the pair
is split, whether it is half B (R22, R114). -/
structure Who where
  unit : Fin 7
  halfB : Bool
  deriving DecidableEq, Repr

/-- The key under which a unit's state is held: the unit index, plus 8 for half B. -/
def Who.key (w : Who) : Nat := w.unit.val + (if w.halfB then 8 else 0)

/-- The rank of a writer under R22: the unit index first, half B above half A. -/
def Who.rank (w : Who) : Nat := 2 * w.unit.val + (if w.halfB then 1 else 0)

/-- SV, unit 6, in lockstep. -/
def Who.sv : Who := ⟨6, false⟩

/-- The size of a store: SB, SH or SW. -/
inductive Size where
  | sb
  | sh
  | sw
  deriving DecidableEq, Repr

/-- The number of bytes of an access. -/
def Size.bytes : Size → Nat
  | .sb => 1
  | .sh => 2
  | .sw => 4

/-- The fields of a 64-bit engine instruction beside its opcode (R154). -/
structure EngWord where
  vd : BitVec 5
  va : BitVec 5
  vb : BitVec 5
  vc : BitVec 5
  pg : BitVec 3
  md : BitVec 3
  imm : Word
  deriving DecidableEq, Repr

/-- The side of a leg: its high or its low gate. -/
inductive Side where
  | high
  | low
  deriving DecidableEq, Repr

/-- The other side. -/
def Side.other : Side → Side
  | .high => .low
  | .low => .high

/-- A header of a spine signature (R374), its fields read; whether a reserved bit of it is set. -/
structure Header where
  kind : BitVec 2
  bc : Bool
  cap : Bool
  dq : BitVec 2
  w : Bool
  dst : BitVec 6
  src : BitVec 6
  len : BitVec 12
  seq : BitVec 16
  epoch : BitVec 16
  tick : Word
  reservedSet : Bool
  hcrc : BitVec 16
  deriving DecidableEq, Repr

end Sys2Proof
end

