-- ==== Sys2Proof/Syntax.lean ====
section
/-! DEFINITION. The commands of the device: one constructor of Instr per row of the table of operations and
events, with the operands that the row's step takes from outside the device. An event of the outside world or of
a timer is a command like any other; the meanings check against State that it is due. -/

namespace Sys2Proof

/-- The byte mask of a store or of a colophon entry: bit b is set when byte b of the word is named (R55). -/
abbrev Mask := BitVec 4

/-- How a fault of a pair was detected: the codes of PRC_MMn.KIND (R90, R134). Parity is the correctable
transient; the other two are lockstep mismatches. -/
inductive Mismatch where
  | bus
  | signature
  | parity
  deriving DecidableEq, Repr

/-- The permanent-class faults of R90 that arise of themselves (a replay failure and ASYNC_DIVERGE arise inside
PAIR_REPLAY, and their causes are named here too). -/
inductive PermCause where
  | replayFailure
  | doubleBitEcc
  | checker
  | selfTest
  | asyncDiverge
  deriving DecidableEq, Repr

/-- The engine memory of an uncorrectable error, or the engine's own checkers (R177, ENG_ECC.UMEM). -/
inductive EngMem where
  | checker
  | program
  | state
  | table
  | scratch
  | sampleBank
  | resultBank
  deriving DecidableEq, Repr

/-- The inputs of a SAR converter (R278): an analogue input AINk, a temperature sensor, the supply monitors, the taps of
the reference ladder, and VSSA. -/
inductive SarInput where
  | ain (k : Nat)
  | sensor (k : Nat)
  | vdd
  | vddm
  | vdda18Half
  | vdda33Half
  | tapQuarter
  | tapThreeQuarters
  | vssa
  deriving DecidableEq, Repr

/-- The trigger of a SAR sequence other than software (R279). -/
inductive SarTrig where
  | instant
  | boundary
  deriving DecidableEq, Repr

/-- What has lasted since an instant until the instant of the command. -/
structure Span where
  since : Time
  till : Time
  deriving DecidableEq, Repr

/-- Where a load or a fetch goes, and how many bytes it takes. -/
structure Place where
  addr : Word
  size : Size
  deriving DecidableEq, Repr

/-- A conversion's input, its code, and the code of the unit that runs in parallel with it, if one does (R278, R464). -/
structure SarCode where
  inp : SarInput
  code : BitVec 14
  par : BitVec 14
  deriving DecidableEq, Repr

/-- The level that the read-back of a safe output's pin has had (R353). -/
structure ReadBack where
  pinB : Bool
  level : Bool
  span : Span
  deriving DecidableEq, Repr

/-- The level that a side's gate pad has read (R468). -/
structure PadLevel where
  side : Side
  level : Bool
  span : Span
  deriving DecidableEq, Repr

/-- A member, and the ports of this device at which it is the next one (R386). -/
structure Neighbour where
  addr : Fin 64
  ports : BitVec 4
  deriving DecidableEq, Repr

/-- The code that another master drives, and the bits that it sends (R428). -/
structure TargetBits where
  code : BitVec 3
  rx : List Bool
  deriving DecidableEq, Repr

/-- The outcome of a block self-test, and a converter's codes of its ladder check (R464 to R466). -/
structure TestResult where
  pass : Bool
  c13 : BitVec 14
  c14 : BitVec 14
  c15 : BitVec 14
  deriving DecidableEq, Repr

/-- The three lines of a feedback port that carry edges (R297): A or H1 or data, B or H2, Z or H3. -/
inductive FbLine where
  | a
  | b
  | z
  deriving DecidableEq, Repr

/-- A pin with an edge filter: a line of a feedback port, or a pulse input (R299). -/
inductive FbPin where
  | port (f : Fin 12) (k : FbLine)
  | pls (p : Fin 8)
  deriving DecidableEq, Repr

/-- The pricking that a pass ran: one of its own instruction words alone, or the library's auxsl, of which the spec gives
the law and not the words (R324; log 36). -/
inductive PassLaw where
  | own
  | auxsl
  deriving DecidableEq, Repr

/-- The failures of an auxiliary start (R328, R336). -/
inductive AuxFail where
  | noLock
  | heldDuring
  | lockLost
  | brakeTimeout
  deriving DecidableEq, Repr

/-- A signature as received on a spine port: the port, the header, the payload, the CRC-32 of its trailer, and whether an
error block stands in place of the trailer (R374, R375). -/
structure Sig where
  port : Fin 4
  hdr : Header
  payload : List Byte
  crc : Word
  err : Bool
  deriving DecidableEq, Repr

/-- What a member announces of itself when a ring forms, and what a JOIN signature carries (R384, R387). -/
structure Peer where
  addr : Fin 64
  serial : BitVec 64
  cfgd : Word
  verd : Word
  ringid : Word
  gath : Word
  slot : BitVec 7
  abud : BitVec 16
  deriving DecidableEq, Repr

/-- An announcement as it arrives: the signature and what its payload says (R384). -/
structure Announced where
  sig : Sig
  peer : Peer
  deriving DecidableEq, Repr

/-- A CAN frame as received (R407): its format bits, identifier, data length code, data, and the tick position
at its start. -/
structure CanFrame where
  ide : Bool
  rtr : Bool
  fdf : Bool
  brs : Bool
  esi : Bool
  ident : BitVec 29
  dlc : BitVec 4
  data : List Byte
  sof : BitVec 16
  deriving DecidableEq, Repr

/-- What a CAN error is in the terms in which ISO 11898-1 steps the counters (R414): an error in a frame; a transmitter's
stuff error during arbitration; an acknowledgement error with no dominant bit during the error flag; a dominant bit as the
first one after an error flag; a bit error in an active error flag or an overload flag; and a run of dominant bits after a
flag, the 14th or 8th and each eighth after it. -/
inductive CanErrKind where
  | frame
  | arbStuff
  | quietAck
  | lateDominant
  | flagBit
  | dominantRun
  deriving DecidableEq, Repr

/-- A CAN bus error: its LEC code of CAN_n_STAT, whether this controller was transmitting, and its kind (R414). -/
structure CanErr where
  lec : BitVec 3
  tx : Bool
  kind : CanErrKind
  deriving DecidableEq, Repr

/-- The classes of the transparent memory test (R461). -/
inductive MemClass where
  | tcm (u : Fin 7)
  | sram
  | twin
  | colophon
  deriving DecidableEq, Repr

/-- VDD and VDDIO33 are in range again from `from_` on, and the levels of MAIN_OK and BKUP_OK at that instant (R483). -/
structure Rails where
  from_ : Time
  mainOk : Bool
  bkupOk : Bool
  deriving DecidableEq, Repr

/-- The causes of a device reset (R481, PWR_RSTC). At power-up the banks come up at 1.8 V or, where bit c of `banks` is
set, at 3.3 V (R229). Where VDD or VDDIO33 leaves its range, the rails come back as given. -/
inductive RstCause where
  | powerUp (banks : BitVec 16) (rails : Rails)
  | porst
  | reset
  | vdd (rails : Rails)
  | vddmSd
  | io18
  | io33 (rails : Rails)
  deriving DecidableEq, Repr

/-- Where a single-bit ECC error was met: on an access of a pair, or in an engine memory (R90, R177). -/
inductive EccSite where
  | pair (u : Fin 7)
  | engine
  deriving DecidableEq, Repr

inductive Instr where
  /-- TICK_BOUNDARY (R54): At each tick boundary the device commits pending state, latches the result and sample banks, counts the tick, takes checkpoints and applies the clear queues and then the colophon entries. -/
  | tickBoundary
  /-- COMMIT_WINDOW_OPEN (R47): At t_CW every unit that has not finished commits hold-last for the tick. -/
  | commitWindowOpen
  /-- TKC_BUDGET_WARN (R40): A first run that exceeds its budget is recorded and optionally raises TKC_BUDGET_WARN. -/
  | tkcBudgetWarn (u : Fin 8) (t : Time)
  /-- TKC_CBAR (R52): A write to TKC_CBAR ends the unit's tick work once its earlier stores, entries and clear-queue stores are drained. -/
  | tkcCbar (w : Who) (t : Time)
  /-- CBAR_DRAIN_COMPLETE (R52): The TKC_CBAR write completes after the drain and the unit sleeps until the boundary. -/
  | cbarDrainComplete (w : Who) (t : Time)
  /-- CL_STORE (R55): A store to a CL field becomes a colophon entry, is merged with the previous entry or is refused over quota. -/
  | clStore (w : Who) (a : Word) (z : Size) (d : Word)
  /-- CLEAR_QUEUE_STORE (R43): A pair store to a W1C, W1S or WO field enters the clear queue or faults when 32 are already queued. -/
  | clearQueueStore (w : Who) (a : Word) (z : Size) (d : Word)
  /-- TKC_RUN (R75): Setting TKC_CTRL.RUN starts the tick with an implicit rebinding of every block at the first boundary. -/
  | tkcRun (t : Time)
  /-- TKC_QUOTA_WRITE (R58): A quota write takes effect at its boundary or is ignored with QERR when the sum or SV minimum would be broken. -/
  | tkcQuotaWrite (u : Fin 7) (m : Mask) (d : Word)
  /-- TCNT_L_READ (R36): A read of TKC_TCNT_L or TKC_RBDONE_L captures the upper half into the unit's holding register. -/
  | tcntLRead (w : Who) (rb : Bool)
  /-- REBIND_REQUEST (R67): An applied TKC_RBREQ with GO = 1 is accepted and locks the participants' shadow pages, or is rejected with a code. -/
  | rebindRequest (m : Mask) (d : Word)
  /-- REBIND_ATTEMPT (R70): At boundary N and each later boundary every participant reports ready and all flip together or none does. -/
  | rebindAttempt
  /-- REBIND_TIMEOUT (R71): A rebinding still failing at boundary N+63 is abandoned and the shadow pages are unlocked. -/
  | rebindTimeout
  /-- SHADOW_REFILL_DONE (R73): A block finishes refilling its shadow page from the new live page and COPYING clears. -/
  | shadowRefillDone (b : Fin 13) (t : Time)
  /-- PAIR_STORE (R42): A pair store to journaled memory or to an RW, RWL or RWS field writes one undo journal record and takes effect. -/
  | pairStore (w : Who) (a : Word) (z : Size) (d : Word)
  /-- STATE_MEMORY_STORE (R21): A processor store to engine state memory forms a pending word that wins over engine writes at commit. -/
  | stateMemoryStore (w : Who) (a : Word) (z : Size) (d : Word)
  /-- LIMP_RESULT_STORE (R126): In limp mode a store by an emulator pair to the result bank is a pending tagged write. -/
  | limpResultStore (w : Who) (a : Word) (z : Size) (d : Word)
  /-- UNC_ECC_ACCESS (R93): A load or fetch of an SRAM or eMRAM word with an uncorrectable error faults, counts UNC and remaps the word if a spare is free. -/
  | uncEccAccess (w : Who) (a : Word) (fetch : Bool)
  /-- PAIR_REPLAY (R44): A lockstep mismatch or correctable transient stops the pair, restores its journal and restarts it at the checkpoint. -/
  | pairReplay (u : Fin 7) (k : Mismatch) (a : Word) (t : Time)
  /-- PRC_PERM_FAULT (R91): A permanent-class fault stops the pair within 8 cycles and marks it FAILED. -/
  | prcPermFault (w : Who) (k : PermCause) (t : Time)
  /-- MIRROR_TRANSFER_DONE (R102): The committed mirror records have been written into the standby's mirror and its stalled accesses proceed. -/
  | mirrorTransferDone (d : Fin 16) (t : Time)
  /-- PRC_START (R88): PRC_CTLn.START = 1 starts a HELD application pair at PRC_VECn at the next boundary. -/
  | prcStart (n : Fin 7)
  /-- PRC_HOREQ (R110): A hand-over request is checked when applied and is accepted or rejected with a code. -/
  | prcHoreq (m : Mask) (d : Word)
  /-- HANDOVER_TAKE_EFFECT (R111): Two boundaries after the request the duty's routes, quota, leases and region move to the new primary after a recheck. -/
  | handoverTakeEffect
  /-- PRC_SPLIT (R113): A split request stops the pair and starts halves A and B at their vectors. -/
  | prcSplit (n : Fin 6)
  /-- PRC_REJOIN (R116): A rejoin request stops both halves, resets their register files, scrubs the TCMs and restarts the pair in lockstep. -/
  | prcRejoin (n : Fin 6)
  /-- LEASE_ACQUIRE (R119): An acquire is granted if the resource and a slot are free, else denied with a code. -/
  | leaseAcquire (w : Who) (d : Word)
  /-- LEASE_RENEW (R121): A renew by the holder sets the lease count to its TERM. -/
  | leaseRenew (w : Who) (d : Word)
  /-- LEASE_RELEASE (R122): A release frees the resource at its boundary and the block ends work in progress. -/
  | leaseRelease (w : Who) (d : Word)
  /-- LEASE_REVOKE (R122): SV revokes a lease, freeing the resource and raising PRC_LEASE_REVOKED. -/
  | leaseRevoke (w : Who) (d : Word)
  /-- LEASE_EXPIRE (R121): A lease whose count reaches 0 without a renew expires at that boundary. -/
  | leaseExpire (k : Fin 64)
  /-- ENG_PERM_FAULT (R177): A permanent engine fault stops the engine and marks it FAILED. -/
  | engPermFault (mem : EngMem) (t : Time)
  /-- EVR_TOP_READ (R129): A read of EVR_TOPc returns the highest pending event and marks it observed. -/
  | evrTopRead (w : Who) (c : Fin 7) (b : Bool)
  /-- EVR_PEND_READ (R129): A read of EVR_PENDc_w marks the set bits observed. -/
  | evrPendRead (w : Who) (c : Fin 7) (b : Bool) (k : Fin 20)
  /-- PASS_COMPLETE (R140): A pass attempt completes when END has retired and its stores are done, and the next entry starts;
  a pass has run its own words, unless it is one of auxsl (R324). -/
  | passComplete (law : PassLaw := .own)
  /-- PASS_BUDGET_ABORT (R141): A pass whose cycle count reaches BUDGET is aborted with cause BUDGET. -/
  | passBudgetAbort
  /-- ENGINE_RERUN (R45): A mismatch or transient in the engine aborts the running pass and re-runs it from its first instruction. -/
  | engineRerun (lane : Fin 32)
  /-- NOP (R159): The engine executes no operation. -/
  | nop (e : EngWord)
  /-- END (R159): The engine ends the pass. -/
  | endP (e : EngWord)
  /-- BRU (R159): The engine branches on an address or predicate condition. -/
  | bru (e : EngWord)
  /-- LOOP (R159): The engine decrements and branches, sets or adds to an address register. -/
  | loop (e : EngWord)
  /-- FENCE_C (R174): The engine stalls issue until earlier STC stores complete. -/
  | fenceC (e : EngWord)
  /-- FENCE_R (R174): The engine stalls issue until earlier STR stores complete. -/
  | fenceR (e : EngWord)
  /-- FENCE_S (R174): The engine stalls issue until earlier STS stores complete. -/
  | fenceS (e : EngWord)
  /-- EVT (R159): The engine raises ENG_EVTk at pass completion if any lane writes. -/
  | evt (e : EngWord)
  /-- LDS (R143): The engine loads the committed or pending copy of a state word. -/
  | lds (e : EngWord)
  /-- STS (R144): The engine writes the pending copy of a state word and tags it. -/
  | sts (e : EngWord)
  /-- LDX (R161): The engine loads a sample-bank word. -/
  | ldx (e : EngWord)
  /-- STR (R153): The engine writes the pending copy of a result-bank word. -/
  | str (e : EngWord)
  /-- LDT (R161): The engine loads a table-memory word. -/
  | ldt (e : EngWord)
  /-- LDC (R148): The engine loads a scratch word, returning NaN with NV if it is poisoned. -/
  | ldc (e : EngWord)
  /-- STC (R147): The engine writes a scratch word, setting its written bit and clearing poison. -/
  | stc (e : EngWord)
  /-- FADD (R163): The engine adds two FP32 values. -/
  | fadd (e : EngWord)
  /-- FSUB (R163): The engine subtracts two FP32 values. -/
  | fsub (e : EngWord)
  /-- FMUL (R163): The engine multiplies two FP32 values. -/
  | fmul (e : EngWord)
  /-- FMA (R163): The engine computes a fused multiply-add. -/
  | fma (e : EngWord)
  /-- FNMA (R163): The engine computes a fused negative multiply-add. -/
  | fnma (e : EngWord)
  /-- FMIN (R163): The engine selects the lesser FP32 value. -/
  | fmin (e : EngWord)
  /-- FMAX (R163): The engine selects the greater FP32 value. -/
  | fmax (e : EngWord)
  /-- FABS (R163): The engine takes the FP32 absolute value. -/
  | fabs (e : EngWord)
  /-- FNEG (R163): The engine negates an FP32 value. -/
  | fneg (e : EngWord)
  /-- FCLAMP (R163): The engine clamps an FP32 value between two bounds. -/
  | fclamp (e : EngWord)
  /-- FCMP (R164): The engine compares FP32 values into a predicate. -/
  | fcmp (e : EngWord)
  /-- FRCP (R163): The engine computes an FP32 reciprocal. -/
  | frcp (e : EngWord)
  /-- FRSQ (R163): The engine computes an FP32 reciprocal square root. -/
  | frsq (e : EngWord)
  /-- FCVT (R163): The engine converts between int32 and FP32. -/
  | fcvt (e : EngWord)
  /-- QADD (R165): The engine adds or subtracts Q1.31 values with saturation. -/
  | qadd (e : EngWord)
  /-- QMUL (R165): The engine multiplies Q1.31 values with saturation. -/
  | qmul (e : EngWord)
  /-- QMAC (R165): The engine accumulates a Q1.31 product with saturation. -/
  | qmac (e : EngWord)
  /-- QSHR (R165): The engine shifts a Q1.31 value right, or left with saturation. -/
  | qshr (e : EngWord)
  /-- QSAT (R165): The engine saturates a value to a signed bit range. -/
  | qsat (e : EngWord)
  /-- QCVT (R165): The engine converts between Q1.31 and FP32. -/
  | qcvt (e : EngWord)
  /-- SINCOS (R166): The engine computes sine and cosine into a register pair. -/
  | sincos (e : EngWord)
  /-- ATAN2 (R166): The engine computes a four-quadrant arctangent. -/
  | atan2 (e : EngWord)
  /-- WRAP (R166): The engine wraps an angle into a range. -/
  | wrap (e : EngWord)
  /-- TLU (R151): The engine evaluates a table lookup. -/
  | tlu (e : EngWord)
  /-- HYS (R168): The engine evaluates a curve with turn-on hysteresis and writes its state pending. -/
  | hys (e : EngWord)
  /-- CLK3 (R188): The engine computes the Clarke transform. -/
  | clk3 (e : EngWord)
  /-- PRK (R188): The engine computes the Park transform. -/
  | prk (e : EngWord)
  /-- IPRK (R188): The engine computes the inverse Park transform. -/
  | iprk (e : EngWord)
  /-- SVM (R189): The engine computes three space-vector duties. -/
  | svm (e : EngWord)
  /-- PIS (R190): The engine runs a clamped PI step in predict or commit mode. -/
  | pis (e : EngWord)
  /-- MSEL (R170): The engine selects the minimum of k inputs and its index. -/
  | msel (e : EngWord)
  /-- LPF (R188): The engine runs a first-order low-pass step. -/
  | lpf (e : EngWord)
  /-- BCAST (R171): The engine broadcasts a lane, address or special value. -/
  | bcast (e : EngWord)
  /-- SHFL (R171): The engine shuffles values between lanes. -/
  | shfl (e : EngWord)
  /-- REDUCE (R171): The engine reduces writing lanes by sum, minimum or maximum. -/
  | reduce (e : EngWord)
  /-- LANEID (R171): The engine writes each lane's index. -/
  | laneid (e : EngWord)
  /-- INJ (R171): The engine adds running injection-generator values at a node. -/
  | inj (e : EngWord)
  /-- CAP (R179): The engine stages a capture record per writing lane while capture is armed. -/
  | cap (e : EngWord)
  /-- TRAP (R171): The engine aborts the pass with cause TRAP if any lane writes. -/
  | trap (e : EngWord)
  /-- IG_START (R178): An applied ENG_IGn_CFG with RUN = 1 starts the injection generator. -/
  | igStart (n : Fin 4) (m : Mask) (d : Word)
  /-- IG_STOP (R178): An applied ENG_IGn_CFG with RUN = 0 stops the generator at once. -/
  | igStop (n : Fin 4) (m : Mask) (d : Word)
  /-- IG_PRBS_ADVANCE (R178): Every HOLD ticks the PRBS generator advances its LFSR. -/
  | igPrbsAdvance (n : Fin 4)
  /-- ENG_IG_DONE (R178): At k = LEN the generator stops and raises ENG_IGn_DONE. -/
  | engIgDone (n : Fin 4)
  /-- CARRIER_UPDATE_POINT (R209): At each update point a leg takes the duty of the latest commit and decides its next pulse or gap. -/
  | carrierUpdatePoint (l : Fin 96) (t : Time)
  /-- MOD_EDGE (R210): An ideal command edge falls at its planned instant and turn-off edges are driven. -/
  | modEdge (l : Fin 96)
  /-- DEAD_TIME_EXPIRE (R212): The dead time after a turn-off elapses and a waiting turn-on may be driven. -/
  | deadTimeExpire (l : Fin 96) (sd : Side) (t : Time)
  /-- STATUS_INPUT_EDGE (R230): An SHx or SLx level change is seen, possibly completing the conditions of a waiting turn-on. -/
  | statusInputEdge (l : Fin 96) (sd : Side) (v : Bool) (t : Time)
  /-- CONFIRM_TIMEOUT (R232): A turn-on still lacking off-confirm at its deadline is abandoned, CTO set and the fault latch set. -/
  | confirmTimeout (l : Fin 96) (sd : Side) (t : Time)
  /-- STUCK_GATE (R233): A status disagreeing with its command beyond STUCK_T marks the gate stuck, a hard fault. -/
  | stuckGate (l : Fin 96) (sd : Side) (t : Time)
  /-- SAMPLING_INSTANT (R219): A group's sampling instant falls LEAD before the reference leg's valley or peak. -/
  | samplingInstant (g : Fin 16) (t : Time)
  /-- MOD_UNDIAG (R224): The undiagnosed count reaches N without DINS and UNDIAG is set with MOD_UNDIAG raised. -/
  | modUndiag (l : Fin 96)
  /-- DIAG_PULSE_INSERT (R223): The undiagnosed count reaches N with DINS = 1 and the next period carries a diagnostic pulse and instant. -/
  | diagPulseInsert (l : Fin 96)
  /-- DEBUG_HALT (R220): A debugger halt of a unit or the engine sends every dependent group into its safe state. -/
  | debugHalt (u : Fin 8) (t : Time)
  /-- TIMEBASE_LOSS (R221): The RC monitor declares the timebase lost and every group goes to its safe state until reset. -/
  | timebaseLoss (t : Time)
  /-- FLT_FALL (R234): A low level on FLTc drives the cluster's gates low, sets fault latches, holds spread groups and starts a fault poll. -/
  | fltFall (c : Fin 16) (t : Time)
  /-- FLT_RISE (R241): FLTc rises and one further poll of the cluster starts. -/
  | fltRise (c : Fin 16) (t : Time)
  /-- FLT_HARD (R245): FLTc low for FLT_HARD_T latches every affected group with HARD. -/
  | fltHard (c : Fin 16) (t : Time)
  /-- FAULT_POLL_REPEAT (R241): While FLTc stays low a new broadcast poll starts every 10 µs. -/
  | faultPollRepeat (c : Fin 16) (t : Time)
  /-- PERIODIC_POLL (R258): A periodic broadcast poll starts at each boundary whose tick number is a multiple of POLL. -/
  | periodicPoll (c : Fin 16)
  /-- STATUS_REQUEST (R255): The gate link sends an addressed or broadcast status request frame on the profile bus. -/
  | statusRequest (c : Fin 16) (a : Fin 7) (t : Time)
  /-- EDGE_PROFILE (R258): The gate link sends an edge-profile frame when a side's codes change. -/
  | edgeProfile (l : Fin 96) (sd : Side) (t : Time)
  /-- CONFIGURATION_FRAME (R258): The gate link sends a configuration frame after RUN or a GLK flip. -/
  | configurationFrame (l : Fin 96) (t : Time)
  /-- POLL_REPLY (R256): A driver reply is received and validated, marking sides unusable or setting PBERR. -/
  | pollReply (c : Fin 16) (a : Fin 6) (r : BitVec 16) (t : Time)
  /-- POLL_COMPLETE (R241): A broadcast poll completes and the safe-state sequence may proceed past step 2. -/
  | pollComplete (c : Fin 16) (t : Time)
  /-- ASC_TURN_ON (R237): Once off-confirmed, waited DT and polled, the chosen side of every non-excluded leg is turned on. -/
  | ascTurnOn (g : Fin 16) (t : Time)
  /-- ASC_VERIFY_TIMEOUT (R237): A turned-on side not confirmed within CONFIRM_TMO is marked unusable and the sequence re-chosen. -/
  | ascVerifyTimeout (l : Fin 96) (t : Time)
  /-- SAF_RELEASE (R248): An applied release entry ends a group's hold if all release conditions hold, else sets RELREF. -/
  | safRelease (gs : BitVec 16)
  /-- HOLD_LEAVE_COMPLETE (R249): Once every gate is off-confirmed for DT the legs pass to the modulator and STATE becomes 0. -/
  | holdLeaveComplete (g : Fin 16) (t : Time)
  /-- HOLD_LEAVE_TIMEOUT (R249): Leaving takes longer than DT + CONFIRM_TMO, the side is stuck on and the group stays held with HARD. -/
  | holdLeaveTimeout (g : Fin 16) (t : Time)
  /-- MAIN_RESULT (R273): A main filter produces a result that becomes available to the sample-bank latch. -/
  | mainResult (ch : Fin 112) (bs : List Bool) (t : Time)
  /-- FAST_RESULT (R273): A fast filter produces a result that feeds the overcurrent comparators and slope detection. -/
  | fastResult (ch : Fin 112) (bs : List Bool) (t : Time)
  /-- BSCK_LOST (R272): An input clock with no edge for 400 ns or out of range clears CLKOK. -/
  | bsckLost (k : Fin 14) (t : Time)
  /-- BSCK_RECOVER (R272): After 64 periods in range CLKOK returns to 1 and the channels restart. -/
  | bsckRecover (k : Fin 14) (p : Span)
  /-- CAL_REQUEST (R284): An applied BSI_CALREQ starts a calibration or is refused with CODE 5 or 6. -/
  | calRequest (m : Mask) (d : Word)
  /-- CAL_TIMEOUT (R285): A calibration not complete 65,536 ticks after acceptance is refused. -/
  | calTimeout
  /-- RELIEF_START (R289): Every ROT ticks a spare filter unit begins relieving the next enabled channel. -/
  | reliefStart
  /-- RELIEF_COMPARE (R289): The spare's results are compared with the live unit's and it takes over or a self-test follows. -/
  | reliefCompare (eq : Bool) (t : Time)
  /-- FILTER_SELFTEST_DONE (R290): A filter unit finishes its self-test and becomes a spare or is marked failed. -/
  | filterSelftestDone (u : Fin 116) (mean : Int) (t : Time)
  /-- SAR_SEQ_START (R279): A trigger starts a SAR sequence, or is dropped or deferred if the converter is busy. -/
  | sarSeqStart (c : Fin 8) (k : SarTrig) (t : Time)
  /-- SAR_SEQ_GO (R279): An applied SAR_SEQs_SW.GO triggers the sequence. -/
  | sarSeqGo (c : Fin 8) (t : Time)
  /-- SAR_URGENT_REQUEST (R281): An urgent request converts URGCH into slot 15 if the converter is idle, else it is dropped. -/
  | sarUrgentRequest (c : Fin 8) (sw : Bool) (t : Time)
  /-- SAR_SLOT_RESULT (R282): A SAR slot result completes and its corrected value and flag are updated. -/
  | sarSlotResult (c : Fin 8) (v : SarCode) (t : Time)
  /-- SAR_REF_SETTLED (R283): SETTLE µs after a reference change REF_SETTLED becomes 1. -/
  | sarRefSettled (t : Time)
  /-- FB_PIN_EDGE (R299): An edge on a feedback or pulse pin is seen, or rejected if another follows within TMIN. -/
  | fbPinEdge (p : FbPin) (v : Bool) (t : Time)
  /-- FB_EDGE_ACCEPT (R300): An accepted edge takes effect TMIN after the pin edge and updates the count, direction and interval history. -/
  | fbEdgeAccept (p : FbPin) (t : Time)
  /-- CMP_PULSE_END (R314): WIDTH tb after a fire the compare output falls. -/
  | cmpPulseEnd (c : Fin 4) (t : Time)
  /-- FB_STANDSTILL (R305): No counting edge for TSTILL sets STILL, speed 0 and clears the history. -/
  | fbStandstill (f : Fin 12) (t : Time)
  /-- FBK_LPOS_READ (R303): A read of LPOS captures WRAP into the unit's holding register. -/
  | fbkLposRead (w : Who) (f : Fin 12)
  /-- SERIAL_READ_START (R310): SLEAD before each boundary a serial port starts reading its absolute sensor. -/
  | serialReadStart (f : Fin 12) (t : Time)
  /-- SERIAL_READING (R311): A serial reading completes and is accepted into POS and speed or rejected. -/
  | serialReading (f : Fin 12) (raw : BitVec 33) (t : Time)
  /-- RECAP (R308): An applied RECAP makes the next index store IREF. -/
  | recap (f : Fin 12)
  /-- CMP_ARM (R315): An applied ARM = 1 arms the compare output with the pointer at 0. -/
  | cmpArm (c : Fin 4)
  /-- CMP_DISARM (R315): An applied ARM = 0 disarms the compare output. -/
  | cmpDisarm (c : Fin 4)
  /-- EM_OUTPUT_EDGE (R316): An emulation channel emits a waiting output count once EMIN has passed. -/
  | emOutputEdge (e : Fin 4) (t : Time)
  /-- FBK_PLS_TMO (R318): No EDGE edge for PTMO ms times the pulse input out. -/
  | fbkPlsTmo (p : Fin 8) (t : Time)
  /-- AUX_CLASSIFY (R331): After TMEAS ticks in MEASURE auxsl classifies the machine and plans its action. -/
  | auxClassify (b : Fin 128)
  /-- AUX_BRAKE_END (R333): BRAKE ends after 40 consecutive slow or low-current ticks and auxsl enters START. -/
  | auxBrakeEnd (b : Fin 128)
  /-- AUX_LOCK (R334): After LOCKN locked ticks auxsl enters RUN and sets LOCKED. -/
  | auxLock (b : Fin 128)
  /-- AUX_START_FAIL (R336): An attempt fails by timeout, hold, lock loss or brake timeout and auxsl enters FAILED. -/
  | auxStartFail (b : Fin 128) (k : AuxFail)
  /-- AUX_BACKOFF_EXPIRE (R337): The back-off of FAILED expires and auxsl re-measures or enters LOCKOUT. -/
  | auxBackoffExpire (b : Fin 128)
  /-- STO_PIN_FALL (R347): STO_A or STO_B falls and the STO groups' gates go low within 40 ns. -/
  | stoPinFall (pinB : Bool) (t : Time)
  /-- STO_PIN_RISE (R347): An STO pin rises and ends its demand, leaving the groups held. -/
  | stoPinRise (pinB : Bool) (t : Time)
  /-- SAF_STO_DISC (R348): STO pins differing for SDISC ms set the discrepancy latch. -/
  | safStoDisc (t : Time)
  /-- SAFE_INPUT_DEMAND (R351): A filtered safe input begins to demand and acts on its groups by FUNC. -/
  | safeInputDemand (p : Fin 8) (a b : Bool) (t : Span)
  /-- SIN_DISCREPANCY (R350): The two channels disagree for DISC ms and the input's discrepancy latch sets. -/
  | sinDiscrepancy (p : Fin 8) (t : Time)
  /-- SOUT_SET (R352): An applied SAF_SOUT_SET energises or de-energises safe outputs. -/
  | soutSet (m : Mask) (d : Word)
  /-- SOUT_TEST_PULSE (R353): Every TPP ms an energised output pulls one pin low for TPW µs. -/
  | soutTestPulse (o : Fin 4) (t : Time)
  /-- SOUT_FAULT (R353): A failed read-back de-energises the output and latches SOUTF. -/
  | soutFault (o : Fin 4) (r : ReadBack)
  /-- SBC_DEENERGISE (R352): SBCDLY ms after an STO demand a brake output is de-energised. -/
  | sbcDeenergise (o : Fin 4) (t : Time)
  /-- SS1_EXPIRE (R355): The group's SS1 timer expires and SS1 expiry demands STO. -/
  | ss1Expire (g : Fin 16) (t : Time)
  /-- GRPREQ_CLEAR (R369): OP 0 clears the manager demand and SS1 expiry of the named groups. -/
  | grpreqClear (gs : BitVec 16)
  /-- GRPREQ_HOLD (R369): OP 1 sets a HOLD manager demand. -/
  | grpreqHold (gs : BitVec 16)
  /-- GRPREQ_ASC (R369): OP 2 sets an ASC manager demand. -/
  | grpreqAsc (gs : BitVec 16)
  /-- GRPREQ_ALL_OFF (R369): OP 3 sets an ALL-OFF manager demand. -/
  | grpreqAllOff (gs : BitVec 16)
  /-- GRPREQ_STO (R369): OP 4 sets an STO manager demand. -/
  | grpreqSto (gs : BitVec 16)
  /-- GRPREQ_SS1_START (R355): OP 5 starts the SS1 timer of the named groups. -/
  | grpreqSs1Start (gs : BitVec 16)
  /-- GRPREQ_SS1_STOP (R355): OP 6 stops a running SS1 timer. -/
  | grpreqSs1Stop (gs : BitVec 16)
  /-- SAF_REQ_ERR (R369): A SAF_GRPREQ with OP 7 or a reserved bit is ignored and SAF_REQ_ERR raised. -/
  | safReqErr (d : Word)
  /-- SAF_FROZEN (R341): SV stopped or HBT boundaries without heartbeat move the fabric to FROZEN. -/
  | safFrozen
  /-- SAF_UNFREEZE (R341): After HBT consecutive heartbeats with SV running the fabric returns to NORMAL. -/
  | safUnfreeze
  /-- LATCH_CLEAR_STODISC (R348): A clear of STODISC clears the latch at a boundary with both pins high. -/
  | latchClearStodisc
  /-- LATCH_CLEAR_SIND (R350): A clear of SINDp clears the latch at a boundary with neither channel demanding. -/
  | latchClearSind (p : Fin 8)
  /-- LATCH_CLEAR_SOUTF (R353): A clear of SOUTFo clears the output fault latch. -/
  | latchClearSoutf (o : Fin 4)
  /-- LATCH_CLEAR_DISFLT (R362): A clear of DISFLT clears the discharge fault latch when no discharge runs. -/
  | latchClearDisflt
  /-- DISCHARGE_START (R358): A discharge starts on the chopper group and sets the charge model Q. -/
  | dischargeStart
  /-- DISCHARGE_STOP (R358): SAF_DIS_REQ with OP 0 stops a running discharge. -/
  | dischargeStop
  /-- DISCH_DONE (R360): NDONE consecutive boundaries at or below VSAFE declare the link discharged. -/
  | dischDone
  /-- DISCH_FAULT (R362): A discharge not declared within TMO ends with STATE fault and the latch set. -/
  | dischFault (t : Time)
  /-- TICK_SIGNATURE_SEND (R378): The lead sends the tick signature TLEAD before its boundary. -/
  | tickSignatureSend (t : Time)
  /-- TICK_SIGNATURE (R378): A member receives the tick signature, places its boundary, disciplines its timebase and checks concord. -/
  | tickSignature (x : Sig) (t : Time)
  /-- SPN_LOCK (R380): After 16 boundaries within ±5 ns the member sets LOCK. -/
  | spnLock
  /-- SPN_HOLDOVER (R382): A tick signature 1 µs late makes the member place its boundary itself and set HOLDOVER. -/
  | spnHoldover (t : Time)
  /-- TIME_RESYNC_STEP (R391): A member in time discord steps its tick counter at a boundary at which all its groups are held. -/
  | timeResyncStep
  /-- STATUS_SIGNATURE_SEND (R377): A member sends its status signature and periodic buffer at the start of its slot. -/
  | statusSignatureSend (t : Time)
  /-- STATUS_SIGNATURE (R377): A status signature is received with digests, link delays, remote events and credit entries. -/
  | statusSignature (x : Sig) (t : Time)
  /-- PERIODIC_SIGNATURE (R394): A periodic payload is received for copying into the sender's mailbox at the boundary. -/
  | periodicSignature (x : Sig) (t : Time)
  /-- ASYNC_SEND (R393): A queued asynchronous signature is sent when its credit covers it and its port is free. -/
  | asyncSend (q : Fin 4) (port : Fin 4) (t : Time)
  /-- ASYNC_SIGNATURE (R395): An asynchronous signature arrives and is placed into its receive queue as a record. -/
  | asyncSignature (x : Sig) (t : Time)
  /-- RX_RECORD_LOAD (R395): A load of a record word not yet arrived completes when the word arrives. -/
  | rxRecordLoad (w : Who) (a : Place) (t : Time)
  /-- TXQ_STORE_COMPLETE (R393): A stalled store to a transmit-queue word completes once the word has been sent. -/
  | txqStoreComplete (w : Who) (t : Time)
  /-- SPN_TXQ_WP (R393): An applied SPN_TXQq_WP publishes the queued signatures. -/
  | spnTxqWp (q : Fin 4) (m : Mask) (d : Word)
  /-- SPN_RXQ_RP (R395): An applied SPN_RXQq_RP consumes records and frees their credits. -/
  | spnRxqRp (q : Fin 4) (m : Mask) (d : Word)
  /-- LINK_LOSS (R386): A link loses block lock or sees 64 bad blocks and its neighbours wrap. -/
  | linkLoss (port : Fin 4) (t : Time)
  /-- SPN_LINK_UP (R404): A link gains block lock. -/
  | spnLinkUp (port : Fin 4) (delay : Nat) (t : Time)
  /-- SPN_MEMBER_LOST (R386): A member sending no status signature at two boundaries is declared lost. -/
  | spnMemberLost (a : Neighbour)
  /-- ANNOUNCE (R384): A member announces itself by management signatures after its links come up. -/
  | announce (x : Announced) (t : Time)
  /-- RING_FORM (R384): After 100 ms of announcements the concordant set and lead are chosen. -/
  | ringForm (t : Time)
  /-- LEAD_TAKEOVER (R385): At the second boundary without a tick signature the next concordant member becomes lead. -/
  | leadTakeover
  /-- LEAD_HANDOFF (R385): 16 boundaries after admitting a lower-serial member the lead passes to it. -/
  | leadHandoff
  /-- SPN_JOIN (R387): SPN_CMD join makes the joiner send a JOIN signature to the lead. -/
  | spnJoin (t : Time)
  /-- JOIN_SIGNATURE (R387): The lead receives a JOIN and refuses it with a code or schedules admission. -/
  | joinSignature (x : Sig) (p : Peer) (t : Time)
  /-- MEMBER_ADMIT (R387): At a boundary two ticks after receipt the lead increments EPOCH and admits the joiner. -/
  | memberAdmit
  /-- SPN_LEAVE (R388): SPN_CMD leave requests a planned leave. -/
  | spnLeave
  /-- LEAVE_EFFECT (R388): Two ticks later the neighbours wrap and the member becomes standalone; the ports are those of this
  device at which a member that goes is the next one. -/
  | leaveEffect (ports : BitVec 4 := 0)
  /-- MANAGEMENT_SIGNATURE (R400): A management signature is accepted from the lead on an SPN-PEER port or discarded and counted. -/
  | managementSignature (x : Sig) (t : Time)
  /-- SPN_PLOCK (R399): Setting SPN_PLOCK.LOCK puts the port classes into force until reset. -/
  | spnPlock
  /-- CAN_TX_DOORBELL (R408): An applied TXFf_WP publishes transmit slots or is ignored on overflow. -/
  | canTxDoorbell (n : Fin 6) (f : Fin 3) (m : Mask) (d : Word)
  /-- CAN_TX_COMPLETE (R410): A message is transmitted successfully and leaves its FIFO. -/
  | canTxComplete (n : Fin 6) (t : Time)
  /-- CAN_TX_FAIL (R410): A message loses arbitration or meets an error and is retried or removed. -/
  | canTxFail (n : Fin 6) (arb : Bool) (t : Time)
  /-- CAN_RX_FRAME (R411): A received frame is filtered and kept in a receive slot or discarded. -/
  | canRxFrame (n : Fin 6) (fr : CanFrame) (t : Time)
  /-- CAN_BUS_ERROR (R414): A bus error updates TEC and REC and may enter error passive. -/
  | canBusError (n : Fin 6) (e : CanErr) (t : Time)
  /-- CAN_BOREC (R415): An applied BOREC starts bus-off recovery. -/
  | canBorec (n : Fin 6)
  /-- CAN_RECOVERED (R415): After 128 recessive sequences the controller becomes error active. -/
  | canRecovered (n : Fin 6) (t : Time)
  /-- CAN_FLUSH (R416): An applied FLUSH discards the unsent messages of a FIFO. -/
  | canFlush (n : Fin 6) (fs : BitVec 3)
  /-- CAN_RXRP (R412): An applied CAN_n_RXRP consumes receive slots. -/
  | canRxrp (n : Fin 6) (m : Mask) (d : Word)
  /-- CAN_DETREQ (R417): An applied DETREQ starts bit-rate detection in listen-only mode. -/
  | canDetreq (n : Fin 6) (m : Mask) (d : Word)
  /-- CAN_DET_WINDOW (R417): A candidate's WIN expires or it errs and detection moves to the next candidate. -/
  | canDetWindow (n : Fin 6) (err : Bool) (t : Time)
  /-- QSP_DBWP (R424): An applied QSP_p_DBWP publishes descriptors. -/
  | qspDbwp (p : Fin 4) (m : Mask) (d : Word)
  /-- QSP_RESUME (R427): An applied RESUME leaves the halted state. -/
  | qspResume (p : Fin 4)
  /-- QSP_TRANSACTION_START (R424): The port starts the next descriptor's transaction after the bus is free, or completes it as an error. -/
  | qspTransactionStart (p : Fin 4) (t : Time)
  /-- QSP_TRANSACTION_DONE (R424): A transaction ends, writing STATUS and advancing RP. -/
  | qspTransactionDone (p : Fin 4) (rd : List Byte) (rck : Nat) (t : Time)
  /-- QSP_MMF (R427): A select read-back mismatch releases the lines and halts the port. -/
  | qspMmf (p : Fin 4) (t : Time)
  /-- XIP_READ (R426): A fetch or load in the XIP window reads a 32-byte block on QSP0 between transactions. -/
  | xipRead (w : Who) (a : Place) (fetch : Bool) (blk : List Byte) (t : Time)
  /-- QSP_TARGET_SELECT (R428): The port is selected as a target and receives and sends words. -/
  | qspTargetSelect (p : Fin 4) (x : TargetBits) (t : Time)
  /-- QSP_TARGET_RELEASE (R429): The selection is released and partial words are resolved. -/
  | qspTargetRelease (p : Fin 4) (t : Time)
  /-- QSP_TRP (R429): An applied QSP_p_TRP consumes received target words. -/
  | qspTrp (p : Fin 4) (m : Mask) (d : Word)
  /-- TRU_INSTALL_KEY (R444): OP 1 installs a key record into the target slot. -/
  | truInstallKey (d : Word)
  /-- TRU_PRESENT_TOKEN (R447): OP 2 presents a token, which is accepted or refused. -/
  | truPresentToken (d : Word)
  /-- TRU_LEAVE_SERVICE (R437): OP 3 returns the device from SERVICE to FIELD. -/
  | truLeaveService (d : Word)
  /-- TRU_STAGE_BYTES (R452): OP 4 appends bytes to a partition's staging copy. -/
  | truStageBytes (d : Word)
  /-- TRU_SEAL (R452): OP 5 seals staging against a digest. -/
  | truSeal (d : Word)
  /-- TRU_OPEN_MANIFEST (R457): OP 6 opens a gathering manifest. -/
  | truOpenManifest (d : Word)
  /-- TRU_SWITCH (R453): OP 7 switches a staged partition through the journaled copy steps into PROBATION. -/
  | truSwitch (d : Word)
  /-- TRU_REPORT_OK (R457): OP 8 reports a part OK. -/
  | truReportOk (d : Word)
  /-- TRU_REPORT_FAILED (R457): OP 9 reports a part failed. -/
  | truReportFailed (d : Word)
  /-- TRU_COMMIT (R458): OP 10 commits the gathering on the lead. -/
  | truCommit (d : Word)
  /-- TRU_ABORT (R459): OP 11 aborts the gathering and starts rollback. -/
  | truAbort (d : Word)
  /-- TRU_ROLLBACK (R455): OP 12 rolls back one part from fallback. -/
  | truRollback (d : Word)
  /-- TRU_WRITE_CAL_RECORD (R471): OP 13 writes the calibration record where the life cycle allows. -/
  | truWriteCalRecord (d : Word)
  /-- TRU_LOAD_PAIR (R451): OP 14 verifies and loads an application image into a HELD pair. -/
  | truLoadPair (d : Word)
  /-- TRU_CMD_INVALID (R471): OP 0 or 15 is refused with CODE 1. -/
  | truCmdInvalid (d : Word)
  /-- TRU_CMD_DONE (R471): A running TRU command completes and its status is written. -/
  | truCmdDone (t : Time)
  /-- LCREQ_PROVISIONED (R437): TRU_LCREQ advances MANUFACTURE to PROVISIONED if keys are programmed. -/
  | lcreqProvisioned
  /-- LCREQ_FIELD (R437): TRU_LCREQ advances PROVISIONED to FIELD. -/
  | lcreqField
  /-- LCREQ_RETURN (R438): TRU_LCREQ with a return token enters RETURN and starts the eMRAM erase. -/
  | lcreqReturn
  /-- LCREQ_SCRAPPED (R437): TRU_LCREQ moves RETURN to SCRAPPED after the erase. -/
  | lcreqScrapped
  /-- RETURN_ERASE_DONE (R438): The RETURN erase of eMRAM completes. -/
  | returnEraseDone (t : Time)
  /-- TRU_REVOKE (R441): TRU_REVOKE permanently revokes a root slot or is refused. -/
  | truRevoke (d : Word)
  /-- TRU_TOKEN_END (R448): A token's lifetime ends. -/
  | truTokenEnd (t : Time)
  /-- TRU_PROB_TIMEOUT (R455): SV has not reported OK within TRU_PROBT ticks and TRU rolls back partition 0. -/
  | truProbTimeout
  /-- GATH_TIMEOUT (R459): A member standalone for TRU_GTMO ms aborts the gathering. -/
  | gathTimeout (t : Time)
  /-- MEMTEST_VISIT (R461): The transparent memory test visits the next word of a class and records a failure. -/
  | memtestVisit (k : MemClass) (fail : Bool) (t : Time)
  /-- BLOCK_TEST_REQUEST (R463): An applied TST_BTREQ isolates one instance for block self-test or is refused. -/
  | blockTestRequest (d : Word) (t : Time)
  /-- BLOCK_TEST_DONE (R465): A block self-test completes with pass or fail. -/
  | blockTestDone (r : TestResult) (t : Time)
  /-- TST_PAD (R468): A gate pad read-back differing beyond PADT sets its bit. -/
  | tstPad (l : Fin 96) (r : PadLevel)
  /-- TST_SCAN_ENTER (R469): ENTER = 1 drives groups off, zeroises keys and enables scan where permitted. -/
  | tstScanEnter
  /-- RESET_ASSERT (R481): A reset pin or supply monitor puts the device in reset with every gate low. -/
  | resetAssert (k : RstCause) (t : Time)
  /-- RESET_RELEASE (R481): 1 ms after all reset conditions end the device leaves reset and the boot ROM starts. -/
  | resetRelease (t : Span)
  /-- BOOT_COMPLETE (R449): The boot ROM finishes verifying and loading the SV image and jumps to it, or stops with a cause. -/
  | bootComplete (t : Time)
  /-- PWR_BANK_BOR (R482): A VDDGCc out of range acts as a hard cluster fault. -/
  | pwrBankBor (c : Fin 16) (t : Time)
  /-- OK_ACCEPT (R483): A filtered change of MAIN_OK or BKUP_OK is accepted and may start a forced hand-over. -/
  | okAccept (bkup : Bool) (v : Bool) (t : Span)
  /-- HO_RETURN_START (R486): After 50 ms dwell and 20 ms of good main a return hand-over starts. -/
  | hoReturnStart (t : Time)
  /-- HO_SWITCH (R484): THLD after HOLD_REQ rises SRC_SEL changes, or a return is skipped. -/
  | hoSwitch (mainPin : Bool) (t : Time)
  /-- PWR_HO_DONE (R484): TSET after the switch HOLD_REQ falls and the hand-over completes. -/
  | pwrHoDone (t : Time)
  /-- THERM_ASSERT (R492): A temperature sensor above HI pulls THERM_N low. -/
  | thermAssert (k : Fin 4) (deg : BitVec 8) (t : Time)
  /-- THERM_RELEASE (R492): All sensors below LO release THERM_N. -/
  | thermRelease (t0 t1 t2 t3 : BitVec 8) (t : Time)
  /-- REGISTER_WRITE (R506): A write to a register without a row of its own acts field by field by each field's access code. -/
  | registerWrite (w : Who) (a : Word) (m : Mask) (d : Word)
  /-- DEBUG_RESUME (R220): A halted processor unit or the engine resumes, ending the halt condition that R248 checks, while the dependent groups stay held until SV releases them. -/
  | debugResume (u : Fin 8)
  /-- SAFE_INPUT_DEMAND_END (R349): Both filtered channels of a safe input stop demanding, so the input ceases to be an active demand source for its groups. -/
  | safeInputDemandEnd (p : Fin 8) (t : Span)
  /-- SAFE_STATE_WAIT_TIMEOUT (R238): Step 2 of a safe-state sequence has not ended for a leg within DT + CONFIRM_TMO of step 1, so that side is marked stuck on and the ASC choice is made again. -/
  | safeStateWaitTimeout (l : Fin 96) (t : Time)
  /-- CARRIER_PERIOD_START (R215): At a leg's period start or mid-period point that is not an update point, the next pulse or gap is decided and the fault latch is checked at the start of an always-on period. -/
  | carrierPeriodStart (l : Fin 96) (t : Time)
  /-- JOIN_TIMEOUT (R387): No tick signature is heard within 100 ms of a join request, and the join is refused with CODE 1. -/
  | joinTimeout (t : Time)
  /-- GATH_ROLLBACK_TIMEOUT (R459): A further TRU_GTMO ms after an abort without every member's rollback report, the lead sends GATH = 0 and closes the gathering. -/
  | gathRollbackTimeout (t : Time)
  /-- SINGLE_BIT_ECC_ERROR (R90): A single-bit ECC error met on an access to TCM, system SRAM or an engine memory is corrected in line, written back and counted in PRC_ECCn.CORR or ENG_ECC.CORR, and ENG_ECC_CORR is raised for the engine. -/
  | singleBitEccError (k : EccSite)
  deriving DecidableEq, Repr

end Sys2Proof
end

