-- ==== Sys2Proof/Decode.lean ====
section
/-! DEFINITION. The decoder of the table's bits. The table of this block gives no row any bits: its rows are
operations and events, not words. So no word spells a command. -/

namespace Sys2Proof

/-- The command that a word spells by the table's bits: none, for the table gives no row bits. (The words of the
engine's own 64-bit instructions, R154, are bytes of the program store; Machine/Operands.lean encodes them.) -/
def decodeTableWord (_nbits _w : Nat) : Option Instr := none

end Sys2Proof
end

