-- ==== Sys2Proof/Config.lean ====
section
/-! DEFINITION. The free values: every value that the spec leaves open is the value of a constant without a body,
so that no proof can see what it is. A value that may differ each time takes the next number of the counter
State.free; a value that the device computes takes its operands. -/

namespace Sys2Proof.Config

/-- The word that the hardware happens to give at its n-th use of an open value. -/
opaque freeWord : Nat → Word
/-- The choice of an order or of old against new that the hardware happens to make at its n-th open choice
(R173, R61). -/
opaque freeBool : Nat → Bool
/-- A duration that the spec leaves open or only bounds, in units of Time. -/
opaque freeTime : Nat → Nat
/-- The words of the boot ROM, whose contents the spec does not give (R495). -/
opaque bootWord : Nat → Word
/-- Serial number of the device in OTP (SPN_SERIAL_L, SPN_SERIAL_H). -/
opaque serial : BitVec 64
/-- The random nonce that TRU presents at its n-th renewal (R446). -/
opaque nonce : Nat → BitVec 64

/-- FRCP as the hardware computes it, within 1 ulp (R163). -/
opaque frcp : Word → Word
/-- FRSQ as the hardware computes it, within 1 ulp (R163). -/
opaque frsq : Word → Word
/-- SINCOS, its sine and its cosine, within the error of R166. -/
opaque sin : Word → Word
opaque cos : Word → Word
/-- ATAN2 within the error of R166. -/
opaque atan2 : Word → Word → Word
/-- The outputs of a motor primitive within the error of R187: the opcode, the output's number and the operand
words. -/
opaque prim : Nat → Nat → List Word → Word
/-- The chirp value of an injection generator: AMP, F0, F1, LEN, k and the period (R178 gives no rounding; fChirp keeps it
near the formula). -/
opaque chirp : Word → Word → Word → Nat → Nat → Nat → Word

/-- SHA-256 of a byte string. -/
opaque sha256 : List Byte → BitVec 256
/-- Whether a signature of a byte string verifies under a public key (ECDSA P-256 over SHA-256). -/
opaque ecdsaOk : List Byte → List Byte → List Byte → Bool
/-- An image's header says that it is encrypted. -/
opaque imageEnc : List Byte → Bool
/-- The decryption of an encrypted image under an image key that a key record holds wrapped by the device key (AES-256-GCM,
RFC 3394): none if it fails. -/
opaque aesOpen : List Byte → List Byte → Option (List Byte)
/-- What the format of an image, which the spec does not give, says of a region's bytes: its length in bytes,
its key SEQ, its entry point, the signed part, the signature, and the content to be loaded. -/
opaque imageLen : List Byte → Nat
opaque imageSeq : List Byte → Nat
opaque imageEntry : List Byte → Word
opaque imageSigned : List Byte → List Byte
opaque imageSig : List Byte → List Byte
/-- What an image loads into its pair's TCM, from offset 0. -/
opaque imageTcm : List Byte → List Byte
/-- The payload of an ABORT management signature, whose form the spec does not give (R459). -/
opaque abortBytes : List Byte
/-- SYS_CFG.SV_SPLIT in the device configuration record of an SV image (R117). -/
opaque imageSvSplit : List Byte → Bool
/-- The number of TRU's execution time in Time units for a command whose duration the spec does not give. -/
opaque truTime : Nat → Nat

/-- What the format of a management payload, which the spec does not give, says it is: 1 a join refusal, 2 a
planned leave, 3 a gathering part, 4 ABORT, 5 a success report, 6 a rollback report, 7 a change of lead, 8 a failure report;
any other number nothing that the device acts on. -/
opaque mgmtKind : List Byte → Nat
/-- The code, address or tick that a management payload carries. -/
opaque mgmtArg : List Byte → Nat
/-- The payload by which a member tells the lead of its leave at a tick, and a lead refuses a join with a code. -/
opaque leaveBytes : Nat → List Byte
opaque refusalBytes : Nat → List Byte
/-- The payload of a report of a kind, 5, 6 or 8, on a gathering (R457, R459, R460). -/
opaque reportBytes : Nat → Nat → List Byte
/-- How the ring is wired, which the device knows and the spec gives no register for: the hops of the path from a lead to
this device by way of a port, each a member's address and its receiving port, with whether the path is turned at a wrap and
at what EPOCH (R377, R378). -/
opaque hops : Nat → Nat → Bool → Nat → List (Nat × Nat)
/-- The place of a member on the ring of a segment, in links from this device's transmitting port (R386). -/
opaque ringPos : Nat → Nat → Nat
/-- The member lies in a branch that another member hosts, not on a ring of which this device is a member (R372). -/
opaque behind : Nat → Bool
/-- What a device is of which no announcement, JOIN or periodic signature has been heard here, and which no rule says how a
member learns: its serial number, its slot and its asynchronous budget (R383, R385, R394). -/
opaque memberSerial : Nat → BitVec 64
opaque memberSlot : Nat → BitVec 7
opaque memberAbud : Nat → BitVec 16
/-- The residence of a signature from a port to a port, above 80 ns, in units of Time (R373). -/
opaque residence : Nat → Nat → Nat
/-- The period of the RC monitor oscillator, in units of Time, before it is brought into its range (R221). -/
opaque rcPeriod : Nat
/-- The angle that a magnetic-switch port shows before its switches have given a sector (R309 states none). -/
opaque freeAngle : Nat → Word

end Sys2Proof.Config
end

