-- ==== Sys2Proof/Machine/Fp.lean ====
section
/-! DEFINITION. Binary32 arithmetic of the engine (R162 to R166) on 32-bit words: values as exact rationals,
one rounding to nearest even, subnormal inputs read as zero and subnormal results flushed after rounding. The
functions that the spec bounds instead of fixing (FRCP, FRSQ, SINCOS, ATAN2) give the hardware's own value, a
free value of Config, where it meets the bound, and the rounded exact value where it would not. -/

namespace Sys2Proof.Machine
open Sys2Proof

/-- The sticky flags of R172. -/
def flNV : Nat := 1
def flDZ : Nat := 2
def flOF : Nat := 4
def flUF : Nat := 8
def flQS : Nat := 16
def flLM : Nat := 32
def flTC : Nat := 64

/-- A result word and the flags that it sets. -/
structure FRes where
  val : Word
  fl : Nat
  deriving DecidableEq, Repr

/-- The value of a binary32 word; a subnormal word is a zero of its sign (R162). -/
inductive FVal where
  | nan
  | inf (neg : Bool)
  | fin (neg : Bool) (q : Rat)
  deriving DecidableEq, Repr

/-- The canonical NaN (R162). -/
def qNaN : Word := 0x7FC00000#32
/-- A zero of the given sign. -/
def fZero (neg : Bool) : Word := if neg then 0x80000000#32 else 0#32
/-- An infinity of the given sign. -/
def fInf (neg : Bool) : Word := if neg then 0xFF800000#32 else 0x7F800000#32
/-- 1.0. -/
def fOne : Word := 0x3F800000#32
/-- 0.5. -/
def fHalf : Word := 0x3F000000#32

/-- Two to an integer power. -/
def pow2 (e : Int) : Rat := if 0 ≤ e then ((2 ^ e.toNat : Nat) : Rat) else mkRat 1 (2 ^ (-e).toNat)

/-- The value of a word. -/
def fval (w : Word) : FVal :=
  let s := w.getLsbD 31
  let ex := bits w.toNat 23 8
  let f := bits w.toNat 0 23
  if ex = 255 then (if f = 0 then .inf s else .nan)
  else if ex = 0 then .fin s 0
  else
    let q := ((2 ^ 23 + f : Nat) : Rat) * pow2 ((ex : Int) - 150)
    .fin s (if s then -q else q)

/-- The magnitude of a rational. -/
def ratAbs (q : Rat) : Rat := if q < 0 then -q else q
def ratMax (a b : Rat) : Rat := if a < b then b else a
def ratMin (a b : Rat) : Rat := if b < a then b else a

/-- Assemble a positive binary32 from a significand of 24 bits and its exponent, with overflow and flush. -/
def fPack (neg : Bool) (m : Nat) (k : Int) : FRes :=
  let e := k + 150
  if e ≥ 255 then ⟨fInf neg, flOF⟩
  else if e ≤ 0 then ⟨fZero neg, flUF⟩
  else ⟨BitVec.ofNat 32 ((if neg then 2 ^ 31 else 0) + (e.toNat <<< 23) + (m - 2 ^ 23)), 0⟩

/-- The quotient `num / (den × 2^k)` rounded to nearest, ties to even. -/
def divRne (num den : Nat) (k : Int) : Nat :=
  let n := if k < 0 then num <<< (-k).toNat else num
  let d := if k < 0 then den else den <<< k.toNat
  let q := n / d
  let r := n % d
  if 2 * r > d then q + 1 else if 2 * r = d then q + q % 2 else q

/-- Round an exact value to binary32, to nearest even with an unbounded exponent first (R162); `neg` is the
sign of a zero result. -/
def fRound (neg : Bool) (q : Rat) : FRes :=
  if q = 0 then ⟨fZero neg, 0⟩
  else
    let s := decide (q < 0)
    let n := q.num.natAbs
    let d := q.den
    let k0 : Int := (n.log2 : Int) - d.log2 - 23
    let lo := if k0 < 0 then n <<< (-k0).toNat else n
    let hi := if k0 < 0 then d else d <<< k0.toNat
    let k := if lo / hi < 2 ^ 23 then k0 - 1 else k0
    let m := divRne n d k
    if m ≥ 2 ^ 24 then fPack s (2 ^ 23) (k + 1) else fPack s m k

/-- A NaN result with NV. -/
def fInvalid : FRes := ⟨qNaN, flNV⟩

/-- FNEG and FABS: the sign of the operand changed, a subnormal read as zero, a NaN canonical with NV. -/
def fSign (f : Bool → Bool) (a : Word) : FRes :=
  match fval a with
  | .nan => fInvalid
  | .inf s => ⟨fInf (f s), 0⟩
  | .fin s q => fRound (f s) (if f s = s then q else -q)

def fNeg (a : Word) : FRes := fSign not a
def fAbs (a : Word) : FRes := fSign (fun _ => false) a

/-- Sum of two values with one rounding. -/
def fAddV (a b : FVal) : FRes :=
  match a, b with
  | .nan, _ | _, .nan => fInvalid
  | .inf s, .inf t => if s = t then ⟨fInf s, 0⟩ else fInvalid
  | .inf s, _ => ⟨fInf s, 0⟩
  | _, .inf t => ⟨fInf t, 0⟩
  | .fin s p, .fin t q => fRound (s && t) (p + q)

/-- The negated value. -/
def FVal.neg : FVal → FVal
  | .nan => .nan
  | .inf s => .inf (!s)
  | .fin s q => .fin (!s) (-q)

/-- The exact product, or none where it is invalid. -/
def FVal.mul (a b : FVal) : FVal :=
  match a, b with
  | .nan, _ | _, .nan => .nan
  | .inf s, .inf t => .inf (xor s t)
  | .inf s, .fin t q => if q = 0 then .nan else .inf (xor s t)
  | .fin s p, .inf t => if p = 0 then .nan else .inf (xor s t)
  | .fin s p, .fin t q => .fin (xor s t) (p * q)

def fAdd (a b : Word) : FRes := fAddV (fval a) (fval b)
def fSub (a b : Word) : FRes := fAddV (fval a) (fval b).neg

/-- Round a value that is already computed. -/
def fOfVal : FVal → FRes
  | .nan => fInvalid
  | .inf s => ⟨fInf s, 0⟩
  | .fin s q => fRound s q

def fMul (a b : Word) : FRes := fOfVal ((fval a).mul (fval b))
/-- a × b + c with one rounding. -/
def fFma (a b c : Word) : FRes := fAddV ((fval a).mul (fval b)) (fval c)
/-- c − a × b with one rounding. -/
def fFnma (a b c : Word) : FRes := fAddV ((fval a).mul (fval b)).neg (fval c)

/-- Whether a word is a NaN. -/
def isNaN (a : Word) : Bool := match fval a with | .nan => true | _ => false
/-- Whether a word is finite. -/
def isFin (a : Word) : Bool := match fval a with | .fin _ _ => true | _ => false

/-- The sign and rank of a non-NaN value in the order of R162: −0 below +0. -/
def fLt (a b : FVal) : Bool :=
  match a, b with
  | .nan, _ | _, .nan => false
  | .inf s, .inf t => s && !t
  | .inf s, .fin _ _ => s
  | .fin _ _, .inf t => !t
  | .fin s p, .fin t q => decide (p < q) || (decide (p = q) && s && !t)

/-- IEEE comparison: −0 equals +0. -/
def fLtIeee (a b : FVal) : Bool :=
  match a, b with
  | .fin _ p, .fin _ q => decide (p < q)
  | _, _ => fLt a b

def fEqIeee (a b : FVal) : Bool :=
  match a, b with
  | .inf s, .inf t => s == t
  | .fin _ p, .fin _ q => decide (p = q)
  | _, _ => false

/-- A subnormal word read as zero; any other word itself, a NaN canonical. -/
def fCanon (a : Word) : Word := (fOfVal (fval a)).val

def fMin (a b : Word) : FRes :=
  match fval a, fval b with
  | .nan, .nan => fInvalid
  | .nan, _ => ⟨fCanon b, flNV⟩
  | _, .nan => ⟨fCanon a, flNV⟩
  | x, y => ⟨if fLt y x then fCanon b else fCanon a, 0⟩

def fMax (a b : Word) : FRes :=
  match fval a, fval b with
  | .nan, .nan => fInvalid
  | .nan, _ => ⟨fCanon b, flNV⟩
  | _, .nan => ⟨fCanon a, flNV⟩
  | x, y => ⟨if fLt x y then fCanon b else fCanon a, 0⟩

/-- FCLAMP, its bounds in the order of R162: +0 above −0 is a lower bound above the upper one (R163). -/
def fClamp (a b c : Word) : FRes :=
  if isNaN a || isNaN b || isNaN c then fInvalid
  else if fLt (fval c) (fval b) then ⟨fCanon c, flNV⟩
  else ⟨(fMin (fMax a b).val c).val, 0⟩

/-- The conditions of FCMP: 0 LT, 1 GE, 2 EQ, 3 NE; a NaN operand makes NE true and the others false. -/
def fCond (k : Nat) (a b : Word) : Bool :=
  if isNaN a || isNaN b then k = 3
  else
    let lt := fLtIeee (fval a) (fval b)
    let eq := fEqIeee (fval a) (fval b)
    if k = 0 then lt else if k = 1 then !lt else if k = 2 then eq else !eq

/-- Round to the nearest integer, ties to even. -/
def ratRne (q : Rat) : Int :=
  let f := q.floor
  let r := q - f
  if r < mkRat 1 2 then f else if mkRat 1 2 < r then f + 1 else f + f % 2

/-- FCVT to FP32 of an int32. -/
def fOfInt (a : Word) : FRes := fRound false ((a.toInt : Int) : Rat)

/-- An integer saturated to the signed 32-bit range, and whether it was. -/
def satI32 (i : Int) : Word × Bool :=
  if i > 0x7FFFFFFF then (0x7FFFFFFF#32, true)
  else if i < -0x80000000 then (0x80000000#32, true)
  else (BitVec.ofInt 32 i, false)

/-- FP32 to integer with scale 2^s: round to nearest even, saturate with flag `f`, NaN gives 0 with NV. -/
def fToInt (a : Word) (s f : Nat) : FRes :=
  match fval a with
  | .nan => ⟨0#32, flNV⟩
  | .inf neg => ⟨if neg then 0x80000000#32 else 0x7FFFFFFF#32, f⟩
  | .fin _ q =>
    let r := satI32 (ratRne (q * pow2 s))
    ⟨r.1, if r.2 then f else 0⟩

/-- A finite word that is not subnormal: a result as the engine gives it (R162). -/
def isResult (c : Word) : Bool := isFin c && (bits c.toNat 23 8 != 0 || bits c.toNat 0 23 == 0)

/-- Accept the candidate `c` if it is finite, not subnormal and within `err` of `q`; else give `q` rounded. -/
def approx (c : Word) (q err : Rat) : FRes :=
  match fval c with
  | .fin _ v => if isResult c && decide (ratAbs (v - q) ≤ err) then ⟨c, 0⟩ else fRound (decide (q < 0)) q
  | _ => fRound (decide (q < 0)) q

/-- One unit in the last place of an exact non-zero value. -/
def ulp (q : Rat) : Rat :=
  let n := q.num.natAbs
  let k0 : Int := (n.log2 : Int) - q.den.log2
  let e := if ratAbs q < pow2 k0 then k0 - 1 else k0
  pow2 (e - 23)

/-- FRCP (R163). -/
def fRcp (a : Word) : FRes :=
  match fval a with
  | .nan => fInvalid
  | .inf s => ⟨fZero s, 0⟩
  | .fin s q => if q = 0 then ⟨fInf s, flDZ⟩ else approx (Config.frcp a) (1 / q) (ulp (1 / q))

/-- The integer square root by Newton's method, on fuel. -/
def isqrtGo : Nat → Nat → Nat → Nat
  | 0, _, x => x
  | k + 1, n, x => let y := (x + n / x) / 2
                   if y < x then isqrtGo k n y else x

/-- The largest r with r² ≤ n. -/
def isqrt (n : Nat) : Nat := if n = 0 then 0 else isqrtGo 600 n (2 ^ (n.log2 / 2 + 1))

/-- The square root of a non-negative rational, exact to 2^-100 of its magnitude (rounded down). -/
def ratSqrt (q : Rat) : Rat :=
  let n := q.num.natAbs
  let d := q.den
  let k := 2 * (120 + d.log2)
  mkRat (isqrt ((n <<< k) / d)) (2 ^ (k / 2))

/-- FRSQ (R163). -/
def fRsq (a : Word) : FRes :=
  match fval a with
  | .nan => fInvalid
  | .inf s => if s then fInvalid else ⟨fZero false, 0⟩
  | .fin s q =>
    if q = 0 then ⟨fInf s, flDZ⟩
    else if q < 0 then fInvalid
    else
      let r := ratSqrt (1 / q)
      approx (Config.frsq a) r (ulp r)

/-! ### Angles, in fixed point with 80 fractional bits -/

/-- Fractional bits of the fixed-point angles. -/
def fxB : Nat := 80
/-- π in fixed point, to 80 fractional bits. -/
def fxPi : Int := 3797952473636338580787993
/-- A rational to fixed point, rounded down. -/
def toFx (q : Rat) : Int := (q * ((2 ^ fxB : Nat) : Rat)).floor
/-- Fixed point to a rational. -/
def ofFx (x : Int) : Rat := mkRat x (2 ^ fxB)
/-- Product in fixed point. -/
def fxMul (x y : Int) : Int := (x * y) / (2 ^ fxB : Nat)

/-- Σ of a power series whose next term is the last times x² over k(k+1), with alternating signs. -/
def fxSeries : Nat → Int → Nat → Int → Int
  | 0, _, _, t => t
  | n + 1, x2, k, t => t + fxSeries n x2 (k + 2) (-(fxMul t x2) / ((k * (k + 1) : Nat) : Int))

/-- An angle reduced into [−π, π). -/
def fxReduce (x : Int) : Int := (x + fxPi) % (2 * fxPi) - fxPi

/-- sin and cos of a fixed-point angle. -/
def fxSin (x : Int) : Int := let y := fxReduce x; fxSeries 24 (fxMul y y) 2 y
def fxCos (x : Int) : Int := let y := fxReduce x; fxSeries 24 (fxMul y y) 1 (2 ^ fxB : Nat)

/-- The series of atan, for a small fixed-point argument: terms ± x^(2k+1) / (2k+1). -/
def fxAtanGo : Nat → Int → Nat → Int → Int
  | 0, _, _, _ => 0
  | n + 1, x2, k, p => p / (k : Int) + fxAtanGo n x2 (k + 2) (-(fxMul p x2))

/-- atan of a rational in [0, 1], reduced once by π / 4. -/
def fxAtan (q : Rat) : Int :=
  if q > mkRat 2 5 then
    let y := toFx ((q - 1) / (q + 1))
    fxPi / 4 + fxAtanGo 50 (fxMul y y) 1 y
  else
    let y := toFx q
    fxAtanGo 50 (fxMul y y) 1 y

/-- atan2 of two rationals not both zero, in (−π, π]. -/
def fxAtan2 (y x : Rat) : Int :=
  let ay := ratAbs y
  let ax := ratAbs x
  let a := if ay ≤ ax then fxAtan (ay / ax) else fxPi / 2 - fxAtan (ax / ay)
  let b := if x < 0 then fxPi - a else a
  if y < 0 then -b else b

/-- SINCOS, one of its two outputs (R166); `cosine` picks the cosine. -/
def fSinCos (cosine : Bool) (a : Word) : FRes :=
  match fval a with
  | .nan => fInvalid
  | .inf _ => fInvalid
  | .fin _ q =>
    if ratAbs q > pow2 20 then fInvalid
    else
      let err := if ratAbs q ≤ pow2 10 then pow2 (-22) else pow2 (-14)
      let x := toFx q
      if cosine then approx (Config.cos a) (ofFx (fxCos x)) err
      else approx (Config.sin a) (ofFx (fxSin x)) err

/-- A finite word one step nearer to zero. -/
def fTowards0 (a : Word) : Word := BitVec.ofNat 32 (a.toNat - 1)

/-- A result kept in (−π, π]: one beyond it becomes the last word inside, 0x40490FDA or its negative. -/
def inPi (r : FRes) : FRes :=
  match fval r.val with
  | .fin s v => if ofFx fxPi < ratAbs v then ⟨if s then 0xC0490FDA#32 else 0x40490FDA#32, r.fl⟩ else r
  | _ => r

/-- ATAN2 (R166), in (−π, π]. With one infinite operand the angle is the limit; with two it has none, and any result in
the interval may stand (log 22). -/
def fAtan2 (y x : Word) : FRes :=
  let c := Config.atan2 y x
  let near := fun (q : Rat) => inPi (approx c q (pow2 (-21)))
  match fval y, fval x with
  | .nan, _ | _, .nan => fInvalid
  | .fin _ p, .fin _ q => if p = 0 ∧ q = 0 then ⟨0#32, 0⟩ else near (ofFx (fxAtan2 p q))
  | .inf s, .fin _ _ => near (ofFx (if s then -(fxPi / 2) else fxPi / 2))
  | .fin _ _, .inf false => near 0
  | .fin _ p, .inf true => near (ofFx (if p < 0 then -fxPi else fxPi))
  | .inf _, .inf _ =>
    match fval c with
    | .fin _ v => if isResult c && decide (ratAbs v ≤ ofFx fxPi) then ⟨c, 0⟩ else ⟨0#32, 0⟩
    | _ => ⟨0#32, 0⟩

/-- WRAP of an exact value into [lo, lo + w): the exact remainder, rounded, and towards zero where rounding would
leave the interval; a value already inside is returned as it is. -/
def fWrapTo (a : Word) (q lo w : Rat) : FRes :=
  if lo ≤ q ∧ q < lo + w then ⟨fCanon a, 0⟩
  else
    let r := fRound false (q - w * (((q - lo) / w).floor : Int))
    match fval r.val with
    | .fin _ v => if lo ≤ v ∧ v < lo + w then r else ⟨fTowards0 r.val, r.fl⟩
    | _ => r

/-- π to 2^-320, near enough for the exact remainder of the largest finite operand of WRAP. -/
def widePi : Rat := mkRat 0x3243f6a8885a308d313198a2e03707344a4093822299f31d0082efa98ec4e6c89452821e638d01377 (2 ^ 320)

/-- WRAP (R166): mode 0 into [−π, π), 1 into [0, 2π), 2 into [−w, w). -/
def fWrap (mode : Nat) (a w : Word) : FRes :=
  match fval a with
  | .nan => fInvalid
  | .inf _ => fInvalid
  | .fin _ q =>
    if mode = 0 then fWrapTo a q (-widePi) (2 * widePi)
    else if mode = 1 then fWrapTo a q 0 (2 * widePi)
    else
      match fval w with
      | .nan => fInvalid
      | .inf neg => if neg then fInvalid else ⟨fCanon a, 0⟩
      | .fin _ v => if v ≤ 0 then fInvalid else fWrapTo a q (-v) (2 * v)

/-- The exact value of a finite word, 0 for any other. -/
def ratOf (a : Word) : Rat := match fval a with | .fin _ q => q | _ => 0

/-- AMP × sin(2π × turns) of a chirp (R178), which states no rounding: the hardware's own word where it lies within 2⁻²²
of AMP, and the rounded exact value where it would not; with a NaN or an infinite AMP, for which it gives no value, the
hardware's own word made canonical (DESIGN CHOICE, log 23). -/
def fChirp (c amp : Word) (turns : Rat) : FRes :=
  match fval amp with
  | .fin _ q =>
    let x := fxMul (2 * fxPi) (toFx (turns - (turns.floor : Int)))
    approx c (q * ofFx (fxSin x)) (ratAbs q * pow2 (-22))
  | _ => ⟨fCanon c, 0⟩

/-- The square root of 3, to 2^-100. -/
def sqrt3 : Rat := ratSqrt 3

end Sys2Proof.Machine
end

