-- ==== Sys2Proof/Machine/Regs.lean ====
section
/-! DEFINITION. The register maps of all seventeen blocks: the address of every register, the place of every
field, and one row per register with its reset value and the access code of every bit. Taken field by field
from the register maps of the spec (R81, R133, R135, R183, R226, R268, R294, R295, R322, R368, R403, R420, R433,
R470, R472, R493, R498; the windows are those of R497).
-/

namespace Sys2Proof.Machine
open Sys2Proof

/-- A field of a register: the register's address, its lowest bit and its width. -/
structure Fld where
  reg : Nat
  lsb : Nat
  width : Nat
  deriving DecidableEq, Repr

/-- One row of a register map: `n1 × n2` registers at `base + s1 × i + s2 × j`, their reset value, and for each
access code of R11 the mask of the bits that carry it (`cl` includes the reserved bits of a CL register, which
an entry carries to the request check; `keep` is the mask of bits that are not reserved, R12). -/
structure RegRow where
  base : Nat
  s1 : Nat
  n1 : Nat
  s2 : Nat
  n2 : Nat
  reset : Nat
  rw : Nat
  rws : Nat
  w1c : Nat
  w1s : Nat
  wo : Nat
  cl : Nat
  rwl : Nat
  keep : Nat
  deriving DecidableEq, Repr

/-! ### SYS -/

/-- SYS_ID (R498). -/
def SYS_ID : Nat := 0x40000000
def SYS_ID_PART : Fld := ⟨SYS_ID, 16, 16⟩
def SYS_ID_STEP : Fld := ⟨SYS_ID, 8, 8⟩

/-- SYS_CAPPTR (R498). -/
def SYS_CAPPTR : Nat := 0x40000004
def SYS_CAPPTR_PTR : Fld := ⟨SYS_CAPPTR, 0, 32⟩

/-- SYS_CFG (R498). -/
def SYS_CFG : Nat := 0x40000008
def SYS_CFG_SVSPLIT : Fld := ⟨SYS_CFG, 0, 1⟩

/-- SYS_LCM (R498). -/
def SYS_LCM : Nat := 0x4000000C
def SYS_LCM_STATE : Fld := ⟨SYS_LCM, 0, 3⟩

/-- Register rows of SYS. -/
def rowsSys : List RegRow := [
  ⟨0x40000000, 0, 1, 0, 1, 0x96100100, 0, 0, 0, 0, 0, 0, 0, 0xFFFFFF00⟩,
  ⟨0x40000004, 0, 1, 0, 1, 0x40000400, 0, 0, 0, 0, 0, 0, 0, 0xFFFFFFFF⟩,
  ⟨0x40000008, 0, 1, 0, 1, 0, 0, 0, 0, 0, 0, 0, 0, 0x1⟩,
  ⟨0x4000000C, 0, 1, 0, 1, 3, 0, 0, 0, 0, 0, 0, 0, 0x7⟩]

/-! ### TKC -/

/-- TKC_CTRL (R81). -/
def TKC_CTRL : Nat := 0x40010000
def TKC_CTRL_BWARNEN : Fld := ⟨TKC_CTRL, 8, 1⟩
def TKC_CTRL_RUN : Fld := ⟨TKC_CTRL, 0, 1⟩

/-- TKC_STAT (R81). -/
def TKC_STAT : Nat := 0x40010004
def TKC_STAT_QERR : Fld := ⟨TKC_STAT, 2, 1⟩
def TKC_STAT_RUNFAIL : Fld := ⟨TKC_STAT, 1, 1⟩
def TKC_STAT_RUNNING : Fld := ⟨TKC_STAT, 0, 1⟩

/-- TKC_PERIOD (R81). -/
def TKC_PERIOD : Nat := 0x40010008
def TKC_PERIOD_PERIOD : Fld := ⟨TKC_PERIOD, 0, 16⟩

/-- TKC_BUDGET (R81). -/
def TKC_BUDGET : Nat := 0x4001000C
def TKC_BUDGET_CWIN : Fld := ⟨TKC_BUDGET, 16, 16⟩
def TKC_BUDGET_ENGBUD : Fld := ⟨TKC_BUDGET, 0, 16⟩

/-- TKC_TCNT_L (R81). -/
def TKC_TCNT_L : Nat := 0x40010010
def TKC_TCNT_L_TCNT : Fld := ⟨TKC_TCNT_L, 0, 32⟩

/-- TKC_TCNT_H (R81). -/
def TKC_TCNT_H : Nat := 0x40010014
def TKC_TCNT_H_TCNT : Fld := ⟨TKC_TCNT_H, 0, 32⟩

/-- TKC_TPOS (R81). -/
def TKC_TPOS : Nat := 0x40010018
def TKC_TPOS_POS : Fld := ⟨TKC_TPOS, 0, 16⟩

/-- TKC_CBAR (R81). -/
def TKC_CBAR : Nat := 0x40010020
def TKC_CBAR_CBAR : Fld := ⟨TKC_CBAR, 0, 32⟩

/-- TKC_DONE (R81). -/
def TKC_DONE : Nat := 0x40010024
def TKC_DONE_DONE : Fld := ⟨TKC_DONE, 0, 8⟩

/-- TKC_QUOTAu (R81). -/
def TKC_QUOTA (i : Nat) : Nat := 0x40010040 + 4 * i
def TKC_QUOTA_QSPLIT (i : Nat) : Fld := ⟨(TKC_QUOTA i), 8, 8⟩
def TKC_QUOTA_QUOTA (i : Nat) : Fld := ⟨(TKC_QUOTA i), 0, 8⟩

/-- TKC_QPOOL (R81). -/
def TKC_QPOOL : Nat := 0x4001005C
def TKC_QPOOL_LEASED : Fld := ⟨TKC_QPOOL, 8, 8⟩
def TKC_QPOOL_FREE : Fld := ⟨TKC_QPOOL, 0, 8⟩

/-- TKC_CUSEu (R81). -/
def TKC_CUSE (i : Nat) : Nat := 0x40010060 + 4 * i
def TKC_CUSE_PEAK (i : Nat) : Fld := ⟨(TKC_CUSE i), 8, 8⟩
def TKC_CUSE_USE (i : Nat) : Fld := ⟨(TKC_CUSE i), 0, 8⟩

/-- TKC_CREFu (R81). -/
def TKC_CREF (i : Nat) : Nat := 0x40010080 + 4 * i
def TKC_CREF_REFUSED (i : Nat) : Fld := ⟨(TKC_CREF i), 0, 16⟩

/-- TKC_RPCNTu (R81). -/
def TKC_RPCNT (i : Nat) : Nat := 0x400100A0 + 4 * i
def TKC_RPCNT_HOLD (i : Nat) : Fld := ⟨(TKC_RPCNT i), 16, 16⟩
def TKC_RPCNT_REPLAY (i : Nat) : Fld := ⟨(TKC_RPCNT i), 0, 16⟩

/-- TKC_RUNMAXu (R81). -/
def TKC_RUNMAX (i : Nat) : Nat := 0x400100C0 + 4 * i
def TKC_RUNMAX_MAX (i : Nat) : Fld := ⟨(TKC_RUNMAX i), 0, 16⟩

/-- TKC_RBTICK_L (R81). -/
def TKC_RBTICK_L : Nat := 0x40010100
def TKC_RBTICK_L_TICK : Fld := ⟨TKC_RBTICK_L, 0, 32⟩

/-- TKC_RBTICK_H (R81). -/
def TKC_RBTICK_H : Nat := 0x40010104
def TKC_RBTICK_H_TICK : Fld := ⟨TKC_RBTICK_H, 0, 32⟩

/-- TKC_RBREQ (R81). -/
def TKC_RBREQ : Nat := 0x40010108
def TKC_RBREQ_GO : Fld := ⟨TKC_RBREQ, 31, 1⟩
def TKC_RBREQ_PART : Fld := ⟨TKC_RBREQ, 0, 13⟩

/-- TKC_RBSTAT (R82). -/
def TKC_RBSTAT : Nat := 0x4001010C
def TKC_RBSTAT_COPYING : Fld := ⟨TKC_RBSTAT, 16, 1⟩
def TKC_RBSTAT_REJECT : Fld := ⟨TKC_RBSTAT, 10, 3⟩
def TKC_RBSTAT_ATTEMPT : Fld := ⟨TKC_RBSTAT, 2, 7⟩
def TKC_RBSTAT_STATE : Fld := ⟨TKC_RBSTAT, 0, 2⟩

/-- TKC_RBNRDY (R83). -/
def TKC_RBNRDY : Nat := 0x40010110
def TKC_RBNRDY_NRDY : Fld := ⟨TKC_RBNRDY, 0, 13⟩

/-- TKC_RBDONE_L (R83). -/
def TKC_RBDONE_L : Nat := 0x40010114
def TKC_RBDONE_L_TICK : Fld := ⟨TKC_RBDONE_L, 0, 32⟩

/-- TKC_RBDONE_H (R83). -/
def TKC_RBDONE_H : Nat := 0x40010118
def TKC_RBDONE_H_TICK : Fld := ⟨TKC_RBDONE_H, 0, 32⟩

/-- TKC_EVT (R83). -/
def TKC_EVT : Nat := 0x40010120
def TKC_EVT_FLAG : Fld := ⟨TKC_EVT, 0, 11⟩

/-- Register rows of TKC, part 1. -/
def rowsTkc0 : List RegRow := [
  ⟨0x40010000, 0, 1, 0, 1, 0, 0x100, 0, 0, 0x1, 0, 0, 0, 0x101⟩,
  ⟨0x40010004, 0, 1, 0, 1, 0, 0, 0, 0x4, 0, 0, 0, 0, 0x7⟩,
  ⟨0x40010008, 0, 1, 0, 1, 0x2710, 0, 0xFFFF, 0, 0, 0, 0, 0, 0xFFFF⟩,
  ⟨0x4001000C, 0, 1, 0, 1, 0x23281194, 0, 0, 0, 0, 0, 0, 0, 0xFFFFFFFF⟩,
  ⟨0x40010010, 0, 1, 0, 1, 0, 0, 0, 0, 0, 0, 0, 0, 0xFFFFFFFF⟩,
  ⟨0x40010014, 0, 1, 0, 1, 0, 0, 0, 0, 0, 0, 0, 0, 0xFFFFFFFF⟩,
  ⟨0x40010018, 0, 1, 0, 1, 0, 0, 0, 0, 0, 0, 0, 0, 0xFFFF⟩,
  ⟨0x40010020, 0, 1, 0, 1, 0, 0, 0, 0, 0, 0xFFFFFFFF, 0, 0, 0xFFFFFFFF⟩,
  ⟨0x40010024, 0, 1, 0, 1, 0, 0, 0, 0, 0, 0, 0, 0, 0xFF⟩,
  ⟨0x40010040, 4, 6, 0, 1, 0x10, 0, 0, 0, 0, 0, 0xFFFFFFFF, 0, 0xFFFF⟩,
  ⟨0x40010058, 4, 1, 0, 1, 0x40, 0, 0, 0, 0, 0, 0xFFFFFFFF, 0, 0xFFFF⟩,
  ⟨0x4001005C, 0, 1, 0, 1, 0x20, 0, 0, 0, 0, 0, 0, 0, 0xFFFF⟩]

/-- Register rows of TKC, part 2. -/
def rowsTkc1 : List RegRow := [
  ⟨0x40010060, 4, 7, 0, 1, 0, 0xFF00, 0, 0, 0, 0, 0, 0, 0xFFFF⟩,
  ⟨0x40010080, 4, 7, 0, 1, 0, 0xFFFF, 0, 0, 0, 0, 0, 0, 0xFFFF⟩,
  ⟨0x400100A0, 4, 8, 0, 1, 0, 0xFFFFFFFF, 0, 0, 0, 0, 0, 0, 0xFFFFFFFF⟩,
  ⟨0x400100C0, 4, 8, 0, 1, 0, 0xFFFF, 0, 0, 0, 0, 0, 0, 0xFFFF⟩,
  ⟨0x40010100, 0, 1, 0, 1, 0, 0, 0, 0, 0, 0, 0xFFFFFFFF, 0, 0xFFFFFFFF⟩,
  ⟨0x40010104, 0, 1, 0, 1, 0, 0, 0, 0, 0, 0, 0xFFFFFFFF, 0, 0xFFFFFFFF⟩,
  ⟨0x40010108, 0, 1, 0, 1, 0, 0, 0, 0, 0, 0, 0xFFFFFFFF, 0, 0x80001FFF⟩,
  ⟨0x4001010C, 0, 1, 0, 1, 0, 0, 0, 0, 0, 0, 0, 0, 0x11DFF⟩,
  ⟨0x40010110, 0, 1, 0, 1, 0, 0, 0, 0, 0, 0, 0, 0, 0x1FFF⟩,
  ⟨0x40010114, 0, 1, 0, 1, 0, 0, 0, 0, 0, 0, 0, 0, 0xFFFFFFFF⟩,
  ⟨0x40010118, 0, 1, 0, 1, 0, 0, 0, 0, 0, 0, 0, 0, 0xFFFFFFFF⟩,
  ⟨0x40010120, 0, 1, 0, 1, 0, 0, 0, 0x7FF, 0, 0, 0, 0, 0x7FF⟩]

/-- Register rows of TKC. -/
def rowsTkc : List RegRow := rowsTkc0 ++ rowsTkc1

/-! ### PRC -/

/-- PRC_CTLn (R133). -/
def PRC_CTL (i : Nat) : Nat := 0x40020000 + 64 * i
def PRC_CTL_START (i : Nat) : Fld := ⟨(PRC_CTL i), 0, 1⟩

/-- PRC_VECn (R133). -/
def PRC_VEC (i : Nat) : Nat := 0x40020004 + 64 * i
def PRC_VEC_VEC (i : Nat) : Fld := ⟨(PRC_VEC i), 2, 30⟩

/-- PRC_VECBn (R133). -/
def PRC_VECB (i : Nat) : Nat := 0x40020008 + 64 * i
def PRC_VECB_VEC (i : Nat) : Fld := ⟨(PRC_VECB i), 2, 30⟩

/-- PRC_STATn (R133). -/
def PRC_STAT (i : Nat) : Nat := 0x4002000C + 64 * i
def PRC_STAT_STATE (i : Nat) : Fld := ⟨(PRC_STAT i), 0, 3⟩

/-- PRC_JRNn (R134). -/
def PRC_JRN (i : Nat) : Nat := 0x40020010 + 64 * i
def PRC_JRN_OVF (i : Nat) : Fld := ⟨(PRC_JRN i), 31, 1⟩
def PRC_JRN_PEAK (i : Nat) : Fld := ⟨(PRC_JRN i), 16, 13⟩
def PRC_JRN_USED (i : Nat) : Fld := ⟨(PRC_JRN i), 0, 13⟩

/-- PRC_MMn (R134). -/
def PRC_MM (i : Nat) : Nat := 0x40020014 + 64 * i
def PRC_MM_COUNT (i : Nat) : Fld := ⟨(PRC_MM i), 16, 16⟩
def PRC_MM_ASYNC (i : Nat) : Fld := ⟨(PRC_MM i), 2, 1⟩
def PRC_MM_KIND (i : Nat) : Fld := ⟨(PRC_MM i), 0, 2⟩

/-- PRC_MMADDRn (R134). -/
def PRC_MMADDR (i : Nat) : Nat := 0x40020018 + 64 * i
def PRC_MMADDR_ADDR (i : Nat) : Fld := ⟨(PRC_MMADDR i), 0, 32⟩

/-- PRC_ECCn (R134). -/
def PRC_ECC (i : Nat) : Nat := 0x4002001C + 64 * i
def PRC_ECC_UNC (i : Nat) : Fld := ⟨(PRC_ECC i), 16, 16⟩
def PRC_ECC_CORR (i : Nat) : Fld := ⟨(PRC_ECC i), 0, 16⟩

/-- PRC_FAULTn (R134). -/
def PRC_FAULT (i : Nat) : Nat := 0x40020020 + 64 * i
def PRC_FAULT_CAUSEB (i : Nat) : Fld := ⟨(PRC_FAULT i), 4, 4⟩
def PRC_FAULT_CAUSE (i : Nat) : Fld := ⟨(PRC_FAULT i), 0, 4⟩

/-- PRC_HOREQ (R134). -/
def PRC_HOREQ : Nat := 0x40020200
def PRC_HOREQ_GO : Fld := ⟨PRC_HOREQ, 31, 1⟩
def PRC_HOREQ_DUTY : Fld := ⟨PRC_HOREQ, 8, 4⟩
def PRC_HOREQ_PAIR : Fld := ⟨PRC_HOREQ, 0, 3⟩

/-- PRC_SPLITREQ (R134). -/
def PRC_SPLITREQ : Nat := 0x40020204
def PRC_SPLITREQ_GO : Fld := ⟨PRC_SPLITREQ, 31, 1⟩
def PRC_SPLITREQ_DUTY : Fld := ⟨PRC_SPLITREQ, 8, 4⟩
def PRC_SPLITREQ_PAIR : Fld := ⟨PRC_SPLITREQ, 0, 3⟩

/-- PRC_HOSTAT (R134). -/
def PRC_HOSTAT : Nat := 0x40020208
def PRC_HOSTAT_CODE : Fld := ⟨PRC_HOSTAT, 0, 3⟩

/-- PRC_LREQ (R134). -/
def PRC_LREQ : Nat := 0x40020300
def PRC_LREQ_OP : Fld := ⟨PRC_LREQ, 30, 2⟩
def PRC_LREQ_DTAG : Fld := ⟨PRC_LREQ, 28, 1⟩
def PRC_LREQ_DUTY : Fld := ⟨PRC_LREQ, 24, 4⟩
def PRC_LREQ_TERM : Fld := ⟨PRC_LREQ, 12, 12⟩
def PRC_LREQ_CLASS : Fld := ⟨PRC_LREQ, 8, 4⟩
def PRC_LREQ_INST : Fld := ⟨PRC_LREQ, 0, 6⟩

/-- PRC_LRESu (R134). -/
def PRC_LRES (i : Nat) : Nat := 0x40020310 + 4 * i
def PRC_LRES_SLOT (i : Nat) : Fld := ⟨(PRC_LRES i), 8, 6⟩
def PRC_LRES_CODE (i : Nat) : Fld := ⟨(PRC_LRES i), 0, 3⟩

/-- PRC_DUTYd_CFG (R134). -/
def PRC_DUTY_CFG (i : Nat) : Nat := 0x40020400 + 16 * i
def PRC_DUTY_CFG_SREADY (i : Nat) : Fld := ⟨(PRC_DUTY_CFG i), 24, 1⟩
def PRC_DUTY_CFG_QUOTA (i : Nat) : Fld := ⟨(PRC_DUTY_CFG i), 16, 8⟩
def PRC_DUTY_CFG_STBY (i : Nat) : Fld := ⟨(PRC_DUTY_CFG i), 12, 3⟩
def PRC_DUTY_CFG_PRIM (i : Nat) : Fld := ⟨(PRC_DUTY_CFG i), 8, 3⟩
def PRC_DUTY_CFG_SAFE (i : Nat) : Fld := ⟨(PRC_DUTY_CFG i), 1, 1⟩
def PRC_DUTY_CFG_EN (i : Nat) : Fld := ⟨(PRC_DUTY_CFG i), 0, 1⟩

/-- PRC_DUTYd_REG (R134). -/
def PRC_DUTY_REG (i : Nat) : Nat := 0x40020404 + 16 * i
def PRC_DUTY_REG_SBASE (i : Nat) : Fld := ⟨(PRC_DUTY_REG i), 16, 16⟩
def PRC_DUTY_REG_RBASE (i : Nat) : Fld := ⟨(PRC_DUTY_REG i), 0, 16⟩

/-- PRC_DUTYd_SIZE (R134). -/
def PRC_DUTY_SIZE (i : Nat) : Nat := 0x40020408 + 16 * i
def PRC_DUTY_SIZE_SIZE (i : Nat) : Fld := ⟨(PRC_DUTY_SIZE i), 0, 16⟩

/-- PRC_LIMP (R134). -/
def PRC_LIMP : Nat := 0x40020500
def PRC_LIMP_GROUPS : Fld := ⟨PRC_LIMP, 16, 16⟩
def PRC_LIMP_PB : Fld := ⟨PRC_LIMP, 8, 3⟩
def PRC_LIMP_PA : Fld := ⟨PRC_LIMP, 4, 3⟩
def PRC_LIMP_EN : Fld := ⟨PRC_LIMP, 0, 1⟩

/-- PRC_LIMPVEC (R134). -/
def PRC_LIMPVEC : Nat := 0x40020504
def PRC_LIMPVEC_VALUE : Fld := ⟨PRC_LIMPVEC, 0, 32⟩

/-- PRC_LSLOTk (R134). -/
def PRC_LSLOT (i : Nat) : Nat := 0x40020600 + 4 * i
def PRC_LSLOT_VALID (i : Nat) : Fld := ⟨(PRC_LSLOT i), 31, 1⟩
def PRC_LSLOT_HOLDER (i : Nat) : Fld := ⟨(PRC_LSLOT i), 28, 3⟩
def PRC_LSLOT_CLASS (i : Nat) : Fld := ⟨(PRC_LSLOT i), 24, 4⟩
def PRC_LSLOT_INST (i : Nat) : Fld := ⟨(PRC_LSLOT i), 18, 6⟩
def PRC_LSLOT_DTAG (i : Nat) : Fld := ⟨(PRC_LSLOT i), 17, 1⟩
def PRC_LSLOT_DUTY (i : Nat) : Fld := ⟨(PRC_LSLOT i), 13, 4⟩
def PRC_LSLOT_HALF (i : Nat) : Fld := ⟨(PRC_LSLOT i), 12, 1⟩
def PRC_LSLOT_REMAIN (i : Nat) : Fld := ⟨(PRC_LSLOT i), 0, 12⟩

/-- Register rows of PRC, part 1. -/
def rowsPrc0 : List RegRow := [
  ⟨0x40020000, 64, 7, 0, 1, 0, 0, 0, 0, 0x1, 0, 0, 0, 0x1⟩,
  ⟨0x40020004, 64, 7, 0, 1, 0x10000000, 0xFFFFFFFC, 0, 0, 0, 0, 0, 0, 0xFFFFFFFC⟩,
  ⟨0x40020008, 64, 7, 0, 1, 0x10000000, 0xFFFFFFFC, 0, 0, 0, 0, 0, 0, 0xFFFFFFFC⟩,
  ⟨0x4002000C, 64, 6, 0, 1, 0, 0, 0, 0, 0, 0, 0, 0, 0x7⟩,
  ⟨0x4002018C, 64, 1, 0, 1, 0x1, 0, 0, 0, 0, 0, 0, 0, 0x7⟩,
  ⟨0x40020010, 64, 7, 0, 1, 0, 0x1FFF0000, 0, 0x80000000, 0, 0, 0, 0, 0x9FFF1FFF⟩,
  ⟨0x40020014, 64, 7, 0, 1, 0, 0xFFFF0000, 0, 0, 0, 0, 0, 0, 0xFFFF0007⟩,
  ⟨0x40020018, 64, 7, 0, 1, 0, 0, 0, 0, 0, 0, 0, 0, 0xFFFFFFFF⟩,
  ⟨0x4002001C, 64, 7, 0, 1, 0, 0xFFFFFFFF, 0, 0, 0, 0, 0, 0, 0xFFFFFFFF⟩,
  ⟨0x40020020, 64, 7, 0, 1, 0, 0, 0, 0, 0, 0, 0, 0, 0xFF⟩,
  ⟨0x40020200, 0, 1, 0, 1, 0, 0, 0, 0, 0, 0, 0xFFFFFFFF, 0, 0x80000F07⟩,
  ⟨0x40020204, 0, 1, 0, 1, 0, 0, 0, 0, 0, 0, 0xFFFFFFFF, 0, 0x80000F07⟩]

/-- Register rows of PRC, part 2. -/
def rowsPrc1 : List RegRow := [
  ⟨0x40020208, 0, 1, 0, 1, 0, 0, 0, 0, 0, 0, 0, 0, 0x7⟩,
  ⟨0x40020300, 0, 1, 0, 1, 0, 0, 0, 0, 0, 0, 0xFFFFFFFF, 0, 0xDFFFFF3F⟩,
  ⟨0x40020310, 4, 7, 0, 1, 0, 0, 0, 0, 0, 0, 0, 0, 0x3F07⟩,
  ⟨0x40020400, 16, 16, 0, 1, 0x7700, 0xFF7703, 0, 0, 0, 0, 0, 0, 0x1FF7703⟩,
  ⟨0x40020404, 16, 16, 0, 1, 0, 0xFFFFFFFF, 0, 0, 0, 0, 0, 0, 0xFFFFFFFF⟩,
  ⟨0x40020408, 16, 16, 0, 1, 0, 0xFFFF, 0, 0, 0, 0, 0, 0, 0xFFFF⟩,
  ⟨0x40020500, 0, 1, 0, 1, 0, 0xFFFF0771, 0, 0, 0, 0, 0, 0, 0xFFFF0771⟩,
  ⟨0x40020504, 0, 1, 0, 1, 0x10000000, 0xFFFFFFFF, 0, 0, 0, 0, 0, 0, 0xFFFFFFFF⟩,
  ⟨0x40020600, 4, 64, 0, 1, 0, 0, 0, 0, 0, 0, 0, 0, 0xFFFFFFFF⟩]

/-- Register rows of PRC. -/
def rowsPrc : List RegRow := rowsPrc0 ++ rowsPrc1

/-! ### EVR -/

/-- EVR_ROUTEk (R135). -/
def EVR_ROUTE (i : Nat) : Nat := 0x40030000 + 4 * i
def EVR_ROUTE_HALF (i : Nat) : Fld := ⟨(EVR_ROUTE i), 13, 1⟩
def EVR_ROUTE_SPINE (i : Nat) : Fld := ⟨(EVR_ROUTE i), 12, 1⟩
def EVR_ROUTE_PRIO (i : Nat) : Fld := ⟨(EVR_ROUTE i), 8, 4⟩
def EVR_ROUTE_TARGET (i : Nat) : Fld := ⟨(EVR_ROUTE i), 5, 3⟩
def EVR_ROUTE_DBY (i : Nat) : Fld := ⟨(EVR_ROUTE i), 4, 1⟩
def EVR_ROUTE_DUTY (i : Nat) : Fld := ⟨(EVR_ROUTE i), 0, 4⟩

/-- EVR_THRc (R135). -/
def EVR_THR (i : Nat) : Nat := 0x40031000 + 256 * i
def EVR_THR_THR (i : Nat) : Fld := ⟨(EVR_THR i), 0, 4⟩

/-- EVR_THRc B view (R135). -/
def EVR_B_THR (i : Nat) : Nat := 0x40031800 + 256 * i
def EVR_B_THR_THR (i : Nat) : Fld := ⟨(EVR_B_THR i), 0, 4⟩

/-- EVR_TOPc (R135). -/
def EVR_TOP (i : Nat) : Nat := 0x40031004 + 256 * i
def EVR_TOP_VALID (i : Nat) : Fld := ⟨(EVR_TOP i), 31, 1⟩
def EVR_TOP_PRIO (i : Nat) : Fld := ⟨(EVR_TOP i), 16, 4⟩
def EVR_TOP_ID (i : Nat) : Fld := ⟨(EVR_TOP i), 0, 10⟩

/-- EVR_TOPc B view (R135). -/
def EVR_B_TOP (i : Nat) : Nat := 0x40031804 + 256 * i
def EVR_B_TOP_VALID (i : Nat) : Fld := ⟨(EVR_B_TOP i), 31, 1⟩
def EVR_B_TOP_PRIO (i : Nat) : Fld := ⟨(EVR_B_TOP i), 16, 4⟩
def EVR_B_TOP_ID (i : Nat) : Fld := ⟨(EVR_B_TOP i), 0, 10⟩

/-- EVR_PENDc_w (R135). -/
def EVR_PEND (i j : Nat) : Nat := 0x40031040 + 256 * i + 4 * j
def EVR_PEND_PEND (i j : Nat) : Fld := ⟨(EVR_PEND i j), 0, 32⟩

/-- EVR_PENDc_w B view (R135). -/
def EVR_B_PEND (i j : Nat) : Nat := 0x40031840 + 256 * i + 4 * j
def EVR_B_PEND_PEND (i j : Nat) : Fld := ⟨(EVR_B_PEND i j), 0, 32⟩

/-- Register rows of EVR. -/
def rowsEvr : List RegRow := [
  ⟨0x40030000, 4, 640, 0, 1, 0x6, 0, 0x3FFF, 0, 0, 0, 0, 0, 0x3FFF⟩,
  ⟨0x40031000, 256, 7, 0, 1, 0xF, 0xF, 0, 0, 0, 0, 0, 0, 0xF⟩,
  ⟨0x40031800, 256, 7, 0, 1, 0xF, 0xF, 0, 0, 0, 0, 0, 0, 0xF⟩,
  ⟨0x40031004, 256, 7, 0, 1, 0, 0, 0, 0, 0, 0, 0, 0, 0x800F03FF⟩,
  ⟨0x40031804, 256, 7, 0, 1, 0, 0, 0, 0, 0, 0, 0, 0, 0x800F03FF⟩,
  ⟨0x40031040, 256, 7, 4, 20, 0, 0, 0, 0xFFFFFFFF, 0, 0, 0, 0, 0xFFFFFFFF⟩,
  ⟨0x40031840, 256, 7, 4, 20, 0, 0, 0, 0xFFFFFFFF, 0, 0, 0, 0, 0xFFFFFFFF⟩]

/-! ### ENG -/

/-- ENG_CTRL (R183). -/
def ENG_CTRL : Nat := 0x40040000
def ENG_CTRL_TUNEU : Fld := ⟨ENG_CTRL, 4, 3⟩
def ENG_CTRL_RUN : Fld := ⟨ENG_CTRL, 0, 1⟩

/-- ENG_STAT (R183). -/
def ENG_STAT : Nat := 0x40040004
def ENG_STAT_PASS : Fld := ⟨ENG_STAT, 8, 7⟩
def ENG_STAT_STATE : Fld := ⟨ENG_STAT, 0, 3⟩

/-- ENG_RTCYC (R184). -/
def ENG_RTCYC : Nat := 0x40040008
def ENG_RTCYC_MAX : Fld := ⟨ENG_RTCYC, 16, 16⟩
def ENG_RTCYC_LAST : Fld := ⟨ENG_RTCYC, 0, 16⟩

/-- ENG_ECC (R184). -/
def ENG_ECC : Nat := 0x4004000C
def ENG_ECC_UMEM : Fld := ⟨ENG_ECC, 16, 3⟩
def ENG_ECC_CORR : Fld := ⟨ENG_ECC, 0, 16⟩

/-- ENG_ABORT (R184). -/
def ENG_ABORT : Nat := 0x40040010
def ENG_ABORT_PASS : Fld := ⟨ENG_ABORT, 24, 6⟩
def ENG_ABORT_LANE : Fld := ⟨ENG_ABORT, 19, 5⟩
def ENG_ABORT_CAUSE : Fld := ⟨ENG_ABORT, 16, 3⟩
def ENG_ABORT_CODE : Fld := ⟨ENG_ABORT, 0, 16⟩

/-- ENG_ABORTPC (R184). -/
def ENG_ABORTPC : Nat := 0x40040014
def ENG_ABORTPC_PC : Fld := ⟨ENG_ABORTPC, 0, 14⟩

/-- ENG_CAPBASE (R184). -/
def ENG_CAPBASE : Nat := 0x40040020
def ENG_CAPBASE_BASE : Fld := ⟨ENG_CAPBASE, 4, 28⟩

/-- ENG_CAPSIZE (R184). -/
def ENG_CAPSIZE : Nat := 0x40040024
def ENG_CAPSIZE_SIZE : Fld := ⟨ENG_CAPSIZE, 0, 16⟩

/-- ENG_CAPWP (R184). -/
def ENG_CAPWP : Nat := 0x40040028
def ENG_CAPWP_PTR : Fld := ⟨ENG_CAPWP, 0, 16⟩

/-- ENG_CAPRP (R184). -/
def ENG_CAPRP : Nat := 0x4004002C
def ENG_CAPRP_PTR : Fld := ⟨ENG_CAPRP, 0, 16⟩

/-- ENG_CAPCTL (R184). -/
def ENG_CAPCTL : Nat := 0x40040030
def ENG_CAPCTL_ARM : Fld := ⟨ENG_CAPCTL, 31, 1⟩
def ENG_CAPCTL_ALLB : Fld := ⟨ENG_CAPCTL, 7, 1⟩
def ENG_CAPCTL_BOBBIN : Fld := ⟨ENG_CAPCTL, 0, 7⟩

/-- ENG_CAPDROP (R184). -/
def ENG_CAPDROP : Nat := 0x40040034
def ENG_CAPDROP_DROP : Fld := ⟨ENG_CAPDROP, 0, 16⟩

/-- ENG_RTp_A (R184). -/
def ENG_RT_A (i : Nat) : Nat := 0x40040100 + 16 * i
def ENG_RT_A_EN (i : Nat) : Fld := ⟨(ENG_RT_A i), 31, 1⟩
def ENG_RT_A_ENTRY (i : Nat) : Fld := ⟨(ENG_RT_A i), 16, 14⟩
def ENG_RT_A_FIRST (i : Nat) : Fld := ⟨(ENG_RT_A i), 8, 7⟩
def ENG_RT_A_COUNT (i : Nat) : Fld := ⟨(ENG_RT_A i), 0, 6⟩

/-- ENG_RTp_B (R184). -/
def ENG_RT_B (i : Nat) : Nat := 0x40040104 + 16 * i
def ENG_RT_B_LEN (i : Nat) : Fld := ⟨(ENG_RT_B i), 16, 15⟩
def ENG_RT_B_BUDGET (i : Nat) : Fld := ⟨(ENG_RT_B i), 0, 16⟩

/-- ENG_RTp_C (R184). -/
def ENG_RT_C (i : Nat) : Nat := 0x40040108 + 16 * i
def ENG_RT_C_FMASK (i : Nat) : Fld := ⟨(ENG_RT_C i), 0, 7⟩

/-- ENG_PSTATp (R184). -/
def ENG_PSTAT (i : Nat) : Nat := 0x40040500 + 4 * i
def ENG_PSTAT_ABORTED (i : Nat) : Fld := ⟨(ENG_PSTAT i), 31, 1⟩
def ENG_PSTAT_FLAGS (i : Nat) : Fld := ⟨(ENG_PSTAT i), 24, 7⟩
def ENG_PSTAT_CYC (i : Nat) : Fld := ⟨(ENG_PSTAT i), 0, 16⟩

/-- ENG_TDt_A (R184). -/
def ENG_TD_A (i : Nat) : Nat := 0x40040600 + 16 * i
def ENG_TD_A_VALID (i : Nat) : Fld := ⟨(ENG_TD_A i), 31, 1⟩
def ENG_TD_A_UNIF (i : Nat) : Fld := ⟨(ENG_TD_A i), 30, 1⟩
def ENG_TD_A_N (i : Nat) : Fld := ⟨(ENG_TD_A i), 16, 9⟩
def ENG_TD_A_BASE (i : Nat) : Fld := ⟨(ENG_TD_A i), 0, 14⟩

/-- ENG_TDt_B (R184). -/
def ENG_TD_B (i : Nat) : Nat := 0x40040604 + 16 * i
def ENG_TD_B_X0 (i : Nat) : Fld := ⟨(ENG_TD_B i), 0, 32⟩

/-- ENG_TDt_C (R184). -/
def ENG_TD_C (i : Nat) : Nat := 0x40040608 + 16 * i
def ENG_TD_C_X0 (i : Nat) : Fld := ⟨(ENG_TD_C i), 0, 32⟩

/-- ENG_IGn_CFG (R184). -/
def ENG_IG_CFG (i : Nat) : Nat := 0x40040A00 + 32 * i
def ENG_IG_CFG_RUN (i : Nat) : Fld := ⟨(ENG_IG_CFG i), 31, 1⟩
def ENG_IG_CFG_KIND (i : Nat) : Fld := ⟨(ENG_IG_CFG i), 28, 2⟩
def ENG_IG_CFG_HOLD (i : Nat) : Fld := ⟨(ENG_IG_CFG i), 16, 8⟩
def ENG_IG_CFG_NODE (i : Nat) : Fld := ⟨(ENG_IG_CFG i), 8, 8⟩
def ENG_IG_CFG_BOBBIN (i : Nat) : Fld := ⟨(ENG_IG_CFG i), 0, 7⟩

/-- ENG_IGn_AMP (R184). -/
def ENG_IG_AMP (i : Nat) : Nat := 0x40040A04 + 32 * i
def ENG_IG_AMP_VALUE (i : Nat) : Fld := ⟨(ENG_IG_AMP i), 0, 32⟩

/-- ENG_IGn_F0 (R184). -/
def ENG_IG_F0 (i : Nat) : Nat := 0x40040A08 + 32 * i
def ENG_IG_F0_VALUE (i : Nat) : Fld := ⟨(ENG_IG_F0 i), 0, 32⟩

/-- ENG_IGn_F1 (R184). -/
def ENG_IG_F1 (i : Nat) : Nat := 0x40040A0C + 32 * i
def ENG_IG_F1_VALUE (i : Nat) : Fld := ⟨(ENG_IG_F1 i), 0, 32⟩

/-- ENG_IGn_LEN (R184). -/
def ENG_IG_LEN (i : Nat) : Nat := 0x40040A10 + 32 * i
def ENG_IG_LEN_TICKS (i : Nat) : Fld := ⟨(ENG_IG_LEN i), 0, 24⟩

/-- ENG_IGn_POS (R184). -/
def ENG_IG_POS (i : Nat) : Nat := 0x40040A14 + 32 * i
def ENG_IG_POS_RUNNING (i : Nat) : Fld := ⟨(ENG_IG_POS i), 31, 1⟩
def ENG_IG_POS_TICKS (i : Nat) : Fld := ⟨(ENG_IG_POS i), 0, 24⟩

/-- ENG_STGk_A (R184). -/
def ENG_STG_A (i : Nat) : Nat := 0x40040C00 + 8 * i
def ENG_STG_A_VALID (i : Nat) : Fld := ⟨(ENG_STG_A i), 31, 1⟩
def ENG_STG_A_INDEX (i : Nat) : Fld := ⟨(ENG_STG_A i), 0, 16⟩

/-- ENG_STGk_D (R184). -/
def ENG_STG_D (i : Nat) : Nat := 0x40040C04 + 8 * i
def ENG_STG_D_DATA (i : Nat) : Fld := ⟨(ENG_STG_D i), 0, 32⟩

/-- Register rows of ENG, part 1. -/
def rowsEng0 : List RegRow := [
  ⟨0x40040000, 0, 1, 0, 1, 0x70, 0, 0, 0, 0, 0, 0xFFFFFFFF, 0, 0x71⟩,
  ⟨0x40040004, 0, 1, 0, 1, 0x7F00, 0, 0, 0, 0, 0, 0, 0, 0x7F07⟩,
  ⟨0x40040008, 0, 1, 0, 1, 0, 0xFFFF0000, 0, 0, 0, 0, 0, 0, 0xFFFFFFFF⟩,
  ⟨0x4004000C, 0, 1, 0, 1, 0, 0xFFFF, 0, 0, 0, 0, 0, 0, 0x7FFFF⟩,
  ⟨0x40040010, 0, 1, 0, 1, 0, 0, 0, 0, 0, 0, 0, 0, 0x3FFFFFFF⟩,
  ⟨0x40040014, 0, 1, 0, 1, 0, 0, 0, 0, 0, 0, 0, 0, 0x3FFF⟩,
  ⟨0x40040020, 0, 1, 0, 1, 0x20000000, 0, 0xFFFFFFF0, 0, 0, 0, 0, 0, 0xFFFFFFF0⟩,
  ⟨0x40040024, 0, 1, 0, 1, 0x10, 0, 0xFFFF, 0, 0, 0, 0, 0, 0xFFFF⟩,
  ⟨0x40040028, 0, 1, 0, 1, 0, 0, 0, 0, 0, 0, 0, 0, 0xFFFF⟩,
  ⟨0x4004002C, 0, 1, 0, 1, 0, 0xFFFF, 0, 0, 0, 0, 0, 0, 0xFFFF⟩,
  ⟨0x40040030, 0, 1, 0, 1, 0, 0, 0, 0, 0, 0, 0xFFFFFFFF, 0, 0x800000FF⟩,
  ⟨0x40040034, 0, 1, 0, 1, 0, 0xFFFF, 0, 0, 0, 0, 0, 0, 0xFFFF⟩]

/-- Register rows of ENG, part 2. -/
def rowsEng1 : List RegRow := [
  ⟨0x40040100, 16, 64, 0, 1, 0, 0, 0xBFFF7F3F, 0, 0, 0, 0, 0, 0xBFFF7F3F⟩,
  ⟨0x40040104, 16, 64, 0, 1, 0, 0, 0x7FFFFFFF, 0, 0, 0, 0, 0, 0x7FFFFFFF⟩,
  ⟨0x40040108, 16, 64, 0, 1, 0, 0, 0x7F, 0, 0, 0, 0, 0, 0x7F⟩,
  ⟨0x40040500, 4, 64, 0, 1, 0, 0, 0, 0, 0, 0, 0, 0, 0xFF00FFFF⟩,
  ⟨0x40040600, 16, 64, 0, 1, 0, 0, 0xC1FF3FFF, 0, 0, 0, 0, 0, 0xC1FF3FFF⟩,
  ⟨0x40040604, 16, 64, 0, 1, 0, 0, 0xFFFFFFFF, 0, 0, 0, 0, 0, 0xFFFFFFFF⟩,
  ⟨0x40040608, 16, 64, 0, 1, 0, 0, 0xFFFFFFFF, 0, 0, 0, 0, 0, 0xFFFFFFFF⟩,
  ⟨0x40040A00, 32, 4, 0, 1, 0x10100, 0, 0, 0, 0, 0, 0xFFFFFFFF, 0, 0xB0FFFF7F⟩,
  ⟨0x40040A04, 32, 4, 0, 1, 0, 0, 0, 0, 0, 0, 0xFFFFFFFF, 0, 0xFFFFFFFF⟩,
  ⟨0x40040A08, 32, 4, 0, 1, 0, 0, 0, 0, 0, 0, 0xFFFFFFFF, 0, 0xFFFFFFFF⟩,
  ⟨0x40040A0C, 32, 4, 0, 1, 0, 0, 0, 0, 0, 0, 0xFFFFFFFF, 0, 0xFFFFFFFF⟩,
  ⟨0x40040A10, 32, 4, 0, 1, 0, 0, 0, 0, 0, 0, 0xFFFFFFFF, 0, 0xFFFFFF⟩]

/-- Register rows of ENG, part 3. -/
def rowsEng2 : List RegRow := [
  ⟨0x40040A14, 32, 4, 0, 1, 0, 0, 0, 0, 0, 0, 0, 0, 0x80FFFFFF⟩,
  ⟨0x40040C00, 8, 128, 0, 1, 0, 0, 0x8000FFFF, 0, 0, 0, 0, 0, 0x8000FFFF⟩,
  ⟨0x40040C04, 8, 128, 0, 1, 0, 0, 0xFFFFFFFF, 0, 0, 0, 0, 0, 0xFFFFFFFF⟩]

/-- Register rows of ENG. -/
def rowsEng : List RegRow := rowsEng0 ++ rowsEng1 ++ rowsEng2

/-! ### MOD -/

/-- MOD_LEGl_CFG (R226). -/
def MOD_LEG_CFG (i : Nat) : Nat := 0x40050000 + 16 * i
def MOD_LEG_CFG_EN (i : Nat) : Fld := ⟨(MOD_LEG_CFG i), 31, 1⟩
def MOD_LEG_CFG_SRC (i : Nat) : Fld := ⟨(MOD_LEG_CFG i), 24, 6⟩
def MOD_LEG_CFG_GROUP (i : Nat) : Fld := ⟨(MOD_LEG_CFG i), 20, 4⟩
def MOD_LEG_CFG_POLICY (i : Nat) : Fld := ⟨(MOD_LEG_CFG i), 18, 2⟩
def MOD_LEG_CFG_UPD (i : Nat) : Fld := ⟨(MOD_LEG_CFG i), 16, 2⟩
def MOD_LEG_CFG_CKIND (i : Nat) : Fld := ⟨(MOD_LEG_CFG i), 15, 1⟩
def MOD_LEG_CFG_DIV (i : Nat) : Fld := ⟨(MOD_LEG_CFG i), 13, 2⟩
def MOD_LEG_CFG_KM1 (i : Nat) : Fld := ⟨(MOD_LEG_CFG i), 0, 8⟩

/-- MOD_LEGl_OFS (R226). -/
def MOD_LEG_OFS (i : Nat) : Nat := 0x40050004 + 16 * i
def MOD_LEG_OFS_OFFSET (i : Nat) : Fld := ⟨(MOD_LEG_OFS i), 0, 28⟩

/-- MOD_LEGl_DT (R226). -/
def MOD_LEG_DT (i : Nat) : Nat := 0x40050008 + 16 * i
def MOD_LEG_DT_MINPW (i : Nat) : Fld := ⟨(MOD_LEG_DT i), 16, 15⟩
def MOD_LEG_DT_DT (i : Nat) : Fld := ⟨(MOD_LEG_DT i), 0, 15⟩

/-- MOD_LEGl_DIAG (R226). -/
def MOD_LEG_DIAG (i : Nat) : Nat := 0x4005000C + 16 * i
def MOD_LEG_DIAG_DIAGEN (i : Nat) : Fld := ⟨(MOD_LEG_DIAG i), 31, 1⟩
def MOD_LEG_DIAG_DIAGZ (i : Nat) : Fld := ⟨(MOD_LEG_DIAG i), 30, 1⟩
def MOD_LEG_DIAG_TDIAG (i : Nat) : Fld := ⟨(MOD_LEG_DIAG i), 16, 14⟩
def MOD_LEG_DIAG_N (i : Nat) : Fld := ⟨(MOD_LEG_DIAG i), 0, 16⟩

/-- MOD_GRPg_CFG (R226). -/
def MOD_GRP_CFG (i : Nat) : Nat := 0x40050800 + 16 * i
def MOD_GRP_CFG_DINS (i : Nat) : Fld := ⟨(MOD_GRP_CFG i), 24, 1⟩
def MOD_GRP_CFG_DEPENG (i : Nat) : Fld := ⟨(MOD_GRP_CFG i), 23, 1⟩
def MOD_GRP_CFG_DEP (i : Nat) : Fld := ⟨(MOD_GRP_CFG i), 16, 7⟩
def MOD_GRP_CFG_SREF (i : Nat) : Fld := ⟨(MOD_GRP_CFG i), 8, 7⟩
def MOD_GRP_CFG_SMP (i : Nat) : Fld := ⟨(MOD_GRP_CFG i), 4, 2⟩
def MOD_GRP_CFG_TYPE (i : Nat) : Fld := ⟨(MOD_GRP_CFG i), 0, 2⟩

/-- MOD_GRPg_SLEAD (R226). -/
def MOD_GRP_SLEAD (i : Nat) : Nat := 0x40050804 + 16 * i
def MOD_GRP_SLEAD_LEAD (i : Nat) : Fld := ⟨(MOD_GRP_SLEAD i), 0, 12⟩

/-- Register rows of MOD. -/
def rowsMod : List RegRow := [
  ⟨0x40050000, 16, 96, 0, 1, 0xD0000, 0, 0xBFFFE0FF, 0, 0, 0, 0, 0, 0xBFFFE0FF⟩,
  ⟨0x40050004, 16, 96, 0, 1, 0, 0, 0xFFFFFFF, 0, 0, 0, 0, 0, 0xFFFFFFF⟩,
  ⟨0x40050008, 16, 96, 0, 1, 0x19006400, 0, 0x7FFF7FFF, 0, 0, 0, 0, 0, 0x7FFF7FFF⟩,
  ⟨0x4005000C, 16, 96, 0, 1, 0xC8000C8, 0, 0xFFFFFFFF, 0, 0, 0, 0, 0, 0xFFFFFFFF⟩,
  ⟨0x40050800, 16, 16, 0, 1, 0x800000, 0, 0x17F7F33, 0, 0, 0, 0, 0, 0x1FF7F33⟩,
  ⟨0x40050804, 16, 16, 0, 1, 0, 0, 0xFFF, 0, 0, 0, 0, 0, 0xFFF⟩]

/-! ### GLK -/

/-- GLK_LEGl_PRH (R268). -/
def GLK_LEG_PRH (i : Nat) : Nat := 0x40060000 + 16 * i
def GLK_LEG_PRH_SNK3 (i : Nat) : Fld := ⟨(GLK_LEG_PRH i), 28, 4⟩
def GLK_LEG_PRH_SRC3 (i : Nat) : Fld := ⟨(GLK_LEG_PRH i), 24, 4⟩
def GLK_LEG_PRH_SNK2 (i : Nat) : Fld := ⟨(GLK_LEG_PRH i), 20, 4⟩
def GLK_LEG_PRH_SRC2 (i : Nat) : Fld := ⟨(GLK_LEG_PRH i), 16, 4⟩
def GLK_LEG_PRH_SNK1 (i : Nat) : Fld := ⟨(GLK_LEG_PRH i), 12, 4⟩
def GLK_LEG_PRH_SRC1 (i : Nat) : Fld := ⟨(GLK_LEG_PRH i), 8, 4⟩
def GLK_LEG_PRH_SNK0 (i : Nat) : Fld := ⟨(GLK_LEG_PRH i), 4, 4⟩
def GLK_LEG_PRH_SRC0 (i : Nat) : Fld := ⟨(GLK_LEG_PRH i), 0, 4⟩

/-- GLK_LEGl_PRL (R268). -/
def GLK_LEG_PRL (i : Nat) : Nat := 0x40060004 + 16 * i
def GLK_LEG_PRL_SNK3 (i : Nat) : Fld := ⟨(GLK_LEG_PRL i), 28, 4⟩
def GLK_LEG_PRL_SRC3 (i : Nat) : Fld := ⟨(GLK_LEG_PRL i), 24, 4⟩
def GLK_LEG_PRL_SNK2 (i : Nat) : Fld := ⟨(GLK_LEG_PRL i), 20, 4⟩
def GLK_LEG_PRL_SRC2 (i : Nat) : Fld := ⟨(GLK_LEG_PRL i), 16, 4⟩
def GLK_LEG_PRL_SNK1 (i : Nat) : Fld := ⟨(GLK_LEG_PRL i), 12, 4⟩
def GLK_LEG_PRL_SRC1 (i : Nat) : Fld := ⟨(GLK_LEG_PRL i), 8, 4⟩
def GLK_LEG_PRL_SNK0 (i : Nat) : Fld := ⟨(GLK_LEG_PRL i), 4, 4⟩
def GLK_LEG_PRL_SRC0 (i : Nat) : Fld := ⟨(GLK_LEG_PRL i), 0, 4⟩

/-- GLK_LEGl_SC (R268). -/
def GLK_LEG_SC (i : Nat) : Nat := 0x40060008 + 16 * i
def GLK_LEG_SC_SCEN (i : Nat) : Fld := ⟨(GLK_LEG_SC i), 31, 1⟩
def GLK_LEG_SC_SCM (i : Nat) : Fld := ⟨(GLK_LEG_SC i), 28, 2⟩
def GLK_LEG_SC_SCBS (i : Nat) : Fld := ⟨(GLK_LEG_SC i), 16, 7⟩
def GLK_LEG_SC_SLOPE (i : Nat) : Fld := ⟨(GLK_LEG_SC i), 8, 5⟩
def GLK_LEG_SC_FSNK (i : Nat) : Fld := ⟨(GLK_LEG_SC i), 4, 4⟩
def GLK_LEG_SC_ACOPY (i : Nat) : Fld := ⟨(GLK_LEG_SC i), 1, 1⟩
def GLK_LEG_SC_AEN (i : Nat) : Fld := ⟨(GLK_LEG_SC i), 0, 1⟩

/-- GLK_LEGl_SCT (R268). -/
def GLK_LEG_SCT (i : Nat) : Nat := 0x4006000C + 16 * i
def GLK_LEG_SCT_THR (i : Nat) : Fld := ⟨(GLK_LEG_SCT i), 0, 16⟩

/-- GLK_GRPg_SAFE (R268). -/
def GLK_GRP_SAFE (i : Nat) : Nat := 0x40060800 + 16 * i
def GLK_GRP_SAFE_ESCWIN (i : Nat) : Fld := ⟨(GLK_GRP_SAFE i), 16, 8⟩
def GLK_GRP_SAFE_ESCN (i : Nat) : Fld := ⟨(GLK_GRP_SAFE i), 8, 4⟩
def GLK_GRP_SAFE_DWIN (i : Nat) : Fld := ⟨(GLK_GRP_SAFE i), 6, 1⟩
def GLK_GRP_SAFE_DWIDE (i : Nat) : Fld := ⟨(GLK_GRP_SAFE i), 5, 1⟩
def GLK_GRP_SAFE_SPREAD (i : Nat) : Fld := ⟨(GLK_GRP_SAFE i), 4, 1⟩
def GLK_GRP_SAFE_ALLOW (i : Nat) : Fld := ⟨(GLK_GRP_SAFE i), 1, 2⟩
def GLK_GRP_SAFE_PREF (i : Nat) : Fld := ⟨(GLK_GRP_SAFE i), 0, 1⟩

/-- GLK_GRPg_ASC (R268). -/
def GLK_GRP_ASC (i : Nat) : Nat := 0x40060804 + 16 * i
def GLK_GRP_ASC_ASCON (i : Nat) : Fld := ⟨(GLK_GRP_ASC i), 16, 16⟩
def GLK_GRP_ASC_ASCMIN (i : Nat) : Fld := ⟨(GLK_GRP_ASC i), 0, 16⟩

/-- GLK_GRPg_BAND (R268). -/
def GLK_GRP_BAND (i : Nat) : Nat := 0x40060808 + 16 * i
def GLK_GRP_BAND_BT3 (i : Nat) : Fld := ⟨(GLK_GRP_BAND i), 20, 10⟩
def GLK_GRP_BAND_BT2 (i : Nat) : Fld := ⟨(GLK_GRP_BAND i), 10, 10⟩
def GLK_GRP_BAND_BT1 (i : Nat) : Fld := ⟨(GLK_GRP_BAND i), 0, 10⟩

/-- GLK_GRPg_ADAPT (R268). -/
def GLK_GRP_ADAPT (i : Nat) : Nat := 0x4006080C + 16 * i
def GLK_GRP_ADAPT_EDGES (i : Nat) : Fld := ⟨(GLK_GRP_ADAPT i), 28, 4⟩
def GLK_GRP_ADAPT_ABAND (i : Nat) : Fld := ⟨(GLK_GRP_ADAPT i), 24, 2⟩
def GLK_GRP_ADAPT_CONV (i : Nat) : Fld := ⟨(GLK_GRP_ADAPT i), 20, 4⟩
def GLK_GRP_ADAPT_TWIN (i : Nat) : Fld := ⟨(GLK_GRP_ADAPT i), 12, 8⟩
def GLK_GRP_ADAPT_TTARGET (i : Nat) : Fld := ⟨(GLK_GRP_ADAPT i), 0, 12⟩

/-- GLK_CLc_CFG (R268). -/
def GLK_CL_CFG (i : Nat) : Nat := 0x40060A00 + 4 * i
def GLK_CL_CFG_POLL (i : Nat) : Fld := ⟨(GLK_CL_CFG i), 8, 8⟩
def GLK_CL_CFG_PBEN (i : Nat) : Fld := ⟨(GLK_CL_CFG i), 1, 1⟩
def GLK_CL_CFG_IOV (i : Nat) : Fld := ⟨(GLK_CL_CFG i), 0, 1⟩

/-- GLK_TIM (R268). -/
def GLK_TIM : Nat := 0x40060B00
def GLK_TIM_STUCK : Fld := ⟨GLK_TIM, 12, 16⟩
def GLK_TIM_CONFIRM : Fld := ⟨GLK_TIM, 0, 12⟩

/-- GLK_HARD (R268). -/
def GLK_HARD : Nat := 0x40060B04
def GLK_HARD_T : Fld := ⟨GLK_HARD, 0, 12⟩

/-- GLK_PB (R268). -/
def GLK_PB : Nat := 0x40060B08
def GLK_PB_RDLY : Fld := ⟨GLK_PB, 0, 5⟩

/-- Register rows of GLK. -/
def rowsGlk : List RegRow := [
  ⟨0x40060000, 16, 96, 0, 1, 0x88888888, 0, 0xFFFFFFFF, 0, 0, 0, 0, 0, 0xFFFFFFFF⟩,
  ⟨0x40060004, 16, 96, 0, 1, 0x88888888, 0, 0xFFFFFFFF, 0, 0, 0, 0, 0, 0xFFFFFFFF⟩,
  ⟨0x40060008, 16, 96, 0, 1, 0x107F1040, 0, 0xB07F1FF3, 0, 0, 0, 0, 0, 0xB07F1FF3⟩,
  ⟨0x4006000C, 16, 96, 0, 1, 0xFFFF, 0, 0xFFFF, 0, 0, 0, 0, 0, 0xFFFF⟩,
  ⟨0x40060800, 16, 16, 0, 1, 0x640310, 0, 0xFF0F77, 0, 0, 0, 0, 0, 0xFF0F77⟩,
  ⟨0x40060804, 16, 16, 0, 1, 0xFFFFFFFF, 0, 0xFFFFFFFF, 0, 0, 0, 0, 0, 0xFFFFFFFF⟩,
  ⟨0x40060808, 16, 16, 0, 1, 0x12C25832, 0, 0x3FFFFFFF, 0, 0, 0, 0, 0, 0x3FFFFFFF⟩,
  ⟨0x4006080C, 16, 16, 0, 1, 0x420280, 0, 0xF3FFFFFF, 0, 0, 0, 0, 0, 0xF3FFFFFF⟩,
  ⟨0x40060A00, 4, 16, 0, 1, 0x2, 0, 0xFF03, 0, 0, 0, 0, 0, 0xFF03⟩,
  ⟨0x40060B00, 0, 1, 0, 1, 0xFA0320, 0, 0xFFFFFFF, 0, 0, 0, 0, 0, 0xFFFFFFF⟩,
  ⟨0x40060B04, 0, 1, 0, 1, 0x320, 0, 0xFFF, 0, 0, 0, 0, 0, 0xFFF⟩,
  ⟨0x40060B08, 0, 1, 0, 1, 0x8, 0, 0x1F, 0, 0, 0, 0, 0, 0x1F⟩]

/-! ### BSI -/

/-- BSI_CLKk (R294). -/
def BSI_CLK (i : Nat) : Nat := 0x40070000 + 4 * i
def BSI_CLK_DIR (i : Nat) : Fld := ⟨(BSI_CLK i), 15, 1⟩
def BSI_CLK_EDGE (i : Nat) : Fld := ⟨(BSI_CLK i), 14, 1⟩
def BSI_CLK_DLY (i : Nat) : Fld := ⟨(BSI_CLK i), 8, 4⟩
def BSI_CLK_DIV (i : Nat) : Fld := ⟨(BSI_CLK i), 0, 7⟩

/-- BSI_CHi_CFG (R294). -/
def BSI_CH_CFG (i : Nat) : Nat := 0x40070100 + 16 * i
def BSI_CH_CFG_EN (i : Nat) : Fld := ⟨(BSI_CH_CFG i), 31, 1⟩
def BSI_CH_CFG_FEN (i : Nat) : Fld := ⟨(BSI_CH_CFG i), 30, 1⟩
def BSI_CH_CFG_SYNC (i : Nat) : Fld := ⟨(BSI_CH_CFG i), 29, 1⟩
def BSI_CH_CFG_MORD (i : Nat) : Fld := ⟨(BSI_CH_CFG i), 28, 1⟩
def BSI_CH_CFG_GRP (i : Nat) : Fld := ⟨(BSI_CH_CFG i), 24, 4⟩
def BSI_CH_CFG_MOSR (i : Nat) : Fld := ⟨(BSI_CH_CFG i), 14, 10⟩
def BSI_CH_CFG_FOSR (i : Nat) : Fld := ⟨(BSI_CH_CFG i), 8, 6⟩
def BSI_CH_CFG_OCEN (i : Nat) : Fld := ⟨(BSI_CH_CFG i), 7, 1⟩
def BSI_CH_CFG_OCLEG (i : Nat) : Fld := ⟨(BSI_CH_CFG i), 0, 7⟩

/-- BSI_CHi_OFS (R294). -/
def BSI_CH_OFS (i : Nat) : Nat := 0x40070104 + 16 * i
def BSI_CH_OFS_VALUE (i : Nat) : Fld := ⟨(BSI_CH_OFS i), 0, 32⟩

/-- BSI_CHi_GAIN (R294). -/
def BSI_CH_GAIN (i : Nat) : Nat := 0x40070108 + 16 * i
def BSI_CH_GAIN_VALUE (i : Nat) : Fld := ⟨(BSI_CH_GAIN i), 0, 32⟩

/-- BSI_CHi_OC (R294). -/
def BSI_CH_OC (i : Nat) : Nat := 0x4007010C + 16 * i
def BSI_CH_OC_OCHI (i : Nat) : Fld := ⟨(BSI_CH_OC i), 16, 16⟩
def BSI_CH_OC_OCLO (i : Nat) : Fld := ⟨(BSI_CH_OC i), 0, 16⟩

/-- BSI_OCSTATw (R294). -/
def BSI_OCSTAT (i : Nat) : Nat := 0x40070800 + 4 * i
def BSI_OCSTAT_TRIP (i : Nat) : Fld := ⟨(BSI_OCSTAT i), 0, 32⟩

/-- BSI_CLKST (R294). -/
def BSI_CLKST : Nat := 0x40070810
def BSI_CLKST_CLKOK : Fld := ⟨BSI_CLKST, 0, 14⟩

/-- BSI_DCX (R294). -/
def BSI_DCX : Nat := 0x40070820
def BSI_DCX_EN : Fld := ⟨BSI_DCX, 31, 1⟩
def BSI_DCX_BS : Fld := ⟨BSI_DCX, 24, 7⟩
def BSI_DCX_SLOT : Fld := ⟨BSI_DCX, 8, 7⟩
def BSI_DCX_N : Fld := ⟨BSI_DCX, 0, 4⟩

/-- BSI_DCXTOL (R294). -/
def BSI_DCXTOL : Nat := 0x40070824
def BSI_DCXTOL_TOL : Fld := ⟨BSI_DCXTOL, 0, 32⟩

/-- BSI_DCXST (R294). -/
def BSI_DCXST : Nat := 0x40070828
def BSI_DCXST_MIS : Fld := ⟨BSI_DCXST, 31, 1⟩
def BSI_DCXST_COUNT : Fld := ⟨BSI_DCXST, 0, 4⟩

/-- BSI_CALREQ (R294). -/
def BSI_CALREQ : Nat := 0x40070830
def BSI_CALREQ_GO : Fld := ⟨BSI_CALREQ, 31, 1⟩
def BSI_CALREQ_SRC : Fld := ⟨BSI_CALREQ, 30, 1⟩
def BSI_CALREQ_GRP : Fld := ⟨BSI_CALREQ, 24, 4⟩
def BSI_CALREQ_NLOG2 : Fld := ⟨BSI_CALREQ, 20, 4⟩
def BSI_CALREQ_LAST : Fld := ⟨BSI_CALREQ, 8, 8⟩
def BSI_CALREQ_FIRST : Fld := ⟨BSI_CALREQ, 0, 8⟩

/-- BSI_CALOFS (R294). -/
def BSI_CALOFS : Nat := 0x40070834
def BSI_CALOFS_VALUE : Fld := ⟨BSI_CALOFS, 0, 32⟩

/-- BSI_CALVAR (R294). -/
def BSI_CALVAR : Nat := 0x40070838
def BSI_CALVAR_VALUE : Fld := ⟨BSI_CALVAR, 0, 32⟩

/-- BSI_CALSPD (R294). -/
def BSI_CALSPD : Nat := 0x4007083C
def BSI_CALSPD_VALUE : Fld := ⟨BSI_CALSPD, 0, 32⟩

/-- BSI_CALST (R294). -/
def BSI_CALST : Nat := 0x40070840
def BSI_CALST_STATE : Fld := ⟨BSI_CALST, 30, 2⟩
def BSI_CALST_CODE : Fld := ⟨BSI_CALST, 24, 3⟩
def BSI_CALST_CH : Fld := ⟨BSI_CALST, 0, 8⟩

/-- BSI_CALMEAN (R294). -/
def BSI_CALMEAN : Nat := 0x40070844
def BSI_CALMEAN_VALUE : Fld := ⟨BSI_CALMEAN, 0, 32⟩

/-- BSI_CALVARM (R294). -/
def BSI_CALVARM : Nat := 0x40070848
def BSI_CALVARM_VALUE : Fld := ⟨BSI_CALVARM, 0, 32⟩

/-- BSI_SPARE (R294). -/
def BSI_SPARE : Nat := 0x40070850
def BSI_SPARE_ROT : Fld := ⟨BSI_SPARE, 16, 8⟩
def BSI_SPARE_FAILU : Fld := ⟨BSI_SPARE, 8, 4⟩
def BSI_SPARE_CUR : Fld := ⟨BSI_SPARE, 0, 7⟩

/-- Register rows of BSI, part 1. -/
def rowsBsi0 : List RegRow := [
  ⟨0x40070000, 4, 14, 0, 1, 0x10, 0, 0xCF7F, 0, 0, 0, 0, 0, 0xCF7F⟩,
  ⟨0x40070100, 16, 112, 0, 1, 0x20107F, 0, 0xFFFFFFFF, 0, 0, 0, 0, 0, 0xFFFFFFFF⟩,
  ⟨0x40070104, 16, 112, 0, 1, 0, 0, 0xFFFFFFFF, 0, 0, 0, 0, 0, 0xFFFFFFFF⟩,
  ⟨0x40070108, 16, 112, 0, 1, 0x3F800000, 0, 0xFFFFFFFF, 0, 0, 0, 0, 0, 0xFFFFFFFF⟩,
  ⟨0x4007010C, 16, 112, 0, 1, 0x7FFF8000, 0, 0xFFFFFFFF, 0, 0, 0, 0, 0, 0xFFFFFFFF⟩,
  ⟨0x40070800, 4, 4, 0, 1, 0, 0, 0, 0xFFFFFFFF, 0, 0, 0, 0, 0xFFFFFFFF⟩,
  ⟨0x40070810, 0, 1, 0, 1, 0, 0, 0, 0, 0, 0, 0, 0, 0x3FFF⟩,
  ⟨0x40070820, 0, 1, 0, 1, 0x1, 0, 0xFF007F0F, 0, 0, 0, 0, 0, 0xFF007F0F⟩,
  ⟨0x40070824, 0, 1, 0, 1, 0x41200000, 0, 0xFFFFFFFF, 0, 0, 0, 0, 0, 0xFFFFFFFF⟩,
  ⟨0x40070828, 0, 1, 0, 1, 0, 0, 0, 0, 0, 0, 0, 0, 0x8000000F⟩,
  ⟨0x40070830, 0, 1, 0, 1, 0, 0, 0, 0, 0, 0, 0xFFFFFFFF, 0, 0xCFF0FFFF⟩,
  ⟨0x40070834, 0, 1, 0, 1, 0, 0, 0xFFFFFFFF, 0, 0, 0, 0, 0, 0xFFFFFFFF⟩]

/-- Register rows of BSI, part 2. -/
def rowsBsi1 : List RegRow := [
  ⟨0x40070838, 0, 1, 0, 1, 0, 0, 0xFFFFFFFF, 0, 0, 0, 0, 0, 0xFFFFFFFF⟩,
  ⟨0x4007083C, 0, 1, 0, 1, 0, 0, 0xFFFFFFFF, 0, 0, 0, 0, 0, 0xFFFFFFFF⟩,
  ⟨0x40070840, 0, 1, 0, 1, 0, 0, 0, 0, 0, 0, 0, 0, 0xC70000FF⟩,
  ⟨0x40070844, 0, 1, 0, 1, 0, 0, 0, 0, 0, 0, 0, 0, 0xFFFFFFFF⟩,
  ⟨0x40070848, 0, 1, 0, 1, 0, 0, 0, 0, 0, 0, 0, 0, 0xFFFFFFFF⟩,
  ⟨0x40070850, 0, 1, 0, 1, 0x64007F, 0, 0xFF0000, 0, 0, 0, 0, 0, 0xFF0F7F⟩]

/-- Register rows of BSI. -/
def rowsBsi : List RegRow := rowsBsi0 ++ rowsBsi1

/-! ### SAR -/

/-- SAR_REF (R295). -/
def SAR_REF : Nat := 0x40080000
def SAR_REF_SETTLE : Fld := ⟨SAR_REF, 16, 10⟩
def SAR_REF_SRC : Fld := ⟨SAR_REF, 0, 2⟩

/-- SAR_STAT (R295). -/
def SAR_STAT : Nat := 0x40080004
def SAR_STAT_REFSETTLED : Fld := ⟨SAR_STAT, 8, 1⟩
def SAR_STAT_BUSY : Fld := ⟨SAR_STAT, 0, 8⟩

/-- SAR_SEQs_CFG (R295). -/
def SAR_SEQ_CFG (i : Nat) : Nat := 0x40080100 + 32 * i
def SAR_SEQ_CFG_EN (i : Nat) : Fld := ⟨(SAR_SEQ_CFG i), 31, 1⟩
def SAR_SEQ_CFG_TRIG (i : Nat) : Fld := ⟨(SAR_SEQ_CFG i), 26, 2⟩
def SAR_SEQ_CFG_URGSRC (i : Nat) : Fld := ⟨(SAR_SEQ_CFG i), 24, 2⟩
def SAR_SEQ_CFG_GRP (i : Nat) : Fld := ⟨(SAR_SEQ_CFG i), 20, 4⟩
def SAR_SEQ_CFG_URGCH (i : Nat) : Fld := ⟨(SAR_SEQ_CFG i), 16, 4⟩
def SAR_SEQ_CFG_LENM1 (i : Nat) : Fld := ⟨(SAR_SEQ_CFG i), 0, 4⟩

/-- SAR_SEQs_CHA (R295). -/
def SAR_SEQ_CHA (i : Nat) : Nat := 0x40080104 + 32 * i
def SAR_SEQ_CHA_CH (i : Nat) : Fld := ⟨(SAR_SEQ_CHA i), 0, 32⟩

/-- SAR_SEQs_CHB (R295). -/
def SAR_SEQ_CHB (i : Nat) : Nat := 0x40080108 + 32 * i
def SAR_SEQ_CHB_CH (i : Nat) : Fld := ⟨(SAR_SEQ_CHB i), 0, 32⟩

/-- SAR_SEQs_SW (R295). -/
def SAR_SEQ_SW (i : Nat) : Nat := 0x4008010C + 32 * i
def SAR_SEQ_SW_GO (i : Nat) : Fld := ⟨(SAR_SEQ_SW i), 31, 1⟩
def SAR_SEQ_SW_URG (i : Nat) : Fld := ⟨(SAR_SEQ_SW i), 30, 1⟩

/-- SAR_SEQs_CNT (R295). -/
def SAR_SEQ_CNT (i : Nat) : Nat := 0x40080110 + 32 * i
def SAR_SEQ_CNT_URGDROP (i : Nat) : Fld := ⟨(SAR_SEQ_CNT i), 16, 16⟩
def SAR_SEQ_CNT_TRGDROP (i : Nat) : Fld := ⟨(SAR_SEQ_CNT i), 0, 16⟩

/-- SAR_SEQs_ST (R295). -/
def SAR_SEQ_ST (i : Nat) : Nat := 0x40080114 + 32 * i
def SAR_SEQ_ST_NONE (i : Nat) : Fld := ⟨(SAR_SEQ_ST i), 2, 1⟩
def SAR_SEQ_ST_CLIP (i : Nat) : Fld := ⟨(SAR_SEQ_ST i), 1, 1⟩
def SAR_SEQ_ST_REF (i : Nat) : Fld := ⟨(SAR_SEQ_ST i), 0, 1⟩

/-- SAR_SLOTj_OFS (R295). -/
def SAR_SLOT_OFS (i : Nat) : Nat := 0x40080400 + 8 * i
def SAR_SLOT_OFS_VALUE (i : Nat) : Fld := ⟨(SAR_SLOT_OFS i), 0, 32⟩

/-- SAR_SLOTj_GAIN (R295). -/
def SAR_SLOT_GAIN (i : Nat) : Nat := 0x40080404 + 8 * i
def SAR_SLOT_GAIN_VALUE (i : Nat) : Fld := ⟨(SAR_SLOT_GAIN i), 0, 32⟩

/-- Register rows of SAR. -/
def rowsSar : List RegRow := [
  ⟨0x40080000, 0, 1, 0, 1, 0xC80000, 0, 0x3FF0003, 0, 0, 0, 0, 0, 0x3FF0003⟩,
  ⟨0x40080004, 0, 1, 0, 1, 0, 0, 0, 0, 0, 0, 0, 0, 0x1FF⟩,
  ⟨0x40080100, 32, 8, 0, 1, 0, 0, 0x8FFF000F, 0, 0, 0, 0, 0, 0x8FFF000F⟩,
  ⟨0x40080104, 32, 8, 0, 1, 0, 0, 0xFFFFFFFF, 0, 0, 0, 0, 0, 0xFFFFFFFF⟩,
  ⟨0x40080108, 32, 8, 0, 1, 0, 0, 0xFFFFFFFF, 0, 0, 0, 0, 0, 0xFFFFFFFF⟩,
  ⟨0x4008010C, 32, 8, 0, 1, 0, 0, 0, 0, 0, 0, 0xFFFFFFFF, 0, 0xC0000000⟩,
  ⟨0x40080110, 32, 8, 0, 1, 0, 0xFFFFFFFF, 0, 0, 0, 0, 0, 0, 0xFFFFFFFF⟩,
  ⟨0x40080114, 32, 8, 0, 1, 0, 0, 0, 0, 0, 0, 0, 0, 0x7⟩,
  ⟨0x40080400, 8, 128, 0, 1, 0, 0, 0xFFFFFFFF, 0, 0, 0, 0, 0, 0xFFFFFFFF⟩,
  ⟨0x40080404, 8, 128, 0, 1, 0x3F800000, 0, 0xFFFFFFFF, 0, 0, 0, 0, 0, 0xFFFFFFFF⟩]

/-! ### FBK -/

/-- FBK_Pf_CFG (R322). -/
def FBK_P_CFG (i : Nat) : Nat := 0x40090000 + 64 * i
def FBK_P_CFG_EN (i : Nat) : Fld := ⟨(FBK_P_CFG i), 31, 1⟩
def FBK_P_CFG_MODE (i : Nat) : Fld := ⟨(FBK_P_CFG i), 28, 2⟩
def FBK_P_CFG_SPAN (i : Nat) : Fld := ⟨(FBK_P_CFG i), 26, 2⟩
def FBK_P_CFG_ZQUAL (i : Nat) : Fld := ⟨(FBK_P_CFG i), 24, 2⟩
def FBK_P_CFG_PP (i : Nat) : Fld := ⟨(FBK_P_CFG i), 16, 8⟩
def FBK_P_CFG_TMIN (i : Nat) : Fld := ⟨(FBK_P_CFG i), 0, 12⟩

/-- FBK_Pf_CPR (R322). -/
def FBK_P_CPR (i : Nat) : Nat := 0x40090004 + 64 * i
def FBK_P_CPR_ITOL (i : Nat) : Fld := ⟨(FBK_P_CPR i), 24, 8⟩
def FBK_P_CPR_CPR (i : Nat) : Fld := ⟨(FBK_P_CPR i), 0, 24⟩

/-- FBK_Pf_AOFS (R322). -/
def FBK_P_AOFS (i : Nat) : Nat := 0x40090008 + 64 * i
def FBK_P_AOFS_AOFS (i : Nat) : Fld := ⟨(FBK_P_AOFS i), 0, 32⟩

/-- FBK_Pf_TIM (R322). -/
def FBK_P_TIM (i : Nat) : Nat := 0x4009000C + 64 * i
def FBK_P_TIM_SLEAD (i : Nat) : Fld := ⟨(FBK_P_TIM i), 16, 16⟩
def FBK_P_TIM_TSTILL (i : Nat) : Fld := ⟨(FBK_P_TIM i), 0, 16⟩

/-- FBK_Pf_SER (R322). -/
def FBK_P_SER (i : Nat) : Nat := 0x40090010 + 64 * i
def FBK_P_SER_PAR (i : Nat) : Fld := ⟨(FBK_P_SER i), 31, 1⟩
def FBK_P_SER_GRAY (i : Nat) : Fld := ⟨(FBK_P_SER i), 30, 1⟩
def FBK_P_SER_HDIV (i : Nat) : Fld := ⟨(FBK_P_SER i), 16, 11⟩
def FBK_P_SER_STB (i : Nat) : Fld := ⟨(FBK_P_SER i), 8, 6⟩
def FBK_P_SER_BITS (i : Nat) : Fld := ⟨(FBK_P_SER i), 0, 6⟩

/-- FBK_Pf_FCNT (R322). -/
def FBK_P_FCNT (i : Nat) : Nat := 0x40090014 + 64 * i
def FBK_P_FCNT_FAULT (i : Nat) : Fld := ⟨(FBK_P_FCNT i), 16, 16⟩
def FBK_P_FCNT_EFLT (i : Nat) : Fld := ⟨(FBK_P_FCNT i), 0, 16⟩

/-- FBK_Pf_IREF (R322). -/
def FBK_P_IREF (i : Nat) : Nat := 0x40090018 + 64 * i
def FBK_P_IREF_VALUE (i : Nat) : Fld := ⟨(FBK_P_IREF i), 0, 32⟩

/-- FBK_Pf_IDIFF (R322). -/
def FBK_P_IDIFF (i : Nat) : Nat := 0x4009001C + 64 * i
def FBK_P_IDIFF_VALUE (i : Nat) : Fld := ⟨(FBK_P_IDIFF i), 0, 32⟩

/-- FBK_Pf_IDXCTL (R322). -/
def FBK_P_IDXCTL (i : Nat) : Nat := 0x40090020 + 64 * i
def FBK_P_IDXCTL_RECAP (i : Nat) : Fld := ⟨(FBK_P_IDXCTL i), 0, 1⟩

/-- FBK_Pf_LPOS (R322). -/
def FBK_P_LPOS (i : Nat) : Nat := 0x40090024 + 64 * i
def FBK_P_LPOS_VALUE (i : Nat) : Fld := ⟨(FBK_P_LPOS i), 0, 32⟩

/-- FBK_Pf_LWRAP (R322). -/
def FBK_P_LWRAP (i : Nat) : Nat := 0x40090028 + 64 * i
def FBK_P_LWRAP_VALUE (i : Nat) : Fld := ⟨(FBK_P_LWRAP i), 0, 32⟩

/-- FBK_EMe_CFG (R322). -/
def FBK_EM_CFG (i : Nat) : Nat := 0x40090400 + 16 * i
def FBK_EM_CFG_EN (i : Nat) : Fld := ⟨(FBK_EM_CFG i), 31, 1⟩
def FBK_EM_CFG_SRC (i : Nat) : Fld := ⟨(FBK_EM_CFG i), 24, 4⟩
def FBK_EM_CFG_EMIN (i : Nat) : Fld := ⟨(FBK_EM_CFG i), 0, 12⟩

/-- FBK_EMe_NM (R322). -/
def FBK_EM_NM (i : Nat) : Nat := 0x40090404 + 16 * i
def FBK_EM_NM_N (i : Nat) : Fld := ⟨(FBK_EM_NM i), 16, 16⟩
def FBK_EM_NM_M (i : Nat) : Fld := ⟨(FBK_EM_NM i), 0, 16⟩

/-- FBK_EMe_ST (R322). -/
def FBK_EM_ST (i : Nat) : Nat := 0x40090408 + 16 * i
def FBK_EM_ST_OVF (i : Nat) : Fld := ⟨(FBK_EM_ST i), 16, 16⟩
def FBK_EM_ST_PEND (i : Nat) : Fld := ⟨(FBK_EM_ST i), 0, 4⟩

/-- FBK_CMPc_CFG (R322). -/
def FBK_CMP_CFG (i : Nat) : Nat := 0x40090500 + 16 * i
def FBK_CMP_CFG_EN (i : Nat) : Fld := ⟨(FBK_CMP_CFG i), 31, 1⟩
def FBK_CMP_CFG_CYC (i : Nat) : Fld := ⟨(FBK_CMP_CFG i), 30, 1⟩
def FBK_CMP_CFG_DIRS (i : Nat) : Fld := ⟨(FBK_CMP_CFG i), 28, 2⟩
def FBK_CMP_CFG_SRC (i : Nat) : Fld := ⟨(FBK_CMP_CFG i), 24, 4⟩
def FBK_CMP_CFG_LEN (i : Nat) : Fld := ⟨(FBK_CMP_CFG i), 16, 7⟩
def FBK_CMP_CFG_WIDTH (i : Nat) : Fld := ⟨(FBK_CMP_CFG i), 0, 16⟩

/-- FBK_CMPc_ARM (R322). -/
def FBK_CMP_ARM (i : Nat) : Nat := 0x40090504 + 16 * i
def FBK_CMP_ARM_ARM (i : Nat) : Fld := ⟨(FBK_CMP_ARM i), 31, 1⟩

/-- FBK_CMPc_ST (R322). -/
def FBK_CMP_ST (i : Nat) : Nat := 0x40090508 + 16 * i
def FBK_CMP_ST_OVLP (i : Nat) : Fld := ⟨(FBK_CMP_ST i), 16, 16⟩
def FBK_CMP_ST_ARMED (i : Nat) : Fld := ⟨(FBK_CMP_ST i), 7, 1⟩
def FBK_CMP_ST_DONE (i : Nat) : Fld := ⟨(FBK_CMP_ST i), 6, 1⟩
def FBK_CMP_ST_PTR (i : Nat) : Fld := ⟨(FBK_CMP_ST i), 0, 6⟩

/-- FBK_CMPLc_k (R322). -/
def FBK_CMPL (i j : Nat) : Nat := 0x40090600 + 256 * i + 4 * j
def FBK_CMPL_POS (i j : Nat) : Fld := ⟨(FBK_CMPL i j), 0, 32⟩

/-- FBK_PLSp_CFG (R322). -/
def FBK_PLS_CFG (i : Nat) : Nat := 0x40090A00 + 4 * i
def FBK_PLS_CFG_EN (i : Nat) : Fld := ⟨(FBK_PLS_CFG i), 31, 1⟩
def FBK_PLS_CFG_KIND (i : Nat) : Fld := ⟨(FBK_PLS_CFG i), 28, 2⟩
def FBK_PLS_CFG_EDGE (i : Nat) : Fld := ⟨(FBK_PLS_CFG i), 27, 1⟩
def FBK_PLS_CFG_PTMO (i : Nat) : Fld := ⟨(FBK_PLS_CFG i), 16, 10⟩
def FBK_PLS_CFG_TMIN (i : Nat) : Fld := ⟨(FBK_PLS_CFG i), 0, 12⟩

/-- FBK_PLSST (R322). -/
def FBK_PLSST : Nat := 0x40090A40
def FBK_PLSST_TMO : Fld := ⟨FBK_PLSST, 0, 8⟩

/-- Register rows of FBK, part 1. -/
def rowsFbk0 : List RegRow := [
  ⟨0x40090000, 64, 12, 0, 1, 0x8010004, 0, 0xBFFF0FFF, 0, 0, 0, 0, 0, 0xBFFF0FFF⟩,
  ⟨0x40090004, 64, 12, 0, 1, 0x2001000, 0, 0xFFFFFFFF, 0, 0, 0, 0, 0, 0xFFFFFFFF⟩,
  ⟨0x40090008, 64, 12, 0, 1, 0, 0, 0xFFFFFFFF, 0, 0, 0, 0, 0, 0xFFFFFFFF⟩,
  ⟨0x4009000C, 64, 12, 0, 1, 0xFA04E20, 0, 0xFFFFFFFF, 0, 0, 0, 0, 0, 0xFFFFFFFF⟩,
  ⟨0x40090010, 64, 12, 0, 1, 0x40641119, 0, 0xC7FF3F3F, 0, 0, 0, 0, 0, 0xC7FF3F3F⟩,
  ⟨0x40090014, 64, 12, 0, 1, 0, 0xFFFFFFFF, 0, 0, 0, 0, 0, 0, 0xFFFFFFFF⟩,
  ⟨0x40090018, 64, 12, 0, 1, 0, 0, 0, 0, 0, 0, 0, 0, 0xFFFFFFFF⟩,
  ⟨0x4009001C, 64, 12, 0, 1, 0, 0, 0, 0, 0, 0, 0, 0, 0xFFFFFFFF⟩,
  ⟨0x40090020, 64, 12, 0, 1, 0, 0, 0, 0, 0, 0, 0xFFFFFFFF, 0, 0x1⟩,
  ⟨0x40090024, 64, 12, 0, 1, 0, 0, 0, 0, 0, 0, 0, 0, 0xFFFFFFFF⟩,
  ⟨0x40090028, 64, 12, 0, 1, 0, 0, 0, 0, 0, 0, 0, 0, 0xFFFFFFFF⟩,
  ⟨0x40090400, 16, 4, 0, 1, 0x28, 0, 0x8F000FFF, 0, 0, 0, 0, 0, 0x8F000FFF⟩]

/-- Register rows of FBK, part 2. -/
def rowsFbk1 : List RegRow := [
  ⟨0x40090404, 16, 4, 0, 1, 0x10001, 0, 0xFFFFFFFF, 0, 0, 0, 0, 0, 0xFFFFFFFF⟩,
  ⟨0x40090408, 16, 4, 0, 1, 0, 0xFFFF0000, 0, 0, 0, 0, 0, 0, 0xFFFF000F⟩,
  ⟨0x40090500, 16, 4, 0, 1, 0x30010190, 0, 0xFF7FFFFF, 0, 0, 0, 0, 0, 0xFF7FFFFF⟩,
  ⟨0x40090504, 16, 4, 0, 1, 0, 0, 0, 0, 0, 0, 0xFFFFFFFF, 0, 0x80000000⟩,
  ⟨0x40090508, 16, 4, 0, 1, 0, 0xFFFF0000, 0, 0, 0, 0, 0, 0, 0xFFFF00FF⟩,
  ⟨0x40090600, 256, 4, 4, 64, 0, 0, 0xFFFFFFFF, 0, 0, 0, 0, 0, 0xFFFFFFFF⟩,
  ⟨0x40090A00, 4, 8, 0, 1, 0x640004, 0, 0xBBFF0FFF, 0, 0, 0, 0, 0, 0xBBFF0FFF⟩,
  ⟨0x40090A40, 0, 1, 0, 1, 0, 0, 0, 0, 0, 0, 0, 0, 0xFF⟩]

/-- Register rows of FBK. -/
def rowsFbk : List RegRow := rowsFbk0 ++ rowsFbk1

/-! ### SAF -/

/-- SAF_CTRL (R368). -/
def SAF_CTRL : Nat := 0x400A0000
def SAF_CTRL_HBT : Fld := ⟨SAF_CTRL, 0, 8⟩

/-- SAF_STAT (R368). -/
def SAF_STAT : Nat := 0x400A0004
def SAF_STAT_SSTATE : Fld := ⟨SAF_STAT, 0, 3⟩
def SAF_STAT_STOA : Fld := ⟨SAF_STAT, 3, 1⟩
def SAF_STAT_STOB : Fld := ⟨SAF_STAT, 4, 1⟩
def SAF_STAT_STODISC : Fld := ⟨SAF_STAT, 5, 1⟩
def SAF_STAT_SIN : Fld := ⟨SAF_STAT, 6, 8⟩
def SAF_STAT_SOUTF : Fld := ⟨SAF_STAT, 14, 4⟩
def SAF_STAT_DCXMIS : Fld := ⟨SAF_STAT, 18, 1⟩
def SAF_STAT_HBMISS : Fld := ⟨SAF_STAT, 19, 1⟩
def SAF_STAT_DISST : Fld := ⟨SAF_STAT, 20, 2⟩
def SAF_STAT_DISIMPL : Fld := ⟨SAF_STAT, 22, 1⟩

/-- SAF_HB (R368). -/
def SAF_HB : Nat := 0x400A0008
def SAF_HB_HB : Fld := ⟨SAF_HB, 0, 1⟩

/-- SAF_STO (R368). -/
def SAF_STO : Nat := 0x400A000C
def SAF_STO_GROUPS : Fld := ⟨SAF_STO, 16, 16⟩
def SAF_STO_SDISC : Fld := ⟨SAF_STO, 0, 10⟩

/-- SAF_LATCH (R368). -/
def SAF_LATCH : Nat := 0x400A0010
def SAF_LATCH_DISFLT : Fld := ⟨SAF_LATCH, 13, 1⟩
def SAF_LATCH_SOUTF : Fld := ⟨SAF_LATCH, 9, 4⟩
def SAF_LATCH_SIND : Fld := ⟨SAF_LATCH, 1, 8⟩
def SAF_LATCH_STODISC : Fld := ⟨SAF_LATCH, 0, 1⟩

/-- SAF_SINp_CFG (R368). -/
def SAF_SIN_CFG (i : Nat) : Nat := 0x400A0040 + 4 * i
def SAF_SIN_CFG_EN (i : Nat) : Fld := ⟨(SAF_SIN_CFG i), 31, 1⟩
def SAF_SIN_CFG_ANTI (i : Nat) : Fld := ⟨(SAF_SIN_CFG i), 30, 1⟩
def SAF_SIN_CFG_FUNC (i : Nat) : Fld := ⟨(SAF_SIN_CFG i), 27, 3⟩
def SAF_SIN_CFG_FILT (i : Nat) : Fld := ⟨(SAF_SIN_CFG i), 16, 8⟩
def SAF_SIN_CFG_DISC (i : Nat) : Fld := ⟨(SAF_SIN_CFG i), 0, 10⟩

/-- SAF_SINp_GRP (R368). -/
def SAF_SIN_GRP (i : Nat) : Nat := 0x400A0060 + 4 * i
def SAF_SIN_GRP_GROUPS (i : Nat) : Fld := ⟨(SAF_SIN_GRP i), 0, 16⟩

/-- SAF_SOUTo_CFG (R368). -/
def SAF_SOUT_CFG (i : Nat) : Nat := 0x400A0080 + 4 * i
def SAF_SOUT_CFG_EN (i : Nat) : Fld := ⟨(SAF_SOUT_CFG i), 31, 1⟩
def SAF_SOUT_CFG_SBC (i : Nat) : Fld := ⟨(SAF_SOUT_CFG i), 30, 1⟩
def SAF_SOUT_CFG_SBCDLY (i : Nat) : Fld := ⟨(SAF_SOUT_CFG i), 20, 10⟩
def SAF_SOUT_CFG_TPP (i : Nat) : Fld := ⟨(SAF_SOUT_CFG i), 8, 8⟩
def SAF_SOUT_CFG_TPW (i : Nat) : Fld := ⟨(SAF_SOUT_CFG i), 0, 8⟩

/-- SAF_SOUTo_GRP (R368). -/
def SAF_SOUT_GRP (i : Nat) : Nat := 0x400A0090 + 4 * i
def SAF_SOUT_GRP_GROUPS (i : Nat) : Fld := ⟨(SAF_SOUT_GRP i), 0, 16⟩

/-- SAF_SOUT_SET (R368). -/
def SAF_SOUT_SET : Nat := 0x400A00A0
def SAF_SOUT_SET_ON : Fld := ⟨SAF_SOUT_SET, 0, 4⟩

/-- SAF_LIMk_CFG (R368). -/
def SAF_LIM_CFG (i : Nat) : Nat := 0x400A0100 + 16 * i
def SAF_LIM_CFG_EN (i : Nat) : Fld := ⟨(SAF_LIM_CFG i), 31, 1⟩
def SAF_LIM_CFG_FRZ (i : Nat) : Fld := ⟨(SAF_LIM_CFG i), 30, 1⟩
def SAF_LIM_CFG_ABS (i : Nat) : Fld := ⟨(SAF_LIM_CFG i), 29, 1⟩
def SAF_LIM_CFG_RB (i : Nat) : Fld := ⟨(SAF_LIM_CFG i), 28, 1⟩
def SAF_LIM_CFG_KIND (i : Nat) : Fld := ⟨(SAF_LIM_CFG i), 25, 3⟩
def SAF_LIM_CFG_N (i : Nat) : Fld := ⟨(SAF_LIM_CFG i), 20, 4⟩
def SAF_LIM_CFG_WORD (i : Nat) : Fld := ⟨(SAF_LIM_CFG i), 0, 10⟩

/-- SAF_LIMk_GRP (R368). -/
def SAF_LIM_GRP (i : Nat) : Nat := 0x400A0104 + 16 * i
def SAF_LIM_GRP_GROUPS (i : Nat) : Fld := ⟨(SAF_LIM_GRP i), 0, 16⟩

/-- SAF_LIMk_LO (R368). -/
def SAF_LIM_LO (i : Nat) : Nat := 0x400A0108 + 16 * i
def SAF_LIM_LO_VALUE (i : Nat) : Fld := ⟨(SAF_LIM_LO i), 0, 32⟩

/-- SAF_LIMk_HI (R368). -/
def SAF_LIM_HI (i : Nat) : Nat := 0x400A010C + 16 * i
def SAF_LIM_HI_VALUE (i : Nat) : Fld := ⟨(SAF_LIM_HI i), 0, 32⟩

/-- SAF_LIMST (R368). -/
def SAF_LIMST : Nat := 0x400A0200
def SAF_LIMST_TRIP : Fld := ⟨SAF_LIMST, 0, 16⟩

/-- SAF_GRPREQ (R368). -/
def SAF_GRPREQ : Nat := 0x400A0210
def SAF_GRPREQ_GO : Fld := ⟨SAF_GRPREQ, 31, 1⟩
def SAF_GRPREQ_OP : Fld := ⟨SAF_GRPREQ, 16, 3⟩
def SAF_GRPREQ_GROUPS : Fld := ⟨SAF_GRPREQ, 0, 16⟩

/-- SAF_RELEASE (R369). -/
def SAF_RELEASE : Nat := 0x400A0214
def SAF_RELEASE_GROUPS : Fld := ⟨SAF_RELEASE, 0, 16⟩

/-- SAF_SS1Tg (R369). -/
def SAF_SS1T (i : Nat) : Nat := 0x400A0240 + 4 * i
def SAF_SS1T_SS1T (i : Nat) : Fld := ⟨(SAF_SS1T i), 0, 16⟩

/-- SAF_DIS_CFG (R369). -/
def SAF_DIS_CFG : Nat := 0x400A0300
def SAF_DIS_CFG_EN : Fld := ⟨SAF_DIS_CFG, 31, 1⟩
def SAF_DIS_CFG_ONSTO : Fld := ⟨SAF_DIS_CFG, 30, 1⟩
def SAF_DIS_CFG_GROUP : Fld := ⟨SAF_DIS_CFG, 24, 4⟩
def SAF_DIS_CFG_NDONE : Fld := ⟨SAF_DIS_CFG, 20, 4⟩
def SAF_DIS_CFG_SARW : Fld := ⟨SAF_DIS_CFG, 10, 10⟩
def SAF_DIS_CFG_BSW : Fld := ⟨SAF_DIS_CFG, 0, 10⟩

/-- SAF_DIS_DUTY (R369). -/
def SAF_DIS_DUTY : Nat := 0x400A0304
def SAF_DIS_DUTY_VALUE : Fld := ⟨SAF_DIS_DUTY, 0, 32⟩

/-- SAF_DIS_C (R369). -/
def SAF_DIS_C : Nat := 0x400A0308
def SAF_DIS_C_VALUE : Fld := ⟨SAF_DIS_C, 0, 32⟩

/-- SAF_DIS_R (R369). -/
def SAF_DIS_R : Nat := 0x400A030C
def SAF_DIS_R_VALUE : Fld := ⟨SAF_DIS_R, 0, 32⟩

/-- SAF_DIS_VSAFE (R369). -/
def SAF_DIS_VSAFE : Nat := 0x400A0310
def SAF_DIS_VSAFE_VALUE : Fld := ⟨SAF_DIS_VSAFE, 0, 32⟩

/-- SAF_DIS_TMO (R369). -/
def SAF_DIS_TMO : Nat := 0x400A0314
def SAF_DIS_TMO_TMO : Fld := ⟨SAF_DIS_TMO, 0, 16⟩

/-- SAF_DIS_REQ (R369). -/
def SAF_DIS_REQ : Nat := 0x400A0318
def SAF_DIS_REQ_GO : Fld := ⟨SAF_DIS_REQ, 31, 1⟩
def SAF_DIS_REQ_OP : Fld := ⟨SAF_DIS_REQ, 0, 1⟩

/-- SAF_DIS_ST (R369). -/
def SAF_DIS_ST : Nat := 0x400A031C
def SAF_DIS_ST_STATE : Fld := ⟨SAF_DIS_ST, 30, 2⟩
def SAF_DIS_ST_IMPL : Fld := ⟨SAF_DIS_ST, 29, 1⟩

/-- SAF_DIS_Q (R369). -/
def SAF_DIS_Q : Nat := 0x400A0320
def SAF_DIS_Q_Q : Fld := ⟨SAF_DIS_Q, 0, 32⟩

/-- Register rows of SAF, part 1. -/
def rowsSaf0 : List RegRow := [
  ⟨0x400A0000, 0, 1, 0, 1, 0x4, 0, 0xFF, 0, 0, 0, 0, 0, 0xFF⟩,
  ⟨0x400A0004, 0, 1, 0, 1, 0x18, 0, 0, 0, 0, 0, 0, 0, 0x7FFFFF⟩,
  ⟨0x400A0008, 0, 1, 0, 1, 0, 0, 0, 0, 0x1, 0, 0, 0, 0x1⟩,
  ⟨0x400A000C, 0, 1, 0, 1, 0xFFFF0014, 0, 0xFFFF03FF, 0, 0, 0, 0, 0, 0xFFFF03FF⟩,
  ⟨0x400A0010, 0, 1, 0, 1, 0, 0, 0, 0x3FFF, 0, 0, 0, 0, 0x3FFF⟩,
  ⟨0x400A0040, 4, 8, 0, 1, 0x140014, 0, 0xF8FF03FF, 0, 0, 0, 0, 0, 0xF8FF03FF⟩,
  ⟨0x400A0060, 4, 8, 0, 1, 0, 0, 0xFFFF, 0, 0, 0, 0, 0, 0xFFFF⟩,
  ⟨0x400A0080, 4, 4, 0, 1, 0x6464, 0, 0xFFF0FFFF, 0, 0, 0, 0, 0, 0xFFF0FFFF⟩,
  ⟨0x400A0090, 4, 4, 0, 1, 0, 0, 0xFFFF, 0, 0, 0, 0, 0, 0xFFFF⟩,
  ⟨0x400A00A0, 0, 1, 0, 1, 0, 0, 0, 0, 0, 0, 0xFFFFFFFF, 0, 0xF⟩,
  ⟨0x400A0100, 16, 16, 0, 1, 0x2100000, 0, 0xFEF003FF, 0, 0, 0, 0, 0, 0xFEF003FF⟩,
  ⟨0x400A0104, 16, 16, 0, 1, 0, 0, 0xFFFF, 0, 0, 0, 0, 0, 0xFFFF⟩]

/-- Register rows of SAF, part 2. -/
def rowsSaf1 : List RegRow := [
  ⟨0x400A0108, 16, 16, 0, 1, 0xFF800000, 0, 0xFFFFFFFF, 0, 0, 0, 0, 0, 0xFFFFFFFF⟩,
  ⟨0x400A010C, 16, 16, 0, 1, 0x7F800000, 0, 0xFFFFFFFF, 0, 0, 0, 0, 0, 0xFFFFFFFF⟩,
  ⟨0x400A0200, 0, 1, 0, 1, 0, 0, 0, 0, 0, 0, 0, 0, 0xFFFF⟩,
  ⟨0x400A0210, 0, 1, 0, 1, 0, 0, 0, 0, 0, 0, 0xFFFFFFFF, 0, 0x8007FFFF⟩,
  ⟨0x400A0214, 0, 1, 0, 1, 0, 0, 0, 0, 0, 0, 0xFFFFFFFF, 0, 0xFFFF⟩,
  ⟨0x400A0240, 4, 16, 0, 1, 0x3E8, 0, 0xFFFF, 0, 0, 0, 0, 0, 0xFFFF⟩,
  ⟨0x400A0300, 0, 1, 0, 1, 0x100000, 0, 0xCFFFFFFF, 0, 0, 0, 0, 0, 0xCFFFFFFF⟩,
  ⟨0x400A0304, 0, 1, 0, 1, 0, 0, 0xFFFFFFFF, 0, 0, 0, 0, 0, 0xFFFFFFFF⟩,
  ⟨0x400A0308, 0, 1, 0, 1, 0, 0, 0xFFFFFFFF, 0, 0, 0, 0, 0, 0xFFFFFFFF⟩,
  ⟨0x400A030C, 0, 1, 0, 1, 0, 0, 0xFFFFFFFF, 0, 0, 0, 0, 0, 0xFFFFFFFF⟩,
  ⟨0x400A0310, 0, 1, 0, 1, 0, 0, 0xFFFFFFFF, 0, 0, 0, 0, 0, 0xFFFFFFFF⟩,
  ⟨0x400A0314, 0, 1, 0, 1, 0x3E8, 0, 0xFFFF, 0, 0, 0, 0, 0, 0xFFFF⟩]

/-- Register rows of SAF, part 3. -/
def rowsSaf2 : List RegRow := [
  ⟨0x400A0318, 0, 1, 0, 1, 0, 0, 0, 0, 0, 0, 0xFFFFFFFF, 0, 0x80000001⟩,
  ⟨0x400A031C, 0, 1, 0, 1, 0, 0, 0, 0, 0, 0, 0, 0, 0xE0000000⟩,
  ⟨0x400A0320, 0, 1, 0, 1, 0, 0, 0, 0, 0, 0, 0, 0, 0xFFFFFFFF⟩]

/-- Register rows of SAF. -/
def rowsSaf : List RegRow := rowsSaf0 ++ rowsSaf1 ++ rowsSaf2

/-! ### SPN -/

/-- SPN_CTRL (R403). -/
def SPN_CTRL : Nat := 0x400B0000
def SPN_CTRL_EN : Fld := ⟨SPN_CTRL, 31, 1⟩
def SPN_CTRL_BRMODE : Fld := ⟨SPN_CTRL, 26, 2⟩
def SPN_CTRL_PEN : Fld := ⟨SPN_CTRL, 20, 4⟩
def SPN_CTRL_ADDR : Fld := ⟨SPN_CTRL, 8, 6⟩

/-- SPN_RINGID (R403). -/
def SPN_RINGID : Nat := 0x400B0004
def SPN_RINGID_VALUE : Fld := ⟨SPN_RINGID, 0, 32⟩

/-- SPN_CFGD (R403). -/
def SPN_CFGD : Nat := 0x400B0008
def SPN_CFGD_VALUE : Fld := ⟨SPN_CFGD, 0, 32⟩

/-- SPN_VERD (R403). -/
def SPN_VERD : Nat := 0x400B000C
def SPN_VERD_VALUE : Fld := ⟨SPN_VERD, 0, 32⟩

/-- SPN_GATH (R403). -/
def SPN_GATH : Nat := 0x400B0010
def SPN_GATH_VALUE : Fld := ⟨SPN_GATH, 0, 32⟩

/-- SPN_TIM (R403). -/
def SPN_TIM : Nat := 0x400B0014
def SPN_TIM_PSTART : Fld := ⟨SPN_TIM, 16, 16⟩
def SPN_TIM_TLEAD : Fld := ⟨SPN_TIM, 0, 16⟩

/-- SPN_BUD (R403). -/
def SPN_BUD : Nat := 0x400B0018
def SPN_BUD_ABUD : Fld := ⟨SPN_BUD, 16, 16⟩
def SPN_BUD_PSLOT : Fld := ⟨SPN_BUD, 0, 7⟩

/-- SPN_CTT (R403). -/
def SPN_CTT : Nat := 0x400B001C
def SPN_CTT_CTT : Fld := ⟨SPN_CTT, 0, 11⟩

/-- SPN_STAT (R403). -/
def SPN_STAT : Nat := 0x400B0020
def SPN_STAT_ROLE : Fld := ⟨SPN_STAT, 30, 2⟩
def SPN_STAT_HOLDOVER : Fld := ⟨SPN_STAT, 29, 1⟩
def SPN_STAT_LOCK : Fld := ⟨SPN_STAT, 28, 1⟩
def SPN_STAT_DISC : Fld := ⟨SPN_STAT, 24, 4⟩
def SPN_STAT_LEAD : Fld := ⟨SPN_STAT, 16, 6⟩
def SPN_STAT_EPOCH : Fld := ⟨SPN_STAT, 0, 16⟩

/-- SPN_MEMB_L (R403). -/
def SPN_MEMB_L : Nat := 0x400B0024
def SPN_MEMB_L_MAP : Fld := ⟨SPN_MEMB_L, 0, 32⟩

/-- SPN_MEMB_H (R403). -/
def SPN_MEMB_H : Nat := 0x400B0028
def SPN_MEMB_H_MAP : Fld := ⟨SPN_MEMB_H, 0, 32⟩

/-- SPN_PVALID_L (R403). -/
def SPN_PVALID_L : Nat := 0x400B0050
def SPN_PVALID_L_MAP : Fld := ⟨SPN_PVALID_L, 0, 32⟩

/-- SPN_PVALID_H (R403). -/
def SPN_PVALID_H : Nat := 0x400B0054
def SPN_PVALID_H_MAP : Fld := ⟨SPN_PVALID_H, 0, 32⟩

/-- SPN_PHERR (R403). -/
def SPN_PHERR : Nat := 0x400B002C
def SPN_PHERR_ERR : Fld := ⟨SPN_PHERR, 0, 16⟩

/-- SPN_SERIAL_L (R403). -/
def SPN_SERIAL_L : Nat := 0x400B0030
def SPN_SERIAL_L_SERIAL : Fld := ⟨SPN_SERIAL_L, 0, 32⟩

/-- SPN_SERIAL_H (R403). -/
def SPN_SERIAL_H : Nat := 0x400B0034
def SPN_SERIAL_H_SERIAL : Fld := ⟨SPN_SERIAL_H, 0, 32⟩

/-- SPN_LINK (R403). -/
def SPN_LINK : Nat := 0x400B0038
def SPN_LINK_PORT : Fld := ⟨SPN_LINK, 0, 16⟩

/-- SPN_CMD (R403). -/
def SPN_CMD : Nat := 0x400B0040
def SPN_CMD_GO : Fld := ⟨SPN_CMD, 31, 1⟩
def SPN_CMD_OP : Fld := ⟨SPN_CMD, 0, 2⟩

/-- SPN_JOINST (R403). -/
def SPN_JOINST : Nat := 0x400B0044
def SPN_JOINST_CODE : Fld := ⟨SPN_JOINST, 0, 3⟩

/-- SPN_CNT (R403). -/
def SPN_CNT : Nat := 0x400B0048
def SPN_CNT_SEQGAP : Fld := ⟨SPN_CNT, 24, 8⟩
def SPN_CNT_RXDROP : Fld := ⟨SPN_CNT, 16, 8⟩
def SPN_CNT_MGDROP : Fld := ⟨SPN_CNT, 8, 8⟩
def SPN_CNT_HDRERR : Fld := ⟨SPN_CNT, 0, 8⟩

/-- SPN_CNT2 (R403). -/
def SPN_CNT2 : Nat := 0x400B004C
def SPN_CNT2_EVDROP : Fld := ⟨SPN_CNT2, 8, 8⟩
def SPN_CNT2_PLATE : Fld := ⟨SPN_CNT2, 0, 8⟩

/-- SPN_TXQq_WP (R403). -/
def SPN_TXQ_WP (i : Nat) : Nat := 0x400B0100 + 32 * i
def SPN_TXQ_WP_PTR (i : Nat) : Fld := ⟨(SPN_TXQ_WP i), 0, 13⟩

/-- SPN_RXQq_RP (R403). -/
def SPN_RXQ_RP (i : Nat) : Nat := 0x400B0110 + 32 * i
def SPN_RXQ_RP_PTR (i : Nat) : Fld := ⟨(SPN_RXQ_RP i), 0, 13⟩

/-- SPN_TXQq_ST (R403). -/
def SPN_TXQ_ST (i : Nat) : Nat := 0x400B0104 + 32 * i
def SPN_TXQ_ST_COUNT (i : Nat) : Fld := ⟨(SPN_TXQ_ST i), 0, 17⟩

/-- SPN_RXQq_CNT (R403). -/
def SPN_RXQ_CNT (i : Nat) : Nat := 0x400B0114 + 32 * i
def SPN_RXQ_CNT_COUNT (i : Nat) : Fld := ⟨(SPN_RXQ_CNT i), 0, 17⟩

/-- SPN_TXQq_CFG (R403). -/
def SPN_TXQ_CFG (i : Nat) : Nat := 0x400B0108 + 32 * i
def SPN_TXQ_CFG_CAP (i : Nat) : Fld := ⟨(SPN_TXQ_CFG i), 0, 1⟩

/-- SPN_RXQq_CFG (R403). -/
def SPN_RXQ_CFG (i : Nat) : Nat := 0x400B0118 + 32 * i
def SPN_RXQ_CFG_SHARE (i : Nat) : Fld := ⟨(SPN_RXQ_CFG i), 0, 10⟩

/-- SPN_REVLOGk (R403). -/
def SPN_REVLOG (i : Nat) : Nat := 0x400B0200 + 4 * i
def SPN_REVLOG_VALID (i : Nat) : Fld := ⟨(SPN_REVLOG i), 31, 1⟩
def SPN_REVLOG_SRC (i : Nat) : Fld := ⟨(SPN_REVLOG i), 16, 6⟩
def SPN_REVLOG_EVENT (i : Nat) : Fld := ⟨(SPN_REVLOG i), 0, 10⟩

/-- SPN_PCLSk (R403). -/
def SPN_PCLS (i : Nat) : Nat := 0x400B0300 + 4 * i
def SPN_PCLS_CLASS (i : Nat) : Fld := ⟨(SPN_PCLS i), 0, 3⟩

/-- SPN_PLOCK (R403). -/
def SPN_PLOCK : Nat := 0x400B0340
def SPN_PLOCK_LOCK : Fld := ⟨SPN_PLOCK, 0, 1⟩

/-- Register rows of SPN, part 1. -/
def rowsSpn0 : List RegRow := [
  ⟨0x400B0000, 0, 1, 0, 1, 0, 0, 0x8CF03F00, 0, 0, 0, 0, 0, 0x8CF03F00⟩,
  ⟨0x400B0004, 0, 1, 0, 1, 0, 0, 0xFFFFFFFF, 0, 0, 0, 0, 0, 0xFFFFFFFF⟩,
  ⟨0x400B0008, 0, 1, 0, 1, 0, 0, 0xFFFFFFFF, 0, 0, 0, 0, 0, 0xFFFFFFFF⟩,
  ⟨0x400B000C, 0, 1, 0, 1, 0, 0, 0, 0, 0, 0, 0, 0, 0xFFFFFFFF⟩,
  ⟨0x400B0010, 0, 1, 0, 1, 0, 0, 0, 0, 0, 0, 0, 0, 0xFFFFFFFF⟩,
  ⟨0x400B0014, 0, 1, 0, 1, 0x1900320, 0, 0xFFFFFFFF, 0, 0, 0, 0, 0, 0xFFFFFFFF⟩,
  ⟨0x400B0018, 0, 1, 0, 1, 0, 0, 0xFFFF007F, 0, 0, 0, 0, 0, 0xFFFF007F⟩,
  ⟨0x400B001C, 0, 1, 0, 1, 0x40, 0, 0x7FF, 0, 0, 0, 0, 0, 0x7FF⟩,
  ⟨0x400B0020, 0, 1, 0, 1, 0, 0, 0, 0, 0, 0, 0, 0, 0xFF3FFFFF⟩,
  ⟨0x400B0024, 0, 1, 0, 1, 0, 0, 0, 0, 0, 0, 0, 0, 0xFFFFFFFF⟩,
  ⟨0x400B0028, 0, 1, 0, 1, 0, 0, 0, 0, 0, 0, 0, 0, 0xFFFFFFFF⟩,
  ⟨0x400B0050, 0, 1, 0, 1, 0, 0, 0, 0, 0, 0, 0, 0, 0xFFFFFFFF⟩]

/-- Register rows of SPN, part 2. -/
def rowsSpn1 : List RegRow := [
  ⟨0x400B0054, 0, 1, 0, 1, 0, 0, 0, 0, 0, 0, 0, 0, 0xFFFFFFFF⟩,
  ⟨0x400B002C, 0, 1, 0, 1, 0, 0, 0, 0, 0, 0, 0, 0, 0xFFFF⟩,
  ⟨0x400B0030, 0, 1, 0, 1, 0, 0, 0, 0, 0, 0, 0, 0, 0xFFFFFFFF⟩,
  ⟨0x400B0034, 0, 1, 0, 1, 0, 0, 0, 0, 0, 0, 0, 0, 0xFFFFFFFF⟩,
  ⟨0x400B0038, 0, 1, 0, 1, 0, 0, 0, 0, 0, 0, 0, 0, 0xFFFF⟩,
  ⟨0x400B0040, 0, 1, 0, 1, 0, 0, 0, 0, 0, 0, 0xFFFFFFFF, 0, 0x80000003⟩,
  ⟨0x400B0044, 0, 1, 0, 1, 0, 0, 0, 0, 0, 0, 0, 0, 0x7⟩,
  ⟨0x400B0048, 0, 1, 0, 1, 0, 0xFFFFFFFF, 0, 0, 0, 0, 0, 0, 0xFFFFFFFF⟩,
  ⟨0x400B004C, 0, 1, 0, 1, 0, 0xFFFF, 0, 0, 0, 0, 0, 0, 0xFFFF⟩,
  ⟨0x400B0100, 32, 4, 0, 1, 0, 0, 0, 0, 0, 0, 0xFFFFFFFF, 0, 0x1FFF⟩,
  ⟨0x400B0110, 32, 4, 0, 1, 0, 0, 0, 0, 0, 0, 0xFFFFFFFF, 0, 0x1FFF⟩,
  ⟨0x400B0104, 32, 4, 0, 1, 0, 0, 0, 0, 0, 0, 0, 0, 0x1FFFF⟩]

/-- Register rows of SPN, part 3. -/
def rowsSpn2 : List RegRow := [
  ⟨0x400B0114, 32, 4, 0, 1, 0, 0, 0, 0, 0, 0, 0, 0, 0x1FFFF⟩,
  ⟨0x400B0108, 32, 4, 0, 1, 0, 0, 0x1, 0, 0, 0, 0, 0, 0x1⟩,
  ⟨0x400B0118, 32, 4, 0, 1, 0, 0, 0x3FF, 0, 0, 0, 0, 0, 0x3FF⟩,
  ⟨0x400B0200, 4, 32, 0, 1, 0, 0, 0, 0, 0, 0, 0, 0, 0x803F03FF⟩,
  ⟨0x400B0300, 4, 15, 0, 1, 0, 0, 0, 0, 0, 0, 0, 0x7, 0x7⟩,
  ⟨0x400B0340, 0, 1, 0, 1, 0, 0, 0, 0, 0x1, 0, 0, 0, 0x1⟩]

/-- Register rows of SPN. -/
def rowsSpn : List RegRow := rowsSpn0 ++ rowsSpn1 ++ rowsSpn2

/-! ### CAN -/

/-- CAN_n_CFG (R420). -/
def CAN_CFG (i : Nat) : Nat := 0x400C0000 + 2048 * i
def CAN_CFG_EN (i : Nat) : Fld := ⟨(CAN_CFG i), 31, 1⟩
def CAN_CFG_MODE (i : Nat) : Fld := ⟨(CAN_CFG i), 29, 2⟩
def CAN_CFG_FDEN (i : Nat) : Fld := ⟨(CAN_CFG i), 28, 1⟩
def CAN_CFG_NART (i : Nat) : Fld := ⟨(CAN_CFG i), 27, 1⟩
def CAN_CFG_TDCEN (i : Nat) : Fld := ⟨(CAN_CFG i), 26, 1⟩
def CAN_CFG_TDCO (i : Nat) : Fld := ⟨(CAN_CFG i), 16, 7⟩

/-- CAN_n_NBT (R420). -/
def CAN_NBT (i : Nat) : Nat := 0x400C0004 + 2048 * i
def CAN_NBT_BRP (i : Nat) : Fld := ⟨(CAN_NBT i), 24, 8⟩
def CAN_NBT_TSEG1 (i : Nat) : Fld := ⟨(CAN_NBT i), 16, 8⟩
def CAN_NBT_TSEG2 (i : Nat) : Fld := ⟨(CAN_NBT i), 8, 7⟩
def CAN_NBT_SJW (i : Nat) : Fld := ⟨(CAN_NBT i), 0, 7⟩

/-- CAN_n_DBT (R420). -/
def CAN_DBT (i : Nat) : Nat := 0x400C0008 + 2048 * i
def CAN_DBT_BRP (i : Nat) : Fld := ⟨(CAN_DBT i), 24, 8⟩
def CAN_DBT_TSEG1 (i : Nat) : Fld := ⟨(CAN_DBT i), 16, 8⟩
def CAN_DBT_TSEG2 (i : Nat) : Fld := ⟨(CAN_DBT i), 8, 7⟩
def CAN_DBT_SJW (i : Nat) : Fld := ⟨(CAN_DBT i), 0, 7⟩

/-- CAN_n_CANDk_NBT (R420). -/
def CAN_CAND_NBT (i j : Nat) : Nat := 0x400C0080 + 2048 * i + 8 * j
def CAN_CAND_NBT_BRP (i j : Nat) : Fld := ⟨(CAN_CAND_NBT i j), 24, 8⟩
def CAN_CAND_NBT_TSEG1 (i j : Nat) : Fld := ⟨(CAN_CAND_NBT i j), 16, 8⟩
def CAN_CAND_NBT_TSEG2 (i j : Nat) : Fld := ⟨(CAN_CAND_NBT i j), 8, 7⟩
def CAN_CAND_NBT_SJW (i j : Nat) : Fld := ⟨(CAN_CAND_NBT i j), 0, 7⟩

/-- CAN_n_CANDk_DBT (R420). -/
def CAN_CAND_DBT (i j : Nat) : Nat := 0x400C0084 + 2048 * i + 8 * j
def CAN_CAND_DBT_BRP (i j : Nat) : Fld := ⟨(CAN_CAND_DBT i j), 24, 8⟩
def CAN_CAND_DBT_TSEG1 (i j : Nat) : Fld := ⟨(CAN_CAND_DBT i j), 16, 8⟩
def CAN_CAND_DBT_TSEG2 (i j : Nat) : Fld := ⟨(CAN_CAND_DBT i j), 8, 7⟩
def CAN_CAND_DBT_SJW (i j : Nat) : Fld := ⟨(CAN_CAND_DBT i j), 0, 7⟩

/-- CAN_n_CTRL (R420). -/
def CAN_CTRL (i : Nat) : Nat := 0x400C000C + 2048 * i
def CAN_CTRL_FLUSH (i : Nat) : Fld := ⟨(CAN_CTRL i), 1, 3⟩
def CAN_CTRL_BOREC (i : Nat) : Fld := ⟨(CAN_CTRL i), 0, 1⟩

/-- CAN_n_STAT (R420). -/
def CAN_STAT (i : Nat) : Nat := 0x400C0010 + 2048 * i
def CAN_STAT_STATE (i : Nat) : Fld := ⟨(CAN_STAT i), 30, 2⟩
def CAN_STAT_DET (i : Nat) : Fld := ⟨(CAN_STAT i), 29, 1⟩
def CAN_STAT_LEC (i : Nat) : Fld := ⟨(CAN_STAT i), 24, 3⟩
def CAN_STAT_REC (i : Nat) : Fld := ⟨(CAN_STAT i), 8, 8⟩
def CAN_STAT_TEC (i : Nat) : Fld := ⟨(CAN_STAT i), 0, 8⟩

/-- CAN_n_TXFf_WP (R420). -/
def CAN_TXF_WP (i j : Nat) : Nat := 0x400C0020 + 2048 * i + 4 * j
def CAN_TXF_WP_PTR (i j : Nat) : Fld := ⟨(CAN_TXF_WP i j), 0, 5⟩

/-- CAN_n_TXFf_ST (R420). -/
def CAN_TXF_ST (i j : Nat) : Nat := 0x400C0030 + 2048 * i + 4 * j
def CAN_TXF_ST_COUNT (i j : Nat) : Fld := ⟨(CAN_TXF_ST i j), 8, 5⟩
def CAN_TXF_ST_PTR (i j : Nat) : Fld := ⟨(CAN_TXF_ST i j), 0, 5⟩

/-- CAN_n_RXRP (R420). -/
def CAN_RXRP (i : Nat) : Nat := 0x400C0040 + 2048 * i
def CAN_RXRP_PTR (i : Nat) : Fld := ⟨(CAN_RXRP i), 0, 7⟩

/-- CAN_n_RXST (R420). -/
def CAN_RXST (i : Nat) : Nat := 0x400C0044 + 2048 * i
def CAN_RXST_COUNT (i : Nat) : Fld := ⟨(CAN_RXST i), 8, 7⟩
def CAN_RXST_PTR (i : Nat) : Fld := ⟨(CAN_RXST i), 0, 7⟩

/-- CAN_n_CNT (R420). -/
def CAN_CNT (i : Nat) : Nat := 0x400C0048 + 2048 * i
def CAN_CNT_RXDROP (i : Nat) : Fld := ⟨(CAN_CNT i), 24, 8⟩
def CAN_CNT_CMDDROP (i : Nat) : Fld := ⟨(CAN_CNT i), 16, 8⟩
def CAN_CNT_TXFAIL (i : Nat) : Fld := ⟨(CAN_CNT i), 8, 8⟩
def CAN_CNT_BOFF (i : Nat) : Fld := ⟨(CAN_CNT i), 0, 8⟩

/-- CAN_n_DETREQ (R420). -/
def CAN_DETREQ (i : Nat) : Nat := 0x400C0050 + 2048 * i
def CAN_DETREQ_GO (i : Nat) : Fld := ⟨(CAN_DETREQ i), 31, 1⟩
def CAN_DETREQ_ONCE (i : Nat) : Fld := ⟨(CAN_DETREQ i), 30, 1⟩
def CAN_DETREQ_NC (i : Nat) : Fld := ⟨(CAN_DETREQ i), 24, 3⟩
def CAN_DETREQ_NOK (i : Nat) : Fld := ⟨(CAN_DETREQ i), 16, 4⟩
def CAN_DETREQ_WIN (i : Nat) : Fld := ⟨(CAN_DETREQ i), 0, 8⟩

/-- CAN_n_DETST (R420). -/
def CAN_DETST (i : Nat) : Nat := 0x400C0054 + 2048 * i
def CAN_DETST_STATE (i : Nat) : Fld := ⟨(CAN_DETST i), 30, 2⟩
def CAN_DETST_IDX (i : Nat) : Fld := ⟨(CAN_DETST i), 0, 3⟩

/-- CAN_n_FLTk_ID (R420). -/
def CAN_FLT_ID (i j : Nat) : Nat := 0x400C0400 + 2048 * i + 8 * j
def CAN_FLT_ID_EN (i j : Nat) : Fld := ⟨(CAN_FLT_ID i j), 31, 1⟩
def CAN_FLT_ID_ACT (i j : Nat) : Fld := ⟨(CAN_FLT_ID i j), 29, 2⟩
def CAN_FLT_ID_ID (i j : Nat) : Fld := ⟨(CAN_FLT_ID i j), 0, 29⟩

/-- CAN_n_FLTk_MASK (R420). -/
def CAN_FLT_MASK (i j : Nat) : Nat := 0x400C0404 + 2048 * i + 8 * j
def CAN_FLT_MASK_IDE (i j : Nat) : Fld := ⟨(CAN_FLT_MASK i j), 31, 1⟩
def CAN_FLT_MASK_MASK (i j : Nat) : Fld := ⟨(CAN_FLT_MASK i j), 0, 29⟩

/-- Register rows of CAN, part 1. -/
def rowsCan0 : List RegRow := [
  ⟨0x400C0000, 2048, 6, 0, 1, 0, 0, 0xFC7F0000, 0, 0, 0, 0, 0, 0xFC7F0000⟩,
  ⟨0x400C0004, 2048, 6, 0, 1, 0x23F1010, 0, 0xFFFF7F7F, 0, 0, 0, 0, 0, 0xFFFF7F7F⟩,
  ⟨0x400C0008, 2048, 6, 0, 1, 0x11F0808, 0, 0xFFFF7F7F, 0, 0, 0, 0, 0, 0xFFFF7F7F⟩,
  ⟨0x400C0080, 2048, 6, 8, 8, 0, 0, 0xFFFF7F7F, 0, 0, 0, 0, 0, 0xFFFF7F7F⟩,
  ⟨0x400C0084, 2048, 6, 8, 8, 0, 0, 0xFFFF7F7F, 0, 0, 0, 0, 0, 0xFFFF7F7F⟩,
  ⟨0x400C000C, 2048, 6, 0, 1, 0, 0, 0, 0, 0, 0, 0xFFFFFFFF, 0, 0xF⟩,
  ⟨0x400C0010, 2048, 6, 0, 1, 0, 0, 0, 0, 0, 0, 0, 0, 0xE700FFFF⟩,
  ⟨0x400C0020, 2048, 6, 4, 3, 0, 0, 0, 0, 0, 0, 0xFFFFFFFF, 0, 0x1F⟩,
  ⟨0x400C0030, 2048, 6, 4, 3, 0, 0, 0, 0, 0, 0, 0, 0, 0x1F1F⟩,
  ⟨0x400C0040, 2048, 6, 0, 1, 0, 0, 0, 0, 0, 0, 0xFFFFFFFF, 0, 0x7F⟩,
  ⟨0x400C0044, 2048, 6, 0, 1, 0, 0, 0, 0, 0, 0, 0, 0, 0x7F7F⟩,
  ⟨0x400C0048, 2048, 6, 0, 1, 0, 0xFFFFFFFF, 0, 0, 0, 0, 0, 0, 0xFFFFFFFF⟩]

/-- Register rows of CAN, part 2. -/
def rowsCan1 : List RegRow := [
  ⟨0x400C0050, 2048, 6, 0, 1, 0, 0, 0, 0, 0, 0, 0xFFFFFFFF, 0, 0xC70F00FF⟩,
  ⟨0x400C0054, 2048, 6, 0, 1, 0, 0, 0, 0, 0, 0, 0, 0, 0xC0000007⟩,
  ⟨0x400C0400, 2048, 6, 8, 128, 0, 0, 0xFFFFFFFF, 0, 0, 0, 0, 0, 0xFFFFFFFF⟩,
  ⟨0x400C0404, 2048, 6, 8, 128, 0, 0, 0x9FFFFFFF, 0, 0, 0, 0, 0, 0x9FFFFFFF⟩]

/-- Register rows of CAN. -/
def rowsCan : List RegRow := rowsCan0 ++ rowsCan1

/-! ### QSP -/

/-- QSP_p_CFG (R433). -/
def QSP_CFG (i : Nat) : Nat := 0x400D0000 + 256 * i
def QSP_CFG_EN (i : Nat) : Fld := ⟨(QSP_CFG i), 31, 1⟩
def QSP_CFG_MM (i : Nat) : Fld := ⟨(QSP_CFG i), 30, 1⟩
def QSP_CFG_TGT (i : Nat) : Fld := ⟨(QSP_CFG i), 29, 1⟩
def QSP_CFG_RCKEN (i : Nat) : Fld := ⟨(QSP_CFG i), 28, 1⟩
def QSP_CFG_CPOL (i : Nat) : Fld := ⟨(QSP_CFG i), 27, 1⟩
def QSP_CFG_CPHA (i : Nat) : Fld := ⟨(QSP_CFG i), 26, 1⟩
def QSP_CFG_WLEN (i : Nat) : Fld := ⟨(QSP_CFG i), 24, 2⟩
def QSP_CFG_OWN (i : Nat) : Fld := ⟨(QSP_CFG i), 21, 3⟩
def QSP_CFG_TGAP (i : Nat) : Fld := ⟨(QSP_CFG i), 8, 8⟩
def QSP_CFG_DIV (i : Nat) : Fld := ⟨(QSP_CFG i), 0, 8⟩

/-- QSP_p_TMAX (R433). -/
def QSP_TMAX (i : Nat) : Nat := 0x400D0004 + 256 * i
def QSP_TMAX_MAXW (i : Nat) : Fld := ⟨(QSP_TMAX i), 0, 16⟩

/-- QSP_p_DBWP (R433). -/
def QSP_DBWP (i : Nat) : Nat := 0x400D0008 + 256 * i
def QSP_DBWP_RESUME (i : Nat) : Fld := ⟨(QSP_DBWP i), 31, 1⟩
def QSP_DBWP_PTR (i : Nat) : Fld := ⟨(QSP_DBWP i), 0, 7⟩

/-- QSP_p_ST (R433). -/
def QSP_ST (i : Nat) : Nat := 0x400D000C + 256 * i
def QSP_ST_STATE (i : Nat) : Fld := ⟨(QSP_ST i), 29, 3⟩
def QSP_ST_PTR (i : Nat) : Fld := ⟨(QSP_ST i), 0, 7⟩

/-- QSP_p_TST (R433). -/
def QSP_TST (i : Nat) : Nat := 0x400D0010 + 256 * i
def QSP_TST_PTR (i : Nat) : Fld := ⟨(QSP_TST i), 0, 11⟩

/-- QSP_p_TRP (R433). -/
def QSP_TRP (i : Nat) : Nat := 0x400D0014 + 256 * i
def QSP_TRP_PTR (i : Nat) : Fld := ⟨(QSP_TRP i), 0, 11⟩

/-- QSP_p_CNT (R433). -/
def QSP_CNT (i : Nat) : Nat := 0x400D0018 + 256 * i
def QSP_CNT_MMF (i : Nat) : Fld := ⟨(QSP_CNT i), 24, 8⟩
def QSP_CNT_PARTIAL (i : Nat) : Fld := ⟨(QSP_CNT i), 16, 8⟩
def QSP_CNT_OVR (i : Nat) : Fld := ⟨(QSP_CNT i), 8, 8⟩
def QSP_CNT_RCKERR (i : Nat) : Fld := ⟨(QSP_CNT i), 0, 8⟩

/-- QSP_p_XIP (R433). -/
def QSP_XIP : Nat := 0x400D0040
def QSP_XIP_XEN : Fld := ⟨QSP_XIP, 31, 1⟩
def QSP_XIP_XSEL : Fld := ⟨QSP_XIP, 28, 3⟩
def QSP_XIP_ALEN : Fld := ⟨QSP_XIP, 27, 1⟩
def QSP_XIP_CLANES : Fld := ⟨QSP_XIP, 24, 2⟩
def QSP_XIP_ALANES : Fld := ⟨QSP_XIP, 22, 2⟩
def QSP_XIP_DLANES : Fld := ⟨QSP_XIP, 20, 2⟩
def QSP_XIP_DUMMY : Fld := ⟨QSP_XIP, 8, 5⟩
def QSP_XIP_CMD : Fld := ⟨QSP_XIP, 0, 8⟩

/-- Register rows of QSP. -/
def rowsQsp : List RegRow := [
  ⟨0x400D0000, 256, 4, 0, 1, 0x14, 0, 0xFFE0FFFF, 0, 0, 0, 0, 0, 0xFFE0FFFF⟩,
  ⟨0x400D0004, 256, 4, 0, 1, 0x10, 0, 0xFFFF, 0, 0, 0, 0, 0, 0xFFFF⟩,
  ⟨0x400D0008, 256, 4, 0, 1, 0, 0, 0, 0, 0, 0, 0xFFFFFFFF, 0, 0x8000007F⟩,
  ⟨0x400D000C, 256, 4, 0, 1, 0, 0, 0, 0, 0, 0, 0, 0, 0xE000007F⟩,
  ⟨0x400D0010, 256, 4, 0, 1, 0, 0, 0, 0, 0, 0, 0, 0, 0x7FF⟩,
  ⟨0x400D0014, 256, 4, 0, 1, 0, 0, 0, 0, 0, 0, 0xFFFFFFFF, 0, 0x7FF⟩,
  ⟨0x400D0018, 256, 4, 0, 1, 0, 0xFFFFFFFF, 0, 0, 0, 0, 0, 0, 0xFFFFFFFF⟩,
  ⟨0x400D0040, 0, 1, 0, 1, 0xB, 0, 0xFBF01FFF, 0, 0, 0, 0, 0, 0xFBF01FFF⟩]

/-! ### TRU -/

/-- TRU_LC (R470). -/
def TRU_LC : Nat := 0x400E0000
def TRU_LC_TOKDBG : Fld := ⟨TRU_LC, 7, 1⟩
def TRU_LC_STATE : Fld := ⟨TRU_LC, 0, 3⟩

/-- TRU_BOOTST (R470). -/
def TRU_BOOTST : Nat := 0x400E0004
def TRU_BOOTST_INUSE : Fld := ⟨TRU_BOOTST, 9, 1⟩
def TRU_BOOTST_RESUMED : Fld := ⟨TRU_BOOTST, 8, 1⟩
def TRU_BOOTST_KVALID : Fld := ⟨TRU_BOOTST, 4, 2⟩
def TRU_BOOTST_CAUSE : Fld := ⟨TRU_BOOTST, 0, 3⟩

/-- TRU_LCREQ (R470). -/
def TRU_LCREQ : Nat := 0x400E0008
def TRU_LCREQ_GO : Fld := ⟨TRU_LCREQ, 31, 1⟩
def TRU_LCREQ_TARGET : Fld := ⟨TRU_LCREQ, 0, 3⟩

/-- TRU_NONCE_L (R470). -/
def TRU_NONCE_L : Nat := 0x400E0010
def TRU_NONCE_L_NONCE : Fld := ⟨TRU_NONCE_L, 0, 32⟩

/-- TRU_NONCE_H (R470). -/
def TRU_NONCE_H : Nat := 0x400E0014
def TRU_NONCE_H_NONCE : Fld := ⟨TRU_NONCE_H, 0, 32⟩

/-- TRU_CMD (R470). -/
def TRU_CMD : Nat := 0x400E0020
def TRU_CMD_GO : Fld := ⟨TRU_CMD, 31, 1⟩
def TRU_CMD_OP : Fld := ⟨TRU_CMD, 16, 4⟩
def TRU_CMD_PART : Fld := ⟨TRU_CMD, 0, 4⟩

/-- TRU_CMDADDR (R470). -/
def TRU_CMDADDR : Nat := 0x400E0024
def TRU_CMDADDR_VALUE : Fld := ⟨TRU_CMDADDR, 0, 32⟩

/-- TRU_CMDLEN (R470). -/
def TRU_CMDLEN : Nat := 0x400E0028
def TRU_CMDLEN_VALUE : Fld := ⟨TRU_CMDLEN, 0, 32⟩

/-- TRU_CMDST (R471). -/
def TRU_CMDST : Nat := 0x400E002C
def TRU_CMDST_STATE : Fld := ⟨TRU_CMDST, 30, 2⟩
def TRU_CMDST_CODE : Fld := ⟨TRU_CMDST, 0, 5⟩

/-- TRU_KEYk_SEQ (R471). -/
def TRU_KEY_SEQ (i : Nat) : Nat := 0x400E0030 + 8 * i
def TRU_KEY_SEQ_SEQ (i : Nat) : Fld := ⟨(TRU_KEY_SEQ i), 0, 32⟩

/-- TRU_KEYk_ST (R471). -/
def TRU_KEY_ST (i : Nat) : Nat := 0x400E0034 + 8 * i
def TRU_KEY_ST_VALID (i : Nat) : Fld := ⟨(TRU_KEY_ST i), 31, 1⟩
def TRU_KEY_ST_ROOT (i : Nat) : Fld := ⟨(TRU_KEY_ST i), 0, 1⟩

/-- TRU_OTP (R471). -/
def TRU_OTP : Nat := 0x400E0040
def TRU_OTP_REV : Fld := ⟨TRU_OTP, 2, 2⟩
def TRU_OTP_PROG : Fld := ⟨TRU_OTP, 0, 2⟩

/-- TRU_REVOKE (R471). -/
def TRU_REVOKE : Nat := 0x400E0044
def TRU_REVOKE_REV : Fld := ⟨TRU_REVOKE, 0, 2⟩

/-- TRU_PARTk (R471). -/
def TRU_PART (i : Nat) : Nat := 0x400E0100 + 4 * i
def TRU_PART_LENK (i : Nat) : Fld := ⟨(TRU_PART i), 16, 16⟩
def TRU_PART_STATE (i : Nat) : Fld := ⟨(TRU_PART i), 0, 4⟩

/-- TRU_GATH (R471). -/
def TRU_GATH : Nat := 0x400E0140
def TRU_GATH_ID : Fld := ⟨TRU_GATH, 0, 32⟩

/-- TRU_GSTAT (R471). -/
def TRU_GSTAT : Nat := 0x400E0144
def TRU_GSTAT_OKCNT : Fld := ⟨TRU_GSTAT, 16, 8⟩
def TRU_GSTAT_SWCNT : Fld := ⟨TRU_GSTAT, 8, 8⟩
def TRU_GSTAT_STATE : Fld := ⟨TRU_GSTAT, 0, 3⟩

/-- TRU_PROBT (R471). -/
def TRU_PROBT : Nat := 0x400E0148
def TRU_PROBT_VALUE : Fld := ⟨TRU_PROBT, 0, 32⟩

/-- TRU_GTMO (R471). -/
def TRU_GTMO : Nat := 0x400E014C
def TRU_GTMO_VALUE : Fld := ⟨TRU_GTMO, 0, 32⟩

/-- Register rows of TRU, part 1. -/
def rowsTru0 : List RegRow := [
  ⟨0x400E0000, 0, 1, 0, 1, 3, 0, 0, 0, 0, 0, 0, 0, 0x87⟩,
  ⟨0x400E0004, 0, 1, 0, 1, 0, 0, 0, 0, 0, 0, 0, 0, 0x337⟩,
  ⟨0x400E0008, 0, 1, 0, 1, 0, 0, 0, 0, 0, 0, 0xFFFFFFFF, 0, 0x80000007⟩,
  ⟨0x400E0010, 0, 1, 0, 1, 0, 0, 0, 0, 0, 0, 0, 0, 0xFFFFFFFF⟩,
  ⟨0x400E0014, 0, 1, 0, 1, 0, 0, 0, 0, 0, 0, 0, 0, 0xFFFFFFFF⟩,
  ⟨0x400E0020, 0, 1, 0, 1, 0, 0, 0, 0, 0, 0, 0xFFFFFFFF, 0, 0x800F000F⟩,
  ⟨0x400E0024, 0, 1, 0, 1, 0x20000000, 0xFFFFFFFF, 0, 0, 0, 0, 0, 0, 0xFFFFFFFF⟩,
  ⟨0x400E0028, 0, 1, 0, 1, 0, 0xFFFFFFFF, 0, 0, 0, 0, 0, 0, 0xFFFFFFFF⟩,
  ⟨0x400E002C, 0, 1, 0, 1, 0, 0, 0, 0, 0, 0, 0, 0, 0xC000001F⟩,
  ⟨0x400E0030, 8, 2, 0, 1, 0, 0, 0, 0, 0, 0, 0, 0, 0xFFFFFFFF⟩,
  ⟨0x400E0034, 8, 2, 0, 1, 0, 0, 0, 0, 0, 0, 0, 0, 0x80000001⟩,
  ⟨0x400E0040, 0, 1, 0, 1, 1, 0, 0, 0, 0, 0, 0, 0, 0xF⟩]

/-- Register rows of TRU, part 2. -/
def rowsTru1 : List RegRow := [
  ⟨0x400E0044, 0, 1, 0, 1, 0, 0, 0, 0, 0, 0, 0xFFFFFFFF, 0, 0x3⟩,
  ⟨0x400E0100, 4, 10, 0, 1, 0, 0, 0, 0, 0, 0, 0, 0, 0xFFFF000F⟩,
  ⟨0x400E0140, 0, 1, 0, 1, 0, 0, 0, 0, 0, 0, 0, 0, 0xFFFFFFFF⟩,
  ⟨0x400E0144, 0, 1, 0, 1, 0, 0, 0, 0, 0, 0, 0, 0, 0xFFFF07⟩,
  ⟨0x400E0148, 0, 1, 0, 1, 0x9C40, 0xFFFFFFFF, 0, 0, 0, 0, 0, 0, 0xFFFFFFFF⟩,
  ⟨0x400E014C, 0, 1, 0, 1, 0xEA60, 0xFFFFFFFF, 0, 0, 0, 0, 0, 0, 0xFFFFFFFF⟩]

/-- Register rows of TRU. -/
def rowsTru : List RegRow := rowsTru0 ++ rowsTru1

/-! ### PWR -/

/-- PWR_CTRL (R493). -/
def PWR_CTRL : Nat := 0x400F0000
def PWR_CTRL_TSET : Fld := ⟨PWR_CTRL, 16, 16⟩
def PWR_CTRL_THLD : Fld := ⟨PWR_CTRL, 8, 8⟩
def PWR_CTRL_OKF : Fld := ⟨PWR_CTRL, 2, 6⟩
def PWR_CTRL_CLKOEN : Fld := ⟨PWR_CTRL, 1, 1⟩
def PWR_CTRL_HOEN : Fld := ⟨PWR_CTRL, 0, 1⟩

/-- PWR_STAT (R493). -/
def PWR_STAT : Nat := 0x400F0004
def PWR_STAT_GOOD20 : Fld := ⟨PWR_STAT, 5, 1⟩
def PWR_STAT_DWELL : Fld := ⟨PWR_STAT, 4, 1⟩
def PWR_STAT_HO : Fld := ⟨PWR_STAT, 3, 1⟩
def PWR_STAT_SRC : Fld := ⟨PWR_STAT, 2, 1⟩
def PWR_STAT_BKUP : Fld := ⟨PWR_STAT, 1, 1⟩
def PWR_STAT_MAIN : Fld := ⟨PWR_STAT, 0, 1⟩

/-- PWR_BANK (R493). -/
def PWR_BANK : Nat := 0x400F0008
def PWR_BANK_BOR : Fld := ⟨PWR_BANK, 16, 16⟩
def PWR_BANK_IOV : Fld := ⟨PWR_BANK, 0, 16⟩

/-- PWR_HOCNT (R493). -/
def PWR_HOCNT : Nat := 0x400F000C
def PWR_HOCNT_SKIP : Fld := ⟨PWR_HOCNT, 16, 16⟩
def PWR_HOCNT_DONE : Fld := ⟨PWR_HOCNT, 0, 16⟩

/-- PWR_THERM (R493). -/
def PWR_THERM : Nat := 0x400F0010
def PWR_THERM_LO : Fld := ⟨PWR_THERM, 16, 8⟩
def PWR_THERM_HI : Fld := ⟨PWR_THERM, 0, 8⟩

/-- PWR_RSTC (R493). -/
def PWR_RSTC : Nat := 0x400F0014
def PWR_RSTC_CAUSE : Fld := ⟨PWR_RSTC, 0, 3⟩

/-- PWR_OUT (R493). -/
def PWR_OUT : Nat := 0x400F0018
def PWR_OUT_FLTN : Fld := ⟨PWR_OUT, 0, 1⟩

/-- Register rows of PWR. -/
def rowsPwr : List RegRow := [
  ⟨0x400F0000, 0, 1, 0, 1, 0x320541, 0, 0xFFFFFFFF, 0, 0, 0, 0, 0, 0xFFFFFFFF⟩,
  ⟨0x400F0004, 0, 1, 0, 1, 0, 0, 0, 0, 0, 0, 0, 0, 0x3F⟩,
  ⟨0x400F0008, 0, 1, 0, 1, 0, 0, 0, 0xFFFF0000, 0, 0, 0, 0, 0xFFFFFFFF⟩,
  ⟨0x400F000C, 0, 1, 0, 1, 0, 0xFFFFFFFF, 0, 0, 0, 0, 0, 0, 0xFFFFFFFF⟩,
  ⟨0x400F0010, 0, 1, 0, 1, 0x8C0091, 0, 0xFF00FF, 0, 0, 0, 0, 0, 0xFF00FF⟩,
  ⟨0x400F0014, 0, 1, 0, 1, 0, 0, 0, 0, 0, 0, 0, 0, 0x7⟩,
  ⟨0x400F0018, 0, 1, 0, 1, 0, 0, 0, 0, 0, 0, 0xFFFFFFFF, 0, 0x1⟩]

/-! ### TST -/

/-- TST_MT (R472). -/
def TST_MT : Nat := 0x40100000
def TST_MT_EN : Fld := ⟨TST_MT, 0, 4⟩

/-- TST_MTIV (R472). -/
def TST_MTIV : Nat := 0x40100004
def TST_MTIV_IV : Fld := ⟨TST_MTIV, 0, 32⟩

/-- TST_MFAIL (R472). -/
def TST_MFAIL : Nat := 0x40100008
def TST_MFAIL_VALID : Fld := ⟨TST_MFAIL, 31, 1⟩
def TST_MFAIL_OTHER : Fld := ⟨TST_MFAIL, 4, 2⟩
def TST_MFAIL_MEM : Fld := ⟨TST_MFAIL, 0, 3⟩

/-- TST_MFAILA (R472). -/
def TST_MFAILA : Nat := 0x4010000C
def TST_MFAILA_ADDR : Fld := ⟨TST_MFAILA, 0, 32⟩

/-- TST_SPARE (R472). -/
def TST_SPARE : Nat := 0x40100014
def TST_SPARE_COLB : Fld := ⟨TST_SPARE, 11, 4⟩
def TST_SPARE_COLA : Fld := ⟨TST_SPARE, 7, 4⟩
def TST_SPARE_SRAM : Fld := ⟨TST_SPARE, 0, 7⟩

/-- TST_BTREQ (R472). -/
def TST_BTREQ : Nat := 0x40100020
def TST_BTREQ_GO : Fld := ⟨TST_BTREQ, 31, 1⟩
def TST_BTREQ_CLASS : Fld := ⟨TST_BTREQ, 28, 3⟩
def TST_BTREQ_INST : Fld := ⟨TST_BTREQ, 16, 7⟩

/-- TST_BTST (R472). -/
def TST_BTST : Nat := 0x40100024
def TST_BTST_BUSY : Fld := ⟨TST_BTST, 31, 1⟩
def TST_BTST_CLASS : Fld := ⟨TST_BTST, 28, 3⟩
def TST_BTST_INST : Fld := ⟨TST_BTST, 16, 7⟩
def TST_BTST_RESULT : Fld := ⟨TST_BTST, 0, 2⟩

/-- TST_ANA (R472). -/
def TST_ANA : Nat := 0x40100030
def TST_ANA_PADEN : Fld := ⟨TST_ANA, 31, 1⟩
def TST_ANA_PADT : Fld := ⟨TST_ANA, 16, 8⟩
def TST_ANA_LTOL : Fld := ⟨TST_ANA, 0, 8⟩

/-- TST_TMOD (R472). -/
def TST_TMOD : Nat := 0x40100034
def TST_TMOD_EN : Fld := ⟨TST_TMOD, 31, 1⟩
def TST_TMOD_PIN : Fld := ⟨TST_TMOD, 16, 7⟩
def TST_TMOD_LEVEL : Fld := ⟨TST_TMOD, 0, 3⟩

/-- TST_PADw (R472). -/
def TST_PAD (i : Nat) : Nat := 0x40100040 + 4 * i
def TST_PAD_PAD (i : Nat) : Fld := ⟨(TST_PAD i), 0, 32⟩

/-- TST_SCAN (R472). -/
def TST_SCAN : Nat := 0x40100100
def TST_SCAN_ENTER : Fld := ⟨TST_SCAN, 0, 1⟩

/-- Register rows of TST. -/
def rowsTst : List RegRow := [
  ⟨0x40100000, 0, 1, 0, 1, 0xF, 0xF, 0, 0, 0, 0, 0, 0, 0xF⟩,
  ⟨0x40100004, 0, 1, 0, 1, 0xA010202, 0xFFFFFFFF, 0, 0, 0, 0, 0, 0, 0xFFFFFFFF⟩,
  ⟨0x40100008, 0, 1, 0, 1, 0, 0, 0, 0, 0, 0, 0, 0, 0x80000037⟩,
  ⟨0x4010000C, 0, 1, 0, 1, 0, 0, 0, 0, 0, 0, 0, 0, 0xFFFFFFFF⟩,
  ⟨0x40100014, 0, 1, 0, 1, 0, 0, 0, 0, 0, 0, 0, 0, 0x7FFF⟩,
  ⟨0x40100020, 0, 1, 0, 1, 0, 0, 0, 0, 0, 0, 0xFFFF0000, 0, 0xF07F0000⟩,
  ⟨0x40100024, 0, 1, 0, 1, 0, 0, 0, 0, 0, 0, 0, 0, 0xF07F0003⟩,
  ⟨0x40100030, 0, 1, 0, 1, 0x140018, 0x80FF00FF, 0, 0, 0, 0, 0, 0, 0x80FF00FF⟩,
  ⟨0x40100034, 0, 1, 0, 1, 0, 0x807F0007, 0, 0, 0, 0, 0, 0, 0x807F0007⟩,
  ⟨0x40100040, 4, 6, 0, 1, 0, 0, 0, 0xFFFFFFFF, 0, 0, 0, 0, 0xFFFFFFFF⟩,
  ⟨0x40100100, 0, 1, 0, 1, 0, 0, 0, 0, 0, 0x1, 0, 0, 0x1⟩]

/-- The rows of the block whose 64 KiB window has number `w` (R497). -/
def rowsOf : Nat → List RegRow
  | 0 => rowsSys
  | 1 => rowsTkc
  | 2 => rowsPrc
  | 3 => rowsEvr
  | 4 => rowsEng
  | 5 => rowsMod
  | 6 => rowsGlk
  | 7 => rowsBsi
  | 8 => rowsSar
  | 9 => rowsFbk
  | 10 => rowsSaf
  | 11 => rowsSpn
  | 12 => rowsCan
  | 13 => rowsQsp
  | 14 => rowsTru
  | 15 => rowsPwr
  | 16 => rowsTst
  | _ => []

/-- The register of a row that lies at address `a`: its two indices, if the row has one there. -/
def RegRow.index? (r : RegRow) (a : Nat) : Option (Nat × Nat) :=
  if a < r.base then none else
    let d := a - r.base
    let i := if r.s1 = 0 then 0 else Nat.min (d / r.s1) (r.n1 - 1)
    let e := d - r.s1 * i
    let j := if r.s2 = 0 then 0 else e / r.s2
    if i < r.n1 ∧ j < r.n2 ∧ r.base + r.s1 * i + r.s2 * j = a then some (i, j) else none

/-- The number of the 64 KiB window of the block space in which an address lies (R497). -/
def winOf (a : Nat) : Nat := a / 0x10000 % 0x4000

/-- The row of the register at word address `a`; none for an unassigned offset (R13). -/
def regRow? (a : Nat) : Option RegRow :=
  if a < 0x40000000 then none
  else (rowsOf (winOf a)).find? fun r => (r.index? a).isSome

/-- The reset value of the register word at address `a`; an unassigned word reads 0 (R13). -/
def regReset (a : Nat) : BitVec 32 :=
  match regRow? a with
  | some r => BitVec.ofNat 32 r.reset
  | none => 0#32

/-! ### The identity and the capability list of a variant (R498 to R501) -/

/-- What SYS_ID reads on the variant (R498). -/
def sysIdWord (v : Variant) : BitVec 32 := if v = .hz9610 then 0x96100100#32 else 0x96050100#32

/-- The rows of R501: the ID, the instance counts and the feature bits, each on the HZ9610 and on the HZ9605. -/
def capEntries : List (Nat × (Nat × Nat) × (Nat × Nat)) := [
  (0x0001, (1, 1), (0x1, 0x1)), (0x0002, (1, 1), (0xC0, 0xC0)), (0x0003, (7, 4), (0x17F, 0x147)),
  (0x0004, (7, 4), (0x7F, 0x47)), (0x0010, (1, 1), (0x42080, 0x42080)), (0x0011, (96, 48), (0x3, 0x3)),
  (0x0012, (16, 8), (0x3, 0x3)), (0x0013, (112, 56), (0x4, 0x4)), (0x0014, (8, 8), (0x1, 0x1)),
  (0x0015, (12, 6), (0x844, 0x844)), (0x0020, (1, 1), (0x1048, 0x1048)), (0x0030, (4, 2), (0x1, 0x0)),
  (0x0031, (6, 4), (0x1, 0x1)), (0x0032, (4, 4), (0x38, 0x38)), (0x0040, (1, 1), (0x1, 0x1)),
  (0x0041, (1, 1), (0x1, 0x1)), (0x0042, (1, 1), (0x1, 0x1))]

/-- The word of the capability list at address `a` on the variant; none outside the list (R499, R500). -/
def capWord (v : Variant) (a : Nat) : Option (BitVec 32) :=
  if a < 0x40000400 ∨ a % 4 ≠ 0 then none else
    let k := (a - 0x40000400) / 16
    match capEntries[k]? with
    | none => none
    | some (id, n, f) =>
      let pick (x : Nat × Nat) : Nat := if v = .hz9610 then x.1 else x.2
      some (BitVec.ofNat 32 (match a / 4 % 4 with
        | 0 => id * 0x10000 + 0x100
        | 1 => if k = 16 then 0 else 16
        | 2 => pick n
        | _ => pick f))

end Sys2Proof.Machine
end

