-- ==== Sys2Proof/Machine/State.lean ====
section
/-! DEFINITION. The state of the device as plain data: the register pages, the memories, the engine's twin cells,
what each unit, leg, group, cluster, channel, converter, port and controller holds between commands, and the queue
of the commands that wait. Every field has its value after reset as its default, so State.reset is the structure
with all defaults. -/

namespace Sys2Proof.Machine
open Sys2Proof

/-- A stop with a fault. No meaning of this model ends in one. -/
inductive Fault where
  /-- Raised by no meaning; kept so that the type is not empty. Safe: a stop proves nothing. -/
  | none
  deriving DecidableEq, Repr

/-- A refusal of a command. -/
inductive Refusal where
  /-- The command has no meaning yet in Dispatch. Safe: a refused command proves nothing about the device. -/
  | notModelled (mnemonic : String)
  deriving DecidableEq, Repr

/-! ### Units: the processor pairs and their halves -/

/-- The modes of a core (R84). -/
inductive Priv where
  | machine
  | user
  deriving DecidableEq, Repr

/-- The architectural state of a unit (one copy for both cores of a pair): pc, mode, integer and FP registers by number,
and the control and status registers by number (R84). -/
structure Arch where
  pc : Word := 0
  priv : Priv := .machine
  x : SMap Word := []
  f : SMap Word := []
  csr : SMap Word := []
  deriving DecidableEq, Repr

/-- One record of an undo journal: where the store went, and what was there (R42). -/
inductive Undo where
  /-- Bytes of a memory of the system map, from an address upwards. -/
  | bytes (a : Nat) (old : List Byte)
  /-- Bytes of a TCM, by the key of Tcm. -/
  | tcm (k : Nat) (old : List Byte)
  /-- The bits of mask `m` (RW and RWL) of a register. -/
  | reg (a : Nat) (old : Word) (m : Nat)
  /-- The bits of mask `m` (RWS) of a register, on the shadow page. -/
  | shadow (a : Nat) (old : Word) (m : Nat)
  deriving DecidableEq, Repr

/-- A colophon entry (R55) or a store in a clear queue (R43): the storing unit, the register, the 32-bit value
and the write mask. -/
structure Entry where
  who : Who
  addr : Nat
  val : Word
  mask : Mask
  deriving DecidableEq, Repr

/-- A mirror record (R101): the duty, the key of the mirror's first byte that it writes, and the bytes stored. -/
structure MRec where
  duty : Nat
  key : Nat
  val : List Byte
  deriving DecidableEq, Repr

/-- Where a unit stands in its tick: at work, draining after its TKC_CBAR write, asleep to the boundary, or
stopped for the rest of the tick. -/
inductive UPhase where
  | work
  | drain
  | asleep
  | stopped
  deriving DecidableEq, Repr

/-- What the device holds for one unit (a pair, SV, or one half of a split pair). -/
structure UnitSt where
  arch : Arch := {}
  /-- The checkpoint of R41. -/
  ckpt : Arch := {}
  /-- The undo journal of the tick, newest first (R42). -/
  jrn : List Undo := []
  /-- The clear queue of the tick in program order (R43). -/
  clrq : List Entry := []
  phase : UPhase := .work
  /-- The unit starts the tick's work at this instant (R49: later than the boundary after a restore). -/
  startAt : Time := 0
  /-- The current run of the tick is its first. -/
  first : Bool := true
  /-- A BUDGET_WARN has been recorded for this tick. -/
  warned : Bool := false
  /-- Replays started in this tick. -/
  replays : Nat := 0
  /-- Colophon entries held in this tick (USE; one count per half while split). -/
  used : Nat := 0
  /-- The unit has committed hold-last in this tick. -/
  held : Bool := false
  /-- Consecutive ticks that ended in a hold-last of the unit. -/
  holdRun : Nat := 0
  /-- The journal overflowed in this tick, and in how many of the last consecutive hold-lasts it did. -/
  ovf : Bool := false
  ovfRun : Nat := 0
  /-- The last mismatch: its address and ASYNC, if it lies in this tick or the one before (R97). -/
  mm : Option (Word × Bool) := none
  /-- A mismatch has been met in this tick. -/
  mmTick : Bool := false
  /-- Mirror records of the tick, oldest first (R101). -/
  mir : List MRec := []
  /-- Holding registers of TKC_TCNT_H, TKC_RBDONE_H (R36) and of FBK_Pf_LWRAP by port (R303). -/
  tcntH : Word := 0
  rbH : Word := 0
  lwrapH : SMap Word := []
  /-- The data that the unit's last commanded read or load returned. -/
  rdata : Word := 0
  /-- A store or load that waits on the spine: the address, the data and the bytes (R393, R395). -/
  stall : Option Entry := none
  /-- A half that met a permanent-class fault (R115). -/
  failed : Bool := false
  /-- A debugger has halted the unit (R220). -/
  halted : Bool := false
  /-- The comparand of the machine-timer interrupt (R86). -/
  timecmp : Nat := 0
  /-- Snapshot registers that a replay of this tick has sampled afresh, by address (R44, R95). -/
  snap : SMap Word := []
  deriving DecidableEq, Repr

/-! ### Tick, commit and rebinding -/

/-- Whether the tick runs (R64, R75). -/
inductive Run where
  | stopped
  | starting
  | running
  deriving DecidableEq, Repr

/-- The tick controller beyond its registers. -/
structure TickSt where
  run : Run := .stopped
  /-- The 64-bit tick counter (R35). -/
  tcnt : Nat := 0
  /-- Boundaries counted since the device reset, which a step of the tick counter (R391) does not touch: what lasts a
  number of ticks is measured by it. -/
  count : Nat := 0
  /-- The instants of the last boundary and of the next one. -/
  last : Time := 0
  next : Time := 0
  /-- The instant of RUN, from which mtime counts (R86). -/
  runAt : Time := 0
  /-- The period of the current tick in tb, and the one that the next tick takes (R74). -/
  period : Nat := 10000
  periodNext : Nat := 10000
  /-- The commit window of the tick has opened (R47). -/
  cw : Bool := false
  /-- The rebinding attempt of the coming boundary has been made, and the participants that flipped at it. -/
  tried : Bool := false
  flipped : BitVec 13 := 0
  /-- The participants that flipped at the last boundary: MOD and GLK act one boundary later (R74). -/
  actNext : BitVec 13 := 0
  /-- The pending rebinding: the tick N and the participants (R67). -/
  rbN : Nat := 0
  rbPart : BitVec 13 := 0
  /-- The participants whose shadow refill runs (R73). -/
  copying : BitVec 13 := 0
  /-- The engine committed hold-last at the last boundary (R50). -/
  engHeld : Bool := false
  deriving DecidableEq, Repr

/-- An accepted hand-over, split or rejoin that waits for its boundary (R110, R113, R116). -/
structure HoPend where
  /-- 0 hand-over, 1 split, 2 rejoin. -/
  kind : Nat
  duty : Nat
  pair : Nat
  /-- The boundary (tick number) at which it takes effect. -/
  due : Nat
  deriving DecidableEq, Repr

/-- The pair controller beyond its registers. -/
structure PrcSt where
  ho : Option HoPend := none
  /-- Duties dropped by R108, whose routes go to SV. -/
  dropped : BitVec 16 := 0
  /-- Words of each duty's region seeded so far (R104). -/
  seed : SMap Nat := []
  /-- Committed mirror records not yet transferred, oldest first (R102). -/
  mirq : List MRec := []
  /-- Pairs whose duties are taken over at the next boundary (R106). -/
  lost : BitVec 6 := 0
  /-- Limp mode runs (R123), and the engine's permanent fault waits for its boundary. -/
  limp : Bool := false
  engLost : Bool := false
  /-- PRC_LIMP.EN as the engine's report found it (R123). -/
  limpEn : Bool := false
  /-- The engine's permanent fault lies in the twin-cell state memory (R125). -/
  twinLost : Bool := false
  /-- SV is stopped by a permanent-class fault (R127), or for its restart in an update (R454). -/
  svStopped : Bool := false
  /-- SV, or a half of it, has met a permanent-class fault since it started (R455). -/
  svFaulted : Bool := false
  deriving DecidableEq, Repr

/-! ### The engine -/

/-- A twin cell: the committed copy, the engine's pending value with its pass, and each unit's pending value
under the unit's rank (R22, R143 to R146). -/
structure Cell where
  com : Word := 0
  eng : Option (Word × Nat) := none
  units : SMap Word := []
  deriving DecidableEq, Repr

/-- A scratch word with its written and poison bits (R147). -/
structure Scr where
  val : Word := 0
  written : Bool := false
  poison : Bool := false
  deriving DecidableEq, Repr

/-- A capture record (R179): tag, bobbin, lane, value. -/
structure Cap where
  tick : Word
  tag : Nat
  bobbin : Nat
  lane : Nat
  val : Word
  deriving DecidableEq, Repr

/-- The relaxed stores of R173. -/
inductive StoreKind where
  | stc
  | sts
  | str
  deriving DecidableEq, Repr

/-- A store that may still be in flight: its kind, the word, the value that the word had for a load before it
(and whether it was poisoned), the value stored, and its issue cycle. -/
structure Flight where
  kind : StoreKind
  word : Nat
  old : Word
  new : Word
  bad : Bool
  at_ : Nat
  deriving DecidableEq, Repr

/-- A pass attempt in execution. -/
structure PassSt where
  pass : Nat := 0
  /-- The next instruction's index. -/
  pc : Nat := 0
  /-- Cycles from the first prologue cycle to the issue of the next instruction (R139, R140). -/
  cyc : Nat := 8
  /-- V, by 32 × register + lane; P by number; A by number. -/
  v : SMap Word := []
  p : SMap (BitVec 32) := []
  a : SMap Word := []
  /-- The cycle from which each register's last result may be used: V at its number, P at 32 + its number, A at
  40 + its number (R158). -/
  ready : SMap Nat := []
  flags : Nat := 0
  evts : BitVec 16 := 0
  /-- Capture records of the attempt, oldest first. -/
  caps : List Cap := []
  flight : List Flight := []
  /-- END has retired; the cycle of its issue. -/
  ended : Option Nat := none
  deriving DecidableEq, Repr

/-- An injection generator beyond its registers (R178). -/
structure IgSt where
  running : Bool := false
  k : Nat := 0
  lfsr : BitVec 15 := 1
  /-- An advance of the LFSR is due and not yet made. -/
  advDue : Bool := false
  deriving DecidableEq, Repr

/-- The engine beyond its registers. -/
structure EngSt where
  /-- State words at w, result-bank words at 65536 + w. -/
  cells : SMap Cell := []
  /-- The result bank as the modulator last latched it (R26). -/
  latched : SMap Word := []
  scratch : SMap Scr := []
  /-- The sample bank as latched at the opening boundary (R24). -/
  sample : SMap Word := []
  run : Option PassSt := none
  /-- The next round-table entry to start, and failed attempts of the running pass in this tick (R176). -/
  next : Nat := 0
  fails : Nat := 0
  /-- Cycles of the tick's finished attempts. -/
  rtCyc : Nat := 0
  /-- The tick's passes that started, and those that were aborted. -/
  ran : BitVec 64 := 0
  aborted : BitVec 64 := 0
  /-- All passes of the tick have ended (R47). -/
  done : Bool := true
  /-- The current tick's work includes no re-run (first run), and its budget warning has been recorded. -/
  first : Bool := true
  warned : Bool := false
  /-- Records staged by the completed passes of the tick, oldest first (R179). -/
  caps : List Cap := []
  igs : SMap IgSt := []
  deriving DecidableEq, Repr

/-! ### Legs, groups and clusters -/

/-- A planned ideal edge (R210): its instant and whether it rises. -/
structure Edge where
  at_ : Time
  rise : Bool
  deriving DecidableEq, Repr

/-- One gate of a leg: its command pin, the instant of its last edge, a turn-on that waits (the instant from
which the modulator or the guard requests it) and the status input. -/
structure Gate where
  on : Bool := false
  edgeAt : Time := 0
  want : Option Time := none
  /-- The level of SHx or SLx: true when the driver confirms off. An open pin reads false (R229). -/
  cfm : Bool := false
  cfmAt : Time := 0
  /-- The status has answered the last command edge (R262). -/
  answered : Bool := true
  /-- The side is marked unusable, and stuck on (R238). -/
  unus : Bool := false
  stuckOn : Bool := false
  /-- The present disagreement of status and command has been found stuck (R233). -/
  stuckSeen : Bool := false
  /-- The edge-profile codes last sent: source of the next turn-on, sink of the next turn-off (R258). -/
  sent : Option (Nat × Nat) := none
  deriving DecidableEq, Repr

/-- Adaptation of one edge type (R262): code, in-window count, out-of-window count at the end of the range, and
the ADAPT state of R265. -/
structure Adapt where
  code : Nat := 0
  inw : Nat := 0
  outw : Nat := 0
  state : Nat := 0
  deriving DecidableEq, Repr

/-- What the modulator and the leg guard hold for one leg. -/
structure LegSt where
  /-- The carrier epoch (R208), whether a period start has come since, and the last carrier point. -/
  epoch : Time := 0
  live : Bool := false
  ptAt : Option Time := none
  /-- The signed carry in fine steps, and the carry that was added to the pulse in progress (R215, R216). -/
  carry : Int := 0
  pulseC : Int := 0
  /-- The duty in force; none until an update point since the last release (R209, R31). -/
  duty : Option Word := none
  /-- T_on of the duty by which the period in progress was opened, in fine steps (R222). -/
  ton : Int := 0
  /-- The ideal command and the instant of its last edge; none while the modulator does not drive the leg. -/
  ideal : Option Bool := none
  idealAt : Time := 0
  plan : List Edge := []
  /-- A pulse is placed or in progress; its falling edge, where a stretched or diagnostic pulse fixes it; whether
  it is diagnostic. -/
  pulse : Bool := false
  fallFix : Option Time := none
  diagOn : Bool := false
  /-- The next rising edge lies here because a gap was stretched; a gap was not emitted. -/
  riseAt : Option Time := none
  joined : Bool := false
  /-- R206 withholds the duty: found at the last commit, and in force since the leg's next update point. -/
  srcBad : Bool := false
  withheld : Bool := false
  /-- The start of the period in progress and the high-side on-time in it so far; the undiagnosed count; the
  diagnostic sampling instant (R222, R223). -/
  periodAt : Time := 0
  onAcc : Time := 0
  undiag : Nat := 0
  undiagSet : Bool := false
  diagAt : Option Time := none
  h : Gate := {}
  l : Gate := {}
  latch : Bool := false
  excl : Bool := false
  /-- The driver gave no valid reply to the last fault poll, or reported UV in it (R238). -/
  pollBad : Bool := false
  /-- Bits of the leg status word that have been set in the tick in progress (R225, R265); NARROW as it stood before the
  decision of the period in progress (R223). -/
  bits : BitVec 32 := 0
  narrowWas : Bool := false
  /-- The last fast result of SCBS, and consecutive results above THR (R250). -/
  scLast : Option Word := none
  scN : Nat := 0
  /-- The configuration frame has been sent since RUN or the last GLK flip (R258). -/
  cfgSent : Bool := false
  /-- Band of the last edge (R260). -/
  band : Nat := 0
  /-- 0 high-side turn-on, 1 high-side turn-off, 2 low-side turn-on, 3 low-side turn-off (R262). -/
  adapt : SMap Adapt := []
  /-- Last high-side turn-on time in fine steps (TSW). -/
  tsw : Nat := 0
  deriving DecidableEq, Repr

/-- What the leg guard and the fabric hold for one group. -/
structure GrpSt where
  /-- The group is held: in BOOT every group is (R75, R340). -/
  hold : Bool := true
  /-- Where the sequence stands: 0 switching, 2 waiting before the turn-on, 4 verifying, 5 settled, 6 leaving. -/
  step : Nat := 5
  /-- The ASC side chosen; none is ALL-OFF. -/
  side : Option Side := none
  /-- Step 2 ends with a fresh choice of the side (R240); changes of side so far; ALL-OFF kept (R239). -/
  rechoose : Bool := false
  changes : Nat := 0
  offKept : Bool := false
  /-- The instant of step 1 (or of the start of the leaving), and of step 3. -/
  stepAt : Time := 0
  onAt : Time := 0
  lowspd : Bool := false
  esc : Bool := false
  hard : Bool := false
  relref : Bool := false
  cause : Nat := 0
  /-- Every cause of the hold is one of R247. -/
  soft : Bool := true
  /-- Instants of the counted escalation events, newest first (R246). -/
  hist : List Time := []
  /-- A counted event or a new mark arose in this tick (R247). -/
  news : Bool := false
  /-- Groups whose fault spread to this one. -/
  spreadBy : BitVec 16 := 0
  /-- A release that waits for the start frames and their poll. -/
  relWait : Bool := false
  /-- The manager demand: 0 none, 1 HOLD, 2 ASC, 3 ALL-OFF, 4 STO (R369). -/
  man : Nat := 0
  /-- The instant at which a running SS1 timer expires, and the SS1 expiry demand (R355). -/
  ss1 : Option Time := none
  ss1Exp : Bool := false
  /-- The kind that acts now: 0 none, 1 HOLD, 2 ALL-OFF, 3 ASC, 4 DISCHARGE, 5 STO, rising in strength (R345). -/
  kind : Nat := 0
  /-- The instant from which an STO demand has stood (R352). -/
  stoAt : Option Time := none
  /-- The last sampling instant of the group (R219), no diagnostic one. -/
  sampledAt : Option Time := none
  /-- The last diagnostic sampling instant of the group (R223). -/
  diagSeen : Option Time := none
  deriving DecidableEq, Repr

/-- A gate cluster: its fault line and its profile bus. -/
structure ClSt where
  /-- FLTc is low, since when, and whether it has been low for FLT_HARD_T. -/
  low : Bool := false
  lowAt : Time := 0
  hardDone : Bool := false
  /-- A broadcast poll runs since; its replies seen; whether one was not clean; a further poll is due. -/
  poll : Option Time := none
  seen : BitVec 6 := 0
  dirty : Bool := false
  again : Bool := false
  /-- The poll in progress is a fault poll of R241, and so is the further one that is due; the one in progress began
  after the start frames had been sent (R258). -/
  fault : Bool := false
  againFault : Bool := false
  pollNew : Bool := false
  /-- The end of the last frame or request on the bus, its idle cycles with it (R252, R255). -/
  busyTo : Time := 0
  /-- When the last poll started (R241), and the tick number of the last periodic poll (R258). -/
  pollAt : Time := 0
  perTick : Option Nat := none
  /-- A clean poll has completed since FLTc last rose, or since RUN (R247). -/
  clean : Bool := false
  /-- The poll after the start frames has completed (R258). -/
  started : Bool := false
  /-- The address of an outstanding addressed status request, and the instant of its first bit. -/
  asked : Option Nat := none
  askAt : Time := 0
  /-- The last request frame sent on PDTc (R253). -/
  frame : BitVec 24 := 0
  deriving DecidableEq, Repr
/-! ### Sensing -/

/-- A bitstream channel: the instant of its last start, and its latest results. -/
structure ChSt where
  startAt : Time := 0
  /-- The latest raw main result, whether it meets the conditions of R275, and its instant. -/
  raw : Option Word := none
  mainOk : Bool := false
  mainAt : Time := 0
  /-- The latest raw fast result and its instant. -/
  fastRaw : Option Word := none
  fastAt : Time := 0
  /-- The valid bit as last latched (R275). -/
  valid : Bool := false
  deriving DecidableEq, Repr

/-- A SAR converter. -/
structure SarSt where
  /-- The slot in conversion, and the channel codes of the running sequence's slots, frozen at its start (R293). -/
  slot : Option Nat := none
  chs : List Nat := []
  /-- The running conversion is an urgent one, and its channel code (R281). -/
  urgent : Bool := false
  urgCh : Nat := 0
  /-- A trigger waits for the end of an urgent conversion (R280). -/
  deferred : Bool := false
  startAt : Time := 0
  /-- Instant of the last trigger and of the last urgent request carried out (R279, R281). -/
  trigAt : Option Time := none
  urgAt : Option Time := none
  /-- SAX carries the converter's work (R464). While SAX and the converter run in parallel: the sequences compared so far,
  and whether a pair of codes differed by more than 16. -/
  onSpare : Bool := false
  par : Option Nat := none
  parBad : Bool := false
  /-- The sequence in progress began before SAX ran in parallel, and is none of those compared. -/
  parSkip : Bool := false
  deriving DecidableEq, Repr

/-- A SAR slot: the code and the flag reasons of its latest result (NONE, CLIP, REF). -/
structure SlotSt where
  code : Option Nat := none
  clip : Bool := false
  refBad : Bool := false
  none_ : Bool := true
  deriving DecidableEq, Repr

/-- A calibration in progress (R284 to R287): per channel the count, the sum and the sum of squares. -/
structure CalSt where
  sar : Bool := false
  grp : Nat := 0
  first : Nat := 0
  last : Nat := 0
  count : Nat := 64
  startTick : Nat := 0
  sums : SMap (Nat × Rat × Rat) := []
  /-- A collected result was not valid or was flagged: the channel. -/
  bad : Option Nat := none
  deriving DecidableEq, Repr

/-- The filter units and the relief in progress (R289, R290). -/
structure RelSt where
  /-- The unit that serves each channel (initially unit i for channel i). -/
  unitOf : SMap Nat := []
  /-- Units that are spare, that are in self-test, and that are marked failed. -/
  spares : List Nat := [112, 113, 114, 115]
  testing : List Nat := []
  failed : List Nat := []
  /-- The running relief: channel and spare; its start, and the main and fast results compared so far. -/
  run : Option (Nat × Nat) := none
  runAt : Time := 0
  mains : Nat := 0
  fasts : Nat := 0
  /-- The last relieved channel, and the count of ticks at the last relief. -/
  lastCh : Nat := 111
  tick : Nat := 0
  /-- Spares in self-test after a comparison that differed, each with its channel, whose live unit is marked failed if
  the spare passes (R290). -/
  suspects : List (Nat × Nat) := []
  deriving DecidableEq, Repr

/-! ### Feedback -/

/-- An edge filter of one pin (R299): the filtered level, the pin level, and an edge that waits. -/
structure PinSt where
  level : Bool := false
  pin : Bool := false
  edge : Option Time := none
  deriving DecidableEq, Repr

/-- A feedback port. -/
structure PortSt where
  a : PinSt := {}
  b : PinSt := {}
  z : PinSt := {}
  pos : Word := 0
  wrap : Word := 0
  /-- The count modulo CPR of R304. -/
  ph : Nat := 0
  dir : Bool := false
  still : Bool := false
  /-- Timestamps, in tb, of the counting edges of the history, newest first (R305), and of the last one. -/
  hist : List Nat := []
  lastEdge : Option Nat := none
  /-- The sector held, and whether it was entered forwards (R309). -/
  sector : Option Nat := none
  edgeFwd : Bool := true
  /-- The angle at which a fault code of the switches holds it (R309). -/
  angHold : Option Word := none
  idx : Word := 0
  irefOk : Bool := false
  /-- The next index stores IREF (R308). -/
  recap : Bool := true
  /-- Status bits of the tick in progress (R319). -/
  bits : BitVec 32 := 0
  /-- Serial mode: the read in progress (its start and the data level then), the tick of the last read, the last
  valid reading and its sample instant, whether the next valid reading starts afresh, whether it does so after a
  restart, and the speed held. -/
  reading : Option (Time × Bool) := none
  /-- The clock on FBXf of the last read: its first falling edge, its half period and its falling edges (R310). -/
  clk : Option (Time × Time × Nat) := none
  readTick : Option Nat := none
  lastRd : Option Nat := none
  sampAt : Time := 0
  fresh : Bool := true
  restarted : Bool := true
  spd : Word := 0
  /-- The last reading was rejected: the snapshot words keep their values (R311). -/
  hold : Bool := false
  deriving DecidableEq, Repr

/-- A compare output: its pin, the end of the pulse in progress. -/
structure CmpSt where
  out : Bool := false
  endAt : Time := 0
  deriving DecidableEq, Repr

/-- An encoder-emulation channel: accumulator, waiting counts (true: up), the EA and EB pins, the last output edge, an
index that waits for an output edge, and the EZ pin. -/
structure EmSt where
  acc : Int := 0
  waiting : List Bool := []
  ea : Bool := false
  eb : Bool := false
  edgeAt : Option Time := none
  idx : Bool := false
  ez : Bool := false
  deriving DecidableEq, Repr

/-- A pulse input: its pin, the timestamps in tb of the latest EDGE edge and of the other edge since, the instant
from which a timeout counts, and the value word. -/
structure PlsSt where
  p : PinSt := {}
  last : Option Nat := none
  mid : Option Nat := none
  armAt : Time := 0
  val : Word := 0
  deriving DecidableEq, Repr

/-! ### Safety fabric -/

/-- A safe input: the filtered levels of its two pins, an open pin low, and since when its channels disagree
(R349, R350). -/
structure SinSt where
  a : Bool := false
  b : Bool := false
  disAt : Option Time := none
  deriving DecidableEq, Repr

/-- A safe output (R352, R353): energised, since when; the last test pulse, which pin it pulled, and its end. -/
structure SoutSt where
  on : Bool := false
  onAt : Time := 0
  testAt : Time := 0
  testB : Bool := false
  testEnd : Time := 0
  /-- SAF_SOUT_SET has set the bit since the last fault of the output. -/
  armed : Bool := false
  deriving DecidableEq, Repr

/-- The fabric beyond its registers and the groups. -/
structure SafSt where
  /-- The state of R340. -/
  sstate : Nat := 0
  /-- STO_A and STO_B demand; at reset both read demanding (R368). -/
  stoA : Bool := true
  stoB : Bool := true
  stoDifAt : Option Time := none
  /-- The instant from which the STO pins or their discrepancy latch have demanded. -/
  stoAt : Option Time := some 0
  /-- A heartbeat was applied at this boundary; consecutive boundaries with and without one (R341). -/
  hb : Bool := false
  hbOk : Nat := 0
  hbMiss : Nat := 0
  hbMissBit : Bool := false
  /-- hbOk before this boundary. -/
  hbPrev : Nat := 0
  sins : SMap SinSt := []
  souts : SMap SoutSt := []
  /-- Consecutive out-of-bound boundaries per limit entry. -/
  limN : SMap Nat := []
  /-- The discharge: its start, its charge model as an exact value, boundaries at or below
  VSAFE. -/
  disAt : Time := 0
  disQ : FVal := .fin false 0
  disN : Nat := 0
  /-- The start boundary of a discharge that a pin or an input started is still to come; the start boundary. -/
  disFresh : Bool := false
  disFrom : Time := 0
  deriving DecidableEq, Repr

/-! ### Auxiliary drives -/

/-- What a lane of auxsl keeps from tick to tick beside the words of R327 (log 36). -/
structure AuxVars where
  /-- The planned action: 0 none, 1 START, 2 catch, 3 BRAKE (R331). -/
  plan : Nat := 0
  /-- θ_ol and ω_ol (R331, R333, R334), and the ramped speed reference of RUN (R332, R334). -/
  thOl : Word := 0
  wOl : Word := 0
  wRef : Word := 0
  /-- The angle of the last tick's back-EMF vector, none after a tick that did not measure it, and of its current vector
  (R330). -/
  ang : Option Word := none
  angI : Option Word := none
  /-- Consecutive ticks so far: slow and of little current in BRAKE (R333), near lock (R334), out of lock (R336), and in
  RUN with LOCKED (R337). -/
  slowN : Nat := 0
  lowN : Nat := 0
  lockN : Nat := 0
  lossN : Nat := 0
  stabN : Nat := 0
  /-- LOCKN ticks near lock have passed before this tick (R334). -/
  lockDue : Bool := false
  locked : Bool := false
  /-- Ticks since the first held tick of FAILED (R337). -/
  back : Option Nat := none
  /-- CMD has been 0.0 in LOCKOUT (R337). -/
  zero : Bool := false
  deriving DecidableEq, Repr

/-- A lane of auxsl: the pass that runs it, what it keeps, and what it will keep once the tick commits, if it has run in
the tick. -/
structure AuxSt where
  pass : Nat := 0
  com : AuxVars := {}
  new : Option AuxVars := none
  deriving DecidableEq, Repr

/-! ### Spine -/

/-- A signature of this device that waits for an output: from when, its header and its payload (R398). -/
structure Waiting where
  ready : Time
  hdr : Header
  pay : List Byte
  deriving DecidableEq, Repr

/-- A link of a spine port. -/
structure LinkSt where
  up : Bool := false
  wrap : Bool := false
  /-- The measured delay in fine steps; none until measured. -/
  delay : Option Nat := none
  /-- The output is taken up to here by a signature in progress (R398). -/
  busyTo : Time := 0
  /-- The signatures of this device that wait for the output, first to go first (R398). -/
  waits : List Waiting := []
  deriving DecidableEq, Repr

/-- A signature that this device has originated: the port and the instant at which it starts there, its header, and all of
its bytes, the trailer among them (R374). -/
structure Sent where
  port : Nat
  at_ : Time
  hdr : Header
  bytes : List Byte
  deriving DecidableEq, Repr

/-- A member, or a device that has announced itself, as seen from here. -/
structure MembSt where
  isMember : Bool := false
  /-- What it last announced, or sent in a JOIN or a status signature. -/
  peer : Option Peer := none
  /-- The port on which it was last heard: it lies in that port's segment (R372). -/
  via : Option Nat := none
  /-- Its published DISC reasons, LOCK and link delays in fine steps (R377). -/
  disc : BitVec 4 := 0
  lock : Bool := false
  delays : List Nat := []
  /-- Boundaries in a row without a status signature; whether one arrived in this tick (R386). -/
  missed : Nat := 0
  heard : Bool := false
  /-- Its periodic payload that arrived whole in this tick (R394). -/
  periodic : Option (List Byte) := none
  /-- The last sequence numbers from it, unicast and broadcast, that of its last broadcast that passed here with W = 0,
  and the next one to it (R374, R375). -/
  uniRx : Option (BitVec 16) := none
  bcRx : Option (BitVec 16) := none
  bcNear : Option (BitVec 16) := none
  seqTx : BitVec 16 := 0
  /-- Credit units that we hold for its receive queue, by DQ (R396). -/
  credit : SMap Nat := []
  /-- The receive queues of ours that grant units to it. -/
  granted : BitVec 4 := 0
  deriving DecidableEq, Repr

/-- A record of a receive queue (R395): its source, the offset of its first byte in the queue, its length, the
instant at which its first byte arrived, and whether it is part of SPN_RXQq_CNT. -/
structure RxRec where
  src : Nat
  start : Nat
  bytes : Nat
  at_ : Time
  visible : Bool := false
  deriving DecidableEq, Repr

/-- A spine queue pair: published end and read end of the transmit queue, written end and consumed end of the
receive queue, in 8-byte units, and the records held, oldest first. -/
structure QSt where
  txWp : Nat := 0
  txRp : Nat := 0
  rxWp : Nat := 0
  rxRp : Nat := 0
  recs : List RxRec := []
  deriving DecidableEq, Repr

/-- A tick signature's content (R376), and the instant at which it places its boundary. -/
structure TickSig where
  at_ : Time := 0
  tick : Nat := 0
  time : Nat := 0
  period : Nat := 0
  cfgd : Word := 0
  verd : Word := 0
  gath : Word := 0
  lead : Nat := 0
  tlead : Nat := 0
  members : BitVec 64 := 0
  epoch : BitVec 16 := 0
  /-- The delay from the lead along the path by which it came. -/
  delay : Time := 0
  deriving DecidableEq, Repr

/-- The spine beyond its registers. The RO registers are tick-start snapshots of these values (R398). -/
structure SpnSt where
  /-- ROLE of SPN_STAT: 0 standalone, 1 lead, 2 follower, 3 joining; the lead's address; EPOCH. -/
  role : Nat := 0
  lead : Nat := 0
  epoch : BitVec 16 := 0
  holdover : Bool := false
  lock : Bool := false
  disc : BitVec 4 := 0
  /-- CODE of SPN_JOINST. -/
  joinCode : Nat := 0
  /-- The version digest and the open gathering that TRU loads. -/
  verd : Word := 0
  gath : Word := 0
  links : SMap LinkSt := []
  membs : SMap MembSt := []
  qs : SMap QSt := []
  /-- Ring time at the last boundary in half nanoseconds (R376). -/
  ringTime : Nat := 0
  /-- The last tick signature heard. -/
  sig : Option TickSig := none
  /-- A tick signature for the coming boundary has been heard or sent; boundaries in a row without one; the miss
  of the coming boundary's signature has been taken. -/
  sigSeen : Bool := false
  noSig : Nat := 0
  missTaken : Bool := false
  /-- The deviation of the timebase's frequency from nominal, in parts per billion (R378), and the time by which the
  carriers still lag behind the placed boundary (R32). -/
  steer : Int := 0
  lag : Int := 0
  /-- Members that were lost or have left and have not come back: the ring is broken at them (R386, R388). -/
  gone : BitVec 64 := 0
  /-- The segments whose break an announced boundary has made known, from which on unicasts are steered (R386). -/
  cut : List Nat := []
  /-- Phase error in fine steps, and boundaries in a row within 5 ns and beyond 10 ns (R380, R389). -/
  phase : Int := 0
  okRun : Nat := 0
  badRun : Nat := 0
  /-- The announcements run since (R384); the join request stands since (R387). -/
  annAt : Option Time := none
  joinAt : Option Time := none
  /-- On the lead: devices to be admitted and members that leave, each with its tick (R387, R388). -/
  admits : List (Nat × Nat) := []
  leaves : List (Nat × Nat) := []
  /-- The tick of this member's own leave. -/
  leaveTick : Option Nat := none
  /-- The member to which the lead passes, and the tick at which it does (R385). -/
  handoff : Option (Nat × Nat) := none
  /-- Lost members, and a change of links, that the next tick signature announces (R386). -/
  lostPend : BitVec 64 := 0
  epochPend : Bool := false
  /-- Credits are reset at the coming boundary (R396). -/
  reset : Bool := false
  /-- Credit entries waiting for the status signature, by 4 × source + DQ: units to return, and the units that
  RESET entries grant. -/
  ret : SMap Nat := []
  rst : List (Nat × Nat) := []
  /-- Events waiting to be sent, and remote events received in this tick as (source, event) (R401). -/
  evq : List Nat := []
  evrx : List (Nat × Nat) := []
  /-- Asynchronous bytes originated in this tick (R397). -/
  abytes : Nat := 0
  /-- The next sequence number of this member's broadcasts. -/
  seqBc : BitVec 16 := 0
  /-- The signatures that this device originated in this tick, newest first, and the ports on which it forwarded the
  last one that it did not strip, with the instants at which it leaves and as it leaves there (R373). -/
  sent : List Sent := []
  fwd : List (Nat × Time × Sig) := []
  statusSent : Bool := false
  /-- Management payloads accepted for SV (R400), newest first. -/
  mgmt : List (Nat × List Byte) := []
  deriving DecidableEq, Repr

/-! ### CAN and serial ports -/

/-- A CAN controller. -/
structure CanSt where
  /-- Write and read pointers of the three transmit FIFOs, and of the receive buffer. -/
  txWp : SMap Nat := []
  txRp : SMap Nat := []
  rxWp : Nat := 0
  rxRp : Nat := 0
  /-- The FIFO whose head is chosen for the next frame or is in transmission (R409). -/
  sending : Option Nat := none
  tec : Nat := 0
  recv : Nat := 0
  busOff : Bool := false
  recovering : Bool := false
  /-- FIFOs flushed while their head was in transmission: the pointer up to which, plus 1 (R416). -/
  flushTo : SMap Nat := []
  /-- Bit-rate detection (R417): the candidate in trial, its error-free frames and the start of its window. -/
  det : Option Nat := none
  detOk : Nat := 0
  detAt : Time := 0
  /-- STATE and IDX of DETST when detection does not run. -/
  detRes : Nat := 0
  detIdx : Nat := 0
  /-- A found candidate's timing stays in force, listen-only, until the next CAN flip. -/
  found : Option Nat := none
  lec : Nat := 0
  /-- The instant at which the head in `sending` was chosen, and the start of a recovery (R410, R415). -/
  chosenAt : Time := 0
  recAt : Time := 0
  /-- A flip has changed the configuration or the timing while a frame was in progress, which goes on under the
  CAN_n_CFG and the nominal and data timing that stood then; up to when the controller takes no part after such a flip
  (R419). -/
  cfgWas : Option (Word × Word × Word) := none
  outTo : Time := 0
  /-- The frame of the head in `sending` is known to have started (R416, R419). -/
  txOn : Bool := false
  /-- The frame that this controller last sent on the bus, and the one that it last acknowledged (R405, R411). -/
  sentFr : Option CanFrame := none
  acked : Option CanFrame := none
  deriving DecidableEq, Repr

/-- A transaction of a serial port as its descriptor and the page gave it at its start (R423, R424): the target code, the
command and the address bytes with their lanes, the dummy cycles, and the data phase: its lanes, direction, length, offset
in the data area, and the bytes written. -/
structure QspRun where
  sel : Nat := 0
  cmd : Option Nat := none
  cmdLanes : Nat := 1
  addr : List Byte := []
  addrLanes : Nat := 1
  dummy : Nat := 0
  lanes : Nat := 1
  read : Bool := false
  len : Nat := 0
  ofs : Nat := 0
  wr : List Byte := []
  deriving DecidableEq, Repr

/-- The lines of a serial port as this port drives them (R425): the code on CSELp, none while it drives none, and the
levels of CSTBp and SCKp. -/
structure QspLines where
  sel : Option Nat := none
  stb : Bool := true
  sck : Bool := false
  deriving DecidableEq, Repr

/-- A serial port. -/
structure QspSt where
  wp : Nat := 0
  rp : Nat := 0
  /-- A transaction runs since; its RCKEN, SCK half period and MM, under the page on which it started (R432). -/
  busy : Option Time := none
  run : QspRun := {}
  runRck : Bool := false
  runTh : Time := 0
  runMm : Bool := false
  /-- CPOL and CPHA of that transaction (R425); the strobe's rise of one that the end of a lease has cut short, and the
  data bytes that it has completed by then (R431). -/
  runPol : Bool := false
  runPha : Bool := false
  endAt : Option Time := none
  endBytes : Nat := 0
  /-- STATUS words to become visible at the next boundary: descriptor and code. -/
  done : List (Nat × Nat) := []
  halted : Bool := false
  /-- A selection as target: the bits of a partial word, and whether OVR has counted in it. -/
  sel : Bool := false
  selPart : Nat := 0
  selOvr : Bool := false
  /-- The strobe of the bus is low by another master (R427); the words sent in the selection, oldest first (R428). -/
  low : Bool := false
  selOut : List Nat := []
  trp : Nat := 0
  twp : Nat := 0
  /-- Buffered XIP blocks (QSP0): block address and its 32 bytes, newest first. -/
  xip : List (Nat × List Byte) := []
  /-- The XIP read in progress (R426): what it sends, its start, its end, T_H and CPOL. -/
  xipRun : QspRun := {}
  xipFrom : Time := 0
  xipTo : Time := 0
  xipTh : Time := 0
  xipPol : Bool := false
  freeAt : Time := 0
  deriving DecidableEq, Repr

/-! ### Trust, self-test and power -/

/-- A TRU command in execution: its OP, its partition, the address and the length of its data as submitted, the
instants of its start and its end, and the record that an install has checked (R444). -/
structure TruRun where
  op : Nat
  part : Nat
  addr : Nat
  len : Nat
  startAt : Time
  endAt : Time
  data : List Byte := []
  deriving DecidableEq, Repr

/-- TRU beyond its registers. -/
structure TruSt where
  /-- OTP: the four copies of each step of the life cycle, by the state to which the step leads (R435); the root-key
  hashes with their programmed and revoked bits, device key programmed, and whether OTP key reads are blocked. -/
  otp : SMap (BitVec 4) := [(1, 15), (2, 15), (3, 15)]
  rootHash : SMap (BitVec 256) := []
  prog : BitVec 2 := 1
  rev : BitVec 2 := 0
  devKey : Bool := true
  otpBlocked : Bool := false
  /-- Scan has zeroised the key store (R469). -/
  zeroised : Bool := false
  /-- The key SEQ under which the running SV image was verified (R437). -/
  svSeq : Option Nat := none
  /-- The count of nonces presented (R446). -/
  nonceN : Nat := 0
  /-- A service token, a debug token and a return token in force until. -/
  service : Option Time := none
  debug : Option Time := none
  ret : Option Time := none
  erased : Bool := false
  eraseEnd : Time := 0
  run : Option TruRun := none
  /-- The roll-back of partition 0 that TRU makes by itself (R455): its start and its end. -/
  auto_ : Option (Time × Time) := none
  /-- A copy or roll-back that a reset has interrupted and that the boot ROM completes (R453): partition, roll-back. -/
  resume : Option (Nat × Bool) := none
  /-- Staged bytes of each partition. -/
  staged : SMap Nat := []
  sealed : SMap (BitVec 256) := []
  /-- The open gathering: the manifest bytes, partitions switched (oldest first), partitions with OK reported. -/
  manifest : List Byte := []
  switched : List Nat := []
  okParts : List Nat := []
  failedParts : List Nat := []
  /-- The version digest before the gathering's first switch. -/
  oldVerd : Word := 0
  /-- The version digest of the gathering record, which the boot ROM loads (R449). -/
  recVerd : Word := 0
  /-- Members whose success report, and whose rollback report, the lead holds. -/
  succ : BitVec 64 := 0
  rolled : BitVec 64 := 0
  /-- Members whose failure report the lead holds; the boundary at which this member's success report goes out again
  (R457); a failure is to be reported once the device is admitted again (R460). -/
  fails : BitVec 64 := 0
  reportAt : Nat := 0
  failReport : Bool := false
  /-- The lead sends ABORT every tick since; the lead announces GATH = 0 from the next tick signature. -/
  abortAt : Option Time := none
  aloneAt : Option Time := none
  closing : Bool := false
  /-- Start tick of the SV image in probation, and SV's OP 8. -/
  svStart : Nat := 0
  svOk : Bool := false
  deriving DecidableEq, Repr

/-- Where the test of a SAR converter stands (R464). -/
inductive SaxStage where
  /-- SAX and the converter run in parallel before SAX takes over. -/
  | joining
  /-- SAX carries the work; the converter runs its ladder check and its logic test. -/
  | checking
  /-- They run in parallel before the converter returns. -/
  | returning
  /-- Their codes have differed; SAX runs its self-test (R290). -/
  | differs
  /-- The converter has its work back. -/
  | returned
  /-- The ladder check or the logic test has failed; the converter stays on SAX. -/
  | failed
  deriving DecidableEq, Repr

/-- A block self-test in progress: class, instance, the instant of its end, and the stage of a converter's test. -/
structure BtRun where
  cls : Nat
  inst : Nat
  endAt : Time
  stage : SaxStage := .joining
  deriving DecidableEq, Repr

/-- TST beyond its registers. -/
structure TstSt where
  bt : Option BtRun := none
  /-- SAX is no longer free: it carries a failed converter's work for good, or has failed itself (R464). -/
  saxUsed : Bool := false
  /-- The next word of each class of the memory test, and the instant of its last visit; the scan chains are enabled
  (R469). -/
  pos : SMap Nat := []
  visitAt : SMap Nat := []
  scan : Bool := false
  deriving DecidableEq, Repr

/-- The stages of a logic-supply hand-over (R484). -/
inductive HoStage where
  | idle
  /-- HOLD_REQ is high; SRC_SEL changes THLD after it. -/
  | hold
  /-- SRC_SEL has changed; HOLD_REQ falls TSET after it. -/
  | settle
  /-- Both sources are lost (R487). -/
  | lost
  deriving DecidableEq, Repr

/-- Reset, supplies and temperature. -/
structure PwrSt where
  /-- The device is in reset (R481); the boot ROM runs (R449). -/
  inReset : Bool := false
  resetEnd : Time := 0
  booting : Bool := true
  /-- VDD and VDDIO33 are in range from this instant on (R483). -/
  railsFrom : Time := 0
  mainOk : Bool := false
  bkupOk : Bool := false
  /-- SRC_SEL: false main, true backup; HOLD_REQ. -/
  src : Bool := false
  holdReq : Bool := false
  stage : HoStage := .idle
  forced : Bool := false
  stageAt : Time := 0
  doneAt : Option Time := none
  mainSince : Option Time := none
  /-- Readings of TS0 to TS3 in °C, and THERM_N low. -/
  ts : SMap (BitVec 8) := []
  therm : Bool := false
  deriving DecidableEq, Repr

/-! ### The state -/

/-- The whole state of the device. -/
structure State where
  /-- The commands that wait, first in, first out. -/
  pending : List Instr := []
  /-- The variant of the part (R4). -/
  variant : Variant := .hz9610
  /-- The instant reached, in units of 31.25 ps. -/
  now : Time := 0
  /-- MODEL'S OWN: how many free values have been drawn. No statement rests on its value. -/
  free : Nat := 0
  /-- The fields of the registers that are not RWS. -/
  regs : SMap Word := []
  /-- The RWS fields: shadow page, live page, and the MOD and GLK page that acts on the pins (R65, R74). -/
  shadow : SMap Word := []
  live : SMap Word := []
  act : SMap Word := []
  /-- The MOD and GLK pages that flipped at the last boundary and act from the next one (R74). -/
  toAct : SMap Word := []
  /-- Byte memories of the system map, by address; TCMs by 2^20 × pair + offset. -/
  mem : SMap Byte := []
  tcm : SMap Byte := []
  /-- 64-bit words of system SRAM and eMRAM that hold an uncorrectable error, by address / 8 (R93). -/
  eccBad : SMap Bool := []
  /-- Events observed since last raised, laid out as EVR_PEND by address (R129). -/
  observed : SMap Word := []
  tick : TickSt := {}
  units : SMap UnitSt := []
  /-- The colophon bank that collects, in entry order (R56). -/
  col : List Entry := []
  prc : PrcSt := {}
  eng : EngSt := {}
  legs : SMap LegSt := []
  grps : SMap GrpSt := []
  cls : SMap ClSt := []
  /-- The timebase is lost (R221). -/
  tbLost : Bool := false
  engHalt : Bool := false
  chans : SMap ChSt := []
  /-- Input clocks: the instant of the last fall of CLKOK (R272, R275). -/
  clkLost : SMap Nat := []
  /-- Output clocks: the instant from which the device has driven them as they are (R270). -/
  clkAt : SMap Nat := []
  cal : Option CalSt := none
  rel : RelSt := {}
  sars : SMap SarSt := []
  slots : SMap SlotSt := []
  /-- The instants at which the SAR reference was last changed, and at which it is settled (R283). -/
  refFrom : Time := 0
  refAt : Time := 0
  ports : SMap PortSt := []
  cmps : SMap CmpSt := []
  ems : SMap EmSt := []
  plss : SMap PlsSt := []
  saf : SafSt := {}
  aux : SMap AuxSt := []
  spn : SpnSt := {}
  cans : SMap CanSt := []
  qsps : SMap QspSt := []
  tru : TruSt := {}
  tst : TstSt := {}
  pwr : PwrSt := {}
  deriving DecidableEq, Repr

/-- The device right after reset, on either variant: on the HZ9605 the absent units' quotas count 0, so that
TKC_QPOOL.FREE is 80 (R4, R81). -/
def State.resetAs (v : Variant) : State :=
  match v with
  | .hz9610 => {}
  | .hz9605 => { variant := .hz9605, regs := [(TKC_QPOOL, 80)] }

/-- The device right after reset, on the HZ9610. -/
def State.reset : State := {}

end Sys2Proof.Machine
end

