-- ==== Sys2Proof/Machine/Ops.lean ====
section
/-! DEFINITION. The named operations over registers, memories, units, legs, groups and the other instances, the
address map, events, units, leases and the pages of groups and legs. -/

namespace Sys2Proof.Machine
open Sys2Proof

/-- The outcome of a meaning: every meaning of this model gives a next state. -/
abbrev Out := Host.Outcome State Fault Refusal

/-! ### Time -/

/-- Time moves on to `t`, and never back. -/
def upto (t : Time) (s : State) : State := { s with now := max s.now t }

/-- The tick runs (R64). -/
def ticking (s : State) : Bool := decide (s.tick.run = .running)

/-- Timebase ticks since the last boundary (TKC_TPOS). -/
def tpos (s : State) : Nat := if ticking s then (s.now - s.tick.last) / tb else 0

/-- Draw the next free value. -/
def freeWord (s : State) : Word := Config.freeWord s.free
def freeBool (s : State) : Bool := Config.freeBool s.free
def spend (s : State) : State := { s with free := s.free + 1 }

/-! ### Variant (R4) -/

def is9610 (s : State) : Bool := decide (s.variant = .hz9610)
def hasUnit (s : State) (u : Nat) : Bool := is9610 s || u < 3 || u == 6 || u == 7
def hasLeg (s : State) (l : Nat) : Bool := l < (if is9610 s then 96 else 48)
def hasCluster (s : State) (c : Nat) : Bool := c < (if is9610 s then 16 else 8)
def hasBs (s : State) (i : Nat) : Bool := i < (if is9610 s then 112 else 56)
def hasClk (s : State) (k : Nat) : Bool := k < (if is9610 s then 14 else 7)
def hasPort (s : State) (f : Nat) : Bool := f < (if is9610 s then 12 else 6)
def hasSp (s : State) (p : Nat) : Bool := p < (if is9610 s then 4 else 2)
def hasCan (s : State) (n : Nat) : Bool := n < (if is9610 s then 6 else 4)

/-- The register at `a` belongs to an instance absent on the HZ9605 (R6, R81, R226, R268, R294, R298, R403,
R420). -/
def absentReg (a : Nat) : Bool :=
  let w := winOf a
  let o := a % 0x10000
  let mid (base st : Nat) : Bool := base + 3 * st ≤ o && o < base + 6 * st
  match w with
  | 1 => mid 0x40 4 || mid 0x60 4 || mid 0x80 4 || mid 0xA0 4 || mid 0xC0 4
  | 2 => mid 0 0x40 || mid 0x310 4
  | 3 => mid 0x1000 0x100 || mid 0x1800 0x100
  | 5 => 0x300 ≤ o && o < 0x600
  | 6 => (0x300 ≤ o && o < 0x600) || (0xA20 ≤ o && o < 0xA40)
  | 7 => (0x1C ≤ o && o < 0x38) || (0x480 ≤ o && o < 0x800)
  | 9 => 0x180 ≤ o && o < 0x300
  | 11 => (0x140 ≤ o && o < 0x180) || o == 0x30C || o == 0x310 || o == 0x324 || o == 0x328
  | 12 => 0x2000 ≤ o
  | _ => false

/-- The register at `a` is absent on this variant. -/
def absent (s : State) (a : Nat) : Bool := !(is9610 s) && absentReg a

/-- The event number is reserved, or belongs to an absent instance: it never asserts (R7, R502). -/
def deadEvent (s : State) (e : Nat) : Bool :=
  (254 ≤ e && e < 304) || (349 ≤ e && e < 352) || e == 382 || e == 383 || (413 ≤ e && e < 416) ||
  (438 ≤ e && e < 464) || (480 ≤ e && e < 512) || (560 ≤ e && e < 592 && (e - 560) % 8 == 7) ||
  (602 ≤ e && e < 608) || (615 ≤ e && e < 624) || 631 ≤ e ||
  (!(is9610 s) && ((48 ≤ e && e < 96) || (104 ≤ e && e < 112) || (184 ≤ e && e < 240) || (310 ≤ e && e < 316) ||
    (322 ≤ e && e < 328) || (334 ≤ e && e < 340) || (544 ≤ e && e < 560)))

/-! ### Registers: the fields that are not RWS, the shadow, live and acting pages -/

def reg (s : State) (a : Nat) : Word := SMap.get regReset s.regs a
def setReg (a : Nat) (v : Word) (s : State) : State := { s with regs := SMap.set regReset s.regs a v }
def shad (s : State) (a : Nat) : Word := SMap.get regReset s.shadow a
def setShad (a : Nat) (v : Word) (s : State) : State := { s with shadow := SMap.set regReset s.shadow a v }
def live (s : State) (a : Nat) : Word := SMap.get regReset s.live a
def setLive (a : Nat) (v : Word) (s : State) : State := { s with live := SMap.set regReset s.live a v }
def act (s : State) (a : Nat) : Word := SMap.get regReset s.act a

/-- The value of a field in a word. -/
def Fld.of (f : Fld) (w : Word) : Nat := bits w.toNat f.lsb f.width
/-- A word with a field replaced. -/
def Fld.put (f : Fld) (v : Nat) (w : Word) : Word := BitVec.ofNat 32 (setBits w.toNat f.lsb f.width v)

def fld (s : State) (f : Fld) : Nat := f.of (reg s f.reg)
def setFld (f : Fld) (v : Nat) (s : State) : State := setReg f.reg (f.put v (reg s f.reg)) s
def sfld (s : State) (f : Fld) : Nat := f.of (shad s f.reg)
def lfld (s : State) (f : Fld) : Nat := f.of (live s f.reg)
def afld (s : State) (f : Fld) : Nat := f.of (act s f.reg)
/-- A one-bit field is set. -/
def flag (s : State) (f : Fld) : Bool := fld s f == 1
def lflag (s : State) (f : Fld) : Bool := lfld s f == 1
def sflag (s : State) (f : Fld) : Bool := sfld s f == 1
def aflag (s : State) (f : Fld) : Bool := afld s f == 1
/-- Set or clear bit `i` of a field. -/
def setFldBit (f : Fld) (i : Nat) (v : Bool) (s : State) : State :=
  setFld f (if v then setBit (fld s f) i else clearBit (fld s f) i) s
/-- Increment a counter field, saturating at all ones. -/
def incFld (f : Fld) (s : State) : State := setFld f (satAdd (fld s f) 1 (2 ^ f.width - 1)) s
/-- Raise a field to `v` if it is below. -/
def maxFld (f : Fld) (v : Nat) (s : State) : State :=
  setFld f (max (fld s f) (if v < 2 ^ f.width then v else 2 ^ f.width - 1)) s

/-- The 32-bit mask of the bytes that a byte mask names (R55). -/
def maskBits (m : Mask) : Nat :=
  (if m.getLsbD 0 then 0xFF else 0) + (if m.getLsbD 1 then 0xFF00 else 0) +
  (if m.getLsbD 2 then 0xFF0000 else 0) + (if m.getLsbD 3 then 0xFF000000 else 0)

/-- `old` with the bits of `m` taken from `v`. -/
def mergeBits (old v : Word) (m : Nat) : Word :=
  BitVec.ofNat 32 ((old.toNat - (old.toNat &&& m)) + (v.toNat &&& m))

/-! ### Instances -/

def unitD (_ : Nat) : UnitSt := {}
def unit (s : State) (k : Nat) : UnitSt := SMap.get unitD s.units k
def updUnit (k : Nat) (f : UnitSt → UnitSt) (s : State) : State :=
  { s with units := SMap.set unitD s.units k (f (unit s k)) }

def legD (_ : Nat) : LegSt := {}
def leg (s : State) (l : Nat) : LegSt := SMap.get legD s.legs l
def updLeg (l : Nat) (f : LegSt → LegSt) (s : State) : State :=
  { s with legs := SMap.set legD s.legs l (f (leg s l)) }

def grpD (_ : Nat) : GrpSt := {}
def grp (s : State) (g : Nat) : GrpSt := SMap.get grpD s.grps g
def updGrp (g : Nat) (f : GrpSt → GrpSt) (s : State) : State :=
  { s with grps := SMap.set grpD s.grps g (f (grp s g)) }

def clD (_ : Nat) : ClSt := {}
def cl (s : State) (c : Nat) : ClSt := SMap.get clD s.cls c
def updCl (c : Nat) (f : ClSt → ClSt) (s : State) : State := { s with cls := SMap.set clD s.cls c (f (cl s c)) }

def chD (_ : Nat) : ChSt := {}
def chan (s : State) (i : Nat) : ChSt := SMap.get chD s.chans i
def updChan (i : Nat) (f : ChSt → ChSt) (s : State) : State :=
  { s with chans := SMap.set chD s.chans i (f (chan s i)) }

def sarD (_ : Nat) : SarSt := {}
def sar (s : State) (i : Nat) : SarSt := SMap.get sarD s.sars i
def updSar (i : Nat) (f : SarSt → SarSt) (s : State) : State := { s with sars := SMap.set sarD s.sars i (f (sar s i)) }

def slotD (_ : Nat) : SlotSt := {}
def slot (s : State) (i : Nat) : SlotSt := SMap.get slotD s.slots i
def updSlot (i : Nat) (f : SlotSt → SlotSt) (s : State) : State :=
  { s with slots := SMap.set slotD s.slots i (f (slot s i)) }

def portD (_ : Nat) : PortSt := {}
def port (s : State) (i : Nat) : PortSt := SMap.get portD s.ports i
def updPort (i : Nat) (f : PortSt → PortSt) (s : State) : State :=
  { s with ports := SMap.set portD s.ports i (f (port s i)) }

def cmpD (_ : Nat) : CmpSt := {}
def cmpo (s : State) (i : Nat) : CmpSt := SMap.get cmpD s.cmps i
def updCmp (i : Nat) (f : CmpSt → CmpSt) (s : State) : State := { s with cmps := SMap.set cmpD s.cmps i (f (cmpo s i)) }

def emD (_ : Nat) : EmSt := {}
def em (s : State) (i : Nat) : EmSt := SMap.get emD s.ems i
def updEm (i : Nat) (f : EmSt → EmSt) (s : State) : State := { s with ems := SMap.set emD s.ems i (f (em s i)) }

def plsD (_ : Nat) : PlsSt := {}
def pls (s : State) (i : Nat) : PlsSt := SMap.get plsD s.plss i
def updPls (i : Nat) (f : PlsSt → PlsSt) (s : State) : State := { s with plss := SMap.set plsD s.plss i (f (pls s i)) }

def sinD (_ : Nat) : SinSt := {}
def sin (s : State) (i : Nat) : SinSt := SMap.get sinD s.saf.sins i
def updSin (i : Nat) (f : SinSt → SinSt) (s : State) : State :=
  { s with saf := { s.saf with sins := SMap.set sinD s.saf.sins i (f (sin s i)) } }

def soutD (_ : Nat) : SoutSt := {}
def sout (s : State) (i : Nat) : SoutSt := SMap.get soutD s.saf.souts i
def updSout (i : Nat) (f : SoutSt → SoutSt) (s : State) : State :=
  { s with saf := { s.saf with souts := SMap.set soutD s.saf.souts i (f (sout s i)) } }

def linkD (_ : Nat) : LinkSt := {}
def link (s : State) (i : Nat) : LinkSt := SMap.get linkD s.spn.links i
def updLink (i : Nat) (f : LinkSt → LinkSt) (s : State) : State :=
  { s with spn := { s.spn with links := SMap.set linkD s.spn.links i (f (link s i)) } }

def membD (_ : Nat) : MembSt := {}
def memb (s : State) (i : Nat) : MembSt := SMap.get membD s.spn.membs i
def updMemb (i : Nat) (f : MembSt → MembSt) (s : State) : State :=
  { s with spn := { s.spn with membs := SMap.set membD s.spn.membs i (f (memb s i)) } }

def qD (_ : Nat) : QSt := {}
def spq (s : State) (i : Nat) : QSt := SMap.get qD s.spn.qs i
def updSpq (i : Nat) (f : QSt → QSt) (s : State) : State :=
  { s with spn := { s.spn with qs := SMap.set qD s.spn.qs i (f (spq s i)) } }

def canD (_ : Nat) : CanSt := {}
def can (s : State) (i : Nat) : CanSt := SMap.get canD s.cans i
def updCan (i : Nat) (f : CanSt → CanSt) (s : State) : State := { s with cans := SMap.set canD s.cans i (f (can s i)) }

def qspD (_ : Nat) : QspSt := {}
def qsp (s : State) (i : Nat) : QspSt := SMap.get qspD s.qsps i
def updQsp (i : Nat) (f : QspSt → QspSt) (s : State) : State := { s with qsps := SMap.set qspD s.qsps i (f (qsp s i)) }

def natD (_ : Nat) : Nat := 0
def wordD (_ : Nat) : Word := 0
def falseD (_ : Nat) : Bool := false

def updTick (f : TickSt → TickSt) (s : State) : State := { s with tick := f s.tick }
def updPrc (f : PrcSt → PrcSt) (s : State) : State := { s with prc := f s.prc }
def updEng (f : EngSt → EngSt) (s : State) : State := { s with eng := f s.eng }
def updSaf (f : SafSt → SafSt) (s : State) : State := { s with saf := f s.saf }
def updSpn (f : SpnSt → SpnSt) (s : State) : State := { s with spn := f s.spn }
def updTru (f : TruSt → TruSt) (s : State) : State := { s with tru := f s.tru }
def updPwr (f : PwrSt → PwrSt) (s : State) : State := { s with pwr := f s.pwr }

/-- Apply a state change for every member of a list, in order. -/
def forAll {α : Type} (xs : List α) (f : α → State → State) (s : State) : State := xs.foldl (fun t x => f x t) s

/-- The numbers 0 to n − 1 for which a test of the state holds. -/
def those (n : Nat) (p : Nat → Bool) : List Nat := (List.range n).filter p

/-! ### The address map (R495) -/

/-- The memory that an address of the system map lies in. -/
inductive Target where
  | none
  | bootRom
  | tcm (off : Nat)
  | sram
  /-- eMRAM that only TRU writes. -/
  | emramTru
  /-- The eMRAM software area. -/
  | emramSw
  | block (w : Nat)
  | program
  | state (w : Nat)
  | scratch (w : Nat)
  | table
  | sample (w : Nat)
  | result (w : Nat)
  | spnTx (q : Nat)
  | spnRx (q : Nat)
  | spnPer (b : Nat)
  | spnMail (m : Nat)
  | canMem (n : Nat)
  | qspMem (p : Nat)
  | xip
  deriving DecidableEq, Repr

def target (a : Nat) : Target :=
  if a < 0x20000 then .bootRom
  else if a < 0x10000000 then .none
  else if a < 0x10100000 then .tcm (a % 0x10000000)
  else if a < 0x20000000 then .none
  else if a < 0x20800000 then .sram
  else if a < 0x30000000 then .none
  else if a < 0x31E80000 then .emramTru
  else if a < 0x32000000 then .emramSw
  else if a < 0x40000000 then .none
  else if a < 0x40110000 then .block (winOf a)
  else if a < 0x44000000 then .none
  else if a < 0x44020000 then .program
  else if a < 0x44100000 then .none
  else if a < 0x44140000 then .state (a % 0x100000 / 4)
  else if a < 0x44180000 then .none
  else if a < 0x44188000 then .scratch (a % 0x80000 / 4)
  else if a < 0x441A0000 then .none
  else if a < 0x441B0000 then .table
  else if a < 0x441C0000 then .none
  else if a < 0x441C1000 then .sample (a % 0x40000 / 4)
  else if a < 0x441E0000 then .none
  else if a < 0x441E0800 then .result (a % 0x20000 / 4)
  else if a < 0x48000000 then .none
  else if a < 0x48040000 then .spnTx (a % 0x40000 / 0x10000)
  else if a < 0x48080000 then .spnRx (a % 0x40000 / 0x10000)
  else if a < 0x48080400 then .spnPer (a % 0x80000 / 0x200)
  else if a < 0x48090000 then .none
  else if a < 0x48098000 then .spnMail (a % 0x10000 / 0x200)
  else if a < 0x480A0000 then .none
  else if a < 0x480B8000 then .canMem (a % 0x20000 / 0x4000)
  else if a < 0x48200000 then .none
  else if a < 0x48208000 then .qspMem (a % 0x10000 / 0x2000)
  else if a < 0x60000000 then .none
  else if a < 0x70000000 then .xip
  else .none

/-! ### Byte memories -/

/-- What an unlisted byte reads as: END in every word of the program store (R142), the reserved partition 9 of each
eMRAM region all ones (R439), and 0 elsewhere. -/
def memD (a : Nat) : Byte :=
  if 0x44000000 ≤ a ∧ a < 0x44020000 then (if a % 8 = 7 then 0x04#8 else 0#8)
  else if 0x30000000 ≤ a ∧ a < 0x31E00000 ∧ 0x900000 ≤ (a + 0x200000) % 0xA00000 then 0xFF#8
  else 0#8

def tcmD (_ : Nat) : Byte := 0#8

def rdByte (s : State) (a : Nat) : Byte := SMap.get memD s.mem a
def wrByte (a : Nat) (b : Byte) (s : State) : State := { s with mem := SMap.set memD s.mem a b }
def rdTcm (s : State) (k : Nat) : Byte := SMap.get tcmD s.tcm k
def wrTcm (k : Nat) (b : Byte) (s : State) : State := { s with tcm := SMap.set tcmD s.tcm k b }

/-- `n` bytes from address `a`. -/
def rdBytes (s : State) (a n : Nat) : List Byte := (List.range n).map fun i => rdByte s (a + i)
/-- Write bytes from address `a` upwards. -/
def wrBytes (a : Nat) (bs : List Byte) (s : State) : State :=
  match bs with
  | [] => s
  | b :: r => wrBytes (a + 1) r (wrByte a b s)
def rdTcms (s : State) (k n : Nat) : List Byte := (List.range n).map fun i => rdTcm s (k + i)
def wrTcms (k : Nat) (bs : List Byte) (s : State) : State :=
  match bs with
  | [] => s
  | b :: r => wrTcms (k + 1) r (wrTcm k b s)

/-- The number that bytes spell, least significant first. -/
def leNat (bs : List Byte) : Nat :=
  match bs with
  | [] => 0
  | b :: r => b.toNat + 256 * leNat r
/-- The `n` bytes of a number, least significant first. -/
def leBytes (n v : Nat) : List Byte :=
  match n with
  | 0 => []
  | k + 1 => BitVec.ofNat 8 v :: leBytes k (v / 256)

def rdWord (s : State) (a : Nat) : Word := BitVec.ofNat 32 (leNat (rdBytes s a 4))
def wrWord (a : Nat) (v : Word) (s : State) : State := wrBytes a (leBytes 4 v.toNat) s

/-! ### Engine memories -/

def cellD (_ : Nat) : Cell := {}
/-- The key of result-bank word `w` among the twin cells. -/
def resKey (w : Nat) : Nat := 65536 + w
def cell (s : State) (k : Nat) : Cell := SMap.get cellD s.eng.cells k
def updCell (k : Nat) (f : Cell → Cell) (s : State) : State :=
  updEng (fun e => { e with cells := SMap.set cellD e.cells k (f (SMap.get cellD e.cells k)) }) s
/-- A committed state word. -/
def stateWord (s : State) (w : Nat) : Word := (cell s w).com
/-- The result bank as last latched by the modulator (R20). -/
def latched (s : State) (w : Nat) : Word := SMap.get wordD s.eng.latched w
def scrD (_ : Nat) : Scr := {}
def scr (s : State) (w : Nat) : Scr := SMap.get scrD s.eng.scratch w
def updScr (w : Nat) (f : Scr → Scr) (s : State) : State :=
  updEng (fun e => { e with scratch := SMap.set scrD e.scratch w (f (SMap.get scrD e.scratch w)) }) s
/-- A sample-bank word as latched. -/
def sample (s : State) (w : Nat) : Word := SMap.get wordD s.eng.sample w

/-- Whether a twin cell is pending. -/
def Cell.isPend (c : Cell) : Bool := c.eng.isSome || !c.units.isEmpty
/-- The unit's value of highest rank, if a unit holds the cell pending (R22): that of the unit whose rank none exceeds. -/
def Cell.unitVal (c : Cell) : Option Word := (c.units.find? fun e => c.units.all fun q => decide (q.1 ≤ e.1)).map (·.2)
/-- The pending copy, whoever wrote it; the committed one if none is pending (R143). -/
def Cell.pendVal (c : Cell) : Word :=
  match c.unitVal, c.eng with
  | some v, _ => v
  | none, some (v, _) => v
  | none, none => c.com

/-! ### Events (R128 to R131) -/

/-- The address under which the pending latch of event `e` at controller `c` is held: that of the A view, whatever view
presents it (R132). -/
def pendReg (c e : Nat) : Nat := EVR_PEND c (e / 32)

/-- The pair's state (R134). -/
def pairState (s : State) (u : Nat) : Nat := fld s (PRC_STAT_STATE u)

/-- The controller that an event goes to: the duty's primary, SV for a dropped duty, or the route's target
(R130, R108). DESIGN CHOICE (log 64): 7 is none, that of a duty whose PRIM is 7 too, and the event is discarded. -/
def evTarget (s : State) (e : Nat) : Nat :=
  let duty := lfld s (EVR_ROUTE_DUTY e)
  if lflag s (EVR_ROUTE_DBY e) then
    (if s.prc.dropped.getLsbD duty then 6 else fld s (PRC_DUTY_CFG_PRIM duty))
  else lfld s (EVR_ROUTE_TARGET e)

/-- Queue a routed event for the spine; with 64 waiting it is dropped and counted (R399). -/
def queueRemote (e : Nat) (s : State) : State :=
  if s.spn.evq.length < 64 then { s with spn := { s.spn with evq := s.spn.evq ++ [e] } }
  else incFld SPN_CNT2_EVDROP s

/-- Set a bit of a pending word and take its observed mark away (R129). -/
def latchEvent (a i : Nat) (s : State) : State :=
  let s1 := setReg a (BitVec.ofNat 32 (setBit (reg s a).toNat i)) s
  let o := SMap.get wordD s1.observed a
  { s1 with observed := SMap.set wordD s1.observed a (BitVec.ofNat 32 (clearBit o.toNat i)) }

/-- Set an event's pending latch in its routed controller, take its observed mark away, and queue it for the
spine where its route says so (R131). DESIGN CHOICE (log 58): TARGET = 7 discards the event at the controllers only; with
SPINE = 1 it still goes onto the spine. -/
def raise (e : Nat) (s : State) : State :=
  if e ≥ 640 || deadEvent s e then s
  else
    let c := evTarget s e
    let s1 := if lflag s (EVR_ROUTE_SPINE e) then queueRemote e s else s
    if c ≥ 7 || !(hasUnit s c) then s1
    else latchEvent (pendReg c e) (e % 32) s1

/-- Raise a TKC event, which sets its flag in TKC_EVT too (R80, R81). -/
def raiseTkc (e : Nat) (s : State) : State := raise e (setFldBit TKC_EVT_FLAG (e - 384) true s)

/-- Raise an event if a condition holds. -/
def raiseIf (c : Bool) (e : Nat) (s : State) : State := if c then raise e s else s

/-! ### Units -/

/-- The unit exists, runs, is not halted, and is at work in this tick. -/
def working (s : State) (w : Who) : Bool :=
  let u := unit s w.key
  let st := pairState s w.unit.val
  hasUnit s w.unit.val && !u.halted && !u.failed && decide (u.phase = .work) && u.stall.isNone &&
  !(w.unit.val == 6 && s.prc.svStopped) && !s.pwr.inReset &&
  (if w.halfB then st == 2 else st == 1 || st == 2 || st == 5)

/-- The unit is SV as the fabric and the blocks see it: in BENCH SVB has none of SV's rights to SAF (R343). -/
def isSv (w : Who) : Bool := w.unit.val == 6

/-- The list of units and halves with their keys, in the order AP0 to AP5, SV (R54). -/
def allWho : List Who :=
  [⟨0, false⟩, ⟨0, true⟩, ⟨1, false⟩, ⟨1, true⟩, ⟨2, false⟩, ⟨2, true⟩, ⟨3, false⟩, ⟨3, true⟩, ⟨4, false⟩, ⟨4, true⟩,
   ⟨5, false⟩, ⟨5, true⟩, ⟨6, false⟩, ⟨6, true⟩]

/-- The TCM key of a pair-local offset as the unit sees it: while split, half A sees the lower halves of the
physical TCMs and half B the upper ones, of 256 KiB each (R87, R114); none beyond what the unit sees. -/
def tcmKey (s : State) (w : Who) (off : Nat) : Option Nat :=
  let base := w.unit.val * 0x100000
  if pairState s w.unit.val == 2 then
    if off % 0x80000 < 0x40000 then some (base + off + (if w.halfB then 0x40000 else 0)) else none
  else some (base + off)

/-! ### Leases (R118 to R122) -/

/-- The slots whose lease meets a test of (slot number). -/
def leaseSlots (s : State) (p : Nat → Bool) : List Nat :=
  those 64 fun k => flag s (PRC_LSLOT_VALID k) && p k

/-- The slot that holds resource (class, instance), if any. -/
def leaseOf (s : State) (c i : Nat) : Option Nat :=
  (leaseSlots s fun k => fld s (PRC_LSLOT_CLASS k) == c && fld s (PRC_LSLOT_INST k) == i).head?

/-- The unit holds the lease of slot `k`. -/
def holdsSlot (s : State) (w : Who) (k : Nat) : Bool :=
  fld s (PRC_LSLOT_HOLDER k) == w.unit.val && (fld s (PRC_LSLOT_HALF k) == 1) == w.halfB

/-- The unit holds the lease on resource (class, instance). -/
def holds (s : State) (w : Who) (c i : Nat) : Bool :=
  match leaseOf s c i with
  | some k => holdsSlot s w k
  | none => false

/-- A unit, or any half of it, holds some lease. -/
def holdsAny (s : State) (u : Nat) : Bool := !(leaseSlots s fun k => fld s (PRC_LSLOT_HOLDER k) == u).isEmpty

/-! ### Groups and legs of the acting and live pages -/

/-- The leg is enabled in the acting MOD page and present. -/
def legOn (s : State) (l : Nat) : Bool := hasLeg s l && aflag s (MOD_LEG_CFG_EN l)
def legGrp (s : State) (l : Nat) : Nat := afld s (MOD_LEG_CFG_GROUP l)
/-- The enabled legs of a group. -/
def grpLegs (s : State) (g : Nat) : List Nat := those 96 fun l => legOn s l && legGrp s l == g
/-- The enabled legs of a cluster. -/
def clLegs (s : State) (c : Nat) : List Nat := those 96 fun l => legOn s l && l / 6 == c
/-- The groups with an enabled leg in a cluster. -/
def clGrps (s : State) (c : Nat) : List Nat := those 16 fun g => (clLegs s c).any fun l => legGrp s l == g
/-- The clusters with an enabled leg of a group. -/
def grpCls (s : State) (g : Nat) : List Nat := those 16 fun c => (grpLegs s g).any fun l => l / 6 == c

/-- The lead of the spine or a standalone device (ROLE). -/
def isLead (s : State) : Bool := s.spn.role == 1
def isFollower (s : State) : Bool := s.spn.role == 2

/-! ### Port classes and the application of CL fields -/

/-- The class that a port-class entry acts as (R399): 0 NONE, 1 DBG, 2 SPN-PEER, 3 CAN-OPERATE, 4 CAN-SERVICE. -/
def portClass (s : State) (k : Nat) : Nat :=
  let c := fld s (SPN_PCLS_CLASS k)
  let ok := (c == 1 && k == 0) || (c == 2 && 1 ≤ k && k ≤ 4) || ((c == 3 || c == 4) && 5 ≤ k && k ≤ 10)
  if flag s SPN_PLOCK_LOCK && ok then c else 0

/-- The life-cycle state (R436). -/
def lcState (s : State) : Nat := fld s TRU_LC_STATE

/-- No image runs, and none will: the boot ROM has stopped, or the device is in RETURN (R438, R450). -/
def noImage (s : State) : Bool := decide (2 ≤ fld s TRU_BOOTST_CAUSE) || lcState s == 5

/-- The debug port acts (R436, R438): its class is DBG (R399), which no software sets where no image runs, and the
life-cycle state allows it, FIELD and SERVICE with a debug token (DEDUCED, log 47). -/
def dbgActs (s : State) : Bool :=
  (portClass s 0 == 1 || noImage s) &&
  match lcState s with
  | 1 => true
  | 3 => (s.tru.debug).any fun e => decide (s.now < e)
  | 4 => (s.tru.debug).any fun e => decide (s.now < e)
  | 5 => s.tru.erased
  | _ => false

/-- The bits of a register that carry access code CL, its reserved bits with them. -/
def clMask (a : Nat) : Nat := match regRow? a with | some r => r.cl | none => 0
/-- The bits of a register that are not reserved (R12). -/
def keepMask (a : Nat) : Nat := match regRow? a with | some r => r.keep | none => 0

/-- The value that a register takes when a colophon entry with mask `m` and value `d` is applied to it, with the
reserved bits that the entry carries (R55, R506). -/
def clWord (s : State) (a : Nat) (m : Mask) (d : Word) : Word := mergeBits (reg s a) d (maskBits m &&& clMask a)

/-- Store the applied value of a register, its reserved bits 0. -/
def putCl (a : Nat) (v : Word) (s : State) : State :=
  setReg a (BitVec.ofNat 32 (v.toNat &&& keepMask a)) s

/-- The value `a - b` modulo `n`. -/
def subMod (a b n : Nat) : Nat := (a % n + n - b % n) % n

end Sys2Proof.Machine
end

