-- ==== Sys2Proof/Machine/Cores.lean ====
section
/-! DEFINITION. The cores as their accesses see them: control and status registers, modes, physical memory protection,
exceptions and interrupts, the instructions that a core knows, mtime, and the event controllers that interrupt a unit
(R84 to R86, R128, R129, R132). What the RISC-V privileged architecture gives and the spec names only (the layout of the
control and status registers, the order of a trap) is PRESUMED from it (log 57). -/

namespace Sys2Proof.Machine
open Sys2Proof

/-! ### Control and status registers -/

/-- misa: MXL = 1 and the extensions C, F, I, M and U, which are those of R84 (R85). -/
def misaWord : Word := 0x40101124#32

/-- What a control and status register that nothing has written reads as. -/
def csrD (n : Nat) : Word := if n = 0x301 then misaWord else 0#32

def Arch.csrOf (a : Arch) (n : Nat) : Word := SMap.get csrD a.csr n
/-- The architectural state with a control register replaced; misa keeps its value. -/
def Arch.setCsr (n : Nat) (v : Word) (a : Arch) : Arch :=
  if n = 0x301 then a else { a with csr := SMap.set csrD a.csr n v }

/-- The mode as mstatus.MPP holds it. -/
def Priv.code : Priv → Nat
  | .machine => 3
  | .user => 0

/-- The mode in which a load or store is judged: MPP while mstatus.MPRV is set (bit 17), else the mode itself. -/
def Arch.dataPriv (a : Arch) : Priv :=
  if a.priv = .machine ∧ (a.csrOf 0x300).getLsbD 17 = true then
    (if bits (a.csrOf 0x300).toNat 11 2 = 3 then .machine else .user)
  else a.priv

/-! ### Traps -/

/-- The architectural state after a trap: the pc goes to mtvec, mode machine, the old mode and interrupt enable saved
in mstatus (MIE bit 3, MPIE bit 7, MPP bits 12:11). -/
def Arch.trap (cause tval epc : Word) (a : Arch) : Arch :=
  let st := (a.csrOf 0x300).toNat
  let v := (a.csrOf 0x305).toNat
  let base := 4 * (v / 4)
  let st1 := setBits (setBits (setBits st 7 1 (bits st 3 1)) 3 1 0) 11 2 a.priv.code
  let pc := if cause.getLsbD 31 && v % 4 == 1 then base + 4 * (cause.toNat % 2 ^ 31) else base
  { ((((a.setCsr 0x341 epc).setCsr 0x342 cause).setCsr 0x343 tval).setCsr 0x300 (BitVec.ofNat 32 st1)) with
    priv := .machine, pc := BitVec.ofNat 32 pc }

/-- A unit takes a trap. No command carries the pc of a unit's instruction, so mepc takes a free value with bit 0
clear (log 57). -/
def trap (w : Who) (cause tval : Word) (s : State) : State :=
  spend (updUnit w.key (fun u => { u with arch := u.arch.trap cause tval (freeWord s &&& ~~~1#32) }) s)

/-- A precise exception of a core with its code in mcause and its value in mtval (R57, R84, R85, R93, R496). -/
def except (w : Who) (cause : Nat) (tval : Word) (s : State) : State := trap w (BitVec.ofNat 32 cause) tval s

/-- The store-access fault (exception code 7). -/
def storeFault (w : Who) (a : Word) (s : State) : State := except w 7 a s
/-- The load-access fault (exception code 5). -/
def loadFault (w : Who) (a : Word) (s : State) : State := except w 5 a s

/-! ### Physical memory protection: 16 entries (R84) -/

/-- Trailing ones of a number, `k` at most. -/
def trailingOnes (k n : Nat) : Nat :=
  match k with
  | 0 => 0
  | j + 1 => if n % 2 = 1 then trailingOnes j (n / 2) + 1 else 0

/-- pmpcfg of entry `i`, and pmpaddr. -/
def Arch.pmpCfg (a : Arch) (i : Nat) : Nat := bits (a.csrOf (0x3A0 + i / 4)).toNat (8 * (i % 4)) 8
def Arch.pmpAddr (a : Arch) (i : Nat) : Nat := (a.csrOf (0x3B0 + i)).toNat

/-- PMP entry `i` matches the byte address `n`, by its address mode: OFF, TOR, NA4 or NAPOT. -/
def Arch.pmpMatch (a : Arch) (n i : Nat) : Bool :=
  let p := a.pmpAddr i
  match bits (a.pmpCfg i) 3 2 with
  | 0 => false
  | 1 => decide ((if i = 0 then 0 else 4 * a.pmpAddr (i - 1)) ≤ n) && decide (n < 4 * p)
  | 2 => n / 4 == p
  | _ =>
    let k := trailingOnes 32 p + 1
    n / 4 / 2 ^ k == p / 2 ^ k

/-- An access of a core: an instruction fetch, a load or a store. -/
inductive Access where
  | fetch
  | load
  | store
  deriving DecidableEq, Repr

/-- The bit of pmpcfg that permits an access: R, W or X. -/
def Access.permit : Access → Nat
  | .load => 0
  | .store => 1
  | .fetch => 2

/-- The exception codes of a misaligned and of a refused access. -/
def Access.misaligned : Access → Nat
  | .store => 6
  | _ => 4
def Access.refused : Access → Nat
  | .fetch => 1
  | .load => 5
  | .store => 7

/-- The protection permits an access at byte address `n`: by the lowest entry that matches; with none, in machine
mode only, where an entry binds only if it is locked (bit 7). -/
def Arch.pmpOk (a : Arch) (k : Access) (n : Nat) : Bool :=
  let m := if k = .fetch then a.priv else a.dataPriv
  match (List.range 16).find? (a.pmpMatch n) with
  | none => decide (m = .machine)
  | some i => (decide (m = .machine) && !((a.pmpCfg i).testBit 7)) || (a.pmpCfg i).testBit k.permit

/-! ### Event controllers (R128, R129, R132) -/

/-- The bits of pending word `i` whose live route has HALF = 1. -/
def halfMask (s : State) (i : Nat) : Word :=
  BitVec.ofNat 32 ((those 32 fun j => lflag s (EVR_ROUTE_HALF (32 * i + j))).foldl setBit 0)

/-- The pending word `i` of controller `c` as its A or its B view presents it: while the pair is split A presents the
events with HALF = 0 and B those with HALF = 1; otherwise HALF is ignored and B presents none (R132). -/
def pendView (s : State) (c : Nat) (b : Bool) (i : Nat) : Word :=
  let v := reg s (EVR_PEND c i)
  if pairState s c = 2 then (if b then v &&& halfMask s i else v &&& ~~~(halfMask s i)) else if b then 0#32 else v

/-- Event `e` is pending in a view of controller `c`. -/
def pendEvent (s : State) (c : Nat) (b : Bool) (e : Nat) : Bool :=
  (reg s (pendReg c e)).getLsbD (e % 32) &&
    (if pairState s c = 2 then lflag s (EVR_ROUTE_HALF e) == b else !b)

/-- The pending event of highest priority above the threshold, the lowest number among equals (R129). -/
def topEvent (s : State) (c : Nat) (b : Bool) : Option Nat :=
  let thr := if b then fld s (EVR_B_THR_THR c) else fld s (EVR_THR_THR c)
  (those 640 fun e => pendEvent s c b e && decide (thr < lfld s (EVR_ROUTE_PRIO e))).foldl
    (fun m e => match m with
      | none => some e
      | some f => if lfld s (EVR_ROUTE_PRIO f) < lfld s (EVR_ROUTE_PRIO e) then some e else some f) none

/-- The controller interrupts its unit (R128). -/
def interrupts (s : State) (c : Nat) (b : Bool) : Bool := (topEvent s c b).isSome

/-! ### mtime and interrupts (R86) -/

/-- mtime: timebase ticks since RUN was set, and 0 before that. -/
def mtime (s : State) : Nat := if s.tick.run = .stopped then 0 else (s.now - s.tick.runAt) / tb

/-- mip of a unit: the machine external interrupt (bit 11) and the machine timer interrupt (bit 7). -/
def mip (s : State) (w : Who) : Word :=
  BitVec.ofNat 32 (b2n (interrupts s w.unit.val w.halfB) * 2 ^ 11 + b2n (decide ((unit s w.key).timecmp ≤ mtime s)) * 2 ^ 7)

/-- The interrupt that a unit takes before its next instruction, as its mcause: one that mie enables while mstatus.MIE is
set or the mode is user; the external one goes first. -/
def interruptDue (s : State) (w : Who) : Option Word :=
  let a := (unit s w.key).arch
  let p := (a.csrOf 0x304) &&& mip s w
  if !((a.csrOf 0x300).getLsbD 3) && decide (a.priv = .machine) then none
  else if p.getLsbD 11 then some 0x8000000B#32
  else if p.getLsbD 7 then some 0x80000007#32
  else none

/-- The unit takes the interrupt that is due. -/
def deliver (w : Who) (s : State) : State :=
  match interruptDue s w with
  | some c => trap w c 0#32 s
  | none => s

/-! ### Accesses -/

/-- The unit works, from its instant of start on, and a due interrupt comes before the access `f`. -/
def atWork (w : Who) (f : State → State) (s : State) : State :=
  if working s w then f (deliver w (upto (unit s w.key).startAt s)) else s

/-- The effect `f` of an access of `z` bytes at `a`, where the access is aligned (R84) and the protection permits it. -/
def access (w : Who) (k : Access) (a : Word) (z : Nat) (f : State → State) (s : State) : State :=
  if a.toNat % z ≠ 0 then except w k.misaligned a s
  else if (unit s w.key).arch.pmpOk k a.toNat then f s
  else except w k.refused a s

/-- An access of `z` bytes at `a` goes through: the unit works and has started, no interrupt comes first, the address is
aligned and the protection permits it. -/
def goes (s : State) (w : Who) (k : Access) (a : Word) (z : Nat) : Bool :=
  working s w && decide ((unit s w.key).startAt ≤ s.now) && (interruptDue s w).isNone && a.toNat % z == 0 &&
  (unit s w.key).arch.pmpOk k a.toNat

/-! ### The instructions of RV32IMFC with Zicsr, Zifencei, Zba and Zbb (R84, R85) -/

/-- A 16-bit instruction of the C extension with F and without D. -/
def legal16 (i : Nat) : Bool :=
  let f3 := bits i 13 3
  let b12 := bits i 12 1
  let rd := bits i 7 5
  match i % 4 with
  | 0 => if f3 = 0 then bits i 5 8 != 0 else f3 == 2 || f3 == 3 || f3 == 6 || f3 == 7
  | 1 =>
    if f3 = 3 then b12 != 0 || bits i 2 5 != 0
    else if f3 = 4 then (match bits i 10 2 with | 2 => true | 3 => b12 == 0 | _ => b12 == 0)
    else true
  | 2 =>
    match f3 with
    | 0 => b12 == 0
    | 2 => rd != 0
    | 4 => !(b12 == 0 && bits i 2 5 == 0 && rd == 0)
    | 1 => false
    | 5 => false
    | _ => true
  | _ => false

/-- The rounding mode of a floating-point instruction is not reserved. -/
def rmOk (f3 : Nat) : Bool := f3 != 5 && f3 != 6

/-- OP-IMM (0x13), with the immediate forms of Zbb. -/
def legalImm (f3 f7 rs2 : Nat) : Bool :=
  match f3 with
  | 1 => f7 == 0 || (f7 == 0x30 && (rs2 ≤ 2 || rs2 == 4 || rs2 == 5))
  | 5 => f7 == 0 || f7 == 0x20 || f7 == 0x30 || (f7 == 0x14 && rs2 == 7) || (f7 == 0x34 && rs2 == 0x18)
  | _ => true

/-- OP (0x33): I, M, Zba and Zbb. -/
def legalOp (f3 f7 rs2 : Nat) : Bool :=
  match f7 with
  | 0x00 => true
  | 0x01 => true
  | 0x20 => f3 == 0 || f3 == 5 || f3 == 4 || f3 == 6 || f3 == 7
  | 0x10 => f3 == 2 || f3 == 4 || f3 == 6
  | 0x05 => 4 ≤ f3
  | 0x30 => f3 == 1 || f3 == 5
  | 0x04 => f3 == 4 && rs2 == 0
  | _ => false

/-- OP-FP (0x53), single precision. -/
def legalFp (f3 f7 rs2 : Nat) : Bool :=
  match f7 with
  | 0x00 => rmOk f3
  | 0x04 => rmOk f3
  | 0x08 => rmOk f3
  | 0x0C => rmOk f3
  | 0x2C => rmOk f3 && rs2 == 0
  | 0x10 => f3 ≤ 2
  | 0x14 => f3 ≤ 1
  | 0x50 => f3 ≤ 2
  | 0x60 => rmOk f3 && rs2 ≤ 1
  | 0x68 => rmOk f3 && rs2 ≤ 1
  | 0x70 => rs2 == 0 && f3 ≤ 1
  | 0x78 => rs2 == 0 && f3 == 0
  | _ => false

/-- A 32-bit instruction of the extensions of R84. -/
def legal32 (i : Nat) : Bool :=
  let f3 := bits i 12 3
  let f7 := bits i 25 7
  let rs2 := bits i 20 5
  match i % 128 with
  | 0x37 => true
  | 0x17 => true
  | 0x6F => true
  | 0x67 => f3 == 0
  | 0x63 => f3 != 2 && f3 != 3
  | 0x03 => f3 != 3 && f3 ≤ 5
  | 0x23 => f3 ≤ 2
  | 0x13 => legalImm f3 f7 rs2
  | 0x33 => legalOp f3 f7 rs2
  | 0x0F => f3 ≤ 1
  | 0x73 => if f3 = 0 then i == 0x73 || i == 0x100073 || i == 0x30200073 || i == 0x10500073 else f3 != 4
  | 0x07 => f3 == 2
  | 0x27 => f3 == 2
  | 0x43 => rmOk f3 && f7 % 4 == 0
  | 0x47 => rmOk f3 && f7 % 4 == 0
  | 0x4B => rmOk f3 && f7 % 4 == 0
  | 0x4F => rmOk f3 && f7 % 4 == 0
  | 0x53 => legalFp f3 f7 rs2
  | _ => false

/-- The instruction that begins with the bits of `i` is one that a core implements. -/
def legalInstr (i : Word) : Bool := if i.toNat % 4 = 3 then legal32 i.toNat else legal16 (i.toNat % 0x10000)

/-- A core has fetched `i`: an instruction of no extension of R84 raises the illegal-instruction exception, with the
instruction's bits in mtval (R85). -/
def fetched (w : Who) (i : Word) (s : State) : State :=
  let s1 := updUnit w.key (fun u => { u with rdata := i }) s
  if legalInstr i then s1
  else except w 2 (if i.toNat % 4 = 3 then i else i &&& 0xFFFF#32) s1

end Sys2Proof.Machine
end

