-- ==== Sys2Proof/Machine/Units.lean ====
section
/-! DEFINITION. Tick budgets, the undo journal, the discarding of a unit's work, hold-last, TKC_CBAR, and the
reads of the tick counter (R34 to R53, R94). -/

namespace Sys2Proof.Machine
open Sys2Proof

/-! ### Budgets (R37), in tb -/

def budgetE (p : Nat) : Nat := p * 9 / 20
def budgetEC (p : Nat) : Nat := 5 * budgetE p / 2
def budgetP (p : Nat) : Nat := budgetE p - 480
def tCW (p : Nat) : Nat := p * 9 / 10

/-- The budget of a unit's first run: B_P for a pair, B_E for the engine (unit 7). -/
def unitBudget (s : State) (u : Nat) : Nat := if u = 7 then budgetE s.tick.period else budgetP s.tick.period

/-- TKC_BUDGET shows the figures of a period (R37): those of the tick that runs. DESIGN CHOICE (log 58): in the tick of a
TKC flip, whose live page already holds the next tick's PERIOD, it still shows the running tick's. -/
def setBudget (p : Nat) (s : State) : State :=
  setFld TKC_BUDGET_CWIN (tCW p) (setFld TKC_BUDGET_ENGBUD (budgetE p) s)

/-- Timebase ticks from the last boundary to an instant, a started tick counted whole. -/
def ranTb (s : State) (t : Time) : Nat := ceilDiv (t - s.tick.last) tb

/-- The work of the tick under key `k` (7 is the engine) is in its first run, whose budget warning is not recorded. -/
def inFirstRun (s : State) (k : Nat) : Bool :=
  if k = 7 then !s.eng.done && s.eng.first && !s.eng.warned
  else (unit s k).first && !(unit s k).warned && decide ((unit s k).phase = .work ∨ (unit s k).phase = .drain)

/-- The budget of unit `u` lies before `t` in the tick. -/
def pastBudget (s : State) (u : Nat) (t : Time) : Bool := decide (unitBudget s u * tb < t - s.tick.last)

/-- TKC_RUNMAXu: the first run of unit `u` has lasted until `t`. -/
def recordRun (u : Nat) (t : Time) (s : State) : State := maxFld (TKC_RUNMAX_MAX u) (ranTb s t) s

/-- The first run under key `k` of unit `u` has passed its budget: recorded once, and TKC_BUDGET_WARN where BWARN_EN
is set (R40). -/
def budgetPassed (u k : Nat) (t : Time) (s : State) : State :=
  let s1 := recordRun u t s
  let s2 := if k = 7 then updEng (fun e => { e with warned := true }) s1
    else updUnit k (fun x => { x with warned := true }) s1
  if flag s TKC_CTRL_BWARNEN then raiseTkc 387 s2 else s2

/-- A first run ends at `t` (R40): for a pair when its TKC_CBAR write has completed, at t_CW, or when a replay cuts it
short, which counts as its end too (DESIGN CHOICE, log 58: one that a permanent-class fault or a journal overflow stops is
recorded nowhere). One that ended past its budget unwarned is warned of here. -/
def firstRunEnds (u k : Nat) (t : Time) (s : State) : State :=
  if pastBudget s u t && inFirstRun s k then budgetPassed u k t s else recordRun u t s

/-! ### The journal (R42, R94) -/

/-- The records that a journal holds (R94, R115). -/
def jrnCap (s : State) (w : Who) : Nat := if pairState s w.unit.val == 2 then 2048 else 4096

/-- Undo one record. -/
def undoOne : Undo → State → State
  | .bytes a old, s => wrBytes a old s
  | .tcm k old, s => wrTcms k old s
  | .reg a old m, s => setReg a (mergeBits (reg s a) old m) s
  | .shadow a old m, s => setShad a (mergeBits (shad s a) old m) s

/-- The records that the journals of unit `u`, both halves' while it is split, hold. -/
def jrnUsed (s : State) (u : Nat) : Nat := (unit s u).jrn.length + (unit s (u + 8)).jrn.length

/-- USED of PRC_JRNn shows what the journal of the unit holds: the records of a run that a replay or a hold-last
discards do not count (DESIGN CHOICE, log 58). -/
def showJrn (u : Nat) (s : State) : State := setFld (PRC_JRN_USED u) (jrnUsed s u) s

/-- Write a journal record for the unit, while a tick runs; PRC_JRNn shows the count and its peak. -/
def journal (w : Who) (r : Undo) (s : State) : State :=
  if ticking s then
    let s1 := showJrn w.unit.val (updUnit w.key (fun u => { u with jrn := r :: u.jrn }) s)
    maxFld (PRC_JRN_PEAK w.unit.val) (jrnUsed s1 w.unit.val) s1
  else s

/-- Restore the memory from the unit's journal, in reverse order. -/
def restoreJournal (w : Who) (s : State) : State :=
  showJrn w.unit.val (updUnit w.key (fun u => { u with jrn := [] }) (forAll (unit s w.key).jrn undoOne s))

/-! ### Discarding a unit's work -/

/-- Change every listed twin cell. -/
def mapCells (f : Nat → Cell → Cell) (s : State) : State :=
  updEng (fun e => { e with cells := e.cells.filterMap fun (k, c) =>
    let c' := f k c
    if c' = {} then none else some (k, c') }) s

/-- Drop every word that the unit holds pending (R44, R49, R126). -/
def dropPending (rank : Nat) (s : State) : State :=
  mapCells (fun _ c => { c with units := SMap.erase c.units rank }) s

/-- The USE field counts the entries that the unit, or both halves of it, hold (R81). -/
def showUse (u : Nat) (s : State) : State :=
  setFld (TKC_CUSE_USE u) ((unit s u).used + (unit s (u + 8)).used) s

/-- Discard the unit's pending state writes, colophon entries, clear queue and mirror records of the tick. -/
def discardWork (w : Who) (s : State) : State :=
  let s1 := dropPending w.rank s
  let s2 := { s1 with col := s1.col.filter fun e => e.who != w }
  showUse w.unit.val
    (updUnit w.key (fun u => { u with clrq := [], mir := [], used := 0, stall := none }) s2)

/-- Discard, restore the memory, and put the architectural state back to the checkpoint (R44, R49). -/
def backToCheckpoint (w : Who) (s : State) : State :=
  updUnit w.key (fun u => { u with arch := u.ckpt }) (restoreJournal w (discardWork w s))

/-- A duration that the spec bounds: a free value not above `bound`. -/
def freeUpTo (s : State) (bound : Time) : Time := Config.freeTime s.free % (bound + 1)

/-- The pair has a tick's work in hand that has not ended. -/
def unfinished (s : State) (w : Who) : Bool :=
  let u := unit s w.key
  let st := pairState s w.unit.val
  hasUnit s w.unit.val && !u.held && decide (u.phase ≠ .asleep) &&
  (decide (u.phase = .stopped) || (if w.halfB then st == 2 else st == 1 || st == 2 || st == 5))

/-- Hold-last of a pair or half at t_CW (R49, R51). -/
def holdLastPair (w : Who) (s : State) : State :=
  let run := (unit s w.key).phase = .work || (unit s w.key).phase = .drain
  let past := run && (unit s w.key).first
  let s1 := if past then firstRunEnds w.unit.val w.key s.now s else s
  let s2 := raiseTkc 385 (incFld (TKC_RPCNT_HOLD w.unit.val) s1)
  let s3 := if past then raiseTkc 388 s2 else s2
  let s4 := backToCheckpoint w s3
  spend (updUnit w.key (fun u => { u with
    phase := .stopped
    held := true
    startAt := s.tick.next + freeUpTo s4 (1200 * ns) }) s4)

/-- Hold-last of every unfinished pair and half (R47, R48). -/
def holdLastPairs (s : State) : State :=
  forAll (allWho.filter fun w => unfinished s w) holdLastPair s

/-! ### Commands -/

/-- The keys of the work that a unit's first runs are made of: its own and, while split, its half B's. -/
def runKeys (s : State) (u : Nat) : List Nat :=
  if u = 7 then [7] else match pairState s u with
    | 1 => [u]
    | 2 => [u, u + 8]
    | 5 => [u]
    | _ => []

/-- TKC_BUDGET_WARN: a first run of a pair or of a half of it, or of the engine as unit 7, goes past its budget (R40). -/
def execTkcBudgetWarn (u : Fin 8) (t : Time) (s : State) : Out :=
  .next (if ticking s && hasUnit s u.val && pastBudget s u.val t then
    forAll ((runKeys s u.val).filter (inFirstRun s)) (fun k => budgetPassed u.val k t) (upto t s)
  else upto t s)

/-- TKC_CBAR: the unit's store waits for the drain of its earlier stores (R52). -/
def execTkcCbar (w : Who) (t : Time) (s : State) : Out :=
  let s1 := upto t s
  .next (if working s w then updUnit w.key (fun u => { u with phase := .drain }) s1 else s1)

/-- The unit and, while split, its other half have ended their work of the tick. -/
def doneBoth (s : State) (u : Nat) : Bool :=
  decide ((unit s u).phase = .asleep) && (pairState s u != 2 || decide ((unit s (u + 8)).phase = .asleep))

/-- CBAR_DRAIN_COMPLETE: the TKC_CBAR write completes and the unit sleeps until the boundary (R52). DESIGN CHOICE
(log 58): a write that completes while no tick runs sets the unit's TKC_DONE bit too. -/
def execCbarDrainComplete (w : Who) (t : Time) (s : State) : Out :=
  let s1 := upto t s
  .next (if decide ((unit s w.key).phase = .drain) then
    let s2 := if ticking s && (unit s w.key).first then firstRunEnds w.unit.val w.key t s1 else s1
    let s3 := updUnit w.key (fun u => { u with phase := .asleep }) s2
    setFldBit TKC_DONE_DONE w.unit.val (doneBoth s3 w.unit.val) s3
  else s1)

/-- The upper half of a 64-bit counter. -/
def upperHalf (n : Nat) : Word := BitVec.ofNat 32 (n / 2 ^ 32)

/-- A unit's read of TKC_TCNT_L, or with `rb` of TKC_RBDONE_L, and the capture of the upper half. -/
def tcntRead (w : Who) (rb : Bool) (s : State) : State :=
  if rb then updUnit w.key (fun u => { u with rbH := reg s TKC_RBDONE_H, rdata := reg s TKC_RBDONE_L }) s
  else updUnit w.key (fun u => { u with tcntH := upperHalf s.tick.tcnt, rdata := BitVec.ofNat 32 s.tick.tcnt }) s

end Sys2Proof.Machine
end

