-- ==== Sys2Proof/Machine/Operands.lean ====
section
/-! DEFINITION. The engine's operand forms: the instruction word, what each field of it may hold, the registers of a
pass attempt, its lanes, the memory index, and the scoreboard (R138, R154 to R158, R163, R165). -/

namespace Sys2Proof.Machine
open Sys2Proof

/-! ### Words (R154) -/

/-- The 64-bit instruction word of an opcode and its fields. -/
def engWord (op : Nat) (e : EngWord) : Nat :=
  (op <<< 58) + (e.vd.toNat <<< 53) + (e.va.toNat <<< 48) + (e.vb.toNat <<< 43) + (e.vc.toNat <<< 38) +
  (e.pg.toNat <<< 35) + (e.md.toNat <<< 32) + e.imm.toNat

/-- The instruction at an index of the program store. -/
def progWord (s : State) (i : Nat) : Nat := leNat (rdBytes s (0x44000000 + 8 * i) 8)

/-- A reserved opcode (R159 to R171). -/
def opReserved (op : Nat) : Bool :=
  op == 0x0F || op == 0x1E || op == 0x1F || op == 0x26 || op == 0x27 || (0x2D ≤ op && op ≤ 0x2F) || op == 0x37 ||
  0x3F ≤ op

/-! ### Fields (R155) -/

/-- What a register field names: nothing (it must be 0), a V register, an A register, a P source, a P destination,
`n` consecutive V destinations (from an even one), or `n` consecutive V sources. -/
inductive Opd where
  | none
  | v
  | a
  | p
  | pd
  | dst (n : Nat) (even : Bool)
  | src (n : Nat)
  deriving DecidableEq, Repr

/-- The field meets R155. DESIGN CHOICE (log 65): R155 names register pairs and triples; sources of MSEL that run past V31
are illegal for every k. -/
def Opd.ok (k : Opd) (r : Nat) : Bool :=
  match k with
  | .none => r == 0
  | .v => true
  | .a => decide (r < 8)
  | .p => decide (r < 8)
  | .pd => decide (0 < r) && decide (r < 8)
  | .dst n even => r != 0 && decide (r + n ≤ 32) && (!even || r % 2 == 0)
  | .src n => decide (r + n ≤ 32)

/-- The scoreboard keys of the registers that a field names: V at its number, P at 32 and A at 40 and above. -/
def Opd.keys (k : Opd) (r : Nat) : List Nat :=
  match k with
  | .none => []
  | .v => [r]
  | .a => [40 + r]
  | .p => [32 + r]
  | .pd => [32 + r]
  | .dst n _ => (List.range n).map (r + ·)
  | .src n => (List.range n).map (r + ·)

/-- The form of one instruction: its modifiers' legality, its fields, the IMM bits it uses, whether it is uniform, and
its latency. -/
structure Form where
  ok : Bool := true
  vd : Opd := .none
  va : Opd := .none
  vb : Opd := .none
  vc : Opd := .none
  imm : Nat := 0
  uniform : Bool := false
  lat : Nat := 1

/-- A bit of the modifier. -/
def mBit (e : EngWord) (i : Nat) : Bool := e.md.getLsbD i
/-- The modifier as a number, and a bit field of IMM. -/
def mVal (e : EngWord) : Nat := e.md.toNat
def immBits (e : EngWord) (lo w : Nat) : Nat := bits e.imm.toNat lo w

/-- The instruction is legal (R155). -/
def Form.legal (f : Form) (e : EngWord) : Bool :=
  f.ok && f.vd.ok e.vd.toNat && f.va.ok e.va.toNat && f.vb.ok e.vb.toNat && f.vc.ok e.vc.toNat &&
  (e.imm.toNat &&& f.imm == e.imm.toNat) && (!f.uniform || e.pg == 0)

/-- The registers that the instruction reads, its guard included. -/
def Form.reads (f : Form) (e : EngWord) : List Nat :=
  f.va.keys e.va.toNat ++ f.vb.keys e.vb.toNat ++ f.vc.keys e.vc.toNat ++
  (if e.pg == 0 then [] else [32 + e.pg.toNat])

def fullImm : Nat := 0xFFFFFFFF

/-- Forms of R163: two operands, one operand, three operands; with MOD[0] = 1 IMM stands for the last one. -/
def fp2Form (e : EngWord) (lat : Nat) : Form :=
  { ok := mVal e < 2, vd := .v, va := .v, vb := if mBit e 0 then .none else .v, imm := if mBit e 0 then fullImm else 0, lat := lat }
def fp1Form (e : EngWord) (lat : Nat) : Form := { ok := mVal e == 0, vd := .v, va := .v, lat := lat }
def fp3Form (e : EngWord) (lat : Nat) : Form :=
  { ok := mVal e < 2, vd := .v, va := .v, vb := .v, vc := if mBit e 0 then .none else .v
    imm := if mBit e 0 then fullImm else 0, lat := lat }

/-- The form of a memory instruction (R157, R161); `pend` allows MOD[1]. -/
def memForm (e : EngWord) (load pend : Bool) : Form :=
  { ok := pend || !(mBit e 1), vd := if load then .v else .none, va := if mBit e 0 then .a else .none
    vb := if mBit e 2 then .v else .none, vc := if load then .none else .v, imm := fullImm, lat := 2 }

/-! ### The attempt's registers -/

/-- The bits of an active lane's word of register `r`; V0 reads as 0. -/
def vr (p : PassSt) (r l : Nat) : Word := if r = 0 then 0#32 else SMap.get wordD p.v (32 * r + l)
/-- A predicate in a lane; P0 reads all-true. -/
def pr (p : PassSt) (k l : Nat) : Bool := if k = 0 then true else (SMap.get (fun _ => 0#32) p.p k).getLsbD l
def ar (p : PassSt) (k : Nat) : Word := SMap.get wordD p.a k

def setV (r l : Nat) (x : Word) (p : PassSt) : PassSt :=
  if r = 0 then p else { p with v := SMap.set wordD p.v (32 * r + l) x }
def setA (k : Nat) (x : Word) (p : PassSt) : PassSt := { p with a := SMap.set wordD p.a k x }
def setP (k : Nat) (x : BitVec 32) (p : PassSt) : PassSt := { p with p := SMap.set (fun _ => 0#32) p.p k x }

/-- The result of the register at a scoreboard key may be used from the given cycle. -/
def setReady (k c : Nat) (p : PassSt) : PassSt := { p with ready := SMap.set natD p.ready k c }

/-- A second or third source that IMM may stand for (R163, R165). -/
def vbOrImm (e : EngWord) (b : Bool) (p : PassSt) (l : Nat) : Word := if b then e.imm else vr p e.vb.toNat l
def vcOrImm (e : EngWord) (b : Bool) (p : PassSt) (l : Nat) : Word := if b then e.imm else vr p e.vc.toNat l

/-! ### Lanes (R138, R156) -/

def passFirst (s : State) (p : Nat) : Nat := lfld s (ENG_RT_A_FIRST p)
def passCount (s : State) (p : Nat) : Nat := lfld s (ENG_RT_A_COUNT p)
/-- The active lanes of an attempt. -/
def activeLanes (s : State) (p : PassSt) : List Nat := those 32 fun l => decide (l < passCount s p.pass)
/-- The writing lanes of an instruction. -/
def writing (s : State) (p : PassSt) (e : EngWord) : List Nat := (activeLanes s p).filter fun l => pr p e.pg.toNat l
/-- The bobbin of a lane. -/
def bobbin (s : State) (p : PassSt) (l : Nat) : Nat := passFirst s p.pass + l

/-! ### Memory index (R157) -/

/-- The word index of a lane. -/
def memIndex (e : EngWord) (p : PassSt) (l : Nat) : Nat :=
  (e.imm.toNat + (if mBit e 0 then (ar p e.va.toNat).toNat else 0) + (if mBit e 2 then (vr p e.vb.toNat l).toNat else 0)) % 2 ^ 32

/-- The absolute state word of a lane, if its index is inside. -/
def stateIndex (s : State) (e : EngWord) (p : PassSt) (l : Nat) : Option Nat :=
  let i := memIndex e p l
  if mBit e 2 then (if i < 65536 then some i else none)
  else if i < 512 then some (512 * bobbin s p l + i) else none

/-- The word of a lane in a memory of `n` words. -/
def wordIndex (n : Nat) (e : EngWord) (p : PassSt) (l : Nat) : Option Nat :=
  let i := memIndex e p l
  if i < n then some i else none

/-! ### Scoreboard (R158) -/

/-- The cycle at which an instruction with these sources issues. -/
def issueCycle (p : PassSt) (reads : List Nat) : Nat := reads.foldl (fun c k => max c (SMap.get natD p.ready k)) p.cyc

/-- The attempt after an instruction has issued at its cycle. -/
def PassSt.advance (p : PassSt) : PassSt := { p with pc := p.pc + 1, cyc := p.cyc + 1 }

end Sys2Proof.Machine
end

