-- ==== Sys2Proof/Machine/Flags.lean ====
section
/-! DEFINITION. The sticky flags of a pass (R172): how an instruction's lanes add to them, and what they do when the
pass completes. -/

namespace Sys2Proof.Machine
open Sys2Proof

/-- A lane's result adds its flags to the attempt's. -/
def addFlags (f : Nat) (p : PassSt) : PassSt := { p with flags := p.flags ||| f }

/-- Consecutive results of one lane go to VD and the registers after it. -/
def writeLane (vd l : Nat) : List Word → PassSt → PassSt
  | [], p => p
  | x :: xs, p => writeLane (vd + 1) l xs (setV vd l x p)

/-- Results and flags of the lanes `ls`, all computed from the registers as they stood at issue; the `n` registers
from VD may be used `lat` cycles later. -/
def writeLanes (vd n lat : Nat) (ls : List Nat) (f : Nat → List Word × Nat) (p : PassSt) : PassSt :=
  let q := ls.foldl (fun x l => addFlags (f l).2 (writeLane vd l (f l).1 x)) p
  (List.range n).foldl (fun x i => setReady (vd + i) (p.cyc + lat) x) q

/-- ENG_FPFLAG when a completed pass has set a flag that its FMASK enables (R172). -/
def flagEvent (p : PassSt) (s : State) : State :=
  raiseIf (p.flags &&& lfld s (ENG_RT_C_FMASK p.pass) != 0) 357 s

/-- A single result as a lane's list of results. -/
def FRes.one (r : FRes) : List Word × Nat := ([r.val], r.fl)

end Sys2Proof.Machine
end

