-- ==== Sys2Proof/Machine/Prims.lean ====
section
/-! DEFINITION. The engine's functions of words: Q1.31, table lookup, hysteresis and the motor primitives (R151, R165,
R168, R170, R187 to R190). Where R187 bounds a result instead of fixing it, the hardware's own value, a free value of
Config, stands if it meets the bound, and the rounded exact value where it would not. -/

namespace Sys2Proof.Machine
open Sys2Proof

/-! ### Q1.31 (R165) -/

/-- A saturated result with QS. -/
def qSat (i : Int) : FRes := let r := satI32 i; ⟨r.1, if r.2 then flQS else 0⟩

def qAdd (sub : Bool) (a b : Word) : FRes := qSat (if sub then a.toInt - b.toInt else a.toInt + b.toInt)
/-- The rounded product (a × b + 2^30) >> 31. -/
def qProd (a b : Word) : Int := (a.toInt * b.toInt + 2 ^ 30) / 2 ^ 31
def qMul (a b : Word) : FRes := qSat (qProd a b)
def qMac (sub : Bool) (a b c : Word) : FRes := qSat (if sub then c.toInt - qProd a b else c.toInt + qProd a b)
/-- Shift right, rounded half up, or left with saturation. -/
def qShr (left : Bool) (a : Word) (n : Nat) : FRes :=
  if left then qSat (a.toInt * (2 ^ n : Nat))
  else if n = 0 then ⟨a, 0⟩
  else qSat ((a.toInt + (2 ^ (n - 1) : Nat)) / (2 ^ n : Nat))
/-- Saturation to n + 1 bits. -/
def qSatBits (a : Word) (n : Nat) : FRes :=
  let hi : Int := (2 ^ n : Nat) - 1
  let lo : Int := -((2 ^ n : Nat) : Int)
  if a.toInt > hi then ⟨BitVec.ofInt 32 hi, flQS⟩ else if a.toInt < lo then ⟨BitVec.ofInt 32 lo, flQS⟩ else ⟨a, 0⟩
/-- QCVT with full scale 2^s. A saturating conversion sets QS, the flag of its group (R165), and not NV, which the table
of R172 also lists for conversion saturation (DESIGN CHOICE, log 22). -/
def qCvt (back : Bool) (a : Word) (sc : Nat) : FRes :=
  if back then fToInt a (31 - sc) flQS else fRound false (((a.toInt : Int) : Rat) * pow2 ((sc : Int) - 31))

/-! ### Tables (R150, R151) -/

/-- The difference of two values. -/
def vSub (a b : FVal) : FVal :=
  match a, b with
  | .nan, _ | _, .nan => .nan
  | .inf s, .inf t => if s = t then .nan else .inf s
  | .inf s, _ => .inf s
  | _, .inf t => .inf (!t)
  | .fin _ p, .fin _ q => .fin false (p - q)

def fLe (a b : FVal) : Bool := fLtIeee a b || fEqIeee a b

/-- A table: its point count, its first word, whether it is uniform, X0 and INVDX, and its memory. -/
structure Table where
  n : Nat
  base : Nat
  unif : Bool
  x0 : Word
  invdx : Word
  mem : Nat → Word

/-- Descriptor `t` of the live page. -/
def tableOf (s : State) (t : Nat) : Table where
  n := lfld s (ENG_TD_A_N t)
  base := lfld s (ENG_TD_A_BASE t)
  unif := lflag s (ENG_TD_A_UNIF t)
  x0 := live s (ENG_TD_B t)
  invdx := live s (ENG_TD_C t)
  mem := fun w => rdWord s (0x441A0000 + 4 * w)

def Table.x (t : Table) (k : Nat) : FVal := fval (t.mem (t.base + k))
def Table.y (t : Table) (k : Nat) : FVal := fval (t.mem (t.base + (if t.unif then 0 else t.n) + k))

/-- The position of x in the table: an integer and a fraction; none where the procedure of R151 has no number. In a
non-uniform table with no x-value at or below x (the first one a NaN) i is 0, and the result is a NaN (DESIGN CHOICE,
log 22). -/
def Table.pos (t : Table) (x : Word) : Option Rat × Nat :=
  let v := fval x
  if t.unif then
    let d := fSub x t.x0
    let u := fMul d.val t.invdx
    (match fval u.val with
      | .fin _ q => some q
      | .inf neg => some (if neg then -1 else (t.n : Nat))
      | .nan => none, d.fl ||| u.fl)
  else
    if fLe v (t.x 0) then (some 0, 0)
    else if fLe (t.x (t.n - 1)) v then (some ((t.n - 1 : Nat) : Rat), 0)
    else
      let i := ((those (t.n - 1) fun k => fLe (t.x k) v).getLast?).getD 0
      (match v, t.x i, t.x (i + 1) with
        | .fin _ a, .fin _ b, .fin _ c => some ((i : Nat) + (if b = c then 0 else (a - b) / (c - b)))
        | .fin _ _, .fin _ _, .inf _ => some (i : Nat)
        | _, _, _ => none, 0)

/-- x lies outside the table. -/
def Table.outside (t : Table) (x : Word) : Bool :=
  let v := fval x
  if t.unif then
    match v, fval t.x0, fval t.invdx with
    | .fin _ a, .fin _ b, .fin _ c => decide (a < b) || decide (((t.n - 1 : Nat) : Rat) < (a - b) * c)
    | _, _, _ => true
  else fLtIeee v (t.x 0) || fLtIeee (t.x (t.n - 1)) v

/-- lookup of R151; the interpolation is exact and rounded once. -/
def Table.lookup (t : Table) (x : Word) (step : Bool) : FRes :=
  if isNaN x then fInvalid
  else
    let tc := if t.outside x then flTC else 0
    let (u, fl) := t.pos x
    let r := match u with
      | none => fInvalid
      | some q =>
        if q ≤ 0 then fOfVal (t.y 0)
        else if ((t.n - 1 : Nat) : Rat) ≤ q then fOfVal (t.y (t.n - 1))
        else
          let i := q.floor.toNat
          if step then fOfVal (t.y i)
          else fAddV (t.y i) (FVal.mul (.fin false (q - ((i : Nat) : Rat))) (vSub (t.y (i + 1)) (t.y i)))
    ⟨r.val, r.fl ||| fl ||| tc⟩

/-- HYS of R168: the result, the flags and the new state word. -/
def hysteresis (t : Table) (x on off old : Word) : List Word × Nat × Option Word :=
  let nv := if isNaN x || isNaN on || isNaN off then flNV else 0
  if fLe (fval on) (fval off) then ([0#32], flNV, some 0#32)
  else
    let s' := if old.getLsbD 0 then fLtIeee (fval off) (fval x) else fLe (fval on) (fval x)
    if s' then
      let r := t.lookup x false
      ([r.val], r.fl ||| nv, some 1#32)
    else ([0#32], nv, some 0#32)

/-! ### Motor primitives (R187 to R190) -/

/-- 2^-22, the relative error of R187. -/
def primErr : Rat := pow2 (-22)

/-- Output `k` of the primitive of opcode `op`: within the bound of the exact value, and within [lo, hi] where the
equation ends in a clamp. -/
def primOut (op k : Nat) (xs : List Word) (q err : Rat) (rng : Option (Rat × Rat)) : FRes :=
  let c := Config.prim op k xs
  let inside := match rng, fval c with
    | none, _ => true
    | some (lo, hi), .fin _ v => decide (lo ≤ v) && decide (v ≤ hi)
    | some _, _ => false
  if inside then approx c q err else fRound (decide (q < 0)) q

/-- All outputs NaN with NV. -/
def primNaN (n : Nat) : List Word × Nat := (List.replicate n qNaN, flNV)

/-! Values of equations whose operands may be infinite: sums and products with an infinite term are infinite, and
∞ − ∞ and 0 × ∞ have no value (FVal.nan), which leaves the output open. -/

/-- The sum of two values. -/
def FVal.add (a b : FVal) : FVal := vSub a b.neg
/-- The sum of several. -/
def FVal.sum (xs : List FVal) : FVal := xs.foldl FVal.add (.fin false 0)
/-- A value times a rational that is not 0. -/
def FVal.scale (q : Rat) (a : FVal) : FVal := a.mul (.fin (decide (q < 0)) q)
def FVal.isFin (a : FVal) : Bool := match a with | .fin _ _ => true | _ => false
/-- The magnitude of a finite value, and 0 for any other. -/
def FVal.mag (a : FVal) : Rat := match a with | .fin _ q => ratAbs q | _ => 0

/-- Output `k` of the primitive `op` whose equation is a sum of terms: within the bound of R187, infinite where the sum
is, and open where it has no value; NV stays clear there (DESIGN CHOICE, log 22). -/
def primSum (op k : Nat) (xs : List Word) (ts : List FVal) : FRes :=
  match FVal.sum ts with
  | .fin _ q => primOut op k xs q (primErr * (ts.map FVal.mag).sum) none
  | .inf s => ⟨fInf s, 0⟩
  | .nan => ⟨fCanon (Config.prim op k xs), 0⟩

/-- The outputs of a primitive, unless an operand is a NaN. -/
def primRun (n : Nat) (xs : List Word) (rs : List FRes) : List Word × Nat :=
  if xs.any isNaN then primNaN n else (rs.map (·.val), rs.foldl (fun a r => a ||| r.fl) 0)

/-- CLK3 (R188). -/
def clk3 (two : Bool) (a b c : Word) : List Word × Nat :=
  let x := fval a
  let y := fval b
  let z := fval c
  let r := 1 / sqrt3
  if two then
    primRun 2 [a, b] [primSum 0x30 0 [a, b] [x], primSum 0x30 1 [a, b] [x.scale r, y.scale (2 * r)]]
  else
    primRun 2 [a, b, c] [
      primSum 0x30 0 [a, b, c] [x.scale (mkRat 2 3), y.scale (mkRat (-1) 3), z.scale (mkRat (-1) 3)],
      primSum 0x30 1 [a, b, c] [y.scale r, z.scale (-r)]]

/-- PRK and IPRK (R188). -/
def park (inverse : Bool) (a b sn cs : Word) : List Word × Nat :=
  let op := if inverse then 0x32 else 0x31
  let xs := [a, b, sn, cs]
  let xc := (fval a).mul (fval cs)
  let xs' := (fval a).mul (fval sn)
  let yc := (fval b).mul (fval cs)
  let ys := (fval b).mul (fval sn)
  if inverse then primRun 2 xs [primSum op 0 xs [xc, ys.neg], primSum op 1 xs [xs', yc]]
  else primRun 2 xs [primSum op 0 xs [xc, ys], primSum op 1 xs [yc, xs'.neg]]

def clampQ (x lo hi : Rat) : Rat := ratMin (ratMax x lo) hi

/-- A value that the spec leaves open inside [lo, hi]: the hardware's word where it lies there, and a bound otherwise. -/
def openIn (c : Word) (lo hi : FVal) : Word :=
  let w := fCanon c
  if isNaN w then fCanon (fOfVal hi).val
  else if fLtIeee (fval w) lo then (fOfVal lo).val
  else if fLtIeee hi (fval w) then (fOfVal hi).val
  else w

/-- SVM on finite operands with Vdc > 0, `v` infinite as none (R189). -/
def svmFin (mode : Nat) (xs : List Word) (x y : Rat) (v : Option Rat) : List Word × Nat :=
  let h := sqrt3 / 2 * y
  let div := fun (q : Rat) => match v with | some u => q / u | none => 0
  let ms := [div x, div (-x / 2 + h), div (-x / 2 - h)]
  let hi := ms.foldl ratMax (ms.getD 0 0)
  let lo := ms.foldl ratMin (ms.getD 0 0)
  let out := mode ≠ 3 ∧ 1 < hi - lo
  let k := if out then 1 / (hi - lo) else 1
  let off := match mode with
    | 0 => mkRat 1 2 - (hi + lo) * k / 2
    | 1 => -(lo * k)
    | 2 => 1 - hi * k
    | _ => mkRat 1 2
  let ds := ms.map fun m => off + m * k
  let cut := mode = 3 ∧ (ds.any fun d => decide (d < 0) || decide (1 < d)) = true
  let lm := if out ∨ cut then flLM else 0
  let err := fun (m : Rat) => primErr * (ratAbs off + ratAbs (m * k))
  let rs := (List.range 3).map fun i =>
    primOut 0x33 i xs (clampQ (ds.getD i 0) 0 1) (err (ms.getD i 0)) (some (0, 1))
  (rs.map (·.val), rs.foldl (fun a r => a ||| r.fl) lm)

/-- Duty a of mode 3 at a finite α, Vdc `v` infinite as none: clamp(0.5 + α / Vdc, 0, 1), within the bound of R187. -/
def sineDuty (xs : List Word) (x : Rat) (v : Option Rat) : FRes :=
  let m := match v with | some u => x / u | none => 0
  primOut 0x33 0 xs (clampQ (mkRat 1 2 + m) 0 1) (primErr * (mkRat 1 2 + ratAbs m)) (some (0, 1))

/-- SVM with an infinite α or β, Vdc `v` infinite as none: the reference lies outside the hexagon, or outside [0, 1] in
mode 3, and LM is set; a duty that the procedure does not fix is open in [0, 1] (log 22). Over an infinite Vdc whether
it is limited is open too. -/
def svmInf (mode : Nat) (xs : List Word) (a b : FVal) (v : Option Rat) : List Word × Nat :=
  let one : FVal := .fin false 1
  let zero : FVal := .fin false 0
  let vInf := v.isNone
  let c := fun i => Config.prim 0x33 i xs
  let ms := [a, (a.scale (mkRat (-1) 2)).add (b.scale (sqrt3 / 2)), (a.scale (mkRat (-1) 2)).add (b.scale (-(sqrt3 / 2)))]
  let duty := fun (i : Nat) =>
    match mode, i, vInf, ms.getD i .nan with
    | 3, 0, _, .fin _ x => (sineDuty xs x v).val
    | 3, _, false, .inf neg => if neg then 0#32 else fOne
    | _, _, _, _ => openIn (c i) zero one
  ((List.range 3).map duty, if !vInf || (c 3).getLsbD 0 then flLM else 0)

/-- SVM (R189, R170). -/
def svm (mode : Nat) (a b vdc : Word) : List Word × Nat :=
  let xs := [a, b, vdc]
  let half : List Word × Nat := ([fHalf, fHalf, fHalf], flNV)
  let run := fun (v : Option Rat) =>
    if isNaN a || isNaN b then primNaN 3
    else if isFin a && isFin b then svmFin mode xs (ratOf a) (ratOf b) v
    else svmInf mode xs (fval a) (fval b) v
  match fval vdc with
  | .nan => half
  | .inf true => half
  | .inf false => run none
  | .fin _ v => if v ≤ 0 then half else run (some v)

/-- The lesser and the greater of two values that are not NaN. -/
def vMin (a b : FVal) : FVal := if fLtIeee b a then b else a
def vMax (a b : FVal) : FVal := if fLtIeee a b then b else a

/-- A clamped sum of PIS: the clamped value, whether the clamp changed it, and the output word. A sum without a value
leaves the output open between the limits, and whether it was clamped too. -/
def pisClamp (k : Nat) (xs : List Word) (ts : List FVal) (lo hi : FVal) : FVal × Bool × FRes :=
  match FVal.sum ts with
  | .nan =>
    let w := openIn (Config.prim 0x34 k xs) lo hi
    (fval w, (Config.prim 0x34 (k + 2) xs).getLsbD 0, ⟨w, 0⟩)
  | v =>
    let c := vMin (vMax v lo) hi
    let cut := !(fEqIeee c v)
    (c, cut, match c with
      | .fin _ q =>
        let r := primOut 0x34 k xs q (if ts.all FVal.isFin then primErr * (ts.map FVal.mag).sum else 0) none
        if fLtIeee (fval r.val) lo then ⟨(fOfVal lo).val, r.fl⟩
        else if fLtIeee hi (fval r.val) then ⟨(fOfVal hi).val, r.fl⟩ else r
      | _ => fOfVal c)

/-- PIS (R190): the output, the flags, and the integrator to be written. -/
def pis (commit : Bool) (e kp kit lo hi s : Word) : List Word × Nat × Option Word :=
  let xs := [e, kp, kit, lo, hi, s]
  if xs.any isNaN then ([qNaN], flNV, none)
  else
    let swap := fLtIeee (fval hi) (fval lo)
    let l := if swap then fval hi else fval lo
    let h := fval hi
    let nv := if swap then flNV else 0
    let (i, ci, ri) := pisClamp 1 xs [fval s, (fval kit).mul (fval e)] l h
    let (_, cu, ru) := pisClamp 0 xs [(fval kp).mul (fval e), i] l h
    let lm := if ci || cu then flLM else 0
    ([ru.val], nv ||| lm ||| ru.fl ||| (if commit then ri.fl else 0), if commit then some ri.val else none)

/-- LPF (R188). -/
def lpf (commit : Bool) (x a s : Word) : List Word × Nat × Option Word :=
  let xs := [x, a, s]
  if xs.any isNaN then ([qNaN], flNV, none)
  else
    let av := fval a
    let cut := fLtIeee av (.fin false 0) || fLtIeee (.fin false 1) av
    let a' : FVal := if fLtIeee av (.fin false 0) then .fin false 0 else if cut then .fin false 1 else av
    let lm := if cut then flLM else 0
    let y := primSum 0x36 0 xs [fval s, a'.mul (vSub (fval x) (fval s))]
    ([y.val], lm ||| y.fl, if commit then some y.val else none)

/-- The winner among numbered inputs: the least that is not NaN, the lowest index among equals (R170). -/
def mselGo : List (Nat × Word) → Option (Nat × Word) → Option (Nat × Word)
  | [], best => best
  | (k, x) :: r, best =>
    if isNaN x then mselGo r best
    else match best with
      | none => mselGo r (some (k, x))
      | some (j, y) => mselGo r (if fLt (fval x) (fval y) then some (k, x) else some (j, y))

/-- MSEL (R169, R170). -/
def msel (xs : List Word) : List Word × Nat :=
  let nv := if xs.any isNaN then flNV else 0
  match mselGo ((List.range xs.length).zip xs) none with
  | some (k, x) => ([fCanon x, BitVec.ofNat 32 k], nv)
  | none => ([qNaN, 0#32], nv)

/-! ### REDUCE (R171) -/

/-- One level of the pairwise tree. -/
def pairUp : List FRes → List FRes
  | a :: b :: r => let x := fAdd a.val b.val; ⟨x.val, a.fl ||| b.fl ||| x.fl⟩ :: pairUp r
  | xs => xs

/-- The sum by a pairwise tree, on fuel for 32 lanes. -/
def treeSum : Nat → List FRes → FRes
  | 0, xs => xs.headD ⟨0#32, 0⟩
  | n + 1, xs => treeSum n (pairUp xs)

/-- The value of one lane as a sum of one, canonical. -/
def canonRes (x : Word) : FRes := fOfVal (fval x)

/-- The reduction of the lanes' words. -/
def reduceWords (mode : Nat) (xs : List Word) : FRes :=
  if mode = 0 then treeSum 5 (xs.map canonRes)
  else
    let op := if mode = 1 then fMin else fMax
    match xs with
    | [] => ⟨0#32, 0⟩
    | x :: r => r.foldl (fun a y => let z := op a.val y; ⟨z.val, a.fl ||| z.fl⟩) (canonRes x)

end Sys2Proof.Machine
end

