-- ==== Sys2Proof/Machine/AuxDrive.lean ====
section
/-! DEFINITION. auxsl, the sensorless law of an auxiliary, on the words of its bobbin (R324 to R338). PASS_COMPLETE of
its pass runs the law of the tick; its changes of phase that the table names are commands of their own, which follow in
the same tick. Words are read from the committed copies and written pending, as an engine pass writes them. What the spec
leaves to the observer and to the current laws is a free value (log 36). -/

namespace Sys2Proof.Machine
open Sys2Proof

/-! ### The lane's words -/

/-- Word `k` of bobbin `b`, committed. -/
def auxWord (s : State) (b k : Nat) : Word := stateWord s (512 * b + k)

/-- Word `k` as the law of this tick has it so far. -/
def auxNow (s : State) (b k : Nat) : Word :=
  match (cell s (512 * b + k)).eng with
  | some (v, _) => v
  | none => auxWord s b k

def auxStD (_ : Nat) : AuxSt := {}
def auxSt (s : State) (b : Nat) : AuxSt := SMap.get auxStD s.aux b
def updAux (b : Nat) (f : AuxSt → AuxSt) (s : State) : State :=
  { s with aux := SMap.set auxStD s.aux b (f (auxSt s b)) }

/-- What the lane keeps, as the law of this tick has it so far. -/
def auxVars (s : State) (b : Nat) : AuxVars := (auxSt s b).new.getD (auxSt s b).com
def setVars (b : Nat) (f : AuxVars → AuxVars) (s : State) : State :=
  updAux b (fun x => { x with new := some (f (x.new.getD x.com)) }) s

/-- The lane has run in this tick. -/
def auxRan (s : State) (b : Nat) : Bool := (auxSt s b).new.isSome

/-- What the lanes would have kept is dropped with the engine's pending words (R50). -/
def auxDrop (s : State) : State := forAll (s.aux.map (·.1)) (fun b => updAux b fun x => { x with new := none }) s
/-- What the lanes keep commits with the engine's pending words. -/
def auxCommit (s : State) : State :=
  forAll (s.aux.map (·.1)) (fun b => updAux b fun x => { x with com := x.new.getD x.com, new := none }) s

/-- A pending write of a twin cell; a unit's word prevails over it (R22). -/
def auxCell (b key : Nat) (v : Word) (s : State) : State :=
  if !(cell s key).units.isEmpty then raise 356 s
  else updCell key (fun c => { c with eng := some (v, (auxSt s b).pass) }) s

/-- A pending write of word `k`. -/
def auxPut (b k : Nat) (v : Word) (s : State) : State := auxCell b (512 * b + k) v s

/-- A write of scratch, inside it. -/
def auxScr (w : Nat) (v : Word) (s : State) : State :=
  if w < 8192 then updScr w (fun x => { x with val := v, poison := false }) s else s

/-! ### What the law reads -/

/-- The phases (R329). -/
def phIdle : Nat := 0
def phMeasure : Nat := 1
def phReady : Nat := 2
def phBrake : Nat := 3
def phStart : Nat := 4
def phRun : Nat := 5
def phFailed : Nat := 6
def phLockout : Nat := 7
def phWait : Nat := 8

/-- A word of PHASE as auxsl takes it: any other value is IDLE (R329). -/
def phaseOf (w : Word) : Nat := if w.toNat ≤ 8 then w.toNat else phIdle

/-- PHASE at the start of the tick, and as the law of this tick has it so far. -/
def auxPhase (s : State) (b : Nat) : Nat := phaseOf (auxWord s b 10)
def auxPhaseNow (s : State) (b : Nat) : Nat := phaseOf (auxNow s b 10)

/-- The group is held: STATE of the group status word that word 6 names is not 0 (R325). -/
def auxHeld (s : State) (b : Nat) : Bool := bits (sample s ((auxWord s b 6).toNat)).toNat 0 3 != 0

/-- CMD is 1.0, and CMD is 0.0. -/
def auxRun (s : State) (b : Nat) : Bool := auxWord s b 9 == fOne
def auxStop (s : State) (b : Nat) : Bool := fEqIeee (fval (auxWord s b 9)) (.fin false 0)

/-- x < y and x ≥ y of two FP32 words. -/
def fLess (x y : Word) : Bool := fCond 0 x y
def fGreq (x y : Word) : Bool := fCond 1 x y

/-- The ticks in the phase have reached a parameter of the bobbin. -/
def ticksReach (s : State) (b k : Nat) : Bool := fGreq (auxNow s b 13) (auxWord s b k)

/-- A count has reached a parameter of the bobbin. -/
def countReach (s : State) (b k n : Nat) : Bool := decide (ratOf (auxWord s b k) ≤ ((n : Nat) : Rat))

/-- A count of consecutive ticks. -/
def consec (ok : Bool) (n : Nat) : Nat := if ok then n + 1 else 0

/-- The sample-bank word that index word `k` names. -/
def auxIn (s : State) (b k : Nat) : Word := sample s (auxWord s b k).toNat

/-- TICK in seconds. -/
def tickSec (s : State) : Rat := mkRat s.tick.period 400000000

/-- A value times a duration of `r` ticks, rounded once. -/
def perTick (s : State) (r : Rat) (w : Word) : Word := (fOfVal ((fval w).scale (r * tickSec s))).val

/-- A sum of scaled words, rounded once. -/
def lin (ts : List (Rat × Word)) : Word := (fOfVal (FVal.sum (ts.map fun (q, w) => (fval w).scale q))).val

/-- √(x² + y²), rounded once. -/
def norm2 (x y : Word) : Word :=
  match fval x, fval y with
  | .fin _ a, .fin _ b => (fRound false (ratSqrt (a * a + b * b))).val
  | .nan, _ | _, .nan => qNaN
  | _, _ => fInf false

/-- π / 2. -/
def halfPi : Word := 0x3FC90FDB#32

/-! ### Measurement (R330) -/

/-- The back-EMF vector from the line voltages. -/
def auxEmf (s : State) (b : Nat) : Word × Word :=
  (lin [(mkRat 2 3, auxIn s b 3), (mkRat 1 3, auxIn s b 4)], lin [(1 / sqrt3, auxIn s b 4)])

/-- The stator current vector, by the Clarke transform of the three leg currents. -/
def auxCurrent (s : State) (b : Nat) : Word × Word :=
  (lin [(mkRat 2 3, auxIn s b 0), (mkRat (-1) 3, auxIn s b 1), (mkRat (-1) 3, auxIn s b 2)],
    lin [(1 / sqrt3, auxIn s b 1), (-(1 / sqrt3), auxIn s b 2)])

/-- The angle of a vector. -/
def angleOf (v : Word × Word) : Word := (fAtan2 v.2 v.1).val

/-- ω̂ from the rotation of a vector since the last tick, whose angle was `last`, through LPF with a = 0.1: unchanged
where there was none. -/
def auxRate (s : State) (b : Nat) (last : Option Word) (a : Word) : Word :=
  let w := auxWord s b 15
  match last with
  | some a0 =>
    let d := (fWrap 0 (fSub a a0).val 0).val
    let x := (fOfVal ((fval d).scale (1 / tickSec s))).val
    ((lpf false x 0x3DCCCCCD#32 w).1).headD qNaN
  | none => w

/-- Words 14 to 16 by the hardware's observer, which the spec does not give. -/
def auxFree (b : Nat) (ks : List Nat) (s : State) : State :=
  forAll ks (fun k x => auxPut b k (freeWord x) (spend x)) s

/-- The tick is one of BRAKE: PHASE says so, or it is the first tick in which a group switches whose planned action is
BRAKE (R333). -/
def inBrake (ph b : Nat) (s : State) : Bool :=
  ph == phBrake || (ph == phReady && (auxVars s b).plan == 3 && !(auxHeld s b))

/-- The measurement of the tick: while the group is held from the line voltages; in BRAKE ω̂ from the currents; and
otherwise by the observer. What the spec gives no value is free. The angle of the current vector is kept for the tick that
follows. -/
def auxMeasure (ph b : Nat) (s : State) : State :=
  let ai := angleOf (auxCurrent s b)
  if auxHeld s b then
    let e := auxEmf s b
    let a := angleOf e
    let w := auxRate s b (auxVars s b).ang a
    let sg : Rat := match fval w with
      | .fin _ q => if q < 0 then -1 else if 0 < q then 1 else 0
      | .inf neg => if neg then -1 else 1
      | .nan => 0
    let th := if isNaN w then qNaN else lin [(1, a), (-sg, halfPi)]
    setVars b (fun v => { v with ang := some a, angI := some ai })
      (auxPut b 14 th (auxPut b 15 w (auxPut b 16 (norm2 e.1 e.2) s)))
  else if inBrake ph b s then
    let w := auxRate s b (auxVars s b).angI ai
    auxFree b [14, 16] (setVars b (fun v => { v with ang := none, angI := some ai }) (auxPut b 15 w s))
  else auxFree b [14, 15, 16] (setVars b (fun v => { v with ang := none, angI := some ai }) s)

/-! ### Outputs (R325, R328, R329, R331) -/

/-- STATUS of a phase, with CAUSE as it stands. -/
def auxStatus (s : State) (b ph : Nat) : Nat :=
  let hold := !(auxHeld s b) && (ph == phIdle || ph == phFailed || ph == phLockout)
  b2n (ph == phReady) + 2 * b2n hold + 4 * b2n (ph == phWait) + 8 * b2n (ph == phRun && (auxVars s b).locked) +
    256 * bits (auxNow s b 11).toNat 8 4

/-- Whether the duties are those of a current law: in START and RUN, and in READY for a start (R329, R331). -/
def auxDriven (s : State) (b ph : Nat) : Bool :=
  ph == phStart || ph == phRun || (ph == phReady && (auxVars s b).plan == 1)

/-- The duties of a catch: SVM of the vector E at θ̂ + π/2 + ω̂ × 1.5 × TICK. -/
def catchDuties (s : State) (b : Nat) : List Word :=
  let x := (fWrap 0 (lin [(1, auxNow s b 14), (1, halfPi), (mkRat 3 2 * tickSec s, auxNow s b 15)]) 0).val
  let e := auxNow s b 16
  (svm 0 (fMul e (fSinCos true x).val).val (fMul e (fSinCos false x).val).val (auxIn s b 5)).1

/-- What the law writes each tick for the phase it is in: PHASE, STATUS, GSPD and the three duties; a current law's
duties and integrators are free, and a planned catch presets both current integrators to its vector, in the frame of that
vector's angle less π/2. -/
def auxOut (b : Nat) (s : State) : State :=
  let ph := auxPhaseNow s b
  let s1 := auxPut b 10 (BitVec.ofNat 32 ph) (auxPut b 11 (BitVec.ofNat 32 (auxStatus s b ph)) s)
  let g := (auxWord s b 8).toNat
  let s2 := if g < 416 then auxCell b (resKey g) (auxNow s b 15) s1 else s1
  let d := (auxWord s b 7).toNat
  if auxDriven s b ph then
    let s3 := forAll [0, 1, 2] (fun k x => auxScr (d + k) (freeWord x) (spend x)) s2
    if ph = phReady then s3 else auxFree b [35, 36, 37, 38, 39] s3
  else if ph == phReady && (auxVars s b).plan == 2 then
    let ds := catchDuties s b
    auxPut b 35 0 (auxPut b 36 (auxNow s b 16) (forAll [0, 1, 2] (fun k => auxScr (d + k) (ds.getD k qNaN)) s2))
  else forAll [0, 1, 2] (fun k => auxScr (d + k) 0) s2

/-! ### Changes of phase -/

/-- A phase is entered: its ticks and its counts of consecutive ticks start anew. -/
def auxEnter (b ph : Nat) (f : AuxVars → AuxVars) (s : State) : State :=
  setVars b (fun v => f { v with
    slowN := 0, lowN := 0, lockN := 0, lossN := 0, stabN := 0
    lockDue := false, locked := false, back := none, zero := false })
    (auxPut b 10 (BitVec.ofNat 32 ph) (auxPut b 13 0 s))

/-- The phase goes on for a tick. -/
def auxStay (b ph : Nat) (s : State) : State :=
  auxPut b 10 (BitVec.ofNat 32 ph) (auxPut b 13 (fAdd (auxWord s b 13) fOne).val s)

/-- The plan of a machine by the first row of R331 that holds: the action (0 is WAIT), θ_ol and ω_ol. -/
def auxPlan (s : State) (b : Nat) : Nat × Word × Word :=
  let th := auxNow s b 14
  let w := auxNow s b 15
  let a := (fAbs w).val
  let fwd := fLess 0 w
  if fLess (auxNow s b 16) (auxWord s b 21) then (1, 0, 0)
  else if fwd && fGreq w (auxWord s b 26) then (2, 0, 0)
  else if fwd then (1, th, w)
  else if fGreq (auxWord s b 22) a then (1, th, 0)
  else if fGreq (auxWord s b 23) a then (3, 0, 0)
  else (0, 0, 0)

/-- The classification: READY with the action planned, or WAIT with AUX_WINDMILL (R331, R338). -/
def classify (b : Nat) (s : State) : State :=
  let (k, th, w) := auxPlan s b
  let set : AuxVars → AuxVars := fun v => { v with plan := k, thOl := th, wOl := w }
  if k = 0 then raise 375 (auxEnter b phWait set s)
  else if auxPhaseNow s b = phReady then setVars b set (auxStay b phReady s)
  else auxEnter b phReady set s

/-- A word moved towards another by at most a step. -/
def towards (x target step : Word) : Word :=
  if fLess x target then (fMin (fAdd x step).val target).val else (fMax (fSub x step).val target).val

/-- A tick of BRAKE: the ticks that are slow, and those of little current, count while they follow each other (R333). -/
def brakeCount (b : Nat) (s : State) : State :=
  let c := auxCurrent s b
  let slow := !(auxHeld s b) && fLess (fAbs (auxNow s b 15)).val (auxWord s b 22)
  let low := !(auxHeld s b) && fLess (norm2 c.1 c.2) 0x40A00000#32
  setVars b (fun v => { v with slowN := consec slow v.slowN, lowN := consec low v.lowN }) s

/-- READY: an attempt begins with the planned action in the first tick in which the group is switching; until then the
machine is measured and planned anew (R325, R331, R336). -/
def tickReady (b : Nat) (s : State) : State :=
  if auxHeld s b then classify b s
  else match (auxVars s b).plan with
    | 2 => auxEnter b phRun (fun v => { v with wRef := auxNow s b 15 }) s
    | 3 => brakeCount b (auxEnter b phBrake id s)
    | _ => auxEnter b phStart id s

/-- BRAKE goes on (R333). -/
def tickBrake (b : Nat) (s : State) : State := brakeCount b (auxStay b phBrake s)

/-- The PLL phase error of a tick, in magnitude: the observer is the hardware's. -/
def pllError (s : State) : Word := (fAbs (freeWord s)).val

/-- START: the vector turns on with ω_ol, which rises at ACC up to WOL; from the first tick with ω_ol = WOL ticks near
lock are counted (R334). -/
def tickStart (b : Nat) (s : State) : State :=
  let v := auxVars s b
  let wol := auxWord s b 26
  let th := (fWrap 0 (fAdd v.thOl (perTick s 1 v.wOl)).val 0).val
  let w := (fMin (fAdd v.wOl (perTick s 1 (auxWord s b 25))).val wol).val
  let err := (fAbs (fSub (auxNow s b 15) w).val).val
  let ok := !(auxHeld s b) && w == wol && fLess (pllError s) (auxWord s b 28) && fLess err (fMul 0x3E4CCCCD#32 w).val
  setVars b (fun v => { v with
    thOl := th, wOl := w, lockN := consec ok v.lockN, lockDue := countReach s b 29 v.lockN }) (auxStay b phStart (spend s))

/-- RUN: the speed reference moves at RAMP towards the output of auxhys, and down to WOL once CMD is 0.0; a locked
observer that is out of lock, and a catch that is near lock, are counted; TSTABLE locked ticks clear word 12 (R332, R334,
R336, R337). -/
def tickRun (b : Nat) (s : State) : State :=
  let v := auxVars s b
  let wol := auxWord s b 26
  let stop := auxStop s b
  if auxHeld s b && v.locked then auxEnter b (if stop then phIdle else phMeasure) id s
  else if stop && (auxHeld s b || fGreq wol v.wRef) then auxEnter b phIdle id s
  else
    let target := if stop then wol else auxWord s b 45
    let e := pllError s
    let loss := v.locked && fLess (fMul 0x40000000#32 (auxWord s b 28)).val e
    let near := !v.locked && !(auxHeld s b) && fLess e (auxWord s b 28)
    let stab := consec v.locked v.stabN
    let s1 := setVars b (fun v => { v with
      wRef := towards v.wRef target (perTick s 1 (auxWord s b 30))
      lossN := consec loss v.lossN, lockN := consec near v.lockN
      lockDue := !v.locked && countReach s b 29 v.lockN, stabN := stab }) (auxStay b phRun (spend s))
    if v.locked && countReach s b 33 stab then auxPut b 12 0 s1 else s1

/-- FAILED: the back-off counts from the first tick in which the group is held (R337). -/
def tickFailed (b : Nat) (s : State) : State :=
  let held := auxHeld s b
  setVars b (fun v => { v with back := match v.back with
    | some n => some (n + 1)
    | none => if held then some 0 else none }) (auxStay b phFailed s)

/-- LOCKOUT ends once CMD has been 0.0 and is then 1.0, which clears word 12 (R337). -/
def tickLockout (b : Nat) (s : State) : State :=
  if (auxVars s b).zero && auxRun s b then auxPut b 12 0 (auxEnter b phIdle id s)
  else
    let stop := auxStop s b
    setVars b (fun v => { v with zero := v.zero || stop }) (auxStay b phLockout s)

/-- The phase of the tick (R331, R332). In MEASURE and WAIT a group that switches sends auxsl back to IDLE, which asks for
the hold (DESIGN CHOICE, log 36). -/
def tickPhase (ph b : Nat) (s : State) : State :=
  if auxStop s b && ph != phLockout && ph != phRun && ph != phIdle then auxEnter b phIdle id s
  else match ph with
    | 1 => if auxHeld s b then auxStay b phMeasure s else auxEnter b phIdle id s
    | 2 => tickReady b s
    | 3 => tickBrake b s
    | 4 => tickStart b s
    | 5 => tickRun b s
    | 6 => tickFailed b s
    | 7 => tickLockout b s
    | 8 => if auxHeld s b then auxStay b phWait s else auxEnter b phIdle id s
    | _ => if auxRun s b && auxHeld s b then auxEnter b phMeasure id s else auxStay b phIdle s

/-- The law of a tick of the lane of bobbin `b`, run by pass `p` (R324 to R337). -/
def auxTick (p b : Nat) (s : State) : State :=
  let s0 := updAux b (fun x => { x with pass := p, new := some x.com }) s
  let ph := auxPhase s0 b
  auxOut b (tickPhase ph b (auxMeasure ph b s0))

/-! ### The changes of phase that are commands -/

/-- A change of phase in the tick of the lane: with it the outputs become those of the new phase. -/
def auxStep (b : Nat) (due : State → Bool) (f : State → State) (s : State) : State :=
  if auxRan s b && due s then auxOut b (f s) else s

/-- AUX_CLASSIFY (R331): after TMEAS ticks of MEASURE, or of WAIT, the machine is classified. -/
def classifyDue (b : Nat) (s : State) : Bool :=
  (auxPhaseNow s b == phMeasure || auxPhaseNow s b == phWait) && auxHeld s b && auxRun s b && ticksReach s b 20
def execAuxClassify (b : Fin 128) (s : State) : Out := .next (auxStep b.val (classifyDue b.val) (classify b.val) s)

/-- BRAKE has ended successfully: 40 consecutive ticks slow, or 40 of little current (R333). -/
def brakeEnds (b : Nat) (s : State) : Bool :=
  let v := auxVars s b
  auxPhaseNow s b == phBrake && !(auxHeld s b) && (decide (40 ≤ v.slowN) || decide (40 ≤ v.lowN))

/-- START from BRAKE, at the angle of the current vector less π/2. -/
def brakeToStart (b : Nat) (s : State) : State :=
  auxEnter b phStart (fun v => { v with
    plan := 1, thOl := lin [(1, angleOf (auxCurrent s b)), (-1, halfPi)], wOl := 0 }) s

/-- AUX_BRAKE_END (R333). -/
def execAuxBrakeEnd (b : Fin 128) (s : State) : Out := .next (auxStep b.val (brakeEnds b.val) (brakeToStart b.val) s)

/-- A catch that is not locked yet. -/
def auxCatch (s : State) (b : Nat) : Bool := auxPhaseNow s b == phRun && !((auxVars s b).locked)

/-- LOCKN consecutive ticks near lock have passed (R334). -/
def lockDue (b : Nat) (s : State) : Bool :=
  (auxPhaseNow s b == phStart || auxCatch s b) && !(auxHeld s b) && (auxVars s b).lockDue

/-- Lock: RUN at θ̂ from START, with the speed-loop integrator, word 37, preset to ISTART × cos(θ_ol − θ̂); a catch stays
in RUN (R334). -/
def lock (b : Nat) (s : State) : State :=
  if auxPhaseNow s b = phStart then
    let v := auxVars s b
    let d := (fWrap 0 (fSub v.thOl (auxNow s b 14)).val 0).val
    auxPut b 37 (fMul (auxWord s b 24) (fSinCos true d).val).val
      (auxOut b (auxEnter b phRun (fun v => { v with locked := true, wRef := v.wOl }) s))
  else setVars b (fun v => { v with locked := true, lockDue := false }) s

/-- AUX_LOCK (R334). The preset stands after the outputs of RUN. -/
def execAuxLock (b : Fin 128) (s : State) : Out :=
  .next (if auxRan s b.val && lockDue b.val s then
    if auxPhaseNow s b.val = phStart then lock b.val s else auxOut b.val (lock b.val s)
  else s)

/-- The condition of a failure (R336) and its CAUSE. -/
def auxFails (s : State) (b : Nat) : AuxFail → Bool × Nat
  | .noLock => ((auxPhaseNow s b == phStart || auxCatch s b) && ticksReach s b 27, 1)
  | .heldDuring => ((auxPhaseNow s b == phBrake || auxPhaseNow s b == phStart || auxCatch s b) && auxHeld s b, 2)
  | .lockLost => (auxPhaseNow s b == phRun && (auxVars s b).locked && countReach s b 29 (auxVars s b).lossN, 3)
  | .brakeTimeout => (auxPhaseNow s b == phBrake && ticksReach s b 34, 4)

/-- FAILED with CAUSE `c`: word 12 counts the attempt, and the back-off counts from this tick if the group is held. -/
def failWith (b c : Nat) (s : State) : State :=
  let held := auxHeld s b
  auxPut b 12 (fAdd (auxNow s b 12) fOne).val
    (auxEnter b phFailed (fun v => { v with plan := 0, back := if held then some 0 else none })
      (auxPut b 11 (BitVec.ofNat 32 (256 * c)) s))

/-- AUX_START_FAIL (R336): the attempt fails. -/
def execAuxStartFail (b : Fin 128) (k : AuxFail) (s : State) : Out :=
  .next (auxStep b.val (fun x => (auxFails x b.val k).1) (fun x => failWith b.val (auxFails x b.val k).2 x) s)

/-- TBACK × 2^(r−1) ticks have passed since the first held tick of FAILED, r in word 12 (R337). -/
def backoffDue (b : Nat) (s : State) : Bool :=
  let r := (ratOf (auxNow s b 12)).floor.toNat
  match (auxVars s b).back with
  | some n => auxPhaseNow s b == phFailed &&
      decide (ratOf (auxWord s b 32) * ((2 ^ (min r 64 - 1) : Nat) : Rat) ≤ ((n : Nat) : Rat))
  | none => false

/-- The end of the back-off: MEASURE, or LOCKOUT with AUX_START_FAIL once r has reached START_RETRY + 1 (R337, R338). -/
def backoffEnds (b : Nat) (s : State) : State :=
  if fGreq (auxNow s b 12) (fAdd (auxWord s b 31) fOne).val then raise 374 (auxEnter b phLockout id s)
  else auxEnter b phMeasure id s

/-- AUX_BACKOFF_EXPIRE (R337). -/
def execAuxBackoffExpire (b : Fin 128) (s : State) : Out := .next (auxStep b.val (backoffDue b.val) (backoffEnds b.val) s)

end Sys2Proof.Machine
end

