-- ==== Sys2Proof/Machine/Legs.lean ====
section
/-! DEFINITION. The gates of the legs, the fault latches, the holds of the groups and their safe-state sequences,
the escalation counts, and the profile bus (R227 to R269). The modulator and the fabric act through these. -/

namespace Sys2Proof.Machine
open Sys2Proof

/-! ### Times -/

/-- A guard time as it lasts: after a loss of the timebase it is counted in cycles of the RC oscillator, of 30 MHz to
70 MHz (R221). -/
def guardTime (s : State) (t : Time) : Time :=
  if s.tbLost then (ceilDiv (t * 70) 32000 + 1) * (458 + Config.rcPeriod % 609) else t

/-- The dead time of a leg (R212). -/
def deadTime (s : State) (l : Nat) : Time := guardTime s (afld s (MOD_LEG_DT_DT l) * fineStep)
/-- CONFIRM_TMO, STUCK_T and FLT_HARD_T. -/
def confirmTmo (s : State) : Time := guardTime s (afld s GLK_TIM_CONFIRM * tb)
def stuckT (s : State) : Time := guardTime s (afld s GLK_TIM_STUCK * tb)
def hardT (s : State) : Time := guardTime s (afld s GLK_HARD_T * tb)

/-! ### Gates -/

def LegSt.gate (x : LegSt) : Side → Gate
  | .high => x.h
  | .low => x.l

def LegSt.setGate (x : LegSt) (sd : Side) (g : Gate) : LegSt :=
  match sd with
  | .high => { x with h := g }
  | .low => { x with l := g }

/-- A gate after its command has changed at `t`. -/
def Gate.edge (g : Gate) (v : Bool) (t : Time) : Gate :=
  { g with on := v, edgeAt := t, want := none, answered := false, stuckSeen := false }

/-- The high-side on-time of the carrier period up to `t`, from a gate that is on. -/
def LegSt.onUpTo (x : LegSt) (t : Time) : Time := if x.h.on then t - max x.h.edgeAt x.periodAt else 0

/-- Turn a gate off, and withdraw a turn-on that waits. -/
def LegSt.off (x : LegSt) (sd : Side) (t : Time) : LegSt :=
  let g := x.gate sd
  if g.on then
    let y := if sd = .high then { x with onAcc := x.onAcc + x.onUpTo t } else x
    y.setGate sd (g.edge false t)
  else x.setGate sd { g with want := none }

/-- Both gates low. -/
def LegSt.lowBoth (x : LegSt) (t : Time) : LegSt := (x.off .high t).off .low t

/-- The band of the leg's current (R260). -/
def bandOf (s : State) (l : Nat) : Nat :=
  let g := legGrp s l
  match fval (latched s (4 * l + 1)) with
  | .nan => 3
  | .inf _ => 3
  | .fin _ q =>
    let past := fun (bt : Nat) => decide (((2 * bt : Nat) : Rat) ≤ ratAbs q)
    b2n (past (afld s (GLK_GRP_BAND_BT1 g))) + b2n (past (afld s (GLK_GRP_BAND_BT2 g))) +
      b2n (past (afld s (GLK_GRP_BAND_BT3 g)))

/-- The interlock of R230 lets the gate rise at `t`. -/
def interlockOk (s : State) (l : Nat) (sd : Side) (t : Time) : Bool :=
  let o := (leg s l).gate sd.other
  !o.on && o.cfm && decide (o.edgeAt + deadTime s l ≤ t)

/-- The deadline of a waiting turn-on that is requested from `w` (R232). -/
def deadline (s : State) (l : Nat) (sd : Side) (w : Time) : Time :=
  max (((leg s l).gate sd.other).edgeAt + deadTime s l) w + confirmTmo s

/-- The bank of cluster `c` has not left its range: while BOR is set its pull-downs hold the gate pins low (R482; DESIGN
CHOICE, log 62: a bank is back once software has cleared its bit). -/
def bankUp (s : State) (c : Nat) : Bool := !((fld s PWR_BANK_BOR).testBit c)

/-- GATE_TURN_ON (R231): a waiting turn-on whose conditions are met is driven at `t`. -/
def turnOnIfReady (l : Nat) (sd : Side) (t : Time) (s : State) : State :=
  match ((leg s l).gate sd).want with
  | some w =>
    if w ≤ t ∧ interlockOk s l sd t ∧ t ≤ deadline s l sd w ∧ bankUp s (l / 6) then
      let b := bandOf s l
      updLeg l (fun x => { x.setGate sd ((x.gate sd).edge true t) with band := b }) s
    else s
  | none => s

/-- Ask for a turn-on from instant `w`. -/
def LegSt.ask (x : LegSt) (sd : Side) (w : Time) : LegSt := x.setGate sd { x.gate sd with want := some w }

/-- Both gates of a leg low at `t`; a turn-off is an edge, whose band is noted (R265). -/
def legLow (t : Time) (l : Nat) (s : State) : State :=
  updLeg l (fun x => { x.lowBoth t with band := if x.h.on || x.l.on then bandOf s l else x.band }) s

/-! ### Latches, marks and their events (R244, R238, R267) -/

/-- Set a bit of the leg status word of the tick. -/
def legBit (i l : Nat) (s : State) : State := updLeg l (fun x => { x with bits := x.bits ||| (1#32 <<< i) }) s

/-- Set a bit of the leg status word that raises the leg event. -/
def legFault (i l : Nat) (s : State) : State := raise l (legBit i l s)

/-- The fault latch of a leg sets. -/
def setLatch (l : Nat) (s : State) : State :=
  if (leg s l).latch then s else raise l (updLeg l (fun x => { x with latch := true }) s)

/-- A mark on a side: unusable, or stuck on. It is news for R247. After a loss of the timebase the marks stay as they
stood (R243). -/
def markUnus (sd : Side) (l : Nat) (s : State) : State :=
  if ((leg s l).gate sd).unus || s.tbLost then s
  else updGrp (legGrp s l) (fun g => { g with news := true })
    (legFault (if sd = .high then 9 else 10) l
      (updLeg l (fun x => x.setGate sd { x.gate sd with unus := true }) s))

def markStuckOn (sd : Side) (l : Nat) (s : State) : State :=
  if s.tbLost then legFault (if sd = .high then 3 else 4) l s
  else updGrp (legGrp s l) (fun g => { g with news := true })
    (legFault (if sd = .high then 3 else 4) l
      (updLeg l (fun x => x.setGate sd { x.gate sd with stuckOn := true }) s))

/-- A side is marked. -/
def Gate.marked (g : Gate) : Bool := g.unus || g.stuckOn

/-- The marks and exclusions of a leg go with its hold. -/
def LegSt.unmark (x : LegSt) : LegSt :=
  { x with h := { x.h with unus := false, stuckOn := false }, l := { x.l with unus := false, stuckOn := false },
           excl := false }

/-! ### Holds (R236 to R240) -/

/-- ASC on side `sd` is possible (R238). -/
def canAsc (s : State) (g : Nat) (sd : Side) : Bool :=
  (grpLegs s g).all fun l => !((leg s l).gate sd).unus && !((leg s l).gate sd.other).stuckOn

/-- The choice of R236 step 3. -/
def chooseAsc (s : State) (g : Nat) : Option Side :=
  let p : Side := if aflag s (GLK_GRP_SAFE_PREF g) then .high else .low
  if canAsc s g p then some p else if canAsc s g p.other then some p.other else none

/-- |GSPD| of the latched result bank is below a threshold in units of 0.125 rad/s; a NaN is above every one. -/
def speedBelow (s : State) (g k : Nat) : Bool :=
  match fval (latched s (384 + g)) with
  | .fin _ q => decide (ratAbs q < mkRat k 8)
  | _ => false

/-- The sequence of a group by R236, and LOWSPD. -/
def chooseSeq (s : State) (g : Nat) : Option Side × Bool :=
  if afld s (GLK_GRP_SAFE_ALLOW g) = 1 then (none, false)
  else if speedBelow s g (afld s (GLK_GRP_ASC_ASCMIN g)) then (none, true)
  else (chooseAsc s g, false)

/-- The sequence under the kind of demand that acts (R345); where a discharge does not drive the group, the hold's own
(R358, R221). -/
def chooseFor (s : State) (g k : Nat) : Option Side × Bool :=
  match k with
  | 2 => (none, false)
  | 3 => (chooseAsc s g, false)
  | 4 => if (grp s g).hard || (grp s g).esc || s.tbLost then chooseSeq s g else (none, false)
  | 5 => (none, false)
  | _ => chooseSeq s g

def grpEvent (g : Nat) (s : State) : State := raise (112 + g) s

/-- Step 1 of the group's sequence at `t`: every gate low; ALL-OFF is settled with it (R237). -/
def step1 (t : Time) (g : Nat) (s : State) : State :=
  updGrp g (fun x => { x with stepAt := t, step := if x.side.isSome then 2 else 5 })
    (forAll (grpLegs s g) (legLow t) s)

/-- Start the sequence that the acting kind gives. -/
def runSeq (t : Time) (g : Nat) (s : State) : State :=
  let c := chooseFor s g (grp s g).kind
  grpEvent g (step1 t g (updGrp g (fun x => { x with
    side := if x.offKept then none else c.1, lowspd := c.2 && !x.offKept, rechoose := false }) s))

/-- A leg leaves the modulator: its plan and its carry are cleared (R216). -/
def LegSt.undrive (x : LegSt) : LegSt :=
  { x with
    ideal := none, plan := [], pulse := false, fallFix := none, diagOn := false, riseAt := none, joined := false
    carry := 0, pulseC := 0, duty := none, diagAt := none, live := false }

/-- A discharge drives the group's legs: it acts, and no HARD, ESC or loss of the timebase keeps the group in its hold
(R29, R358). -/
def disDrives (s : State) (g : Nat) : Bool := (grp s g).kind == 4 && !(grp s g).hard && !(grp s g).esc && !s.tbLost

/-- The leg is excluded from the sequence (bit 15). -/
def LegSt.exclude (x : LegSt) : LegSt := { x with excl := true, bits := x.bits ||| (1#32 <<< 15) }

/-- SAFE_STATE_ENTER (R236): the group enters a hold; a group that leaves one stays held (its sequence is chosen
again); a held group keeps its first cause. Legs whose driver failed the last fault poll are excluded (R238). -/
def enterHold (cause : Nat) (soft : Bool) (t : Time) (g : Nat) (s : State) : State :=
  let x := grp s g
  if x.hold && x.step != 6 then updGrp g (fun y => { y with soft := y.soft && soft }) s
  else
    let s1 := updGrp g (fun y => { y with
      hold := true
      cause := if x.hold && x.cause != 0 then y.cause else cause
      soft := soft
      changes := if x.hold then y.changes else 0
      offKept := x.hold && y.offKept
      relWait := false }) s
    runSeq t g (forAll (grpLegs s1 g) (fun l => updLeg l fun y =>
      if y.pollBad then y.undrive.exclude else y.undrive) s1)

/-- SIDE_CHANGE (R239): a new mark that makes the running ASC impossible changes the side once, then ends in
ALL-OFF. -/
def sideChange (t : Time) (g : Nat) (s : State) : State :=
  let x := grp s g
  match x.side with
  | none => s
  | some sd =>
    if !x.hold || x.step == 6 || canAsc s g sd then s
    else if x.changes = 0 && canAsc s g sd.other then
      grpEvent g (step1 t g (updGrp g (fun y => { y with side := some sd.other, changes := 1 }) s))
    else grpEvent g (step1 t g (updGrp g (fun y => { y with side := none, offKept := true, rechoose := false }) s))

/-- A fault that arrives during a hold (R240); it does not override a discharge, which outranks the hold (R29). -/
def restart (t : Time) (g : Nat) (s : State) : State :=
  if disDrives s g then s else step1 t g (updGrp g (fun x => { x with rechoose := x.side.isSome }) s)

/-- With HARD or ESC newly set, a group that a discharge drives follows its hold (R358). -/
def followHold (g : Nat) (s : State) : State :=
  if (grp s g).kind = 4 then
    runSeq s.now g (forAll (grpLegs s g) (fun l => updLeg l LegSt.undrive) s)
  else s

/-- HARD sets. -/
def setHard (g : Nat) (s : State) : State :=
  if (grp s g).hard then s else followHold g (grpEvent g (updGrp g (fun x => { x with hard := true }) s))

/-- The fault of a group spreads to the groups with DWIN = 1 (R234). -/
def spread (t : Time) (g : Nat) (s : State) : State :=
  if aflag s (GLK_GRP_SAFE_DWIDE g) then
    forAll (those 16 fun h => h != g && aflag s (GLK_GRP_SAFE_DWIN h)) (fun h x =>
      updGrp h (fun y => { y with spreadBy := y.spreadBy ||| (1#16 <<< g) }) (enterHold 6 true t h x)) s
  else s

/-- A hold of the fault's own group: one that enters, or one that goes back to step 1. -/
def faultHold (cause : Nat) (t : Time) (g : Nat) (s : State) : State :=
  if (grp s g).hold && (grp s g).step != 6 then restart t g (enterHold cause true t g s)
  else if aflag s (GLK_GRP_SAFE_SPREAD g) || (grp s g).hold then enterHold cause true t g s
  else s

/-! ### Escalation (R246) -/

/-- A further escalation event of a group at `t`, with the cause that a hold for it takes. -/
def countEsc (cause : Nat) (t : Time) (g : Nat) (s : State) : State :=
  let x := grp s g
  let near := match x.hist with | h :: _ => decide (t < h + 10 * us) | [] => false
  if near then s
  else
    let hist := (t :: x.hist).take 16
    let s1 := updGrp g (fun y => { y with hist := hist, news := true }) s
    let win := afld s (GLK_GRP_SAFE_ESCWIN g) * ms
    let esc := match hist[afld s (GLK_GRP_SAFE_ESCN g)]? with | some h => decide (t ≤ h + win) | none => false
    if esc then
      let s2 := enterHold cause false t g s1
      if x.esc then s2 else followHold g (grpEvent g (updGrp g (fun y => { y with esc := true }) s2))
    else s1

/-- The effects of a confirm timeout or a slope detection on its group (R240, R246, R250). -/
def legFaultGroup (cause : Nat) (t : Time) (l : Nat) (s : State) : State :=
  let g := legGrp s l
  spread t g (faultHold cause t g (countEsc cause t g s))

/-! ### The fabric's demands on a group (R344 to R346) -/

/-- Since when a group is under the STO demand that begins to act at `t`: at boundary 0 one of the pins has stood since
before RUN, when it was on every group (R347, R352). -/
def stoFrom (s : State) (g : Nat) (t : Time) : Time :=
  if s.tick.tcnt = 0 ∧ s.tick.last = t ∧ (lfld s SAF_STO_GROUPS).testBit g then s.saf.stoAt.getD t else t

/-- The acting kind of demand of a group becomes `k` at `t`: 0 none, 1 HOLD, 2 ALL-OFF, 3 ASC, 4 DISCHARGE, 5 STO. -/
def setKind (k : Nat) (t : Time) (g : Nat) (s : State) : State :=
  let old := (grp s g).kind
  let stoAt := if k = 5 then (if old = 5 then (grp s g).stoAt else some (stoFrom s g t)) else none
  if k = old then s
  else
    let was := (grp s g).hold && (grp s g).step != 6
    let s1 := updGrp g (fun x => { x with kind := k, stoAt := stoAt }) s
    let s2 := if old = 4 then forAll (grpLegs s1 g) (fun l => updLeg l LegSt.undrive) s1 else s1
    if k = 0 then (if was && 4 ≤ old then runSeq t g s2 else s2)
    else if !was then enterHold 9 false t g s2
    else
      let s3 := updGrp g (fun x => { x with soft := false }) s2
      if k = 1 && old < 4 then s3 else runSeq t g s3

/-! ### The profile bus (R252 to R258) -/

/-- One step of the CRC x⁴ + x + 1. -/
def crc4Step (c : Nat) (b : Bool) : Nat :=
  (2 * c % 16) ^^^ (if decide (8 ≤ c) != b then 3 else 0)

/-- The CRC of the `n` low bits of `v`, most significant first (R257). -/
def crc4 (n v : Nat) : Nat := (List.range n).foldl (fun c i => crc4Step c (v.testBit (n - 1 - i))) 0

/-- A request frame (R253). -/
def reqFrame (addr typ payload : Nat) : BitVec 24 :=
  let v := addr * 2 ^ 16 + typ * 2 ^ 14 + payload
  BitVec.ofNat 24 (v * 16 + crc4 19 v)

/-- The profile bus of a cluster runs (R243). -/
def busUp (s : State) (c : Nat) : Bool :=
  ticking s && !s.tbLost && hasCluster s c && aflag s (GLK_CL_CFG_PBEN c)


/-- The bits of a reply whose CRC, START, ADDR echo and reserved bits hold; none is an absent reply (R256). -/
def replyOk (a : Nat) (r : BitVec 16) : Bool :=
  let v := r.toNat
  bits v 15 1 == 0 && bits v 0 4 == crc4 11 (bits v 4 11) && bits v 7 3 == a && bits v 4 3 == 0

/-- A leg that gave no valid reply to the last fault poll, or reported UV in it, is excluded while its group is held
(R238); a discharge that drives the leg goes on driving it (R358). -/
def exclude (t : Time) (l : Nat) (s : State) : State :=
  if (grp s (legGrp s l)).hold && !(leg s l).excl then
    updLeg l LegSt.exclude (if disDrives s (legGrp s l) then s else legLow t l s)
  else s

/-- What the last fault poll says of leg `l`'s driver. -/
def polled (bad : Bool) (t : Time) (l : Nat) (s : State) : State :=
  let s1 := updLeg l (fun x => { x with pollBad := bad }) s
  if bad then exclude t l s1 else s1

/-- A reply of leg `l` that is not clean, for the poll in progress. -/
def notClean (l : Nat) (s : State) : State := updCl (l / 6) (fun x => { x with dirty := true }) s

/-- An absent reply of leg `l` to a poll (`fault`: a fault poll). -/
def absentReply (fault : Bool) (t : Time) (l : Nat) (s : State) : State :=
  let s1 := legFault 8 l s
  notClean l (if fault then polled true t l s1 else s1)

/-- A fault-poll reply reports a fault on the sides `fh`, `fl` of leg `l` (R238, R241, R244). -/
def faultReply (fh fl : Bool) (t : Time) (l : Nat) (s : State) : State :=
  let g := legGrp s l
  let s1 := if fh then markUnus .high l s else s
  let s2 := if fl then markUnus .low l s1 else s1
  let s3 := setLatch l (legBit 1 l s2)
  let s4 := if (grp s g).hold && !(disDrives s g) then s3 else legLow t l s3
  notClean l (sideChange t g s4)

/-! ### The bus in time (R241, R252, R255, R258) -/

/-- A frame of 24 cycles with the idle time after it, an addressed status request, and a broadcast poll, last these
times. -/
def frameTime : Time := 520 * ns
def askTime : Time := 880 * ns
def pollTime : Time := 2680 * ns

/-- The bus is free at `t`: no poll runs or is due, and the last frame or request has ended. -/
def busFree (s : State) (c : Nat) (t : Time) : Bool := (cl s c).poll.isNone && decide ((cl s c).busyTo ≤ t)

/-- An addressed request that has had no reply within its 44 cycles has had none (R256). -/
def endAsk (t : Time) (c : Nat) (s : State) : State :=
  match (cl s c).asked with
  | some a =>
    if t < (cl s c).askAt + askTime then s
    else
      let s1 := updCl c (fun x => { x with asked := none }) s
      if legOn s (6 * c + a) then legFault 8 (6 * c + a) s1 else s1
  | none => s

/-- The start frames of a cluster have all been sent (R258). -/
def framesSent (s : State) (c : Nat) : Bool :=
  (clLegs s c).all fun l => (leg s l).cfgSent && (leg s l).h.sent.isSome && (leg s l).l.sent.isSome

/-- A broadcast poll begins at `t`, or at the end of the frame in progress. -/
def beginPoll (fault : Bool) (t : Time) (c : Nat) (s : State) : State :=
  let s1 := endAsk t c s
  updCl c (fun x =>
    let p := max t x.busyTo
    { x with
      poll := some p, pollAt := p, busyTo := p + pollTime, seen := 0, dirty := false, again := false, fault := fault
      againFault := false, pollNew := framesSent s c, frame := reqFrame 6 2 0 }) s1

/-- A broadcast poll of a cluster is asked for at `t` (R241): it begins at once, after the frame in progress, or after
the poll in progress; one that has not begun yet serves for it. -/
def startPoll (fault : Bool) (t : Time) (c : Nat) (s : State) : State :=
  if !(busUp s c) then s
  else match (cl s c).poll with
  | none => beginPoll fault t c s
  | some p =>
    if t < p then updCl c (fun x => { x with fault := x.fault || fault, dirty := false }) s
    else updCl c (fun x => { x with again := true, againFault := x.againFault || fault }) s

/-- A frame of `v` is sent from `t`; when the start frames of the cluster have all been sent, the poll that follows them
is due (R258). -/
def sendFrame (v : BitVec 24) (t : Time) (c : Nat) (f : State → State) (s : State) : State :=
  let s1 := f (updCl c (fun x => { x with frame := v, busyTo := t + frameTime }) (endAsk t c s))
  if framesSent s1 c && !(framesSent s c) && !(cl s c).started then beginPoll false t c s1 else s1

/-- The codes of a side's next turn-on and next turn-off (R261, R262). -/
def adaptD (_ : Nat) : Adapt := {}

/-- A source (`on`) or sink code of a side in band `b` of the acting page. -/
def bandCode (s : State) (l : Nat) (sd : Side) (on : Bool) (b : Nat) : Nat :=
  let w := match sd with | .high => act s (GLK_LEG_PRH l) | .low => act s (GLK_LEG_PRL l)
  bits w.toNat (8 * b + (if on then 0 else 4)) 4

/-- The edge type of R262. -/
def edgeType (sd : Side) (on : Bool) : Nat := (if sd = .high then 0 else 2) + (if on then 0 else 1)

/-- The edge type is adapted. -/
def adapted (s : State) (l k : Nat) : Bool :=
  aflag s (GLK_LEG_SC_AEN l) && (afld s (GLK_GRP_ADAPT_EDGES (legGrp s l))).testBit k

/-- The adaptation of an edge type, from the band-ABAND code before its first measurement. It restarts at a flip and
again when the new page begins to act (glkFlip, glkActs), so that it starts from the page's own code (R263). -/
def adaptOf (s : State) (l : Nat) (sd : Side) (on : Bool) : Adapt :=
  let a := SMap.get adaptD (leg s l).adapt (edgeType sd on)
  if a.state = 0 then
    { a with code := bandCode s l sd on (afld s (GLK_GRP_ADAPT_ABAND (legGrp s l))), state := 1 }
  else a

/-- ADAPT of leg `l` as bits 14:13 show it, from the live page and the selected edge types of an enabled leg (R262,
R264, R265). -/
def adaptShown (s : State) (l : Nat) : Nat :=
  let g := lfld s (MOD_LEG_CFG_GROUP l)
  let ks := (List.range 4).filter fun k => (lfld s (GLK_GRP_ADAPT_EDGES g)).testBit k
  let st := fun (k : Nat) => max 1 (SMap.get adaptD (leg s l).adapt k).state
  if !(hasLeg s l) || !(lflag s (MOD_LEG_CFG_EN l)) || !(lflag s (GLK_LEG_SC_AEN l)) then 0
  else if ks.any fun k => st k == 1 then 1
  else if ks.any fun k => st k == 3 then 3
  else 2

def edgeCode (s : State) (l : Nat) (sd : Side) (on : Bool) : Nat :=
  if adapted s l (edgeType sd on) then (adaptOf s l sd on).code else bandCode s l sd on (bandOf s l)

def sideCodes (s : State) (l : Nat) (sd : Side) : Nat × Nat := (edgeCode s l sd true, edgeCode s l sd false)

/-- The start frames of the group's clusters, and the poll after them, are done. -/
def grpStarted (s : State) (g : Nat) : Bool := (grpCls s g).all fun c => (cl s c).started

/-! ### Release and leaving (R247 to R249) -/

/-- FLTc is high and a clean poll has completed, on every cluster of the group. -/
def clustersClean (s : State) (g : Nat) : Bool := (grpCls s g).all fun c => !(cl s c).low && (cl s c).clean

/-- A status input disagrees with its command. -/
def Gate.disagrees (g : Gate) : Bool := g.cfm == g.on

/-- A halted unit that DEP names, or the halted engine (R220). -/
def depHalted (s : State) (g : Nat) : Bool :=
  s.engHalt || (List.range 7).any fun u =>
    (afld s (MOD_GRP_CFG_DEP g)).testBit u && ((unit s u).halted || (unit s (u + 8)).halted)

/-- The engine runs, or runs in limp mode for the group. -/
def engineFor (s : State) (g : Nat) : Bool :=
  match fld s ENG_STAT_STATE with
  | 1 => flag s ENG_CTRL_RUN && !s.engHalt
  | 3 => (fld s PRC_LIMP_GROUPS).testBit g
  | _ => false

/-- The conditions of R248. -/
def releaseOk (s : State) (g : Nat) : Bool :=
  clustersClean s g && (grpLegs s g).all (fun l => !(leg s l).h.disagrees && !(leg s l).l.disagrees) &&
  !(depHalted s g) && !s.tbLost && (grp s g).cause != 8 && engineFor s g && (grp s g).kind == 0

/-- The group begins to leave its hold (R249). -/
def leaveHold (g : Nat) (s : State) : State :=
  let t := s.now
  let s1 := if (grp s g).side.isSome then forAll (grpLegs s g) (legLow t) s else s
  grpEvent g (updGrp g (fun x => { x with step := 6, stepAt := t, relWait := false }) s1)

/-- A release that is judged now. -/
def judgeRelease (g : Nat) (s : State) : State :=
  if releaseOk s g then
    let s1 := forAll (grpLegs s g) (fun l => updLeg l LegSt.unmark) s
    leaveHold g (updGrp g (fun x => { x with
      hard := false, esc := false, hist := [], cause := 0, relref := false }) s1)
  else grpEvent g (updGrp g (fun x => { x with relref := true, relWait := false }) s)

/-- An applied release of group `g`: ignored while the group is not held or already leaves. In BOOT every group is held,
and no boundary lets a release take effect: it is refused (R340, R248). -/
def releaseGroup (g : Nat) (s : State) : State :=
  if !(ticking s) then grpEvent g (updGrp g (fun x => { x with relref := true }) s)
  else if !(grp s g).hold || (grp s g).step == 6 then s
  else if grpStarted s g then judgeRelease g s
  else updGrp g (fun x => { x with relWait := true }) s

/-- A release that waited for the start frames and their poll takes effect at this boundary. -/
def releasesDue (s : State) : State :=
  forAll (those 16 fun g => (grp s g).relWait && grpStarted s g) judgeRelease s

/-- SAF_RELEASE (R248): an applied entry releases the named groups. -/
def releaseApply (gs : BitVec 16) (s : State) : State := forAll (those 16 fun g => gs.getLsbD g) releaseGroup s

/-- Every gate of the group's legs is low, off-confirmed and has been low for DT. -/
def gateQuiet (s : State) (l : Nat) (sd : Side) (t : Time) : Bool :=
  let g := (leg s l).gate sd
  !g.on && g.cfm && decide (g.edgeAt + deadTime s l ≤ t)

/-- LOWSPD_CHECK (R242) of one group, on the newly latched result bank. -/
def lowspdCheck (g : Nat) (s : State) : State :=
  let x := grp s g
  if x.hold && x.lowspd && x.side.isNone && x.step != 6 && x.kind < 2 && !s.tbLost &&
      !(speedBelow s g (afld s (GLK_GRP_ASC_ASCON g))) then
    let c := if x.offKept then none else chooseAsc s g
    grpEvent g (updGrp g (fun y => { y with
      side := c, lowspd := false, stepAt := s.now, step := if c.isSome then 2 else 5 }) s)
  else s

/-- SELF_ENDING_HOLD (R247) of one group. -/
def selfEnd (g : Nat) (s : State) : State :=
  let x := grp s g
  if x.hold && x.soft && !x.hard && !x.esc && x.kind == 0 && x.step != 6 && clustersClean s g && !x.news &&
      (List.range 16).all (fun h => !(x.spreadBy.getLsbD h) || !(grp s h).hold) then leaveHold g s
  else s

/-! ### Status words (R225, R265, R266) -/

/-- The leg status word of the tick that ends. -/
def legStatus (s : State) (l : Nat) : Word :=
  let x := leg s l
  let cur := b2n x.latch + 8 * b2n (x.h.stuckSeen || x.h.stuckOn) + 16 * b2n (x.l.stuckSeen || x.l.stuckOn) +
    512 * b2n x.h.unus + 1024 * b2n x.l.unus + 2048 * x.band + 8192 * adaptShown s l + 32768 * b2n x.excl +
    65536 * b2n (x.carry != 0) + 262144 * b2n x.undiagSet + 2 ^ 24 * min 255 (x.tsw / 16)
  if legOn s l then BitVec.ofNat 32 (cur ||| x.bits.toNat) else 0

/-- STATE of the group status word. -/
def grpState (x : GrpSt) : Nat :=
  if !x.hold then 0
  else if x.step = 6 then 4
  else match x.side with | none => 1 | some .low => 2 | some .high => 3

/-- Bits 15:0 of the group status word. -/
def grpStatus (s : State) (g : Nat) : Nat :=
  let x := grp s g
  let win := afld s (GLK_GRP_SAFE_ESCWIN g) * ms
  let n := (x.hist.filter fun h => s.now ≤ h + win).length
  grpState x + 8 * b2n (x.hold && (x.step == 4 || x.step == 5)) + 16 * b2n x.lowspd + 32 * b2n x.esc + 64 * b2n x.hard +
    128 * b2n x.relref + 256 * x.cause + 4096 * min 15 n

end Sys2Proof.Machine
end

