-- ==== Sys2Proof/Machine/Modulator.lean ====
section
/-! DEFINITION. The modulator: carriers, duties, pulses and gaps, ideal edges, the gates that follow them, sampling
instants, diagnosis, debug halt and the loss of the timebase (R202 to R226, R262). -/

namespace Sys2Proof.Machine
open Sys2Proof

/-! ### Carrier parameters of the acting page (R207, R214) -/

/-- The carrier period of a leg in fine steps, at a tick period in tb. -/
def carrierP (s : State) (period l : Nat) : Nat :=
  match afld s (MOD_LEG_CFG_DIV l) with
  | 0 => period * 16 * (afld s (MOD_LEG_CFG_KM1 l) + 1)
  | 1 => period * 8
  | _ => period * 4

/-- The parameters by which a pulse or gap of a leg is decided, in fine steps. -/
structure Mp where
  p : Int
  tmin : Int
  dt : Int
  /-- 0 DROP, 1 STRETCH, 2 CARRY. -/
  policy : Nat
  deriving DecidableEq, Repr

/-- The policy in force (R204, R215). -/
def policyOf (s : State) (l : Nat) : Nat :=
  let k := afld s (MOD_LEG_CFG_POLICY l)
  if k ≠ 3 then k else if afld s (MOD_GRP_CFG_TYPE (legGrp s l)) = 3 then 1 else 2

def mpOf (s : State) (l : Nat) : Mp :=
  let dt := afld s (MOD_LEG_DT_DT l)
  ⟨carrierP s s.tick.period l, dt + afld s (MOD_LEG_DT_MINPW l), dt, policyOf s l⟩

/-- T_on: D × P rounded to the nearest fine step, ties up; a NaN duty is 0 (R210, R211). -/
def dutySteps (d : Word) (p : Int) : Int :=
  match fval d with
  | .fin _ q => (q * (p : Rat) + mkRat 1 2).floor
  | .inf neg => if neg then 0 else p
  | .nan => 0

/-- The modulator drives the leg: its group switches, or a discharge drives it, from its start boundary on (R29,
R358). -/
def driven (s : State) (l : Nat) : Bool :=
  let g := legGrp s l
  legOn s l && ticking s && !s.tbLost && (!(grp s g).hold || (disDrives s g && !s.saf.disFresh))

/-! ### Placing edges -/

/-- An instant moved by a number of fine steps. -/
def plusFine (t : Time) (k : Int) : Time := ((t : Int) + 5 * k).toNat

/-- The carry limited to ±P (R216). -/
def clampP (p c : Int) : Int := if p < c then p else if c < -p then -p else c

/-- The level of the ideal command once every planned edge has been made, and the instant of its last edge. -/
def LegSt.lastEdge (x : LegSt) : Option (Bool × Time) :=
  match x.plan.getLast? with
  | some e => some (e.rise, e.at_)
  | none => x.ideal.map fun b => (b, x.idealAt)

/-- The level of the ideal command after the planned edges. -/
def LegSt.level (x : LegSt) : Option Bool := x.lastEdge.map (·.1)

/-- Place an edge to `rise` at instant `d`: none where the command has that level already, and not before T_min has
passed since the last edge, with the time so added brought into the carry under CARRY (R217). -/
def place (m : Mp) (rise : Bool) (d : Time) (x : LegSt) : LegSt :=
  match x.lastEdge with
  | none => { x with plan := x.plan ++ [⟨d, rise⟩] }
  | some (b, a) =>
    if b = rise then x
    else
      let e := max d (plusFine a m.tmin)
      let late : Int := ((e - d) / 5 : Nat)
      let c := if m.policy = 2 then (if rise then x.carry + late else x.carry - late) else x.carry
      { x with
        plan := x.plan ++ [⟨e, rise⟩]
        carry := clampP m.p c
        bits := if e = d then x.bits else x.bits ||| (1#32 <<< 17) }

/-- The policy acted on a pulse or gap (bit 17). -/
def LegSt.narrow (x : LegSt) : LegSt := { x with bits := x.bits ||| (1#32 <<< 17) }

/-- Half of a sum, taken to the earlier fine step for a rising and for a falling edge (R210). -/
def halfUp (i : Int) : Int := (i + 1) / 2
def halfDown (i : Int) : Int := i / 2

/-- The carry after a pulse: what the limits of R210 cut off, under CARRY. -/
def cutCarry (m : Mp) (cut : Int) : Int := if m.policy = 2 then clampP m.p cut else 0

/-- The period or half has no pulse: the command goes, or stays, low. -/
def noPulse (m : Mp) (t : Time) (x : LegSt) : LegSt := place m false t { x with pulse := false, pulseC := 0 }

/-- A centre-aligned pulse of `w` fine steps about the peak, decided at valley `t`. -/
def centrePulse (m : Mp) (t : Time) (w : Int) (fix : Bool) (x : LegSt) : LegSt :=
  let r := m.p / 2 - halfUp w
  let y : LegSt := { x with
    pulse := true
    pulseC := x.carry
    carry := cutCarry m (if r < 0 then -r else 0)
    fallFix := if fix then some (plusFine t (m.p / 2 + halfDown w)) else none }
  if x.joined then y
  else
    let up := plusFine t (if r < 0 then 0 else r)
    let up' := match x.riseAt with | some a => max a up | none => up
    place m true up' (if t < up' then place m false t y else y)

/-- The pulse of a centre-aligned period, decided at the valley (R210, R211, R215). -/
def valleyCentre (m : Mp) (t : Time) (ton : Int) (x : LegSt) : LegSt :=
  let z := fun (y : LegSt) => { y with riseAt := none, joined := false }
  let x1 : LegSt := { x with fallFix := none, diagOn := false }
  if m.p ≤ ton then
    let up := match x.riseAt with | some a => max a t | none => t
    z (place m true up { x1 with carry := 0, pulse := true, pulseC := 0 })
  else if ton ≤ 0 then z (noPulse m t { x1 with carry := 0 })
  else
    let w := ton + x.carry
    if w < m.tmin ∨ w ≤ 0 then
      match m.policy with
      | 0 => z (noPulse m t { x1.narrow with carry := 0 })
      | 1 => z (centrePulse m t m.tmin false x1.narrow)
      | _ => z (noPulse m t { x1.narrow with carry := clampP m.p w })
    else z (centrePulse m t w false x1)

/-- The falling edge at `f` and the gap up to the next rising edge at `n`, both in fine steps from `t` (R215). A gap that
is stretched lies about the valley. -/
def gapAt (m : Mp) (t : Time) (f n : Int) (x : LegSt) : LegSt :=
  if n - f < m.tmin then
    match m.policy with
    | 1 => place m false (plusFine t (m.p / 2 - halfUp m.tmin))
        { x.narrow with riseAt := some (plusFine t (m.p / 2 + halfDown m.tmin)) }
    | 0 => { x.narrow with joined := true }
    | _ => { x.narrow with joined := true, carry := clampP m.p (x.carry - (n - f)) }
  else place m false (plusFine t f) x

/-- The gap of a centre-aligned period, decided at the peak (R210, R211, R215). The falling edge lies at the peak at the
earliest, where it is decided. -/
def peakCentre (m : Mp) (t : Time) (ton : Int) (x : LegSt) : LegSt :=
  let h := m.p / 2
  if m.p ≤ ton ∧ !x.diagOn then place m true t { x with carry := 0, pulse := true, pulseC := 0, fallFix := none }
  else if ton ≤ 0 ∧ !x.diagOn then place m false t { x with carry := 0, pulse := false, fallFix := none }
  else if !x.pulse then place m false t x
  else
    let f0 := match x.fallFix with | some a => ((a : Int) - t) / 5 | none => max 0 (halfDown (ton + x.pulseC))
    let f := if h < f0 then h else f0
    let x1 : LegSt := { x with
      carry := if m.policy = 2 then clampP m.p (x.carry + (f0 - f)) else x.carry
      pulse := false
      fallFix := none }
    let n0 := m.p - halfUp (ton + x1.carry)
    gapAt m t f (if n0 < h then h else n0) x1

/-- A sawtooth pulse of `w` fine steps, and the gap to the end of the period, decided at the start (R215). -/
def sawPulse (m : Mp) (t : Time) (w : Int) (x : LegSt) : LegSt :=
  let f := if m.p < w then m.p else w
  let up := match x.riseAt with | some a => max a t | none => t
  let x1 := place m true up { x with carry := cutCarry m (w - f), riseAt := none }
  let gap := m.p - f
  if gap < m.tmin then
    match m.policy with
    | 1 => place m false (plusFine t f) { x1.narrow with riseAt := some (plusFine t (f + m.tmin)) }
    | 0 => x1.narrow
    | _ => { x1.narrow with carry := clampP m.p (x1.carry - gap) }
  else place m false (plusFine t f) x1

/-- A sawtooth period, decided at its start (R210, R211, R215). -/
def sawStart (m : Mp) (t : Time) (ton : Int) (x : LegSt) : LegSt :=
  let x1 : LegSt := { x with diagOn := false, joined := false }
  let z := fun (y : LegSt) => { y with riseAt := none }
  if m.p ≤ ton then
    let up := match x.riseAt with | some a => max a t | none => t
    z (place m true up { x1 with carry := 0 })
  else if ton ≤ 0 then z (place m false t { x1 with carry := 0 })
  else
    let w := ton + x.carry
    if w < m.tmin ∨ w ≤ 0 then
      match m.policy with
      | 0 => z (place m false t { x1.narrow with carry := 0 })
      | 1 => sawPulse m t m.tmin { x1.narrow with carry := 0 }
      | _ => z (place m false t { x1.narrow with carry := clampP m.p w })
    else sawPulse m t w x1

/-! ### The fault latch at an edge (R244) -/

/-- The conditions under which the latch clears. -/
def latchMayClear (s : State) (l : Nat) : Bool :=
  let x := leg s l
  !(cl s (l / 6)).low && x.h.cfm && x.l.cfm && !x.h.marked && !x.l.marked && !(grp s (legGrp s l)).hold

/-- FAULT_LATCH_CLEAR: the latch is checked, and clears if its conditions hold. -/
def latchCheck (l : Nat) (s : State) : State :=
  if (leg s l).latch && latchMayClear s l then updLeg l (fun x => { x with latch := false }) s else s

/-- At the start of an always-on period or half the latch is checked; where it clears the high command turns on. -/
def alwaysOnStart (l : Nat) (t : Time) (s : State) : State :=
  let s1 := latchCheck l s
  let x := leg s1 l
  if (leg s l).latch && !x.latch && x.level == some true && x.plan.isEmpty && !x.h.on && x.h.want.isNone then
    turnOnIfReady l .high t (updLeg l (fun y => y.ask .high t) s1)
  else s1

/-! ### Diagnosis (R222, R223) -/

/-- The end of a carrier period at `t`: the period is diagnosed, undiagnosed, or not counted. Only a period that ran is
counted: none ends at the first period start after a re-base or an enable, and DESIGN CHOICE (log 59) the period in which
a hold ended is not counted. -/
def periodEnd (l : Nat) (t : Time) (s : State) : State :=
  let x := leg s l
  if !(aflag s (MOD_LEG_DIAG_DIAGEN l)) || !(driven s l) || (grp s (legGrp s l)).hold || x.duty.isNone || !x.live then s
  else
    let acc := x.onAcc + x.onUpTo t
    if afld s (MOD_LEG_DIAG_TDIAG l) * tb ≤ acc ∨ x.diagOn then
      legBit 20 l (updLeg l (fun y => { y with undiag := 0, undiagSet := false }) s)
    else if x.ton ≤ 0 ∧ !(aflag s (MOD_LEG_DIAG_DIAGZ l)) then s
    else updLeg l (fun y => { y with undiag := min (y.undiag + 1) (afld s (MOD_LEG_DIAG_N l)) }) s

/-! ### Carrier points (R208, R209, R215) -/

/-- The carrier point of a leg at an instant. -/
inductive Point where
  | none
  | start
  | mid
  deriving DecidableEq, Repr

def pointAt (s : State) (l : Nat) (t : Time) : Point :=
  let first := (leg s l).epoch + afld s (MOD_LEG_OFS_OFFSET l) * fineStep
  let p := carrierP s s.tick.period l * fineStep
  if t < first ∨ p = 0 then .none
  else if (t - first) % p = 0 then .start
  else if (t - first) % p = p / 2 then .mid
  else .none

/-- The point is an update point of the leg (R209). -/
def isUpdate (s : State) (l : Nat) : Point → Bool
  | .none => false
  | .start => (afld s (MOD_LEG_CFG_UPD l)).testBit 0
  | .mid => (afld s (MOD_LEG_CFG_UPD l)).testBit 1 && !(aflag s (MOD_LEG_CFG_CKIND l))

/-- The duty that a leg takes at an update point: the latest commit's, or the discharge duty (R209, R358). -/
def dutyFor (s : State) (l : Nat) : Word :=
  if (grp s (legGrp s l)).kind = 4 then live s (SAF_DIS_DUTY) else latched s (4 * l)

/-- The decision at a carrier point, by the duty in force. -/
def decide_ (s : State) (l : Nat) (pt : Point) (t : Time) (x : LegSt) : LegSt :=
  match x.duty with
  | none => x
  | some d =>
    let m := mpOf s l
    let ton := dutySteps d m.p
    match pt with
    | .start => { (if aflag s (MOD_LEG_CFG_CKIND l) then sawStart m t ton x else valleyCentre m t ton x) with ton := ton }
    | .mid => if aflag s (MOD_LEG_CFG_CKIND l) then x else peakCentre m t ton x
    | .none => x

/-- The half or period that begins at the point is always on. -/
def alwaysOn (s : State) (l : Nat) (pt : Point) : Bool :=
  match (leg s l).duty with
  | none => false
  | some d => decide ((mpOf s l).p ≤ dutySteps d (mpOf s l).p) && !(pt == .mid && aflag s (MOD_LEG_CFG_CKIND l))

/-- A period begins at `t`; `drv` says that the modulator drives the leg in it. -/
def LegSt.beginPeriod (x : LegSt) (t : Time) (drv : Bool) : LegSt :=
  { x with periodAt := t, onAcc := 0, live := drv, narrowWas := x.bits.getLsbD 17 }

/-- A discharge drives the leg by its duty only from the first update point after the start boundary (R358). -/
def disWaits (s : State) (l : Nat) (t : Time) : Bool := (grp s (legGrp s l)).kind == 4 && decide (t ≤ s.saf.disFrom)

/-- What happens at a carrier point; `upd` says that it is an update point. R206 withholds a result-bank duty, not the
duty of a discharge; DESIGN CHOICE (log 59): once the check passes again the leg resumes at its next update point. -/
def carrierPoint (l : Nat) (pt : Point) (upd : Bool) (t : Time) (s : State) : State :=
  let drv := driven s l && !(disWaits s l t)
  let s0 := if pt = .start then updLeg l (fun x => x.beginPeriod t drv) (periodEnd l t s) else s
  let s1 := updLeg l (fun x => { x with ptAt := some t }) s0
  if !drv then s1
  else
    let d := dutyFor s l
    let bad := (leg s l).srcBad && (grp s (legGrp s l)).kind != 4
    let s2 := if upd then updLeg l (fun x => { x with duty := some d, withheld := bad }) s1 else s1
    if (leg s2 l).withheld then
      updLeg l (fun x => { x with
        ideal := none, plan := [], pulse := false, fallFix := none, diagOn := false, riseAt := none
        joined := false }) (legLow t l s2)
    else
      let s3 := updLeg l (fun x => decide_ s2 l pt t x) s2
      if alwaysOn s3 l pt then alwaysOnStart l t s3 else s3

/-- A point is due at `t`, and has not been taken. -/
def pointDue (s : State) (l : Nat) (t : Time) : Bool :=
  legOn s l && ticking s && !s.tbLost && pointAt s l t != .none && (leg s l).ptAt != some t

/-- CARRIER_UPDATE_POINT (R209): the leg takes the duty of the latest commit and decides its pulse or gap. -/
def execCarrierUpdatePoint (l : Fin 96) (t : Time) (s : State) : Out :=
  let s1 := upto t s
  let pt := pointAt s l.val t
  .next (if pointDue s l.val t && isUpdate s l.val pt then carrierPoint l.val pt true t s1 else s1)

/-- CARRIER_PERIOD_START (R215): a period start or mid-period point that is no update point. -/
def execCarrierPeriodStart (l : Fin 96) (t : Time) (s : State) : Out :=
  let s1 := upto t s
  let pt := pointAt s l.val t
  .next (if pointDue s l.val t && !(isUpdate s l.val pt) then carrierPoint l.val pt false t s1 else s1)

/-! ### Edges (R210 to R213, R230, R231) -/

/-- The turn-off at an ideal edge; a turn-on of that gate that was due and has not been made is lost (R213). -/
def edgeOff (l : Nat) (sd : Side) (t : Time) (s : State) : State :=
  let lost := match ((leg s l).gate sd).want with | some w => decide (w < t) | none => false
  let s1 := updLeg l (fun x => x.off sd t) s
  if lost then legFault 6 l s1 else s1

/-- The gates follow an ideal edge at `t`. -/
def followEdge (l : Nat) (rise : Bool) (t : Time) (s : State) : State :=
  let on : Side := if rise then .high else .low
  let s1 := updLeg l (fun x => { x with band := bandOf s l }) (edgeOff l on.other t s)
  turnOnIfReady l on t (updLeg l (fun x => x.ask on (t + deadTime s l)) s1)

/-- Edges of the modulator do not reach the leg's pins: its fault latch is set (R244), or FLTc is low (R235). -/
def edgesBlocked (s : State) (l : Nat) : Bool := (leg s l).latch || (cl s (l / 6)).low

/-- MOD_EDGE (R210): the first planned ideal edge of the leg falls at its instant; at a rising one the fault latch is
checked (R244). -/
def execModEdge (l : Fin 96) (s : State) : Out :=
  .next (match (leg s l.val).plan with
  | [] => s
  | e :: r =>
    if !(driven s l.val) then s
    else
      let s1 := upto e.at_ s
      let s2 := updLeg l.val (fun x => { x with ideal := some e.rise, idealAt := e.at_, plan := r }) s1
      let s3 := if e.rise then latchCheck l.val s2 else s2
      if edgesBlocked s3 l.val then s3 else followEdge l.val e.rise e.at_ s3)

/-- DEAD_TIME_EXPIRE (R212): a waiting turn-on is driven if its conditions are met. -/
def execDeadTimeExpire (l : Fin 96) (sd : Side) (t : Time) (s : State) : Out :=
  .next (turnOnIfReady l.val sd t (upto t s))

/-! ### Status inputs (R230, R237, R262) -/

/-- The adaptation of an edge type after a measured time of `t` fine steps (R262). -/
def adaptStep (target win conv t : Nat) (a : Adapt) : Adapt :=
  if a.state ≠ 1 then a
  else if target + win < t then
    if a.code = 15 then
      { a with inw := 0, outw := a.outw + 1, state := if conv ≤ a.outw + 1 then 3 else 1 }
    else { a with code := a.code + 1, inw := 0, outw := 0 }
  else if t + win < target then
    if a.code = 0 then
      { a with inw := 0, outw := a.outw + 1, state := if conv ≤ a.outw + 1 then 3 else 1 }
    else { a with code := a.code - 1, inw := 0, outw := 0 }
  else { a with inw := a.inw + 1, outw := 0, state := if conv ≤ a.inw + 1 then 2 else 1 }

/-- ADAPT_MEASURE: the status has answered the last command edge of the side at `t`. -/
def adaptMeasure (l : Nat) (sd : Side) (t : Time) (s : State) : State :=
  let g := (leg s l).gate sd
  let m := (t - g.edgeAt) / fineStep
  let k := edgeType sd g.on
  let r := legGrp s l
  let a := adaptStep (afld s (GLK_GRP_ADAPT_TTARGET r)) (afld s (GLK_GRP_ADAPT_TWIN r)) (afld s (GLK_GRP_ADAPT_CONV r)) m
    (adaptOf s l sd g.on)
  let ad := adapted s l k
  updLeg l (fun x =>
    { x.setGate sd { x.gate sd with answered := true } with
      tsw := if k = 0 then m else x.tsw
      adapt := if ad then SMap.set adaptD x.adapt k a else x.adapt }) s

/-- Step 4 ends once every gate that was turned on is confirmed (R237). -/
def verifyDone (g : Nat) (s : State) : State :=
  match (grp s g).side with
  | none => s
  | some sd =>
    if (grp s g).step = 4 ∧ (grpLegs s g).all (fun l =>
        let x := leg s l
        x.excl || ((x.gate sd).on && !(x.gate sd).cfm)) then
      updGrp g (fun x => { x with step := 5 }) s
    else s

/-- STATUS_INPUT_EDGE (R230): the level of SHx or SLx changes. -/
def execStatusInputEdge (l : Fin 96) (sd : Side) (v : Bool) (t : Time) (s : State) : Out :=
  let s1 := upto t s
  let g := (leg s l.val).gate sd
  .next (if !(hasLeg s l.val) || g.cfm == v then s1
  else
    let s2 := updLeg l.val (fun x => x.setGate sd { x.gate sd with cfm := v, cfmAt := t, stuckSeen := false }) s1
    let s3 := if v != g.on && !g.answered then adaptMeasure l.val sd t s2 else s2
    verifyDone (legGrp s l.val) (turnOnIfReady l.val sd.other t s3))

/-! ### Confirm timeout and stuck gates (R232, R233) -/

/-- CONFIRM_TIMEOUT (R232). -/
def execConfirmTimeout (l : Fin 96) (sd : Side) (t : Time) (s : State) : Out :=
  let s1 := upto t s
  let x := leg s l.val
  .next (match (x.gate sd).want with
  | some w =>
    if legOn s l.val && !(x.gate sd.other).on && decide (deadline s l.val sd w ≤ t) && !(interlockOk s l.val sd t) then
      legFaultGroup 3 t l.val (setLatch l.val (legFault 2 l.val (legLow t l.val s1)))
    else s1
  | none => s1)

/-- STUCK_GATE (R233, R245). -/
def execStuckGate (l : Fin 96) (sd : Side) (t : Time) (s : State) : Out :=
  let s1 := upto t s
  let g := (leg s l.val).gate sd
  let gr := legGrp s l.val
  .next (if legOn s l.val && ticking s && g.disagrees && !g.stuckSeen && decide (max g.edgeAt g.cfmAt + stuckT s < t) then
    let s2 := updLeg l.val (fun x => x.setGate sd { x.gate sd with stuckSeen := true }) s1
    let s3 := if g.on then markUnus sd l.val (legFault (if sd = .high then 3 else 4) l.val s2)
      else markStuckOn sd l.val s2
    let s4 := legLow t l.val (setLatch l.val s3)
    setHard gr (sideChange t gr (spread t gr (enterHold 4 false t gr s4)))
  else s1)

/-! ### Sampling instants and diagnosis (R219, R223, R224) -/

/-- The instant is one of the group's sampling instants. -/
def isInstant (s : State) (g : Nat) (t : Time) : Bool :=
  let r := afld s (MOD_GRP_CFG_SREF g)
  let k := afld s (MOD_GRP_CFG_SMP g)
  let first := (leg s r).epoch + afld s (MOD_LEG_OFS_OFFSET r) * fineStep
  let p := carrierP s s.tick.period r * fineStep
  let u := t + afld s (MOD_GRP_SLEAD_LEAD g) * tb
  legOn s r && p != 0 && decide ((leg s r).epoch ≤ t) && decide (first ≤ u) &&
  ((k.testBit 0 && (u - first) % p == 0) || (k.testBit 1 && (u - first) % p == p / 2))

/-- SAMPLING_INSTANT: a sampling instant of the group (R219), or the diagnostic one of a leg of it (R223). -/
def execSamplingInstant (g : Fin 16) (t : Time) (s : State) : Out :=
  let s1 := upto t s
  let dg := (grpLegs s g.val).filter fun l => (leg s l).diagAt == some t
  .next (if ticking s && !s.tbLost then
    forAll dg (fun l => updLeg l (fun x => { x with diagAt := none }))
      (updGrp g.val (fun x => { x with
        sampledAt := if isInstant s g.val t then some t else x.sampledAt
        diagSeen := if dg.isEmpty then x.diagSeen else some t }) s1)
  else s1)

/-- MOD_UNDIAG (R224): the count stands at N and the group takes no diagnostic pulses. -/
def execModUndiag (l : Fin 96) (s : State) : Out :=
  let x := leg s l.val
  .next (if legOn s l.val && aflag s (MOD_LEG_DIAG_DIAGEN l.val) && !(aflag s (MOD_GRP_CFG_DINS (legGrp s l.val))) &&
      decide (afld s (MOD_LEG_DIAG_N l.val) ≤ x.undiag) && !x.undiagSet then
    legFault 18 l.val (updLeg l.val (fun y => { y with undiagSet := true }) s)
  else s)

/-- The diagnostic pulse in place of the period's commanded pulse and any carry, with no edge beyond its period (R210,
R223). What the replaced pulse left, NARROW and a next rising edge moved later, goes with it (R225). -/
def diagPulse (m : Mp) (saw : Bool) (w : Int) (x : LegSt) : LegSt :=
  let t := x.periodAt
  let f := if saw then w else m.p / 2 + halfDown w
  let dn := plusFine t (if m.p < f then m.p else f)
  let x1 : LegSt := { x with
    plan := x.plan.filter (fun e => e.at_ ≤ t), carry := 0, pulseC := 0, joined := false, fallFix := none, riseAt := none
    bits := if x.narrowWas then x.bits else x.bits &&& ~~~(1#32 <<< 17) }
  let y := if saw then place m false dn (place m true t x1) else centrePulse m t w true x1
  let up := match y.plan.find? (fun e => e.rise) with | some e => e.at_ | none => y.idealAt
  { y with diagOn := true, carry := 0, diagAt := some ((plusFine up m.dt + dn) / 2) }

/-- DIAG_PULSE_INSERT (R223): the period that begins as the count reaches N carries a diagnostic pulse. -/
def execDiagPulseInsert (l : Fin 96) (s : State) : Out :=
  let x := leg s l.val
  .next (if driven s l.val && !(grp s (legGrp s l.val)).hold && aflag s (MOD_LEG_DIAG_DIAGEN l.val) &&
      aflag s (MOD_GRP_CFG_DINS (legGrp s l.val)) && decide (afld s (MOD_LEG_DIAG_N l.val) ≤ x.undiag) && !x.diagOn &&
      !x.withheld && x.duty.isSome && decide (x.idealAt ≤ x.periodAt) then
    let m := mpOf s l.val
    let w : Int := afld s (MOD_LEG_DIAG_TDIAG l.val) * 16 + m.dt
    legBit 19 l.val (updLeg l.val (fun y => diagPulse m (aflag s (MOD_LEG_CFG_CKIND l.val)) w y) s)
  else s)

/-! ### Debug halt and the timebase (R220, R221) -/

/-- The groups that a halt of unit `u` (7: the engine) holds. -/
def depGroups (s : State) (u : Nat) : List Nat :=
  those 16 fun g => u == 7 || (afld s (MOD_GRP_CFG_DEP g)).testBit u

/-- DEBUG_HALT (R220): a debugger halts a unit, or the engine (unit 7), through the debug port, where that acts (R436). -/
def execDebugHalt (u : Fin 8) (t : Time) (s : State) : Out :=
  let s1 := upto t s
  .next (if !(hasUnit s u.val) || !(dbgActs s1) then s1
  else
    let s2 := if u.val = 7 then { s1 with engHalt := true }
      else updUnit u.val (fun x => { x with halted := true })
        (if pairState s u.val = 2 then updUnit (u.val + 8) (fun x => { x with halted := true }) s1 else s1)
    if ticking s then forAll (depGroups s u.val) (enterHold 7 false t) s2 else s2)

/-- DEBUG_RESUME (R220): the unit or the engine runs again; its groups stay held until SV releases them. -/
def execDebugResume (u : Fin 8) (s : State) : Out :=
  .next (if u.val = 7 then { s with engHalt := false }
  else updUnit u.val (fun x => { x with halted := false }) (updUnit (u.val + 8) (fun x => { x with halted := false }) s))

/-- TIMEBASE_LOSS (R221): the modulator stops, the profile bus stops, and every group with an enabled leg goes to its
safe state until a device reset, also one that a discharge was driving. -/
def execTimebaseLoss (t : Time) (s : State) : Out :=
  let s1 := upto t s
  .next (if s.tbLost then s1
  else
    let dis := those 16 fun g => disDrives s g
    let s2 := forAll (List.range 16) (fun c => updCl c (fun x => { x with poll := none, again := false, asked := none }))
      { s1 with tbLost := true }
    let s3 := forAll (those 96 fun l => legOn s l) (fun l => updLeg l LegSt.undrive) s2
    forAll dis (runSeq t) (forAll (those 16 fun g => !(grpLegs s g).isEmpty) (enterHold 8 false t) s3))

/-! ### Re-base (R218) -/

/-- The leg re-bases at the boundary `t`. -/
def rebaseLeg (t : Time) (l : Nat) (s : State) : State :=
  let m := mpOf s l
  let d := driven s l && !(leg s l).withheld && !(disWaits s l t)
  let du := dutyFor s l
  legBit 22 l (updLeg l (fun x =>
    let y : LegSt := { x with
      epoch := t, live := false, ptAt := none, carry := 0, pulse := false, pulseC := 0, fallFix := none, diagOn := false
      riseAt := none, joined := false, plan := x.plan.filter (fun e => e.at_ ≤ t) }
    if d then { place m false t { y with duty := some du } with carry := 0 } else y) s)

end Sys2Proof.Machine
end

