-- ==== Sys2Proof/Machine/LegGuard.lean ====
section
/-! DEFINITION. The commands of the leg guard and of the profile bus: fault lines, polls, frames, the safe-state
sequences, releases, and GLK's part of a rebinding (R227 to R269). -/

namespace Sys2Proof.Machine
open Sys2Proof

/-! ### Fault lines (R234, R235, R241, R245) -/

/-- The effects of a fall of FLTc on one group with an enabled leg in the cluster. -/
def clusterFault (t : Time) (g : Nat) (s : State) : State :=
  spread t g (faultHold 2 t g (countEsc 2 t g s))

/-- FLT_FALL (R234): FLTc goes low. -/
def fltFall (c : Nat) (t : Time) (s : State) : State :=
  let s1 := updCl c (fun x => { x with
    low := true, lowAt := t, hardDone := false, clean := false, dirty := true }) s
  let s2 := forAll (those 96 fun l => l / 6 == c) (legLow t) s1
  let s3 := forAll (clLegs s c) setLatch s2
  let s4 := raise (96 + c) (forAll (clGrps s c) (clusterFault t) s3)
  startPoll true t c s4

def execFltFall (c : Fin 16) (t : Time) (s : State) : Out :=
  let s1 := upto t s
  .next (if hasCluster s c.val && !(cl s c.val).low then fltFall c.val t s1 else s1)

/-- FLT_RISE (R241): FLTc goes high, and one further poll starts; a poll in progress is not one since the rise. -/
def execFltRise (c : Fin 16) (t : Time) (s : State) : Out :=
  let s1 := upto t s
  .next (if (cl s c.val).low then
    startPoll true t c.val (updCl c.val (fun x => { x with low := false, clean := false, dirty := true }) s1)
  else s1)

/-- A hard fault of a cluster on one group. -/
def hardHold (t : Time) (g : Nat) (s : State) : State := setHard g (spread t g (enterHold 2 false t g s))

/-- FLT_HARD (R245): FLTc has been low for FLT_HARD_T. -/
def execFltHard (c : Fin 16) (t : Time) (s : State) : Out :=
  let s1 := upto t s
  let x := cl s c.val
  .next (if x.low && !x.hardDone && decide (x.lowAt + hardT s ≤ t) then
    raise (96 + c.val) (forAll (clGrps s c.val) (hardHold t) (updCl c.val (fun y => { y with hardDone := true }) s1))
  else s1)

/-! ### Polls (R241, R255, R256, R258) -/

/-- FAULT_POLL_REPEAT (R241): 10 µs after the start of the previous poll, while FLTc stays low. -/
def execFaultPollRepeat (c : Fin 16) (t : Time) (s : State) : Out :=
  let s1 := upto t s
  .next (if (cl s c.val).low && decide ((cl s c.val).pollAt + 10 * us ≤ t) then startPoll true t c.val s1 else s1)

/-- PERIODIC_POLL (R258): at a boundary whose tick number is a multiple of POLL; at boundary 0 it and the poll after
the start frames are one. -/
def execPeriodicPoll (c : Fin 16) (s : State) : Out :=
  let k := afld s (GLK_CL_CFG_POLL c.val)
  .next (if busUp s c.val && k != 0 && s.tick.tcnt % k == 0 && (cl s c.val).perTick != some s.tick.count then
    let s1 := updCl c.val (fun x => { x with perTick := some s.tick.count }) s
    if s.tick.tcnt = 0 ∧ !(cl s c.val).started then s1 else startPoll false s.now c.val s1
  else s)

/-- STATUS_REQUEST (R255): an addressed request on a free bus, or with address 6 a broadcast poll. -/
def execStatusRequest (c : Fin 16) (a : Fin 7) (t : Time) (s : State) : Out :=
  let s1 := upto t s
  .next (if !(busUp s c.val) then s1
  else if a.val = 6 then startPoll false t c.val s1
  else if !(busFree s c.val t) then s1
  else updCl c.val (fun x => { x with
    asked := some a.val, askAt := t, busyTo := t + askTime, frame := reqFrame a.val 2 0 }) (endAsk t c.val s1))

/-- A reply that arrives whole at `t` fills slot `a` of the poll in progress: the slot's 16 bits end 42 + 18a cycles after
the poll's first bit (R255). -/
def slotDue (x : ClSt) (a : Nat) (t : Time) : Bool :=
  match x.poll with
  | some p => !(x.seen.getLsbD a) && decide (p + (42 + 18 * a) * (20 * ns) ≤ t)
  | none => false

/-- It answers the outstanding addressed request. -/
def askDue (x : ClSt) (a : Nat) (t : Time) : Bool :=
  x.asked == some a && decide (x.askAt + 42 * (20 * ns) ≤ t) && decide (t < x.askAt + askTime)

/-- What the reply `r` of leg `l` says; a fault poll's reply can mark, latch and exclude (R238, R241, R244), and any
reply with FH or FL sets FSRC and is not clean (R256, R265). -/
def takeReply (fault : Bool) (r : BitVec 16) (t : Time) (l : Nat) (s : State) : State :=
  let s1 := if r.getLsbD 10 then legFault 8 l s else s
  let s2 := if fault then polled (r.getLsbD 12) t l s1 else s1
  if !(r.getLsbD 14 || r.getLsbD 13) then s2
  else if fault then faultReply (r.getLsbD 14) (r.getLsbD 13) t l s2
  else notClean l (legBit 1 l s2)

/-- POLL_REPLY (R256): the reply of the driver at position `a`. -/
def execPollReply (c : Fin 16) (a : Fin 6) (r : BitVec 16) (t : Time) (s : State) : Out :=
  let s1 := endAsk t c.val (upto t s)
  let x := cl s c.val
  let l := 6 * c.val + a.val
  let ask := askDue x a.val t
  .next (if !ask && !(slotDue x a.val t) then s1
  else
    let fault := !ask && x.fault
    let s2 := updCl c.val (fun y =>
      if ask then { y with asked := none } else { y with seen := y.seen ||| (1#6 <<< a.val) }) s1
    if !(legOn s l) then s2
    else if !(replyOk a.val r) then absentReply fault t l s2
    else takeReply fault r t l s2)

/-- POLL_COMPLETE (R241): the 134 cycles of the poll have passed; a position with an enabled leg that gave no reply is
absent, and a further poll that is due starts. An addressed request whose 44 cycles have passed ends too (log 63). -/
def execPollComplete (c : Fin 16) (t : Time) (s : State) : Out :=
  let s1 := endAsk t c.val (upto t s)
  let x := cl s c.val
  .next (match x.poll with
  | some p =>
    if p + pollTime ≤ t then
      let miss := (clLegs s c.val).filter fun l => !(x.seen.getLsbD (l % 6))
      let s2 := forAll miss (absentReply x.fault t) s1
      let s3 := updCl c.val (fun y => { y with
        poll := none
        clean := y.clean || (!y.dirty && !y.low)
        started := y.started || y.pollNew }) s2
      if x.again then startPoll x.againFault t c.val s3 else s3
    else s1
  | none => s1)

/-! ### Frames (R253, R255, R258) -/

/-- The next turn-on of a side, as requested or as planned. -/
def nextOn (s : State) (l : Nat) (sd : Side) : Option Time :=
  let x := leg s l
  match (x.gate sd).want with
  | some w => some w
  | none => (x.plan.find? fun e => e.rise == (sd == .high)).map fun e => e.at_ + deadTime s l

/-- EDGE_PROFILE (R258): the frame that carries the codes of a side's next turn-on and turn-off, on a free bus: a poll
that is due goes before it. -/
def execEdgeProfile (l : Fin 96) (sd : Side) (t : Time) (s : State) : Out :=
  let s1 := upto t s
  let k := sideCodes s l.val sd
  let c := l.val / 6
  .next (if legOn s l.val && busUp s c && busFree s c t && ((leg s l.val).gate sd).sent != some k then
    let pay := (if sd = .low then 2 ^ 13 else 0) + k.1 * 2 ^ 9 + k.2 * 2 ^ 5
    let late := match nextOn s l.val sd with | some w => decide (w < t + 1480 * ns) | none => false
    let s2 := sendFrame (reqFrame (l.val % 6) 0 pay) t c
      (updLeg l.val fun x => x.setGate sd { x.gate sd with sent := some k }) s1
    if late then legBit 7 l.val s2 else s2
  else s1)

/-- CONFIGURATION_FRAME (R258): the frame that carries SLOPE and FSNK. -/
def execConfigurationFrame (l : Fin 96) (t : Time) (s : State) : Out :=
  let s1 := upto t s
  let c := l.val / 6
  .next (if legOn s l.val && busUp s c && busFree s c t && !(leg s l.val).cfgSent then
    let pay := afld s (GLK_LEG_SC_SLOPE l.val) * 2 ^ 9 + afld s (GLK_LEG_SC_FSNK l.val) * 2 ^ 5
    sendFrame (reqFrame (l.val % 6) 1 pay) t c (updLeg l.val fun x => { x with cfgSent := true }) s1
  else s1)

/-! ### The safe-state sequence (R237 to R240) -/

/-- Step 2 has ended for a leg: the opposite side is off-confirmed and has been low for DT. -/
def waited (s : State) (sd : Side) (t : Time) (l : Nat) : Bool := (leg s l).excl || interlockOk s l sd t

/-- No fault poll of the group's clusters runs or is due (R237, R243). -/
def pollsDone (s : State) (g : Nat) : Bool :=
  s.tbLost || (grpCls s g).all fun c => !((cl s c).poll.isSome && (cl s c).fault) && !((cl s c).again && (cl s c).againFault)

/-- Step 3: the chosen side of every non-excluded leg is turned on. -/
def turnOnSide (sd : Side) (t : Time) (g : Nat) (s : State) : State :=
  let s1 := forAll ((grpLegs s g).filter fun l => !(leg s l).excl) (fun l x =>
    turnOnIfReady l sd t (updLeg l (fun y => y.ask sd t) x)) s
  updGrp g (fun x => { x with step := 4, onAt := t, rechoose := false }) s1

/-- ASC_TURN_ON (R237): the end of step 2, with the fresh choice of R240 where one is due. -/
def execAscTurnOn (g : Fin 16) (t : Time) (s : State) : Out :=
  let s1 := upto t s
  let x := grp s g.val
  let fresh : Option Side := if x.rechoose then chooseAsc s g.val else x.side
  .next (if !x.hold || x.step != 2 || !(pollsDone s g.val) then s1
  else match x.side, fresh with
  | some old, some sd =>
    if sd ≠ old ∧ x.changes ≠ 0 then
      grpEvent g.val (step1 t g.val (updGrp g.val (fun y => { y with side := none, offKept := true, rechoose := false }) s1))
    else
      let s2 := if sd = old then s1
        else grpEvent g.val (updGrp g.val (fun y => { y with side := some sd, changes := 1, rechoose := false }) s1)
      if (grpLegs s2 g.val).all (waited s2 sd t) then turnOnSide sd t g.val s2 else s2
  | some _, none =>
    grpEvent g.val (step1 t g.val (updGrp g.val (fun y => { y with side := none, offKept := true, rechoose := false }) s1))
  | none, _ => s1)

/-- ASC_VERIFY_TIMEOUT (R237): a side that was turned on has not been confirmed within CONFIRM_TMO of step 3. -/
def execAscVerifyTimeout (l : Fin 96) (t : Time) (s : State) : Out :=
  let s1 := upto t s
  let g := legGrp s l.val
  let x := grp s g
  .next (match x.side with
  | some sd =>
    let y := (leg s l.val).gate sd
    if legOn s l.val && x.hold && x.step == 4 && y.on && y.cfm && decide (x.onAt + confirmTmo s ≤ t) then
      sideChange t g (markUnus sd l.val s1)
    else s1
  | none => s1)

/-- SAFE_STATE_WAIT_TIMEOUT (R238): step 2 has not ended for a leg within DT + CONFIRM_TMO of step 1. -/
def execSafeStateWaitTimeout (l : Fin 96) (t : Time) (s : State) : Out :=
  let s1 := upto t s
  let g := legGrp s l.val
  let x := grp s g
  .next (match x.side with
  | some sd =>
    let o := (leg s l.val).gate sd.other
    if legOn s l.val && x.hold && x.step == 2 && !(leg s l.val).excl && !o.cfm && !o.stuckOn &&
        decide (x.stepAt + deadTime s l.val + confirmTmo s ≤ t) then
      sideChange t g (markStuckOn sd.other l.val s1)
    else s1
  | none => s1)

/-! ### Release (R248, R249) -/

/-- SAF_RELEASE (R248): an applied release entry. -/
def execSafRelease (gs : BitVec 16) (s : State) : Out := .next (releaseApply gs s)

/-- The hold ends and the legs pass to the modulator. -/
def endHold (g : Nat) (s : State) : State :=
  let s1 := forAll (grpLegs s g) (fun l => updLeg l (fun x => x.unmark.undrive)) s
  grpEvent g (updGrp g (fun x => { x with
    hold := false, step := 0, side := none, lowspd := false, rechoose := false, changes := 0, offKept := false
    cause := 0, soft := true, spreadBy := 0 }) s1)

/-- HOLD_LEAVE_COMPLETE (R249): every gate of every non-excluded leg is low, off-confirmed and has been low for DT. -/
def execHoldLeaveComplete (g : Fin 16) (t : Time) (s : State) : Out :=
  let s1 := upto t s
  .next (if (grp s g.val).hold && (grp s g.val).step == 6 &&
      (grpLegs s g.val).all (fun l => (leg s l).excl || (gateQuiet s l .high t && gateQuiet s l .low t)) then
    endHold g.val s1
  else s1)

/-- The sides that keep a leaving group held at `t`. -/
def unquiet (s : State) (g : Nat) (t : Time) : List (Nat × Side) :=
  let due := fun (l : Nat) => !(leg s l).excl && decide ((grp s g).stepAt + deadTime s l + confirmTmo s ≤ t)
  ((grpLegs s g).filter fun l => due l && !(gateQuiet s l .high t)).map (fun l => (l, Side.high)) ++
  ((grpLegs s g).filter fun l => due l && !(gateQuiet s l .low t)).map (fun l => (l, Side.low))

/-- HOLD_LEAVE_TIMEOUT (R249): the leaving takes too long, and the group stays held with HARD. -/
def execHoldLeaveTimeout (g : Fin 16) (t : Time) (s : State) : Out :=
  let s1 := upto t s
  let bad := unquiet s g.val t
  .next (if (grp s g.val).hold && (grp s g.val).step == 6 && !bad.isEmpty then
    let s2 := forAll bad (fun (l, sd) => markStuckOn sd l) s1
    let s3 := updGrp g.val (fun x => { x with soft := false }) s2
    setHard g.val (runSeq t g.val s3)
  else s1)

/-! ### GLK at a flip (R258, R263, R264) -/

/-- The position of a code in PRH or PRL: the band's source code for a turn-on, its sink code for a turn-off. -/
def codeFld (l : Nat) (k band : Nat) : Fld :=
  let a := if k < 2 then GLK_LEG_PRH l else GLK_LEG_PRL l
  ⟨a, 8 * band + (if k % 2 = 0 then 0 else 4), 4⟩

/-- The new live page with the converged codes of leg `l` copied into it, where the old page adapted the leg (R263). -/
def copyCodes (old : State) (l : Nat) (s : State) : State :=
  if lflag s (GLK_LEG_SC_ACOPY l) && lflag old (GLK_LEG_SC_AEN l) then
    forAll ((List.range 4).filter fun k => (SMap.get adaptD (leg s l).adapt k).state == 2) (fun k x =>
      let f := codeFld l k (lfld x (GLK_GRP_ADAPT_ABAND (lfld x (MOD_LEG_CFG_GROUP l))))
      setLive f.reg (f.put (SMap.get adaptD (leg x l).adapt k).code (live x f.reg)) x) s
  else s

/-- Adaptation of a leg starts afresh. -/
def LegSt.readapt (x : LegSt) : LegSt := { x with adapt := [] }

/-- At a flip of GLK from the live page of `old` the converged codes replace those of the new live page, and adaptation
starts again, or ends where the new page does not adapt the leg (R263). -/
def glkFlip (old s : State) : State :=
  forAll (List.range 96) (fun l => updLeg l LegSt.readapt) (forAll (List.range 96) (copyCodes old) s)

/-- The leg's slope detection differs between two acting pages: it begins anew (R250). -/
def slopeMoved (old s : State) (l : Nat) : Bool :=
  aflag old (GLK_LEG_SC_SCEN l) != aflag s (GLK_LEG_SC_SCEN l) || afld old (GLK_LEG_SC_SCBS l) != afld s (GLK_LEG_SC_SCBS l)

/-- No result and no count of the slope detection is kept. -/
def LegSt.slopeNew (x : LegSt) : LegSt := { x with scLast := none, scN := 0 }

/-- When a GLK page begins to act in place of that of `old`, its frames are to be sent to every enabled leg (R258),
adaptation, which edges under the old page may have begun, starts from the page's codes (R263), and slope detection of
another input, or newly enabled, starts without a result (R250). -/
def glkActs (old s : State) : State :=
  let s1 := forAll (those 96 fun l => legOn s l) (fun l => updLeg l (fun x => { x with
    cfgSent := false, h := { x.h with sent := none }, l := { x.l with sent := none } })) s
  forAll ((List.range 96).filter (slopeMoved old s)) (fun l => updLeg l LegSt.slopeNew)
    (forAll (List.range 96) (fun l => updLeg l LegSt.readapt) s1)

end Sys2Proof.Machine
end

