-- ==== Sys2Proof/Machine/Can.lean ====
section
/-! DEFINITION. The CAN controllers (R405 to R421). -/

namespace Sys2Proof.Machine
open Sys2Proof

/-- Event k of controller n (R421). -/
def canEv (n k : Nat) : Nat := 512 + 8 * n + k

/-- CAN_n_CFG as it acts: the live page's, and up to the end of a frame in progress that which stood before a flip
(R419). -/
def canCfg (s : State) (n : Nat) : Word := match (can s n).cfgWas with | some w => w.1 | none => live s (CAN_CFG n)
def canFlag (s : State) (n : Nat) (f : Nat → Fld) : Bool := (f n).of (canCfg s n) == 1

/-- The controller exists, is enabled, and takes part on the bus. -/
def canUp (s : State) (n : Nat) : Bool :=
  hasCan s n && canFlag s n CAN_CFG_EN && !(can s n).busOff && !(can s n).recovering && decide ((can s n).outTo ≤ s.now)

/-- MODE as it acts: detection, and a candidate found while it stays in force, make the controller listen-only (R417). -/
def canMode (s : State) (n : Nat) : Nat :=
  if (can s n).det.isSome || (can s n).found.isSome then 1 else (CAN_CFG_MODE n).of (canCfg s n)

/-- The controller may send: it takes part and is not listen-only. -/
def canSends (s : State) (n : Nat) : Bool := canUp s n && canMode s n != 1

/-! ### Bit timing (R406) -/

/-- The length of a bit of a timing word: BRP × (1 + TSEG1 + TSEG2) cycles of the CAN clock, the timebase divided by 5. -/
def bitTime (w : Word) : Time := bits w.toNat 24 8 * (1 + bits w.toNat 16 8 + bits w.toNat 8 7) * 5 * tb

/-- The candidate whose timing the live page puts in force: in trial or found (R417). -/
def candNow (s : State) (n : Nat) : Option Nat := (can s n).det.or (can s n).found

/-- The nominal and the data timing word of the live page: those of a candidate in force, or its own (R417). -/
def pageNbt (s : State) (n : Nat) : Word := match candNow s n with | some k => live s (CAN_CAND_NBT n k) | none => live s (CAN_NBT n)
def pageDbt (s : State) (n : Nat) : Word := match candNow s n with | some k => live s (CAN_CAND_DBT n k) | none => live s (CAN_DBT n)

/-- The timing words in force: up to the end of a frame in progress those that stood before a flip (R419). -/
def canNbt (s : State) (n : Nat) : Word := match (can s n).cfgWas with | some w => w.2.1 | none => pageNbt s n
def canDbt (s : State) (n : Nat) : Word := match (can s n).cfgWas with | some w => w.2.2 | none => pageDbt s n

/-! ### Message memory (R407) -/

def canBase (n : Nat) : Nat := 0x480A0000 + 0x4000 * n
/-- Transmit slot of pointer value `p` of FIFO `f`. -/
def txSlot (n f p : Nat) : Nat := canBase n + 0x500 * f + 0x50 * (p % 16)
/-- Receive slot of pointer value `p`. -/
def rxSlot (n p : Nat) : Nat := canBase n + 0x1000 + 0x50 * (p % 64)

def canTxWp (s : State) (n f : Nat) : Nat := SMap.get natD (can s n).txWp f
def canTxRp (s : State) (n f : Nat) : Nat := SMap.get natD (can s n).txRp f
def setTxRp (n f p : Nat) (s : State) : State :=
  updCan n (fun c => { c with txRp := SMap.set natD c.txRp f (p % 32) }) s
/-- Messages unsent in a FIFO. -/
def canCount (s : State) (n f : Nat) : Nat := subMod (canTxWp s n f) (canTxRp s n f) 32

/-- Word 0 of the head of a FIFO. -/
def canHead (s : State) (n f : Nat) : Nat := (rdWord s (txSlot n f (canTxRp s n f))).toNat

/-- The bits that take part in arbitration, the first of them most significant: a lower number wins (R409). -/
def arbKey (h : Nat) : Nat :=
  let rtr := b2n (bitOf h 30 && !(bitOf h 29))
  if bitOf h 31 then
    bits h 18 11 * 2 ^ 21 + 2 ^ 20 + 2 ^ 19 + bits h 0 18 * 2 + rtr
  else bits h 0 11 * 2 ^ 21 + rtr * 2 ^ 20

/-- A message is removed and counted in TXFAIL (R407, R408, R410). -/
def canTxFail (n : Nat) (s : State) : State := raise (canEv n 5) (incFld (CAN_CNT_TXFAIL n) s)

/-- Discard the heads that cannot be sent: FDF without FDEN, or RTR with FDF (R407). -/
def canDropBad (n f : Nat) : Nat → State → State
  | 0, s => s
  | k + 1, s =>
    let h := canHead s n f
    if canCount s n f != 0 && bitOf h 29 && (!(canFlag s n CAN_CFG_FDEN) || bitOf h 30) then
      canDropBad n f k (canTxFail n (setTxRp n f (canTxRp s n f + 1) s))
    else s

/-- The FIFO whose head wins: the lowest arbitration field, then the lowest FIFO (R409). -/
def canBest (s : State) (n : Nat) : Option Nat :=
  (those 3 fun f => canCount s n f != 0).foldl (fun b f =>
    match b with
    | none => some f
    | some g => if arbKey (canHead s n f) < arbKey (canHead s n g) then some f else b) none

/-- Discard the heads that cannot be sent, but for the FIFO whose head is chosen (R407). -/
def canSift (n : Nat) (s : State) : State :=
  forAll (those 3 fun f => (can s n).sending != some f) (fun f => canDropBad n f 16) s

/-- Choose the head for the next start of frame. -/
def canChoose (n : Nat) (s : State) : State :=
  let s1 := canSift n (updCan n (fun c => { c with sending := none, txOn := false }) s)
  if canSends s1 n then updCan n (fun c => { c with sending := canBest s1 n, chosenAt := s1.now }) s1 else s1

/-- Whether the frame of the chosen head has started: one chosen at this instant has not; after that the bus decides, of
which the device is told nothing before the frame ends (a free value, log 44), and what it has decided stands. -/
def canStarted (s : State) (n : Nat) : Bool :=
  let c := can s n
  c.sending.isSome && (c.txOn || (decide (c.chosenAt < s.now) && freeBool s))

/-- What has been asked about a frame's start stands from now on. -/
def canNoteStart (n : Nat) (s : State) : State :=
  updCan n (fun c => { c with txOn := canStarted s n }) (if (can s n).sending.isSome && !((can s n).txOn) then spend s else s)

/-! ### Error counters and detection -/

/-- TEC or REC is at least 128. -/
def canPassive (c : CanSt) : Bool := decide (128 ≤ c.tec) || decide (128 ≤ c.recv)

/-- The next candidate with BRP not 0 from candidate `k` up to NC. -/
def candFrom (s : State) (n k : Nat) : Option Nat :=
  ((List.range 8).filter fun i => k ≤ i && i ≤ fld s (CAN_DETREQ_NC n) && lfld s (CAN_CAND_NBT_BRP n i) != 0).head?

/-- Detection ends as found or not found (R417). -/
def canDetEnd (n : Nat) (found : Option Nat) (s : State) : State :=
  raise (canEv n 6) (updCan n (fun c => { c with
    det := none
    detRes := if found.isSome then 2 else 3
    detIdx := found.getD c.detIdx
    found := found }) s)

/-- Detection tries the candidates from `k`; after the last it starts again, or ends if ONCE is 1. -/
def canDetTry (n k : Nat) (t : Time) (s : State) : State :=
  match candFrom s n k with
  | some i => updCan n (fun c => { c with det := some i, detOk := 0, detAt := t }) s
  | none =>
    if flag s (CAN_DETREQ_ONCE n) then canDetEnd n none s
    else updCan n (fun c => { c with det := some ((candFrom s n 0).getD 0), detOk := 0, detAt := t }) s

/-- A value that 0 stands in for as 1. -/
def orOne (n : Nat) : Nat := if n = 0 then 1 else n

/-- An error-free frame counts for the candidate in trial. -/
def canDetFrame (n : Nat) (s : State) : State :=
  match (can s n).det with
  | none => s
  | some i =>
    if lfld s (CAN_CAND_NBT_BRP n i) == 0 then s
    else if orOne (fld s (CAN_DETREQ_NOK n)) ≤ (can s n).detOk + 1 then canDetEnd n (some i) s
    else updCan n (fun c => { c with detOk := c.detOk + 1 }) s

/-! ### Transmission -/

/-- CAN_TX_DOORBELL: an entry for CAN_n_TXFf_WP is applied (R408). -/
def canDoorbell (n : Nat) (f : Nat) (m : Mask) (d : Word) (s : State) : State :=
  let a := CAN_TXF_WP n f
  let v := clWord s a m d
  let wp := (CAN_TXF_WP_PTR n f).of v
  (
    if !(hasCan s n) then s
    else if 16 < subMod wp (canTxRp s n f) 32 then canTxFail n s
    else
      let s1 := canSift n (updCan n (fun c => { c with txWp := SMap.set natD c.txWp f wp }) (putCl a v s))
      if (can s1 n).sending.isSome then s1 else canChoose n s1)

def execCanTxDoorbell (n : Fin 6) (f : Fin 3) (m : Mask) (d : Word) (s : State) : Out := .next (canDoorbell n.val f.val m d s)

/-- The head of a FIFO leaves it, and with it the messages that a flush has marked (R416). -/
def canLeave (n f : Nat) (s : State) : State :=
  let fl := SMap.get natD (can s n).flushTo f
  let p := if fl = 0 then canTxRp s n f + 1 else fl - 1
  updCan n (fun c => { c with flushTo := SMap.set natD c.flushTo f 0 }) (setTxRp n f p s)

/-- The number of data bytes that a DLC names. -/
def dlcBytes (fdf : Bool) (dlc : Nat) : Nat :=
  if dlc ≤ 8 then dlc
  else if !fdf then 8
  else if dlc = 9 then 12 else if dlc = 10 then 16 else if dlc = 11 then 20 else if dlc = 12 then 24
  else if dlc = 13 then 32 else if dlc = 14 then 48 else 64

/-- The message at the head of a FIFO as a frame (R407); the tick position of its start is the hardware's. -/
def headFrame (s : State) (n f : Nat) : CanFrame :=
  let a := txSlot n f (canTxRp s n f)
  let h := canHead s n f
  let w := (rdWord s (a + 4)).toNat
  let d := bits w 24 4
  { ide := bitOf h 31, rtr := bitOf h 30, fdf := bitOf h 29, brs := bitOf w 31, esi := false
    ident := BitVec.ofNat 29 (if bitOf h 31 then bits h 0 29 else bits h 0 11), dlc := BitVec.ofNat 4 d
    data := if bitOf h 30 then [] else rdBytes s (a + 16) (dlcBytes (bitOf h 29) d)
    sof := BitVec.ofNat 16 (freeWord s).toNat }

/-- The least time that a frame takes from its start to the last bit of its end of frame, its variable stuff bits left out
(ISO 11898-1; PRESUMED, log 44). -/
def frameLeast (s : State) (n : Nat) (fr : CanFrame) : Time :=
  let nb := bitTime (canNbt s n)
  let k := 8 * fr.data.length
  if fr.fdf then
    let db := if fr.brs then bitTime (canDbt s n) else nb
    nb * ((if fr.ide then 36 else 17) + 10) + db * (5 + k + (if fr.data.length ≤ 16 then 21 else 25))
  else nb * ((if fr.ide then 64 else 44) + k)

/-- A controller whose flip was waiting for a frame to end acts under the new page once 11 recessive bits have passed
(R419). -/
def canPaused (n : Nat) (s : State) : State :=
  if (can s n).cfgWas.isSome then
    updCan n (fun c => { c with cfgWas := none, sending := none, txOn := false, outTo := s.now + 11 * bitTime (pageNbt s n) }) s
  else s

/-- The head in transmission at `t`: a controller that has waited for its 11 recessive bits chose at their end (R409,
R419). -/
def canNow (n : Nat) (t : Time) (s : State) : State :=
  let s1 := upto t s
  if (can s1 n).sending.isNone then updCan n (fun c => { c with chosenAt := c.outTo }) (canChoose n s1) else s1

/-- CAN_TX_FAIL: the message in transmission loses arbitration or meets an error (R410). -/
def execCanTxFail (n : Fin 6) (_arb : Bool) (t : Time) (s : State) : Out :=
  let s1 := canNow n.val t s
  .next (match (can s1 n.val).sending with
  | some f =>
    if !(canSends s1 n.val) then s1
    else
      let s2 := if canFlag s1 n.val CAN_CFG_NART then canTxFail n.val (canLeave n.val f s1)
        else if SMap.get natD (can s1 n.val).flushTo f != 0 then canLeave n.val f s1 else s1
      canChoose n.val (canPaused n.val s2)
  | none => s1)

/-! ### Reception -/

/-- The first filter that matches a frame (R411). -/
def canFilter (s : State) (n : Nat) (fr : CanFrame) : Option Nat :=
  (those 128 fun k => lflag s (CAN_FLT_ID_EN n k) && (lflag s (CAN_FLT_MASK_IDE n k) == fr.ide) &&
    ((fr.ident.toNat ^^^ lfld s (CAN_FLT_ID_ID n k)) &&& lfld s (CAN_FLT_MASK_MASK n k)) == 0).head?

/-- The bytes of a receive slot: its first four words, and its data, with 0 beyond them (R407). -/
def rxBytes (s : State) (fr : CanFrame) (cmd : Bool) (k : Nat) : List Byte :=
  let w0 := b2n fr.ide * 2 ^ 31 + b2n fr.rtr * 2 ^ 30 + b2n fr.fdf * 2 ^ 29 + fr.ident.toNat
  let w1 := b2n fr.brs * 2 ^ 31 + b2n fr.esi * 2 ^ 30 + b2n cmd * 2 ^ 29 + fr.dlc.toNat * 2 ^ 24 + k * 2 ^ 16
  leBytes 4 w0 ++ leBytes 4 w1 ++ leBytes 4 s.tick.tcnt ++ leBytes 4 fr.sof.toNat ++
    ((if fr.rtr then [] else fr.data.take (dlcBytes fr.fdf fr.dlc.toNat)) ++ List.replicate 64 0#8).take 64

/-- A frame that a filter keeps goes into the next receive slot, or is dropped when all 64 are held (R412). -/
def canKeep (n : Nat) (fr : CanFrame) (cmd : Bool) (k : Nat) (s : State) : State :=
  let c := can s n
  if 64 ≤ subMod c.rxWp c.rxRp 128 then raise (canEv n 3) (incFld (CAN_CNT_RXDROP n) s)
  else updCan n (fun c => { c with rxWp := (c.rxWp + 1) % 128 }) (wrBytes (rxSlot n c.rxWp) (rxBytes s fr cmd k) s)

/-- The decision of the first matching filter (R411, R413). -/
def canAccept (n : Nat) (fr : CanFrame) (s : State) : State :=
  match canFilter s n fr with
  | none => s
  | some k =>
    match lfld s (CAN_FLT_ID_ACT n k) with
    | 0 => canKeep n fr false k s
    | 1 => s
    | x =>
      if portClass s (5 + n) == x + 1 then canKeep n fr true k s
      else raise (canEv n 4) (incFld (CAN_CNT_CMDDROP n) s)

/-- CAN_TX_COMPLETE: the message in transmission ends successfully (R410, R414): it has been on the bus, or in internal
loop-back the controller receives it itself (R405, R420). -/
def execCanTxComplete (n : Fin 6) (t : Time) (s : State) : Out :=
  let s1 := canNow n.val t s
  .next (match (can s1 n.val).sending with
  | some f =>
    let fr := headFrame s1 n.val f
    if canSends s1 n.val && decide ((can s1 n.val).chosenAt + frameLeast s1 n.val fr ≤ t) then
      let s2 := if canMode s1 n.val = 2 then spend (canAccept n.val fr s1)
        else updCan n.val (fun c => { c with sentFr := some fr }) s1
      canChoose n.val (canPaused n.val (updCan n.val (fun c => { c with tec := c.tec - 1 }) (canLeave n.val f s2)))
    else s1
  | none => s1)

/-- REC after a successful reception (R414). -/
def recAfter (r : Nat) : Nat := if 127 < r then 120 else r - 1

/-- CAN_RX_FRAME: an error-free frame of another node ends; it is acknowledged, kept or not, but by a listen-only
controller (R411 to R414, R417). -/
def execCanRxFrame (n : Fin 6) (fr : CanFrame) (t : Time) (s : State) : Out :=
  let s1 := upto t s
  .next (
    if !(canUp s1 n.val) || (fr.fdf && (!(canFlag s n.val CAN_CFG_FDEN) || fr.rtr)) ||
        canMode s1 n.val == 2 then s1
    else
      let s2 := updCan n.val (fun c => { c with
        recv := recAfter c.recv, acked := if canMode s1 n.val = 1 then c.acked else some fr }) s1
      canChoose n.val (canPaused n.val (canDetFrame n.val (canAccept n.val fr s2))))

/-- CAN_RXRP: an entry for CAN_n_RXRP is applied; the consumed end never passes the written end (R412). -/
def canRxrpApply (n : Nat) (m : Mask) (d : Word) (s : State) : State :=
  let a := CAN_RXRP n
  let v := clWord s a m d
  let p := (CAN_RXRP_PTR n).of v
  let c := can s n
  (if hasCan s n && decide (subMod p c.rxRp 128 ≤ subMod c.rxWp c.rxRp 128) then
    updCan n (fun c => { c with rxRp := p }) (putCl a v s) else s)

def execCanRxrp (n : Fin 6) (m : Mask) (d : Word) (s : State) : Out := .next (canRxrpApply n.val m d s)

/-! ### Errors and bus-off -/

/-- The steps of TEC and REC by ISO 11898-1 for an error of a transmitter or of a receiver that is error passive or not
(R414; PRESUMED, log 44: the spec names the standard and does not restate its rules). -/
def canSteps (tx passive : Bool) : CanErrKind → Nat × Nat
  | .frame => if tx then (8, 0) else (0, 1)
  | .arbStuff => if tx then (0, 0) else (0, 1)
  | .quietAck => if tx then (if passive then (0, 0) else (8, 0)) else (0, 1)
  | .lateDominant => if tx then (0, 0) else (0, 8)
  | .flagBit => if tx then (8, 0) else (0, 8)
  | .dominantRun => if tx then (8, 0) else (0, 8)

/-- What a flush has marked leaves its FIFO with a frame that has failed (R416). -/
def canFlushed (n : Nat) (s : State) : State :=
  forAll (those 3 fun f => SMap.get natD (can s n).flushTo f != 0) (fun f => canLeave n f) s

/-- CAN_BUS_ERROR: an error with the counter steps of ISO 11898-1 (R414, R415, R417). An own frame that it ends stays
chosen until CAN_TX_FAIL tells what becomes of its message (R410). -/
def execCanBusError (n : Fin 6) (e : CanErr) (t : Time) (s : State) : Out :=
  let s1 := upto t s
  .next (
    if !(canUp s1 n.val) then s1
    else
      let c := can s n.val
      let tx := e.tx && canSends s1 n.val && c.sending.isSome
      let d := canSteps tx (canPassive c) e.kind
      let tec := c.tec + d.1
      let rc := satAdd c.recv d.2 255
      let off := decide (255 < tec)
      let c1 := { c with tec := min tec 255, recv := rc, lec := e.lec.toNat }
      let s2 := updCan n.val (fun _ => c1) s1
      let s3 := raiseIf ((decide (c.tec < 96) && decide (96 ≤ tec)) || (decide (c.recv < 96) && decide (96 ≤ rc)))
        (canEv n.val 2) s2
      let s4 := raiseIf (!(canPassive c) && canPassive c1) (canEv n.val 1) s3
      let s5 := match c.det with
        | some i => canDetTry n.val (i + 1) t s4
        | none => s4
      if off then
        canSift n.val (canFlushed n.val (raise (canEv n.val 0) (incFld (CAN_CNT_BOFF n.val)
          (updCan n.val (fun c => { c with busOff := true, sending := none, txOn := false, cfgWas := none }) s5))))
      else if tx then s5
      else canChoose n.val (canPaused n.val s5))

/-- Recovery from bus-off starts; BOREC outside bus-off is ignored (R415). -/
def canRecover (n : Nat) (s : State) : State :=
  if (can s n).busOff && !(can s n).recovering then updCan n (fun c => { c with recovering := true, recAt := s.now }) s
  else s

/-- CAN_BOREC: an applied BOREC starts the recovery from bus-off (R415). -/
def execCanBorec (n : Fin 6) (s : State) : Out :=
  .next (canRecover n.val s)

/-- CAN_RECOVERED: 128 occurrences of 11 recessive bits have been seen (R415). -/
def execCanRecovered (n : Fin 6) (t : Time) (s : State) : Out :=
  let s1 := upto t s
  .next (if (can s n.val).recovering && decide ((can s n.val).recAt + 128 * 11 * bitTime (canNbt s n.val) ≤ t) then
    canChoose n.val (raise (canEv n.val 7) (updCan n.val (fun c => { c with
      busOff := false, recovering := false, tec := 0, recv := 0 }) s1))
  else s1)

/-- Flush FIFO `f`: every unsent message; one in transmission completes or fails first (R416). -/
def canFlushOne (n f : Nat) (s : State) : State :=
  let wp := canTxWp s n f
  if (can s n).sending = some f then
    let s1 := canNoteStart n s
    if (can s1 n).txOn then updCan n (fun c => { c with flushTo := SMap.set natD c.flushTo f (wp + 1) }) s1
    else canChoose n (setTxRp n f wp s1)
  else setTxRp n f wp s

/-- CAN_FLUSH: applied FLUSH bits. -/
def execCanFlush (n : Fin 6) (fs : BitVec 3) (s : State) : Out :=
  .next (forAll (those 3 fun f => fs.getLsbD f) (fun f => canFlushOne n.val f) s)

/-! ### Detection -/

/-- CAN_DETREQ: an entry for CAN_n_DETREQ is applied (R417). -/
def canDetreqApply (n : Nat) (m : Mask) (d : Word) (s : State) : State :=
  let a := CAN_DETREQ n
  let v := clWord s a m d
  (
    if !(hasCan s n) then s
    else
      let s1 := putCl a v s
      if m.getLsbD 3 && (CAN_DETREQ_GO n).of v == 1 then
        canDetTry n 0 s.now (canFlushed n
          (updCan n (fun c => { c with sending := none, txOn := false, found := none, detRes := 0 }) s1))
      else s1)

def execCanDetreq (n : Fin 6) (m : Mask) (d : Word) (s : State) : Out := .next (canDetreqApply n.val m d s)

/-- CAN_DET_WINDOW: the candidate's window of WIN ms ends, or with `err` its first error ends it (R417). -/
def execCanDetWindow (n : Fin 6) (err : Bool) (t : Time) (s : State) : Out :=
  let s1 := upto t s
  .next (match (can s n.val).det with
  | some i =>
    if err || (can s n.val).detAt + orOne (fld s (CAN_DETREQ_WIN n.val)) * ms ≤ t then
      canDetTry n.val (i + 1) t s1 else s1
  | none => s1)

/-! ### Shared with the boundary, leases and rebinding -/

/-- STATE of CAN_n_STAT. -/
def canState (c : CanSt) : Nat :=
  if c.recovering then 3 else if c.busOff then 2 else if canPassive c then 1 else 0

/-- The tick-start snapshots of the RO registers (R420). -/
def canSnapshot (n : Nat) (s : State) : State :=
  if hasCan s n then
    let c := can s n
    let st := BitVec.ofNat 32 (canState c * 2 ^ 30 + b2n c.det.isSome * 2 ^ 29 + c.lec * 2 ^ 24 + c.recv * 2 ^ 8 + c.tec)
    let s1 := setReg (CAN_STAT n) st s
    let s2 := forAll (List.range 3) (fun f x => setReg (CAN_TXF_ST n f)
      (BitVec.ofNat 32 (canCount x n f * 2 ^ 8 + canTxRp x n f)) x) s1
    let s3 := setReg (CAN_RXST n) (BitVec.ofNat 32 (subMod c.rxWp c.rxRp 128 * 2 ^ 8 + c.rxWp)) s2
    setReg (CAN_DETST n) (BitVec.ofNat 32
      ((if c.det.isSome then 1 else c.detRes) * 2 ^ 30 + (if c.det.isSome then c.det.getD 0 else c.detIdx))) s3
  else s

/-- The end of a CAN lease: a frame in transmission completes, published messages stay queued, a detection goes
on, and the receive buffer keeps its contents (R418). -/
def canLeaseEnd (_ : Nat) (s : State) : State := s

/-- An applied CAN_n_CTRL: the FLUSH bits before the recovery (R415, R416). -/
def canCtrlApply (n : Nat) (m : Mask) (d : Word) (s : State) : State :=
  let a := CAN_CTRL n
  let v := clWord s a m d
  let s1 := putCl a v s
  if m.getLsbD 0 then
    let s2 := forAll (those 3 fun f => bitOf ((CAN_CTRL_FLUSH n).of v) f) (fun f => canFlushOne n f) s1
    if (CAN_CTRL_BOREC n).of v == 1 then canRecover n s2 else s2
  else s1

/-- A timing word meets the limits of R419 for the nominal bit. -/
def nbtOk (b t1 t2 j : Nat) : Bool :=
  1 ≤ b && b ≤ 32 && 1 ≤ t1 && 1 ≤ t2 && 1 ≤ j && j ≤ t2 && 8 ≤ 1 + t1 + t2 && 1 + t1 + t2 ≤ 383 &&
  80 ≤ b * (1 + t1 + t2)

/-- The limits for the data bit, given the nominal bit's length in CAN clocks. -/
def dbtOk (b t1 t2 j nom : Nat) (tdc : Bool) : Bool :=
  let q := b * (1 + t1 + t2)
  1 ≤ b && b ≤ 32 && 1 ≤ t1 && t1 ≤ 31 && 1 ≤ t2 && t2 ≤ 16 && 1 ≤ j && j ≤ t2 && q ≤ nom && 10 ≤ q &&
  (40 ≤ q || tdc)

/-- A nominal and a data timing register of a shadow page meet the limits. -/
def canTimingOk (s : State) (n an ad : Nat) : Bool :=
  let w := (shad s an).toNat
  let x := (shad s ad).toNat
  nbtOk (bits w 24 8) (bits w 16 8) (bits w 8 7) (bits w 0 7) &&
  (!(sflag s (CAN_CFG_FDEN n)) ||
    dbtOk (bits x 24 8) (bits x 16 8) (bits x 8 7) (bits x 0 7) (bits w 24 8 * (1 + bits w 16 8 + bits w 8 7))
      (sflag s (CAN_CFG_TDCEN n)))

/-- The readiness of CAN for a rebinding (R419). -/
def canReady (s : State) : Bool :=
  (List.range 6).all fun n =>
    !(sflag s (CAN_CFG_EN n)) ||
    (hasCan s n && sfld s (CAN_CFG_MODE n) != 3 && canTimingOk s n (CAN_NBT n) (CAN_DBT n) &&
      (List.range 8).all fun k => sfld s (CAN_CAND_NBT_BRP n k) == 0 ||
        canTimingOk s n (CAN_CAND_NBT n k) (CAN_CAND_DBT n k))

/-- A flip has changed the configuration or the timing in force of an enabled controller. -/
def canChanged (old s : State) (n : Nat) : Bool :=
  lflag old (CAN_CFG_EN n) &&
  (live old (CAN_CFG n) != live s (CAN_CFG n) || live old (CAN_NBT n) != live s (CAN_NBT n) ||
    live old (CAN_DBT n) != live s (CAN_DBT n) || pageNbt old n != pageNbt s n || pageDbt old n != pageDbt s n)

/-- A changed controller goes on once the frame in progress, if there is one, has ended and 11 recessive bits have passed
(R419). Whether a frame of another node is in progress is the bus's (a free value, log 44). -/
def canChange (old : State) (n : Nat) (s : State) : State :=
  let w := (can s n).cfgWas.getD (live old (CAN_CFG n), pageNbt old n, pageDbt old n)
  let s1 := updCan n (fun c => { c with cfgWas := some w }) (canNoteStart n s)
  if (can s1 n).txOn || ((can s n).cfgWas.isSome || freeBool s1) then spend s1 else canPaused n (spend s1)

/-- After a flip of CAN: a found candidate's timing ends; a changed controller goes on after the frame in progress, and
every other one chooses anew unless a frame of its own has started (R417, R419). -/
def canFlip (old : State) (s : State) : State :=
  forAll (those 6 (hasCan s)) (fun n x =>
    let x1 := updCan n (fun c => { c with found := none }) x
    if canChanged old x1 n then canChange old n x1
    else if (can x n).cfgWas.isSome then x1
    else
      let x2 := canNoteStart n x1
      if (can x2 n).txOn then x2 else canChoose n x2) s

end Sys2Proof.Machine
end

