-- ==== Sys2Proof/Machine/Qsp.lean ====
section
/-! DEFINITION. The serial ports (R422 to R434). -/

namespace Sys2Proof.Machine
open Sys2Proof

/-- Event k of port p (R434). -/
def qspEv (p k : Nat) : Nat := 560 + 8 * p + k

def qspBase (p : Nat) : Nat := 0x48200000 + 0x2000 * p
/-- The descriptor at pointer value `i` (R423, R424). -/
def qspDesc (p i : Nat) : Nat := qspBase p + 16 * (i % 64)
/-- Word `k` of the descriptor at pointer value `i`. -/
def descWord (s : State) (p i k : Nat) : Nat := (rdWord s (qspDesc p i + 4 * k)).toNat

def descDir (s : State) (p i : Nat) : Bool := bitOf (descWord s p i 0) 3
def descEvt (s : State) (p i : Nat) : Bool := bitOf (descWord s p i 0) 19
def descLanes (s : State) (p i : Nat) : Nat := 2 ^ bits (descWord s p i 0) 8 2
def descLen (s : State) (p i : Nat) : Nat := bits (descWord s p i 2) 16 16
def descOfs (s : State) (p i : Nat) : Nat := bits (descWord s p i 2) 0 16

/-- The descriptor is an error (R423). -/
def descBad (s : State) (p i : Nat) : Bool :=
  let w := descWord s p i 0
  decide (4 < bits w 11 3) || (p != 0 && (bits w 4 2 == 3 || bits w 6 2 == 3 || bits w 8 2 == 3)) ||
  decide (3072 < descOfs s p i + descLen s p i) || bits w 20 4 != 0

/-- Published descriptors that have not completed. -/
def qspWaiting (q : QspSt) : Nat := subMod q.wp q.rp 128

/-- The descriptor at the read pointer completes with a STATUS; both become visible at the next boundary (R424). -/
def qspComplete (p code : Nat) (s : State) : State :=
  let i := (qsp s p).rp
  let s1 := updQsp p (fun q => { q with rp := (i + 1) % 128, done := q.done ++ [(i, code)], busy := none }) s
  raiseIf (descEvt s p i) (qspEv p 0) s1

/-- T_H in Time units (R425). -/
def qspTh (s : State) (p : Nat) : Time := lfld s (QSP_CFG_DIV p) * tb

/-- SCK cycles of `n` bytes on some lanes. -/
def sckCycles (n lanes : Nat) : Nat := ceilDiv (8 * n) lanes

/-- The transaction that a descriptor asks for (R423, R424). -/
def qspRunOf (s : State) (p i : Nat) : QspRun :=
  let w := descWord s p i 0
  let n := descLen s p i
  { sel := bits w 0 3
    cmd := if bitOf w 10 then some (bits w 24 8) else none
    cmdLanes := 2 ^ bits w 4 2
    addr := (leBytes (bits w 11 3) (descWord s p i 1)).reverse
    addrLanes := 2 ^ bits w 6 2
    dummy := bits w 14 5
    lanes := descLanes s p i
    read := descDir s p i
    len := n
    ofs := descOfs s p i
    wr := if descDir s p i then [] else rdBytes s (qspBase p + 0x400 + descOfs s p i) n }

/-- SCK cycles of a transaction: its command, address, dummy and data phases. -/
def QspRun.cycles (r : QspRun) : Nat :=
  (if r.cmd.isSome then sckCycles 1 r.cmdLanes else 0) + sckCycles r.addr.length r.addrLanes + r.dummy +
    sckCycles r.len r.lanes

/-- From the code being driven to the strobe's rise: the first edge after 2 T_H, half periods of T_H, and T_H after the
last edge (R425). -/
def selTime (cycles : Nat) (th : Time) : Time := (2 * cycles + 2) * th

/-- The first edge of SCK, the edge at which data of cycle `k` is sampled, the first of a cycle or the second by CPHA,
and the last edge, of a transaction that starts at `a` (R425). -/
def firstEdgeAt (a th : Time) : Time := a + 2 * th
def sampleEdge (q : QspSt) (a : Time) (k : Nat) : Time := firstEdgeAt a q.runTh + (2 * k + b2n q.runPha) * q.runTh

/-- The lines of a transaction of `n` cycles that starts at `a`, at instant `t`: the code from its start to two T_H
after the last edge, the strobe low from T_H after the start to T_H after the last edge, and the edges of SCK, which
rests at CPOL (R425). -/
def runLines (sel n : Nat) (th a : Time) (pol : Bool) (t : Time) : QspLines :=
  let edges := if t < firstEdgeAt a th then 0 else min (2 * n) ((t - firstEdgeAt a th) / max 1 th + 1)
  { sel := if a ≤ t ∧ t < a + (2 * n + 3) * th then some sel else none
    stb := !(decide (a + th ≤ t) && decide (t < a + selTime n th))
    sck := pol != decide (edges % 2 = 1) }

/-- What passes between the end of a transaction and the next one: T_H, and with several masters TGAP (R425, R427). -/
def qspGap (s : State) (p : Nat) : Time :=
  max (qsp s p).runTh (if (qsp s p).runMm then lfld s (QSP_CFG_TGAP p) * tb else 0)

/-- The port is enabled in the live page. -/
def qspOn (s : State) (p : Nat) : Bool := lflag s (QSP_CFG_EN p)

/-- Leave a halt (R427). -/
def qspResume (p : Nat) (s : State) : State := updQsp p (fun q => { q with halted := false }) s

/-- QSP_DBWP: an entry for QSP_p_DBWP publishes descriptors, and with RESUME = 1 leaves a halt (R424, R427). -/
def qspDbwpApply (p : Nat) (m : Mask) (d : Word) (s : State) : State :=
  let a := QSP_DBWP p
  let v := clWord s a m d
  let s1 := updQsp p (fun q => { q with wp := (QSP_DBWP_PTR p).of v }) (putCl a v s)
  (if m.getLsbD 3 && (QSP_DBWP_RESUME p).of v == 1 then qspResume p s1 else s1)

def execQspDbwp (p : Fin 4) (m : Mask) (d : Word) (s : State) : Out := .next (qspDbwpApply p.val m d s)

/-- QSP_RESUME: an applied RESUME = 1. -/
def execQspResume (p : Fin 4) (s : State) : Out := .next (qspResume p.val s)

/-- QSP_TRANSACTION_START: the next descriptor's transaction starts, or the descriptor completes as an error
(R423, R424, R426). -/
def execQspTransactionStart (p : Fin 4) (t : Time) (s : State) : Out :=
  let s1 := upto t s
  let q := qsp s p.val
  .next (
    if !(qspOn s p.val) || q.halted || q.busy.isSome || q.sel || (q.low && lflag s (QSP_CFG_MM p.val)) || qspWaiting q == 0 ||
      decide (t < q.freeAt) then s1
    else if descBad s p.val q.rp then raise (qspEv p.val 6) (qspComplete p.val 5 s1)
    else updQsp p.val (fun q => { q with
      busy := some t, xip := [], run := qspRunOf s p.val q.rp, runRck := lflag s (QSP_CFG_RCKEN p.val), runTh := qspTh s p.val
      runMm := lflag s (QSP_CFG_MM p.val), runPol := lflag s (QSP_CFG_CPOL p.val), runPha := lflag s (QSP_CFG_CPHA p.val)
      endAt := none }) s1)

/-- The bytes that a read leaves in the data area: with RCKEN, those that the counted edges complete, and 0xFF for
the rest (R430). -/
def qspRead (s : State) (p : Nat) (rd : List Byte) (rck : Nat) : List Byte × Bool :=
  let r := (qsp s p).run
  let n := r.len
  let got := (rd ++ List.replicate n 0#8).take n
  if (qsp s p).runRck && rck != sckCycles n r.lanes then
    let k := min n (rck * r.lanes / 8)
    (got.take k ++ List.replicate (n - k) 0xFF#8, true)
  else (got, false)

/-- The instant at which the strobe rises: the transaction's phases have passed, or it has been cut short (R424, R425,
R431). -/
def qspRise (q : QspSt) (a : Time) : Time := q.endAt.getD (a + selTime q.run.cycles q.runTh)

/-- The strobe rises at `t`. -/
def qspEnds (q : QspSt) (t : Time) : Bool :=
  match q.busy with
  | some a => let e := qspRise q a; decide (e ≤ t) && decide (t < e + tb)
  | none => false

/-- The last bytes of a transaction that the end of a lease has cut short: what a read has completed by then is in the
data area; its STATUS has been given (R431). -/
def qspCut (p : Nat) (rd : List Byte) (s : State) : State :=
  let q := qsp s p
  updQsp p (fun q => { q with busy := none, endAt := none })
    (if q.run.read then wrBytes (qspBase p + 0x400 + q.run.ofs) (rd.take q.endBytes) s else s)

/-- QSP_TRANSACTION_DONE: a transaction ends, with the bytes read and the RCK edges counted (R424, R430). -/
def execQspTransactionDone (p : Fin 4) (rd : List Byte) (rck : Nat) (t : Time) (s : State) : Out :=
  let s1 := upto t s
  let q := qsp s p.val
  .next (
    if !(qspEnds q t) then s1
    else
      let s2 := updQsp p.val (fun q => { q with freeAt := t + qspGap s p.val }) s1
      if q.endAt.isSome then qspCut p.val rd s2
      else if q.run.read then
        let r := qspRead s p.val rd rck
        let s3 := wrBytes (qspBase p.val + 0x400 + q.run.ofs) r.1 s2
        if r.2 then qspComplete p.val 2 (raise (qspEv p.val 1) (incFld (QSP_CNT_RCKERR p.val) s3))
        else qspComplete p.val 1 s3
      else qspComplete p.val 1 s2)

/-- QSP_MMF: a select read-back differs while mastering with several masters: the lines are released within 20 ns, after
which CSTBp is to read high for TGAP (R427). -/
def execQspMmf (p : Fin 4) (t : Time) (s : State) : Out :=
  let s1 := upto t s
  .next (if (qsp s p.val).busy.isSome && (qsp s p.val).runMm then
    let r := t + min (Config.freeTime s.free) (20 * ns)
    let s2 := updQsp p.val (fun q => { q with halted := true, freeAt := r + lfld s (QSP_CFG_TGAP p.val) * tb })
      (if (qsp s p.val).endAt.isSome then qspCut p.val [] (spend s1) else qspComplete p.val 3 (spend s1))
    raise (qspEv p.val 2) (incFld (QSP_CNT_MMF p.val) s2)
  else s1)

/-! ### Execute in place (R426) -/

/-- What the read of the 32-byte block `b` sends by QSP0_XIP. DEDUCED (log 45): the address is the block's offset in the
window, most significant byte first. -/
def xipRunOf (s : State) (b : Nat) : QspRun where
  sel := lfld s QSP_XIP_XSEL
  cmd := some (lfld s QSP_XIP_CMD)
  cmdLanes := 2 ^ lfld s QSP_XIP_CLANES
  addr := (leBytes (3 + lfld s QSP_XIP_ALEN) (32 * b % 0x10000000)).reverse
  addrLanes := 2 ^ lfld s QSP_XIP_ALANES
  dummy := lfld s QSP_XIP_DUMMY
  lanes := 2 ^ lfld s QSP_XIP_DLANES
  read := true
  len := 32

/-- The lines of port `p` at `t`: of its transaction, of the XIP read on QSP0, or at rest (R425, R426). -/
def qspLines (s : State) (p : Nat) (t : Time) : QspLines :=
  let q := qsp s p
  match q.busy with
  | some a =>
    let x := runLines q.run.sel q.run.cycles q.runTh a q.runPol t
    if qspRise q a ≤ t then { x with stb := true, sck := q.runPol } else x
  | none => if t < q.xipTo then runLines q.xipRun.sel q.xipRun.cycles q.xipTh q.xipFrom q.xipPol t else {
      sck := lflag s (QSP_CFG_CPOL p) }

/-! ### Target mode (R428, R429) -/

/-- The bytes of a target word. -/
def qspWordBytes (s : State) (p : Nat) : Nat := 2 ^ lfld s (QSP_CFG_WLEN p)

/-- The number that bits spell, most significant first. -/
def msbNat (bs : List Bool) : Nat := bs.foldl (fun n b => 2 * n + b2n b) 0

/-- Word `k` of a selection as received: its bits, of `w` each. -/
def selWord (rx : List Bool) (w k : Nat) : Nat := msbNat ((rx.drop (w * k)).take w)

/-- The word that the port sends as word `k` of a selection: from the transmit area, all ones beyond MAXW or
beyond the area. -/
def qspSent (s : State) (p k : Nat) : Nat :=
  let n := qspWordBytes s p
  if lfld s (QSP_TMAX_MAXW p) ≤ k || 2048 < (k + 1) * n then 2 ^ (8 * n) - 1
  else leNat (rdBytes s (qspBase p + 0x1800 + k * n) n)

/-- OVR and its event. -/
def qspOvr (p : Nat) (s : State) : State := raise (qspEv p 4) (incFld (QSP_CNT_OVR p) s)

/-- Store bytes into the receive ring at its write pointer. -/
def ringStore (p : Nat) (bs : List Byte) (s : State) : State :=
  match bs with
  | [] => s
  | b :: r =>
    let i := (qsp s p).twp
    ringStore p r (updQsp p (fun q => { q with twp := (i + 1) % 2048 }) (wrByte (qspBase p + 0x1000 + i) b s))

/-- Take one received word of a selection. -/
def qspTakeWord (p : Nat) (rx : List Bool) (k : Nat) (s : State) : State :=
  let n := qspWordBytes s p
  if lfld s (QSP_TMAX_MAXW p) ≤ k || 2048 < (k + 1) * n then
    if (qsp s p).selOvr then s else qspOvr p (updQsp p (fun q => { q with selOvr := true }) s)
  else if 2047 < subMod (qsp s p).twp (qsp s p).trp 2048 + n then qspOvr p s
  else ringStore p (leBytes n (selWord rx (8 * n) k)) s

/-- QSP_TARGET_SELECT: another master drives the strobe low with a code. The port, if it is not mastering, if a target
and if the code is its own, is selected, receives its bits and sends its transmit words, to the last edge (R427, R428).
-/
def execQspTargetSelect (p : Fin 4) (x : TargetBits) (t : Time) (s : State) : Out :=
  let s1 := upto t s
  let w := 8 * qspWordBytes s p.val
  .next (
    if p.val == 0 || (qsp s p.val).low then s1
    else if !(qspOn s p.val) || (qsp s p.val).busy.isSome || !(lflag s (QSP_CFG_TGT p.val)) ||
        x.code.toNat != lfld s (QSP_CFG_OWN p.val) then
      updQsp p.val (fun q => { q with low := true }) s1
    else
      let s2 := updQsp p.val (fun q => { q with
        sel := true, low := true, selOvr := false, selPart := x.rx.length % w
        selOut := (List.range (ceilDiv x.rx.length w)).map (qspSent s p.val) }) s1
      forAll (List.range (x.rx.length / w)) (qspTakeWord p.val x.rx) s2)

/-- QSP_TARGET_RELEASE: the selection is released; a partial word is discarded and counted (R429). -/
def execQspTargetRelease (p : Fin 4) (t : Time) (s : State) : Out :=
  let s1 := upto t s
  .next (if (qsp s p.val).low then
    let s2 := updQsp p.val (fun q => { q with
      sel := false, low := false, freeAt := max q.freeAt (t + lfld s (QSP_CFG_TGAP p.val) * tb) }) s1
    if !((qsp s p.val).sel) || (qsp s p.val).selPart = 0 then s2
    else raise (qspEv p.val 3) (incFld (QSP_CNT_PARTIAL p.val) s2)
  else s1)

/-- QSP_TRP: an entry for QSP_p_TRP consumes received words (R429). -/
def qspTrpApply (p : Nat) (m : Mask) (d : Word) (s : State) : State :=
  let a := QSP_TRP p
  let v := clWord s a m d
  (updQsp p (fun q => { q with trp := (QSP_TRP_PTR p).of v }) (putCl a v s))

def execQspTrp (p : Fin 4) (m : Mask) (d : Word) (s : State) : Out := .next (qspTrpApply p.val m d s)

/-! ### Shared with the boundary, leases and rebinding -/

/-- Complete every published descriptor with STATUS 4, on fuel. -/
def qspAbandonAll (p : Nat) : Nat → State → State
  | 0, s => s
  | k + 1, s => if qspWaiting (qsp s p) = 0 then s else qspAbandonAll p k (qspComplete p 4 s)

/-- The end of the byte that is on the lines `c` cycles after a transaction's start, in cycles, and the data bytes
complete by then; a dummy cycle counts by itself. -/
def QspRun.byteEnd (r : QspRun) (c : Nat) : Nat × Nat :=
  let cmd := if r.cmd.isSome then sckCycles 1 r.cmdLanes else 0
  let adr := cmd + sckCycles r.addr.length r.addrLanes
  let pre := adr + r.dummy
  let up := fun (o per : Nat) => o + ceilDiv (c - o) per * per
  if c = 0 then (0, 0)
  else if c ≤ cmd then (cmd, 0)
  else if c ≤ adr then (min adr (up cmd (sckCycles 1 r.addrLanes)), 0)
  else if c ≤ pre then (c, 0)
  else
    let e := min r.cycles (up pre (sckCycles 1 r.lanes))
    (e, (e - pre) / sckCycles 1 r.lanes)

/-- The transaction in progress ends after its current byte: it keeps the lines until the strobe has risen (R425, R431).
-/
def qspEndByte (p : Nat) (s : State) : State :=
  let q := qsp s p
  match q.busy with
  | some a =>
    let (e, k) := q.run.byteEnd (ceilDiv (s.now - firstEdgeAt a q.runTh) (2 * q.runTh))
    updQsp p (fun q => { q with endAt := some (a + selTime e q.runTh), endBytes := k }) s
  | none => s

/-- The end of a serial-port lease (R431): every published descriptor that has not completed gets STATUS 4; the
transaction in progress ends after its current byte. -/
def qspLeaseEnd (p : Nat) (s : State) : State :=
  if qspWaiting (qsp s p) = 0 then s
  else
    let b := (qsp s p).busy
    raise (qspEv p 5) (updQsp p (fun q => { q with busy := b }) (qspAbandonAll p 128 (qspEndByte p s)))

/-- STATE of QSP_p_ST. -/
def qspState (q : QspSt) (now : Time) : Nat :=
  if q.halted then 3 else if q.busy.isSome then 1 else if q.sel then 2 else if now < q.xipTo then 4 else 0

/-- A STATUS becomes visible in word 3 of its descriptor. -/
def qspStatus (p : Nat) (e : Nat × Nat) (s : State) : State :=
  let a := qspDesc p e.1 + 12
  wrWord a (BitVec.ofNat 32 (setBits (rdWord s a).toNat 0 4 e.2)) s

/-- The STATUS words of a port that become visible at a boundary (R424). -/
def qspStatuses (p : Nat) (s : State) : State :=
  updQsp p (fun q => { q with done := [] }) (forAll (qsp s p).done (qspStatus p) s)

/-- The tick-start snapshots of a port (R429, R433). -/
def qspSnapshot (p : Nat) (s : State) : State :=
  let q := qsp s p
  setReg (QSP_TST p) (BitVec.ofNat 32 q.twp) (setReg (QSP_ST p) (BitVec.ofNat 32 (qspState q s.now * 2 ^ 29 + q.rp)) s)

/-- The readiness of QSP for a rebinding (R432); every lane code is valid on QSP0. -/
def qspReady (s : State) : Bool :=
  (List.range 4).all fun p =>
    !(sflag s (QSP_CFG_EN p)) ||
    (2 ≤ sfld s (QSP_CFG_DIV p) && sfld s (QSP_CFG_WLEN p) != 3 && 1 ≤ sfld s (QSP_TMAX_MAXW p) &&
      (p != 0 || (!(sflag s (QSP_CFG_MM p)) && !(sflag s (QSP_CFG_TGT p)))))

end Sys2Proof.Machine
end

