-- ==== Sys2Proof/Machine/Spine.lean ====
section
/-! DEFINITION. The spine: signatures, links, membership, queues and credits (R371 to R404), but for the steps that
reach other blocks (SpineRing). -/

namespace Sys2Proof.Machine
open Sys2Proof

/-! ### Names -/

/-- The spine is enabled in the live page. -/
def spnOn (s : State) : Bool := lflag s SPN_CTRL_EN
/-- The port exists and is enabled; SP2 and SP3 are unused while BRMODE is 0b00 (R372). -/
def portOn (s : State) (p : Nat) : Bool :=
  spnOn s && hasSp s p && bitOf (lfld s SPN_CTRL_PEN) p && (decide (p < 2) || lfld s SPN_CTRL_BRMODE != 0)
/-- This device's spine address. -/
def myAddr (s : State) : Nat := lfld s SPN_CTRL_ADDR
/-- This device is the lead or a follower of a ring. -/
def inRing (s : State) : Bool := isLead s || isFollower s
/-- Member `a` is a member in concord, and so is this device (R390). -/
def concordant (s : State) (a : Nat) : Bool := (memb s a).isMember && (memb s a).disc == 0 && s.spn.disc == 0

/-- This device as it announces itself (R384). -/
def selfPeer (s : State) : Peer where
  addr := ⟨myAddr s % 64, Nat.mod_lt _ (by decide)⟩
  serial := Config.serial
  cfgd := live s SPN_CFGD
  verd := s.spn.verd
  ringid := live s SPN_RINGID
  gath := s.spn.gath
  slot := BitVec.ofNat 7 (lfld s SPN_BUD_PSLOT)
  abud := BitVec.ofNat 16 (lfld s SPN_BUD_ABUD)

/-- The number that `n` bytes from offset `o` spell. -/
def slice (bs : List Byte) (o n : Nat) : Nat := leNat ((bs.drop o).take n)

/-- The addresses 0 to 63 whose bit is set. -/
def addrsOf (m : BitVec 64) : List Nat := those 64 fun a => m.getLsbD a
/-- The set of members as a map of addresses. -/
def memberMap (s : State) : BitVec 64 :=
  BitVec.ofNat 64 ((those 64 fun a => (memb s a).isMember).foldl setBit 0)

/-- Time units of `n` bytes on a link, 0.8 ns each. -/
def linkTime (n : Nat) : Time := n * 128 / 5

/-! ### Check codes (R374) -/

/-- One step of the CRC-32 of IEEE 802.3 on a byte. -/
def crc32Byte (c : Nat) (b : Byte) : Nat :=
  (List.range 8).foldl (fun x _ => if x % 2 = 1 then (x / 2) ^^^ 0xEDB88320 else x / 2) (c ^^^ b.toNat)
def crc32 (bs : List Byte) : Nat := (bs.foldl crc32Byte 0xFFFFFFFF) ^^^ 0xFFFFFFFF

/-- One bit of x¹⁶ + x¹² + x⁵ + 1, most significant first. -/
def crc16Bit (c : Nat) (b : Bool) : Nat :=
  let d := c * 2 % 65536
  if c.testBit 15 != b then d ^^^ 0x1021 else d
def crc16Byte (c : Nat) (b : Byte) : Nat := (List.range 8).foldl (fun x i => crc16Bit x (b.toNat.testBit (7 - i))) c
def crc16 (bs : List Byte) : Nat := bs.foldl crc16Byte 0xFFFF

/-- Words 0 to 2 of a header, least significant byte first. -/
def headerWords (h : Header) : List Byte :=
  leBytes 4 (h.kind.toNat * 2 ^ 30 + b2n h.bc * 2 ^ 29 + b2n h.cap * 2 ^ 28 + h.dq.toNat * 2 ^ 26 +
    b2n h.w * 2 ^ 25 + h.dst.toNat * 2 ^ 18 + h.src.toNat * 2 ^ 12 + h.len.toNat) ++
  leBytes 4 (h.seq.toNat * 2 ^ 16 + h.epoch.toNat) ++ leBytes 4 h.tick.toNat

/-- HCRC over words 0 to 2. DESIGN CHOICE (log 40): the bytes in the order sent, the most significant bit of each first.
-/
def hcrcOf (h : Header) : BitVec 16 := BitVec.ofNat 16 (crc16 (headerWords h))
def sealed (h : Header) : Header := { h with hcrc := hcrcOf h }

/-- The 16 bytes of a header. -/
def headerBytes (h : Header) : List Byte := headerWords h ++ leBytes 4 h.hcrc.toNat

/-- The CRC-32 of header and payload. -/
def sigCrc (h : Header) (pay : List Byte) : Word := BitVec.ofNat 32 (crc32 (headerBytes h ++ pay))

/-- A whole signature: header, payload, and the trailer of CRC-32 and four bytes of zero. -/
def sigBytes (h : Header) (pay : List Byte) : List Byte :=
  headerBytes h ++ pay ++ leBytes 4 (sigCrc h pay).toNat ++ leBytes 4 0

/-- The trailer is there and its CRC holds. -/
def trailerOk (x : Sig) : Bool :=
  !x.err && x.payload.length == x.hdr.len.toNat && x.crc == sigCrc x.hdr x.payload

/-- A signature as it is sent on: with an error block where its trailer fails, and otherwise with the trailer of the
header it leaves with (DEDUCED, log 40: W lies under the CRC of the trailer too). -/
def passedOn (x : Sig) (h : Header) : Sig :=
  if trailerOk x then { x with hdr := h, crc := sigCrc h x.payload } else { x with hdr := h, err := true }

/-! ### Counters and events -/

def spnRxDrop (s : State) : State := raise 476 (incFld SPN_CNT_RXDROP s)
def spnHdrErr (s : State) : State := raise 478 (incFld SPN_CNT_HDRERR s)

/-! ### Reception of a signature (R373 to R375) -/

/-- A bad header: discarded without forwarding. -/
def hdrBad (h : Header) : Bool :=
  h.hcrc != hcrcOf h || h.reservedSet || decide (1056 < h.len.toNat) || h.len.toNat % 8 != 0

/-- The port that continues a port's direction. -/
def acrossPort (p : Nat) : Nat := if p = 0 then 1 else if p = 1 then 0 else if p = 2 then 3 else 2

/-- This member strips the signature: its destination, or the source of a broadcast that returns. A source passes on its
broadcast that was turned at a wrap, on its way to the far side, which strips it (R373). -/
def strips (s : State) (h : Header) : Bool :=
  if h.bc then h.src.toNat == myAddr s && !h.w else h.dst.toNat == myAddr s

/-- The port carries traffic onward. -/
def portRuns (s : State) (p : Nat) : Bool := portOn s p && (link s p).up && !(link s p).wrap

/-- The segments of this device: its own, 0, and its branches, one ring (2) or one chain on each of SP2 and SP3
(R372). -/
def segments (s : State) : List Nat :=
  0 :: (match lfld s SPN_CTRL_BRMODE with | 1 => [2, 3] | 2 => [2] | _ => [])

/-- The segment of a port. -/
def segOf (s : State) (p : Nat) : Nat := if p < 2 then 0 else if lfld s SPN_CTRL_BRMODE = 1 then p else 2

/-- The segment in which a member lies; `d` for one that has not been heard. -/
def segOfMember (s : State) (d a : Nat) : Nat := match (memb s a).via with | some p => segOf s p | none => d

/-- Segment `g` is a chain on one port of this device. -/
def isChain (s : State) (g : Nat) : Bool := decide (2 ≤ g) && lfld s SPN_CTRL_BRMODE == 1

/-- The place of member `a` on the ring of segment `g`, from 1 on in the direction of this device's transmitting port; the
wiring is the hardware's (log 40). -/
def ringPos (g a : Nat) : Nat := 1 + Config.ringPos g a % 63

/-- Member `a` lies on the ring of segment `g` itself, and not in a branch that another member hosts (R372). -/
def onRing (s : State) (g a : Nat) : Bool := segOfMember s 0 a == g && !(Config.behind a)

/-- The breaks at member `a`, as places between members of the ring of segment `g`: where it has gone, and where it
publishes a link that it receives, from the member before it on SP1 or from the one after it on SP0, as down (R377,
R386, R388). -/
def breaksAt (s : State) (g a : Nat) : List Nat :=
  let down := fun (p : Nat) => (memb s a).isMember && (memb s a).delays.getD p 0 == 0xFFFF
  (if s.spn.gone.getLsbD a || down 0 then [ringPos g a] else []) ++ (if down 1 then [ringPos g a - 1] else [])

/-- The breaks of the ring of segment `g`: at this device's own ports, before the first or after the last place, and at
its members (R373, R386). -/
def breaks (s : State) (g : Nat) : List Nat :=
  (if portRuns s g then [] else [0]) ++ (if portRuns s (acrossPort g) then [] else [63]) ++
  ((those 64 (onRing s g)).map (breaksAt s g)).flatten

/-- The ring of segment `g` is broken. -/
def ringBroken (s : State) (g : Nat) : Bool := !(breaks s g).isEmpty

/-- The way to member `a` in the normal direction meets a break, and the way against it meets none. -/
def wayBack (s : State) (g a : Nat) : Bool :=
  ((breaks s g).any fun k => decide (k < ringPos g a)) && !((breaks s g).any fun k => decide (ringPos g a ≤ k))

/-- The ports of segment `g` by which a signature of this device, or one that comes from another segment, enters it, and
whether it is turned there: the port that transmits, or at the break of a ring the other one (R372, R373). -/
def entry (s : State) (g : Nat) : List (Nat × Bool) :=
  if portRuns s g then [(g, false)]
  else if !(isChain s g) && portRuns s (acrossPort g) then [(acrossPort g, true)]
  else []

/-- The port by which a unicast to member `a` enters segment `g`: from the boundary on that announces a break, against the
normal direction where that avoids it (R386). -/
def entryTo (s : State) (g a : Nat) : List (Nat × Bool) :=
  if !(isChain s g) && s.spn.cut.contains g && portRuns s (acrossPort g) && wayBack s g a then [(acrossPort g, false)]
  else entry s g

/-- A signature runs on in the segment of its port: across the device, or back with W set and HCRC formed anew at a wrap
and at the end of a chain; a broadcast that was turned before ends there (R373, R375). -/
def onward (s : State) (x : Sig) : List (Nat × Sig) :=
  let o := acrossPort x.port.val
  if !(isChain s (segOf s x.port.val)) && portRuns s o then [(o, passedOn x x.hdr)]
  else if x.hdr.bc && x.hdr.w then []
  else [(x.port.val, passedOn x (sealed { x.hdr with w := true }))]

/-- A signature enters another segment by the ports given, W telling of that segment alone. -/
def enters (x : Sig) (ps : List (Nat × Bool)) : List (Nat × Sig) :=
  ps.map fun p => (p.1, passedOn x (sealed { x.hdr with w := p.2 }))

/-- A broadcast comes back to the host of a branch from another segment than its source's: the host has passed it on and
delivered it when it came from there (R373, R375). -/
def returned (s : State) (x : Sig) : Bool :=
  let g := segOf s x.port.val
  x.hdr.bc && segOfMember s g x.hdr.src.toNat != g

/-- Where a signature that is not stripped leaves: a broadcast in every segment, but for one that returns to the host of a
branch; a unicast in the segment of its destination (R373). -/
def outputs (s : State) (x : Sig) : List (Nat × Sig) :=
  let g := segOf s x.port.val
  if x.hdr.bc then
    if returned s x then []
    else onward s x ++ (((segments s).filter fun k => k != g).map fun k => enters x (entry s k)).flatten
  else
    let d := segOfMember s 0 x.hdr.dst.toNat
    if d = g then onward s x else enters x (entryTo s d x.hdr.dst.toNat)

/-- The output of a port is taken by a signature of `n` bytes from `a` on. -/
def takeOutput (p : Nat) (a : Time) (n : Nat) (s : State) : State :=
  updLink p (fun l => { l with busyTo := a + linkTime n }) s

/-! ### Signatures of this device at an output (R379, R398) -/

/-- TLEAD of the ring: the lead's, which its tick signatures carry (R376). -/
def ringTlead (s : State) : Nat :=
  match isFollower s, s.spn.sig with
  | true, some g => g.tlead
  | _, _ => lfld s SPN_TIM_TLEAD

/-- The delay from the lead along the current path, as the last tick signature met it. -/
def ringDelay (s : State) : Time :=
  match isFollower s, s.spn.sig with
  | true, some g => g.delay
  | _, _ => 0

/-- When the tick signature for the coming boundary is due here (R378). -/
def sigDue (s : State) : Time := s.tick.next - ringTlead s * tb + ringDelay s

/-- This device starts no signature of its own: the tick signature is due within 900 ns (R379). -/
def sigQuiet (s : State) (t : Time) : Bool :=
  ticking s && !s.spn.sigSeen && decide (sigDue s ≤ t + 900 * ns) && decide (t < sigDue s)

/-- The instant from `t` on at which a waiting signature may start: the tick signature at once, any other once the tick
signature that is due has passed (R379). -/
def mayStart (s : State) (w : Waiting) (t : Time) : Time :=
  if w.hdr.kind ≠ 0 ∧ sigQuiet s t then sigDue s + linkTime 72 else t

/-- A waiting signature starts at an output at `a`, with the tick in which it does (R374). -/
def startOne (p : Nat) (a : Time) (w : Waiting) (s : State) : State :=
  let n := if a < s.tick.last then s.tick.tcnt - 1 else s.tick.tcnt
  let h := sealed { w.hdr with tick := BitVec.ofNat 32 n }
  takeOutput p a (24 + w.pay.length)
    (updSpn (fun x => { x with sent := ⟨p, a, h, sigBytes h w.pay⟩ :: x.sent }) s)

/-- The waiting signatures of an output start, one after the other, each once the output is idle, as far as that is by
`t`; what has not started by then keeps waiting and takes nothing of the output. -/
def startWaits (p : Nat) (t : Time) (ws : List Waiting) (s : State) : State :=
  match ws with
  | [] => updLink p (fun l => { l with waits := [] }) s
  | w :: r =>
    let a := mayStart s w (max w.ready (link s p).busyTo)
    if a ≤ t then startWaits p t r (startOne p a w s)
    else updLink p (fun l => { l with waits := { w with ready := a } :: r }) s

/-- What waits at the outputs starts as far as it does by `t`. -/
def settle (t : Time) (s : State) : State :=
  forAll (those 4 fun p => !((link s p).waits.isEmpty)) (fun p x => startWaits p t (link x p).waits x) s

/-- The order of service of an output behind transit: the tick signature, the member's own periodic signatures, and then
asynchronous ones (R398); management signatures go with the periodic ones (DESIGN CHOICE, log 40). -/
def rank (h : Header) : Nat := if h.kind = 0 then 0 else if h.kind = 2 then 2 else 1

/-- A signature joins those that wait, behind the ones of its own rank. -/
def insertWait (w : Waiting) (ws : List Waiting) : List Waiting :=
  ws.takeWhile (fun x => decide (rank x.hdr ≤ rank w.hdr)) ++ w :: ws.dropWhile fun x => decide (rank x.hdr ≤ rank w.hdr)

/-- The residence of a signature from port `i` to an idle output `o`: 80 ns to 90 ns, for one pair of ports within 0.5 ns
(R373). -/
def residence (s : State) (i o : Nat) : Time :=
  80 * ns + min (Config.residence i o) (19 * ns / 2) + min (Config.freeTime s.free) (ns / 2)

/-- Forward a signature that is not stripped, by cut-through: at each output after its residence, or once the signature in
progress there is complete (R373, R398). Devices that form a ring forward too (R384). -/
def forward (x : Sig) (s : State) : State :=
  if !(inRing s || s.spn.annAt.isSome) || strips s x.hdr then s
  else
    let outs := (outputs s x).map fun (p, y) =>
      (p, max (s.now + residence s x.port.val p) (link s p).busyTo, y)
    forAll outs (fun (p, a, y) => takeOutput p a (24 + y.hdr.len.toNat))
      (spend (updSpn (fun n => { n with fwd := outs }) s))

/-- A broadcast with W = 1 is a turned copy of one that has passed here before its turn, so that this member does not lie
on the far side of the break from its source (R375). -/
def passedBefore (s : State) (h : Header) : Bool :=
  match (memb s h.src.toNat).bcNear with
  | some q => decide ((q - h.seq).toNat < 0x8000)
  | none => false

/-- The signature is for this device: a unicast to it, or another's broadcast that comes directly, or turned at a wrap
where this member lies on the far side of the break from its source, and that does not return from another segment
(R375). -/
def delivers (s : State) (x : Sig) : Bool :=
  if x.hdr.bc then x.hdr.src.toNat != myAddr s && !(x.hdr.w && passedBefore s x.hdr) && !(returned s x)
  else x.hdr.dst.toNat == myAddr s

/-- A port carries traffic inward: the receiving port of a ring always, the transmitting one only while the ring is
wrapped, and both directions of a chain (R372). -/
def inward (s : State) (x : Sig) : Bool :=
  let g := segOf s x.port.val
  isChain s g || x.port.val != g || x.hdr.w || ringBroken s g

/-- Note the port of a delivered signature, and a broadcast that has passed before its turn. -/
def noteSide (p : Nat) (h : Header) (s : State) : State :=
  updMemb h.src.toNat (fun m => { m with
    via := some p, bcNear := if h.bc && !h.w then some h.seq else m.bcNear }) s

/-- Note the sequence number of a signature delivered whole, and count a gap: one whose trailer fails leaves a gap (R374,
R386, R404). -/
def noteSeq (h : Header) (s : State) : State :=
  let m := memb s h.src.toNat
  let last := if h.bc then m.bcRx else m.uniRx
  let s1 := updMemb h.src.toNat (fun m =>
    if h.bc then { m with bcRx := some h.seq } else { m with uniRx := some h.seq }) s
  match last with
  | some q => if h.seq = q + 1 then s1 else raise 475 (incFld SPN_CNT_SEQGAP s1)
  | none => s1

/-- What every arriving signature goes through; `f` acts on a signature delivered here whole, `bad` on one whose
trailer fails. -/
def receive (x : Sig) (t : Time) (f bad : State → State) (s : State) : State :=
  let s1 := settle t (upto t s)
  if !(portOn s x.port.val) || !((link s x.port.val).up) || !(inward s x) then s1
  else if hdrBad x.hdr then spnHdrErr s1
  else
    let s2 := forward x s1
    if !(delivers s x) then s2
    else
      let s3 := noteSide x.port.val x.hdr s2
      if trailerOk x then f (noteSeq x.hdr s3) else bad (raise 478 s3)

/-! ### Sending -/

/-- A header of a signature that this device originates. -/
def ownHeader (s : State) (kind : BitVec 2) (bc : Bool) (dst len : Nat) (seq : BitVec 16) : Header where
  kind := kind
  bc := bc
  cap := false
  dq := 0
  w := false
  dst := if bc then 0 else BitVec.ofNat 6 dst
  src := BitVec.ofNat 6 (myAddr s)
  len := BitVec.ofNat 12 len
  seq := seq
  epoch := s.spn.epoch
  tick := BitVec.ofNat 32 s.tick.tcnt
  reservedSet := false
  hcrc := 0

/-- The ports on which a broadcast of this device leaves: every segment. -/
def bcPorts (s : State) : List (Nat × Bool) := ((segments s).map (entry s)).flatten
/-- The ports on which a unicast to member `a` leaves. -/
def uniPorts (s : State) (a : Nat) : List (Nat × Bool) := entryTo s (segOfMember s 0 a) a

/-- The outputs are idle at `t`, and nothing waits there. -/
def idle (s : State) (ps : List (Nat × Bool)) (t : Time) : Bool :=
  ps.all fun p => decide ((link s p.1).busyTo ≤ t) && (link s p.1).waits.isEmpty

/-- Send on each of the ports: at once where the output is idle, and otherwise once it is. -/
def emit (ps : List (Nat × Bool)) (t : Time) (h : Header) (pay : List Byte) (s : State) : State :=
  forAll ps (fun p x =>
    let y := updLink p.1 (fun l => { l with waits := insertWait ⟨t, { h with w := p.2 }, pay⟩ l.waits }) x
    startWaits p.1 t (link y p.1).waits y) s

/-- Send a broadcast of this device at `t`. -/
def sendBc (kind : BitVec 2) (t : Time) (bs : List Byte) (s : State) : State :=
  updSpn (fun n => { n with seqBc := n.seqBc + 1 })
    (emit (bcPorts s) t (ownHeader s kind true 0 bs.length s.spn.seqBc) bs s)

/-- A peer as bytes of a management payload. -/
def peerBytes (p : Peer) : List Byte :=
  leBytes 8 p.addr.val ++ leBytes 8 p.serial.toNat ++ leBytes 4 p.cfgd.toNat ++ leBytes 4 p.verd.toNat ++
  leBytes 4 p.ringid.toNat ++ leBytes 4 p.gath.toNat ++ leBytes 4 p.slot.toNat ++ leBytes 4 p.abud.toNat

/-! ### Tick signature (R376, R378, R386) -/

/-- The payload of the tick signature that announces the coming boundary. -/
def tickPayload (s : State) : List Byte :=
  let n := (addrsOf (memberMap s)).length
  leBytes 8 (s.tick.tcnt + 1) ++ leBytes 8 ((s.spn.ringTime + s.tick.period * 5) / 2) ++
  leBytes 4 s.tick.periodNext ++ leBytes 4 (live s SPN_CFGD).toNat ++ leBytes 4 s.spn.verd.toNat ++
  leBytes 4 (if s.tru.closing then 0 else s.spn.gath.toNat) ++
  leBytes 4 (myAddr s + (n - 1) * 256) ++ leBytes 4 (lfld s SPN_TIM_TLEAD) ++ leBytes 8 (memberMap s).toNat

/-- The lead announces a change of membership or of links: EPOCH moves on, the lost members' bits clear, and
credits are reset at the announced boundary (R386). -/
def announceLoss (s : State) : State :=
  if s.spn.epochPend || s.spn.lostPend != 0 then
    let s1 := forAll (addrsOf s.spn.lostPend) (fun a => updMemb a (fun m => { m with isMember := false })) s
    updSpn (fun n => { n with
      epoch := n.epoch + 1, gone := n.gone ||| n.lostPend, lostPend := 0, epochPend := false, reset := true }) s1
  else s

/-- The admissions and the planned leaves that are due at tick `n`. -/
def dueAt (n : Nat) (es : List (Nat × Nat)) : List (Nat × Nat) := es.filter fun e => decide (e.2 ≤ n)

/-- The lead takes the admissions and leaves that are due at tick `n` into its membership, and EPOCH moves on (R387,
R388). -/
def changeMembers (n : Nat) (s : State) : State :=
  let ins := dueAt n s.spn.admits
  let outs := dueAt n s.spn.leaves
  if ins.isEmpty && outs.isEmpty then s
  else
    let s1 := forAll ins (fun e => updMemb e.1 fun m => { m with isMember := true, missed := 0 }) s
    let s2 := forAll outs (fun e => updMemb e.1 fun m => { m with isMember := false }) s1
    let bitsOf := fun (es : List (Nat × Nat)) => es.foldl (fun (m : BitVec 64) e => m ||| (1#64 <<< e.1)) 0#64
    updSpn (fun x => { x with epoch := x.epoch + 1, reset := true, gone := (x.gone ||| bitsOf outs) &&& ~~~(bitsOf ins) }) s2

/-- TICK_SIGNATURE_SEND: the lead sends the tick signature for its coming boundary, with the EPOCH and the members from
that boundary on, TLEAD before it at the latest (R378). -/
def execTickSignatureSend (t : Time) (s : State) : Out :=
  let s1 := settle t (upto t s)
  .next (if isLead s && ticking s && !s.spn.sigSeen && decide (t + lfld s SPN_TIM_TLEAD * tb ≤ s.tick.next) then
    let s2 := announceLoss s1
    let coming := sendBc 0 t (tickPayload (changeMembers (s.tick.tcnt + 1) s2)) (changeMembers (s.tick.tcnt + 1) s2)
    updSpn (fun n => { n with
      sigSeen := true, sent := coming.spn.sent, seqBc := coming.spn.seqBc, links := coming.spn.links }) s2
  else s1)

/-- SPN_LOCK: 16 boundaries in a row have lain within 5 ns (R380); the lead's own lie at no phase error. -/
def execSpnLock (s : State) : Out :=
  .next (if inRing s && decide (16 ≤ s.spn.okRun) then updSpn (fun n => { n with lock := true }) s else s)

/-- SPN_HOLDOVER: the tick signature is 1 µs late, and the member places the boundary itself (R382). -/
def execSpnHoldover (t : Time) (s : State) : Out :=
  let s1 := upto t s
  let due := sigDue s + us ≤ t
  .next (if isFollower s && ticking s && !s.spn.sigSeen && !s.spn.missTaken && decide due then
    raise 473 (updSpn (fun n => { n with holdover := true, missTaken := true }) s1)
  else s1)

/-- Send a management signature to a member. -/
def sendMgmt (dst : Nat) (bs : List Byte) (s : State) : State :=
  let q := (memb s dst).seqTx
  updMemb dst (fun m => { m with seqTx := q + 1 })
    (emit (uniPorts s dst) s.now (ownHeader s 3 false dst bs.length q) bs s)

/-- Announce this device to all (R384). -/
def announceSelf (s : State) : State := sendBc 3 s.now (peerBytes (selfPeer s)) s

/-- The announcements begin, and with them what is heard of others (R384). DESIGN CHOICE (log 40): one as a link comes up
and one at each boundary of the 100 ms that follow the first. -/
def startAnnouncing (s : State) : State :=
  announceSelf (forAll (those 64 fun a => (memb s a).peer.isSome) (fun a => updMemb a fun m => { m with peer := none })
    (updSpn (fun n => { n with annAt := some s.now }) s))

/-! ### Status and periodic signatures (R377, R394, R401) -/

/-- The signed low `w` bits of a number, saturating. -/
def satSigned (i : Int) (w : Nat) : Nat :=
  let hi : Int := (2 ^ (w - 1) : Nat)
  ofSigned (if i ≥ hi then hi - 1 else if i < -hi then -hi else i) w

/-- Units of 64 bytes of a record (R396). -/
def recUnits (bytes : Nat) : Nat := ceilDiv bytes 64

/-- Units of the records of source `a` that queue `q` still holds. -/
def heldUnits (s : State) (q a : Nat) : Nat :=
  ((spq s q).recs.filter fun r => r.src == a).foldl (fun n r => n + recUnits r.bytes) 0

/-- The credit entries that wait, RESET entries first: key, units, RESET. -/
def creditEntries (s : State) : List (Nat × Nat × Bool) :=
  (s.spn.rst.map fun e => (e.1, e.2, true)) ++
  (s.spn.ret.map fun e => (e.1, e.2, false))

/-- The bytes of a credit entry. -/
def creditBytes (e : Nat × Nat × Bool) : List Byte :=
  leBytes 4 (e.1 / 4 * 2 ^ 26 + e.1 % 4 * 2 ^ 24 + b2n e.2.2 * 2 ^ 23 + e.2.1 % 65536)

/-- The delay of a link in 16 bits. -/
def delayField (s : State) (p : Nat) : Nat :=
  if (link s p).up then min ((link s p).delay.getD 0) 0xFFFE else 0xFFFF

/-- The payload of the status signature. DESIGN CHOICE (log 40): an odd number of credit entries is filled up with one
of no units, as a payload is a multiple of 8 bytes (R374). -/
def statusPayload (s : State) : List Byte :=
  let es := (creditEntries s).take 16
  let ev := fun i => match s.spn.evq[i]? with | some e => 0x8000 + e | none => 0
  leBytes 4 (live s SPN_CFGD).toNat ++ leBytes 4 s.spn.verd.toNat ++ leBytes 4 s.spn.gath.toNat ++
  leBytes 2 (satSigned s.spn.phase 16) ++
  leBytes 2 (b2n s.spn.lock + 2 * b2n s.spn.holdover + 4 * s.spn.disc.toNat) ++
  ((List.range 4).map fun p => leBytes 2 (delayField s p)).flatten ++
  ((List.range 4).map fun i => leBytes 2 (ev i)).flatten ++
  (es.map creditBytes).flatten ++ (if es.length % 2 = 1 then leBytes 4 0 else [])

/-- Drop the credit entries that have been sent. -/
def dropCredits (es : List (Nat × Nat × Bool)) (s : State) : State :=
  forAll es (fun e => updSpn fun n =>
    if e.2.2 then { n with rst := n.rst.filter fun r => r.1 != e.1 }
    else { n with ret := SMap.set natD n.ret e.1 0 }) s

/-- Base of the periodic transmit buffer that is sent in the current tick. -/
def perBuf (s : State) : Nat := 0x48080000 + 0x200 * (s.tick.tcnt % 2)

/-- What member `a` is: as it announced itself; of one that has not been heard to, its serial number, its slot of at
most 64 and its budget are the hardware's (free values, log 40), as no rule says how a member learns them. -/
def peerOf (s : State) (a : Nat) : Peer := (memb s a).peer.getD {
  addr := ⟨a % 64, Nat.mod_lt _ (by decide)⟩
  serial := Config.memberSerial a
  cfgd := live s SPN_CFGD
  verd := s.spn.verd
  ringid := live s SPN_RINGID
  gath := s.spn.gath
  slot := if Config.memberSlot a ≤ 64#7 then Config.memberSlot a else 64#7
  abud := Config.memberAbud a }

/-- The length of a member's slot in bytes (R394). -/
def slotBytes (s : State) (a : Nat) : Nat :=
  8 * (if a = myAddr s then lfld s SPN_BUD_PSLOT else (peerOf s a).slot.toNat) + 144

/-- The start of this member's slot: PSTART after the boundary and the slots of the lower addresses (R394). -/
def slotStart (s : State) : Time :=
  let as := (addrsOf (memberMap s)).filter fun a => decide (a < myAddr s)
  s.tick.last + lfld s SPN_TIM_PSTART * tb + linkTime ((as.map (slotBytes s)).sum) + as.length * 200 * ns

/-- STATUS_SIGNATURE_SEND: the status signature and then the periodic buffer, at the start of the slot or when the transit
in progress there has passed (R377, R398). -/
def execStatusSignatureSend (t : Time) (s : State) : Out :=
  let s1 := settle t (upto t s)
  .next (if inRing s && ticking s && !s.spn.statusSent && !(sigQuiet s t) && decide (slotStart s ≤ t) && idle s1 (bcPorts s) t then
    let s2 := sendBc 1 t (statusPayload s) s1
    let s3 := dropCredits ((creditEntries s).take 16) s2
    let s4 := updSpn (fun n => { n with evq := n.evq.drop 4, statusSent := true }) s3
    let n := 8 * lfld s SPN_BUD_PSLOT
    if n = 0 then s4 else sendBc 1 t (rdBytes s (perBuf s) n) s4
  else s1)

/-- One credit entry of a status signature from `src` acts (R396). -/
def takeCredit (src e : Nat) (s : State) : State :=
  if bits e 26 6 == myAddr s then
    let q := bits e 24 2
    updMemb src (fun m => { m with
      credit := SMap.set natD m.credit q
        (if bitOf e 23 then bits e 0 16 else SMap.get natD m.credit q + bits e 0 16) }) s
  else s

/-- One remote event of a status signature: kept for the log, at most 32 a tick (R401). -/
def takeRemote (src e : Nat) (s : State) : State :=
  if !(bitOf e 15) then s
  else if !(concordant s src) then spnRxDrop s
  else if 32 ≤ s.spn.evrx.length then incFld SPN_CNT2_EVDROP s
  else updSpn (fun n => { n with evrx := n.evrx ++ [(src, bits e 0 10)] }) s

/-- The content of a status signature from `src`. -/
def takeStatus (src : Nat) (bs : List Byte) (s : State) : State :=
  let fl := slice bs 14 2
  let dl := (List.range 4).map fun p => slice bs (16 + 2 * p) 2
  let down := (List.range 4).any fun p =>
    dl.getD p 0 == 0xFFFF && (memb s src).delays.getD p 0xFFFF != 0xFFFF
  let s1 := updMemb src (fun m => { m with
    heard := true
    disc := BitVec.ofNat 4 (fl / 4)
    lock := bitOf fl 0
    delays := dl
    peer := some { peerOf s src with
      cfgd := BitVec.ofNat 32 (slice bs 0 4)
      verd := BitVec.ofNat 32 (slice bs 4 4)
      gath := BitVec.ofNat 32 (slice bs 8 4) } }) s
  let s2 := if down && isLead s then updSpn (fun n => { n with epochPend := true }) s1 else s1
  let s3 := match s2.spn.handoff with
    | some h => if h.1 = src ∧ (fl / 4 % 16 ≠ 0 ∨ ((memb s src).lock ∧ ¬ bitOf fl 0))
      then updSpn (fun n => { n with handoff := none }) s2 else s2
    | none => s2
  let s4 := forAll (List.range 4) (fun i => takeRemote src (slice bs (24 + 2 * i) 2)) s3
  forAll (List.range ((bs.length - 32) / 4)) (fun i => takeCredit src (slice bs (32 + 4 * i) 4)) s4

/-- STATUS_SIGNATURE: a member's status signature arrives. -/
def execStatusSignature (x : Sig) (t : Time) (s : State) : Out :=
  .next (receive x t (fun s1 =>
    if (memb s1 x.hdr.src.toNat).isMember then takeStatus x.hdr.src.toNat x.payload s1 else s1) id s)

/-- PERIODIC_SIGNATURE: a member's periodic payload arrives. -/
def execPeriodicSignature (x : Sig) (t : Time) (s : State) : Out :=
  .next (receive x t (fun s1 => updMemb x.hdr.src.toNat (fun m => { m with
    periodic := some x.payload
    peer := some { peerOf s1 x.hdr.src.toNat with slot := BitVec.ofNat 7 (x.payload.length / 8) } }) s1) id s)

/-! ### Asynchronous traffic (R393 to R398) -/

def txBase (q : Nat) : Nat := 0x48000000 + 0x10000 * q
def rxBase (q : Nat) : Nat := 0x48040000 + 0x10000 * q

/-- The queue pair exists on the variant. -/
def hasQ (s : State) (q : Nat) : Bool := hasSp s q

/-- Bytes of a queue of 64 KiB from offset `o`, wrapping. -/
def qBytes (s : State) (base o n : Nat) : List Byte := (List.range n).map fun i => rdByte s (base + (o + i) % 65536)
def qWrite (base o : Nat) (bs : List Byte) (s : State) : State :=
  match bs with
  | [] => s
  | b :: r => qWrite base (o + 1) r (wrByte (base + o % 65536) b s)

/-- Word 0 of the header at the head of transmit queue `q`. -/
def txHead (s : State) (q : Nat) : Nat := leNat (qBytes s (txBase q) (8 * (spq s q).txRp) 4)
/-- Bytes of the head signature in the queue: header, payload and trailer. -/
def txLen (s : State) (q : Nat) : Nat := 24 + bits (txHead s q) 0 12 / 8 * 8
/-- Bytes that await transmission. -/
def txWait (s : State) (q : Nat) : Nat := 8 * subMod (spq s q).txWp (spq s q).txRp 8192

/-- The members to which the head of queue `q` goes. -/
def txDests (s : State) (q : Nat) : List Nat :=
  if bitOf (txHead s q) 29 then (addrsOf (memberMap s)).filter fun a => a != myAddr s
  else [bits (txHead s q) 18 6]

/-- The ports on which the head of queue `q` leaves. -/
def txPorts (s : State) (q : Nat) : List (Nat × Bool) :=
  if bitOf (txHead s q) 29 then bcPorts s else uniPorts s (bits (txHead s q) 18 6)

/-- The bytes that sending the head of queue `q` takes of ABUD, over all ports (R397). -/
def txCost (s : State) (q : Nat) : Nat := txLen s q * (txPorts s q).length

/-- The head of queue `q` may be sent: its credit covers the record at every destination, and ABUD its bytes. -/
def txReady (s : State) (q : Nat) : Bool :=
  hasQ s q && inRing s && txWait s q != 0 && bits (txHead s q) 30 2 == 2 &&
  decide (s.spn.abytes + txCost s q ≤ 64 * lfld s SPN_BUD_ABUD) &&
  (txDests s q).all fun a => (memb s a).isMember &&
    decide (recUnits (txLen s q) ≤ SMap.get natD (memb s a).credit (bits (txHead s q) 26 2))

/-- Take the head signature off a transmit queue. -/
def txPop (q : Nat) (s : State) : State :=
  let n := txLen s q / 8
  updSpq q (fun x => { x with txRp := (x.txRp + min n (subMod x.txWp x.txRp 8192)) % 8192 }) s

/-- Spend the credits of the head signature. -/
def spendCredits (s0 : State) (q : Nat) (s : State) : State :=
  let dq := bits (txHead s0 q) 26 2
  forAll (txDests s0 q) (fun a => updMemb a fun m => { m with
    credit := SMap.set natD m.credit dq (SMap.get natD m.credit dq - recUnits (txLen s0 q)) }) s

/-- Send the head of queue `q`, with SEQ, EPOCH and TICK filled in. -/
def txSend (q : Nat) (s : State) : State :=
  let h := txHead s q
  let bc := bitOf h 29
  let dst := bits h 18 6
  let n := txLen s q
  let seq := if bc then s.spn.seqBc else (memb s dst).seqTx
  let hd := { ownHeader s 2 bc dst (n - 24) seq with
    cap := lflag s (SPN_TXQ_CFG_CAP q), dq := BitVec.ofNat 2 (bits h 26 2) }
  let bs := qBytes s (txBase q) (8 * (spq s q).txRp + 16) (n - 24)
  let s1 := txPop q (spendCredits s q s)
  let s2 := updSpn (fun x => { x with abytes := x.abytes + txCost s q }) (emit (txPorts s q) s.now hd bs s1)
  if bc then updSpn (fun x => { x with seqBc := x.seqBc + 1 }) s2
  else updMemb dst (fun m => { m with seqTx := m.seqTx + 1 }) s2

/-- A signature of this device that goes before the queues waits at `t`: the tick signature or its own slot (R398). -/
def ownDue (s : State) (t : Time) : Bool :=
  ticking s && ((isLead s && !s.spn.sigSeen && decide (sigDue s ≤ t)) || (!s.spn.statusSent && decide (slotStart s ≤ t)))

/-- The heads of two transmit queues leave by a common port. -/
def sharePort (s : State) (k q : Nat) : Bool :=
  (txPorts s k).any fun a => (txPorts s q).any fun b => a.1 == b.1

/-- ASYNC_SEND: the head of a transmit queue is sent once its outputs, the one named among them, are idle; transit, the
tick signature and the member's own slot go before it, and capture signatures come last (R398). A queued signature of
any other KIND is discarded and counted. -/
def execAsyncSend (q : Fin 4) (port : Fin 4) (t : Time) (s : State) : Out :=
  let s1 := settle t (upto t s)
  .next (
    if !(hasQ s q.val) || txWait s q.val == 0 || !(inRing s) then s1
    else if bits (txHead s q.val) 30 2 != 2 then incFld SPN_CNT_HDRERR (txPop q.val s1)
    else if sigQuiet s t || ownDue s t || !((txPorts s q.val).any fun p => p.1 == port.val) ||
      !(idle s1 (txPorts s q.val) t) || !(txReady s q.val) ||
      (lflag s (SPN_TXQ_CFG_CAP q.val) && (List.range 4).any fun k =>
        !(lflag s (SPN_TXQ_CFG_CAP k)) && txReady s k && sharePort s k q.val) then s1
    else txSend q.val s1)

/-- Bytes that a receive queue holds, records with their completion words. -/
def rxHeld (s : State) (q : Nat) : Nat := 8 * subMod (spq s q).rxWp (spq s q).rxRp 8192

/-- Place a record: header, payload and completion word (R395). -/
def rxPlace (x : Sig) (crcOk : Bool) (t : Time) (s : State) : State :=
  let q := x.hdr.dq.toNat
  let src := x.hdr.src.toNat
  let pay := (x.payload ++ List.replicate x.hdr.len.toNat 0#8).take x.hdr.len.toNat
  let n := 24 + x.hdr.len.toNat
  if !(hasQ s q) || !(concordant s src) || lfld s (SPN_RXQ_CFG_SHARE q) == 0 ||
    !((memb s src).granted.getLsbD q) || decide (65528 < rxHeld s q + n) then spnRxDrop s
  else
    let o := 8 * (spq s q).rxWp
    let bs := headerBytes x.hdr ++ pay ++ leBytes 8 (1 + 2 * b2n crcOk)
    (updSpq q (fun y => { y with
      rxWp := (y.rxWp + n / 8) % 8192
      recs := y.recs ++ [{ src := src, start := o, bytes := n, at_ := t }] }) (qWrite (rxBase q) o bs s))

/-- ASYNC_SIGNATURE: the first byte of an asynchronous signature arrives at `t`. -/
def execAsyncSignature (x : Sig) (t : Time) (s : State) : Out :=
  .next (receive x t (rxPlace x true t) (rxPlace x false t) s)

/-- SPN_TXQ_WP: an entry for SPN_TXQq_WP publishes signatures (R393). -/
def txqWpApply (q : Nat) (m : Mask) (d : Word) (s : State) : State :=
  let a := SPN_TXQ_WP q
  let v := clWord s a m d
  (if hasQ s q then
    updSpq q (fun x => { x with txWp := (SPN_TXQ_WP_PTR q).of v }) (putCl a v s) else s)

def execSpnTxqWp (q : Fin 4) (m : Mask) (d : Word) (s : State) : Out := .next (txqWpApply q.val m d s)

/-- The units of a consumed record return to its source (R396). -/
def returnUnits (q : Nat) (r : RxRec) (s : State) : State :=
  let k := 4 * r.src + q
  updSpn (fun n => { n with ret := SMap.set natD n.ret k (SMap.get natD n.ret k + recUnits r.bytes) }) s

/-- SPN_RXQ_RP: an entry for SPN_RXQq_RP consumes the records before the new pointer (R395). -/
def rxqRpApply (q : Nat) (m : Mask) (d : Word) (s : State) : State :=
  let a := SPN_RXQ_RP q
  let v := clWord s a m d
  let p := (SPN_RXQ_RP_PTR q).of v
  let y := spq s q
  let gone := fun (r : RxRec) =>
    decide (subMod (r.start / 8) y.rxRp 8192 + r.bytes / 8 ≤ subMod p y.rxRp 8192)
  (if hasQ s q && decide (subMod p y.rxRp 8192 ≤ subMod y.rxWp y.rxRp 8192) then
    let s1 := updSpq q (fun x => { x with rxRp := p, recs := x.recs.filter fun r => !(gone r) }) (putCl a v s)
    forAll (y.recs.filter gone) (returnUnits q) s1
  else s)

def execSpnRxqRp (q : Fin 4) (m : Mask) (d : Word) (s : State) : Out := .next (rxqRpApply q.val m d s)

/-! ### Links and membership -/

/-- LINK_LOSS: a link is lost; a member wraps there, and the lead announces it (R386). -/
def execLinkLoss (port : Fin 4) (t : Time) (s : State) : Out :=
  let s1 := upto t s
  .next (if portOn s port.val && (link s port.val).up then
    let s2 := raise 464 (updLink port.val (fun l => { l with up := false, delay := none }) s1)
    let s3 := if isLead s then updSpn (fun n => { n with epochPend := true }) s2 else s2
    if inRing s then raise 466 (updLink port.val (fun l => { l with wrap := true }) s3) else s3
  else s1)

/-- SPN_LINK_UP: a link gains block lock and its delay is measured; the announcements of an enabled standalone
device run from then (R384, R404). -/
def execSpnLinkUp (port : Fin 4) (delay : Nat) (t : Time) (s : State) : Out :=
  let s1 := upto t s
  .next (if portOn s port.val && !(link s port.val).up then
    let s2 := raise 465 (updLink port.val (fun l => { l with up := true, delay := some delay }) s1)
    if s.spn.role ≠ 0 then s2 else if s.spn.annAt = none then startAnnouncing s2 else announceSelf s2
  else s1)

/-- This member wraps at the ports of a set (R386, R388). -/
def wrapAt (ports : BitVec 4) (s : State) : State :=
  let ps := those 4 fun p => ports.getLsbD p && portOn s p && !((link s p).wrap)
  raiseIf (!ps.isEmpty) 466 (forAll ps (fun p => updLink p fun l => { l with wrap := true }) s)

/-- SPN_MEMBER_LOST: a member has sent no status signature at two consecutive boundaries; its neighbours wrap, at the
ports of this device that lead to it, with SPN_LINK_DOWN (R386). -/
def execSpnMemberLost (a : Neighbour) (s : State) : Out :=
  let k := a.addr.val
  .next (if inRing s && (memb s k).isMember && k != myAddr s && decide (2 ≤ (memb s k).missed) &&
      !(s.spn.lostPend.getLsbD k) then
    let s1 := raise 470 (updSpn (fun n => { n with lostPend := n.lostPend ||| (1#64 <<< k) }) s)
    wrapAt a.ports (raiseIf ((List.range 4).any fun p => a.ports.getLsbD p && portOn s p) 464 s1)
  else s)

/-- The port is of class SPN-PEER. -/
def peerPort (s : State) (p : Nat) : Bool := portClass s (1 + p) == 2

/-- A management signature that may not be acted on (R400). -/
def mgmtDrop (s : State) : State := raise 477 (incFld SPN_CNT_MGDROP s)

/-- ANNOUNCE: an announcement of another device arrives while the ring forms (R384). DEDUCED (log 42): it needs a port
of class SPN-PEER and, as no ring exists yet, no membership; at any other time nothing acts on it, and it is discarded
and counted (R400). -/
def execAnnounce (x : Announced) (t : Time) (s : State) : Out :=
  let p := x.peer
  .next (receive x.sig t (fun s1 =>
    if peerPort s1 x.sig.port.val && s1.spn.annAt.isSome && p.addr.val != myAddr s1 then
      updMemb p.addr.val (fun m => { m with peer := some p }) s1
    else mgmtDrop s1) id s)

/-- Two devices agree in configuration, version and ring identity. -/
def agree (a b : Peer) : Bool := a.cfgd == b.cfgd && a.verd == b.verd && a.ringid == b.ringid

/-- The lowest serial number of a list. -/
def lowestSerial (ps : List Peer) : Option Peer :=
  ps.foldl (fun b p => match b with
    | none => some p
    | some q => if p.serial.toNat < q.serial.toNat then some p else b) none

/-- The concordant set of a list of devices: the largest set that agrees, a tie to the lowest serial number. -/
def concordantSet (ps : List Peer) : List Peer :=
  let sets := ps.map fun p => ps.filter (agree p)
  sets.foldl (fun b x =>
    if b.length < x.length then x
    else if b.length = x.length then
      (match lowestSerial b, lowestSerial x with
      | some p, some q => if q.serial.toNat < p.serial.toNat then x else b
      | _, _ => b)
    else b) []

/-- Every group is held, or no tick runs. -/
def groupsHeld (s : State) : Bool := !(ticking s) || (List.range 16).all fun g => (grp s g).hold

/-- A join is refused with a code (R387). -/
def joinRefused (code : Nat) (s : State) : State :=
  raise 469 (updSpn (fun n => { n with role := 0, joinAt := none, joinCode := code }) s)

/-- Ask to join: the request stands from now on, unless a group is not held (R387). The JOIN signature follows the
first tick signature that is heard. -/
def askJoin (s : State) : State :=
  if groupsHeld s then
    updSpn (fun n => { n with joinAt := some s.now, role := 3, joinCode := 0, sig := none, annAt := none }) s
  else joinRefused 7 s

/-- The DISC reasons of a device outside the concordant set, whose lead is `l`: CFG and VER as its digests differ; a
RINGID of its own, which no reason names, shows as CFG (DESIGN CHOICE, log 42). -/
def outsideSet (l p : Peer) : BitVec 4 :=
  (if p.cfgd = l.cfgd ∧ p.ringid = l.ringid then 0 else 1) ||| (if p.verd = l.verd then 0 else 2)

/-- RING_FORM: after 100 ms of announcements the ring forms (R384); a device that has heard a ring's tick signature asks
to join that ring instead (R402). -/
def execRingForm (t : Time) (s : State) : Out :=
  let s1 := upto t s
  .next (match s.spn.annAt with
  | some a =>
    if t < a + 100 * ms || !(spnOn s) || s.spn.role != 0 then s1
    else if s.spn.sig.isSome then askJoin s1
    else
      let ps := selfPeer s :: (List.range 64).filterMap fun k => (memb s k).peer
      match lowestSerial (concordantSet ps) with
      | none => s1
      | some l =>
        let s2 := forAll ps (fun p => updMemb p.addr.val fun m => { m with
          isMember := true, missed := 0, disc := outsideSet l p }) s1
        let d := outsideSet l (selfPeer s)
        raiseIf (d != 0) 471 (updSpn (fun n => { n with
          role := if l.addr.val = myAddr s then 1 else 2
          lead := l.addr.val
          annAt := none
          disc := d
          reset := true }) s2)
  | none => s1)

/-- The serial number of a member. -/
def serialOf (s : State) (a : Nat) : Nat := if a = myAddr s then Config.serial.toNat else (peerOf s a).serial.toNat

/-- The concordant member with the lowest serial number, the lead left out (R385). -/
def nextLead (s : State) : Option Nat :=
  (those 64 fun a => a != s.spn.lead && (if a = myAddr s then s.spn.disc == 0
      else (memb s a).isMember && (memb s a).disc == 0)).foldl
    (fun b a => match b with
      | none => some a
      | some c => if serialOf s a < serialOf s c then some a else b) none

/-- LEAD_TAKEOVER: at the second boundary without a tick signature the concordant member with the next-lowest serial
number becomes lead: this one, or another, whose tick signatures it follows from now on (R385). -/
def execLeadTakeover (s : State) : Out :=
  .next (match isFollower s && decide (2 ≤ s.spn.noSig), nextLead s with
  | true, some a =>
    if a = myAddr s then
      raise 467 (updSpn (fun n => { n with
        lostPend := n.lostPend ||| (1#64 <<< n.lead)
        role := 1, lead := myAddr s, noSig := 0, holdover := false, phase := 0 }) s)
    else raise 467 (updSpn (fun n => { n with lead := a, noSig := 0 }) s)
  | _, _ => s)

/-- LEAD_HANDOFF: 16 boundaries after its admission, the lead passes to a member of lower serial number (R385). -/
def execLeadHandoff (s : State) : Out :=
  .next (match s.spn.handoff with
  | some (a, n) =>
    if s.tick.tcnt < n || !(inRing s) then s
    else
      let me := a == myAddr s
      let ok := if me then s.spn.disc == 0 && s.spn.lock else (memb s a).disc == 0 && (memb s a).lock
      let s1 := updSpn (fun n => { n with handoff := none }) s
      if ok then raise 467 (updSpn (fun n => { n with
        role := if me then 1 else 2, lead := a, phase := if me then 0 else n.phase }) s1) else s1
  | none => s)

/-- An applied leave command (R388). -/
def spnLeave (s : State) : State :=
  if inRing s && s.spn.leaveTick.isNone then
    let s1 := updSpn (fun n => { n with leaveTick := some (s.tick.tcnt + 2) }) s
    if isFollower s then sendMgmt s.spn.lead (Config.leaveBytes (s.tick.tcnt + 2)) s1 else s1
  else s

/-- SPN_LEAVE. -/
def execSpnLeave (s : State) : Out := .next (spnLeave s)

/-- This device becomes standalone. -/
def goStandalone (s : State) : State :=
  let s1 := forAll (addrsOf (memberMap s)) (fun a => updMemb a fun m => { m with isMember := false, granted := 0 }) s
  raise 470 (updSpn (fun n => { n with
    role := 0, epoch := n.epoch, leaveTick := none, admits := [], leaves := [], handoff := none, lock := false
    okRun := 0, badRun := 0, phase := 0, lag := 0, steer := 0, cut := []
    holdover := false, disc := 0, ret := [], rst := [], lostPend := 0, epochPend := false, sig := none, gone := 0 }) s1)

/-- SPN_PLOCK: the port classes come into force (R399). -/
def execSpnPlock (s : State) : Out := .next (setFld SPN_PLOCK_LOCK 1 s)

/-! ### Shared with the boundary, leases and rebinding -/

/-- The end of a spine lease: published signatures stay queued, and the receive queue keeps its contents (R392). -/
def spnLeaseEnd (_ : Nat) (s : State) : State := s

/-- The sources that hold a grant of queue `q`, and the concordant ones that hold none (R396). -/
def grantedOf (s : State) (q : Nat) : List Nat := those 64 fun a => (memb s a).isMember && (memb s a).granted.getLsbD q
def ungranted (s : State) (q : Nat) : List Nat :=
  those 64 fun a => a != myAddr s && concordant s a && !((memb s a).granted.getLsbD q)

/-- Queue `q` grants SHARE units to a source, less those of its records that are still held: an entry with RESET says
so. -/
def grantTo (q a : Nat) (s : State) : State :=
  let k := 4 * a + q
  let n := lfld s (SPN_RXQ_CFG_SHARE q) - heldUnits s q a
  updSpn (fun x => { x with rst := (x.rst.filter fun r => r.1 != k) ++ [(k, n)] })
    (updMemb a (fun m => { m with granted := m.granted ||| (1#4 <<< q) }) s)

/-- Grant units of queue `q` to the concordant sources that hold no grant, while the grants fit 1,024 units (R396). -/
def grantQueue (q : Nat) (s : State) : State :=
  let sh := lfld s (SPN_RXQ_CFG_SHARE q)
  let room := if sh = 0 then 0 else 1024 / sh - (grantedOf s q).length
  forAll ((ungranted s q).take room) (grantTo q) s

/-- At a credit reset the sources that queue `q` granted units to and that are in concord are granted them afresh; the
others lose their grant (R390, R396). -/
def regrantQueue (q : Nat) (s : State) : State :=
  let old := grantedOf s q
  forAll (old.filter (concordant s)) (grantTo q)
    (forAll old (fun a => updMemb a fun m => { m with granted := m.granted &&& ~~~(1#4 <<< q) }) s)

/-- CREDIT_RESET (R396): every member discards the credit that it holds, and grants afresh; from now on unicasts go round
the breaks that have been announced (R386). -/
def creditReset (s : State) : State :=
  if s.spn.reset then
    let s1 := forAll (List.range 64) (fun a x =>
      if (memb x a).credit = [] then x else updMemb a (fun m => { m with credit := [] }) x) s
    let s2 := updSpn (fun n => { n with reset := false, ret := [], cut := (segments s).filter (ringBroken s) }) s1
    forAll (those 4 (hasQ s)) regrantQueue s2
  else s

/-- The grants at a boundary of a ring: a reset that is due, and sources that hold none yet, one that has come back into
concord among them (R396). -/
def grantAll (s : State) : State :=
  let s1 := creditReset s
  if inRing s1 then forAll (those 4 (hasQ s1)) grantQueue s1 else s1

/-- MAILBOX_UPDATE for address `m` (R394). -/
def mailboxOne (m : Nat) (s : State) : State :=
  if m = myAddr s || !(memb s m).isMember then s
  else
    let old := memb s m
    let s1 := updMemb m (fun x => { x with periodic := none }) s
    let bit := fun (v : Bool) (x : State) =>
      if m < 32 then setFldBit SPN_PVALID_L_MAP m v x else setFldBit SPN_PVALID_H_MAP (m - 32) v x
    if !(concordant s m) then bit false s1
    else match old.periodic with
      | some bs => bit true (wrBytes (0x48090000 + 0x200 * m) (bs.take 512) s1)
      | none =>
        if (peerOf s m).slot = 0 then bit false s1
        else raise 474 (incFld SPN_CNT2_PLATE (bit false s1))

/-- MAILBOX_UPDATE. -/
def mailboxUpdate (s : State) : State :=
  forAll (List.range 64) mailboxOne (setFld SPN_PVALID_L_MAP 0 (setFld SPN_PVALID_H_MAP 0 s))

/-- REMOTE_EVENT_LOG (R401). -/
def remoteLog (s : State) : State :=
  let es := s.spn.evrx
  let s1 := forAll (List.range 32) (fun k x => setReg (SPN_REVLOG k) (match es[k]? with
    | some e => BitVec.ofNat 32 (2 ^ 31 + e.1 * 2 ^ 16 + e.2)
    | none => 0#32) x) s
  raiseIf (!es.isEmpty) 479 (updSpn (fun n => { n with evrx := [] }) s1)

/-- A record of which `ctt` bytes have arrived by `b` is visible. -/
def showRecord (ctt : Nat) (b : Time) (r : RxRec) : RxRec :=
  if r.at_ + linkTime (min ctt r.bytes) ≤ b then { r with visible := true } else r

/-- A record becomes part of the count once CTT of its bytes have arrived (R395). -/
def showRecords (q : Nat) (b : Time) (s : State) : State :=
  updSpq q (fun x => { x with recs := x.recs.map (showRecord (lfld s SPN_CTT_CTT) b) }) s

/-- Bytes of the visible records from RP on. -/
def visibleBytes (rs : List RxRec) : Nat :=
  match rs with
  | [] => 0
  | r :: t => if r.visible then r.bytes + visibleBytes t else 0

/-- The four link bits of a port in SPN_LINK. -/
def linkBits (l : LinkSt) : Nat := b2n l.up + 2 * b2n l.wrap + 4 * b2n l.delay.isSome

/-- The tick-start snapshots of the RO registers of SPN at the boundary `b` (R398). -/
def spnSnapshot (b : Time) (s : State) : State :=
  let n := s.spn
  let mm := (those 64 fun a => (memb s a).isMember && (if a = myAddr s then n.disc else (memb s a).disc) == 0).foldl setBit 0
  let s1 := setReg SPN_STAT (BitVec.ofNat 32 (n.role * 2 ^ 30 + b2n n.holdover * 2 ^ 29 + b2n n.lock * 2 ^ 28 +
    n.disc.toNat * 2 ^ 24 + n.lead % 64 * 2 ^ 16 + n.epoch.toNat)) s
  let s2 := setReg SPN_MEMB_L (BitVec.ofNat 32 mm) (setReg SPN_MEMB_H (BitVec.ofNat 32 (mm / 2 ^ 32)) s1)
  let s3 := setReg SPN_VERD n.verd (setReg SPN_GATH n.gath s2)
  let s4 := setFld SPN_PHERR_ERR (satSigned n.phase 16) (setFld SPN_JOINST_CODE n.joinCode s3)
  let s5 := setFld SPN_LINK_PORT (((List.range 4).map fun p => linkBits (link s p) * 16 ^ p).sum) s4
  forAll (those 4 (hasQ s)) (fun q x =>
    let y := showRecords q b x
    setFld (SPN_RXQ_CNT_COUNT q) (visibleBytes (spq y q).recs) (setFld (SPN_TXQ_ST_COUNT q) (txWait y q) y)) s5

/-- The readiness of SPN for a rebinding, `p` being the period that its shadow page is judged by (R402). -/
def spnReady (p : Nat) (s : State) : Bool :=
  let br := sfld s SPN_CTRL_BRMODE
  br != 3 && (is9610 s || br == 0) && (is9610 s || sfld s SPN_CTRL_PEN < 4) &&
  400 ≤ sfld s SPN_TIM_TLEAD && sfld s SPN_TIM_TLEAD * 4 ≤ p &&
  400 ≤ sfld s SPN_TIM_PSTART && sfld s SPN_TIM_PSTART * 2 ≤ p &&
  sfld s SPN_BUD_PSLOT ≤ 64 && 16 ≤ sfld s SPN_CTT_CTT && sfld s SPN_CTT_CTT ≤ 1080 &&
  ((List.range 4).map fun q => sfld s (SPN_RXQ_CFG_SHARE q)).sum ≤ 4096

/-- After a flip of SPN, `old` being the state before it (R402); a port that is not in use has no link. -/
def spnFlip (old : State) (first : Bool) (s0 : State) : State :=
  let s := forAll (those 4 fun p => !(portOn s0 p)) (fun p => updLink p fun _ => {}) s0
  let ch := live old SPN_CTRL != live s SPN_CTRL || live old SPN_RINGID != live s SPN_RINGID
  if first then
    if spnOn s && ((List.range 4).any fun p => (link s p).up) then
      startAnnouncing s
    else s
  else if !(spnOn s) ∧ !(inRing old) then updSpn (fun n => { n with annAt := none, joinAt := none, role := 0, sig := none }) s
  else if inRing old && ch then
    let s1 := goStandalone s
    if spnOn s then askJoin s1 else s1
  else s

end Sys2Proof.Machine
end

