-- ==== Sys2Proof/Machine/Leases.lean ====
section
/-! DEFINITION. Leases (R118 to R122). -/

namespace Sys2Proof.Machine
open Sys2Proof

/-- Fields of a lease request word. -/
def lqOp (d : Word) : Nat := PRC_LREQ_OP.of d
def lqDtag (d : Word) : Nat := PRC_LREQ_DTAG.of d
def lqDuty (d : Word) : Nat := PRC_LREQ_DUTY.of d
def lqTerm (d : Word) : Nat := PRC_LREQ_TERM.of d
def lqClass (d : Word) : Nat := PRC_LREQ_CLASS.of d
def lqInst (d : Word) : Nat := PRC_LREQ_INST.of d

/-- The request names an existing resource, with its reserved bits 0 (R120). -/
def lqValid (s : State) (d : Word) : Bool :=
  let i := lqInst d
  bits d.toNat 29 1 == 0 && bits d.toNat 6 2 == 0 &&
  (match lqClass d with
  | 1 => decide (i < 4)
  | 2 => decide (i < 4) && hasSp s i
  | 3 => true
  | 4 => i != 0
  | 5 => decide (i < 6) && hasCan s i
  | _ => false)

/-- The result of a unit's last request; a denial raises PRC_LEASE_DENIED (R118). -/
def leaseResult (w : Who) (code slot : Nat) (s : State) : State :=
  raiseIf (code != 1) 406
    (setReg (PRC_LRES w.unit.val) (BitVec.ofNat 32 (slot * 2 ^ 8 + code)) s)

/-- The slot in which the unit holds the requested resource. -/
def leaseMine (s : State) (w : Who) (d : Word) : Option Nat :=
  (leaseSlots s fun k => fld s (PRC_LSLOT_CLASS k) == lqClass d && fld s (PRC_LSLOT_INST k) == lqInst d &&
    holdsSlot s w k).head?

/-- A slot that holds no lease: the lowest-numbered one (DESIGN CHOICE, log 58: R119 names no order). -/
def freeSlot (s : State) : Option Nat := (those 64 fun k => !(flag s (PRC_LSLOT_VALID k))).head?

/-- The slot word of a new lease. -/
def slotWord (w : Who) (d : Word) : Word :=
  BitVec.ofNat 32 (2 ^ 31 + w.unit.val * 2 ^ 28 + lqClass d * 2 ^ 24 + lqInst d * 2 ^ 18 + lqDtag d * 2 ^ 17 +
    lqDuty d * 2 ^ 13 + b2n w.halfB * 2 ^ 12 + lqTerm d)

/-- Acquire (R119). -/
def leaseAcquire (w : Who) (d : Word) (s : State) : State :=
  if !(lqValid s d) || lqTerm d == 0 then leaseResult w 3 0 s
  else if lqClass d != 4 && (leaseOf s (lqClass d) (lqInst d)).isSome then leaseResult w 2 0 s
  else match freeSlot s with
    | none => leaseResult w 4 0 s
    | some k =>
      if lqClass d == 4 then
        if fld s TKC_QPOOL_FREE < fld s TKC_QPOOL_LEASED + lqInst d then leaseResult w 4 0 s
        else leaseResult w 1 k
          (setFld TKC_QPOOL_LEASED (fld s TKC_QPOOL_LEASED + lqInst d) (setReg (PRC_LSLOT k) (slotWord w d) s))
      else leaseResult w 1 k (setReg (PRC_LSLOT k) (slotWord w d) s)

/-- Renew (R121). -/
def leaseRenew (w : Who) (d : Word) (s : State) : State :=
  if !(lqValid s d) || lqTerm d == 0 then leaseResult w 3 0 s
  else match leaseMine s w d with
    | some k => leaseResult w 1 k (setFld (PRC_LSLOT_REMAIN k) (lqTerm d) s)
    | none => leaseResult w 5 0 s

/-- The lease in slot `k` ends: the resource is free, its block ends its work, and event `ev` is raised (R122). -/
def endLease (k ev : Nat) (s : State) : State :=
  let c := fld s (PRC_LSLOT_CLASS k)
  let i := fld s (PRC_LSLOT_INST k)
  let s1 := setReg (PRC_LSLOT k) 0#32 s
  let s2 := match c with
    | 1 => qspLeaseEnd i s1
    | 2 => spnLeaseEnd i s1
    | 4 => setFld TKC_QPOOL_LEASED (fld s TKC_QPOOL_LEASED - i) s1
    | 5 => canLeaseEnd i s1
    | _ => s1
  raise ev s2

/-- Release (R122): the lease ends; a release raises no event of its own. -/
def leaseRelease (w : Who) (d : Word) (s : State) : State :=
  if !(lqValid s d) then leaseResult w 3 0 s
  else match leaseMine s w d with
    | some k => leaseResult w 1 0 (endLease k 640 s)
    | none => leaseResult w 5 0 s

/-- Revoke, by SV only (R118, R122). -/
def leaseRevoke (w : Who) (d : Word) (s : State) : State :=
  if !(isSv w) || !(lqValid s d) then leaseResult w 3 0 s
  else match leaseOf s (lqClass d) (lqInst d) with
    | some k => leaseResult w 1 0 (endLease k 405 s)
    | none => leaseResult w 5 0 s

/-- A lease request as applied: by its OP. -/
def leaseRequest (w : Who) (d : Word) (s : State) : State :=
  match lqOp d with
  | 0 => leaseAcquire w d s
  | 1 => leaseRenew w d s
  | 2 => leaseRelease w d s
  | _ => leaseRevoke w d s

/-- Revoke every lease that meets a test of its slot. -/
def revokeThose (p : State → Nat → Bool) (s : State) : State :=
  forAll (leaseSlots s (p s)) (fun k => endLease k 405) s

/-- LEASE_ACQUIRE: an acquire request of a unit is applied. -/
def execLeaseAcquire (w : Who) (d : Word) (s : State) : Out :=
  .next (if lqOp d = 0 then leaseAcquire w d s else s)
/-- LEASE_RENEW: a renew request of a unit is applied. -/
def execLeaseRenew (w : Who) (d : Word) (s : State) : Out :=
  .next (if lqOp d = 1 then leaseRenew w d s else s)
/-- LEASE_RELEASE: a release request of a unit is applied. -/
def execLeaseRelease (w : Who) (d : Word) (s : State) : Out :=
  .next (if lqOp d = 2 then leaseRelease w d s else s)
/-- LEASE_REVOKE: a revoke request is applied. -/
def execLeaseRevoke (w : Who) (d : Word) (s : State) : Out :=
  .next (if lqOp d = 3 then leaseRevoke w d s else s)

/-- LEASE_EXPIRE: a lease whose count has reached 0 at the boundary ends (R121). -/
def execLeaseExpire (k : Fin 64) (s : State) : Out :=
  .next (if flag s (PRC_LSLOT_VALID k.val) && fld s (PRC_LSLOT_REMAIN k.val) == 0 then endLease k.val 404 s else s)

/-- At each boundary the remaining counts decrement (R121). -/
def leaseTick (s : State) : State :=
  forAll (leaseSlots s fun _ => true) (fun k x => setFld (PRC_LSLOT_REMAIN k) (fld x (PRC_LSLOT_REMAIN k) - 1) x) s

end Sys2Proof.Machine
end

