-- ==== Sys2Proof/Machine/Duties.lean ====
section
/-! DEFINITION. Pair faults, duties, take-over, hand-over, split and rejoin, quotas, and the event controllers
(R58, R84 to R135). -/

namespace Sys2Proof.Machine
open Sys2Proof

/-! ### Quotas (R58, R59, R105) -/

/-- The units whose TKC registers are present. -/
def tkcUnits (s : State) : List Nat := those 7 fun u => hasUnit s u

def quotaSum (s : State) : Nat := ((tkcUnits s).map fun u => fld s (TKC_QUOTA_QUOTA u)).sum

/-- TKC_QPOOL.FREE is 192 less the sum of the quotas (R59). -/
def showPool (s : State) : State := setFld TKC_QPOOL_FREE (192 - quotaSum s) s

/-- The duties that are enabled and have the pair as primary, or as standby. -/
def dutiesOf (s : State) (p : Nat) : List Nat :=
  those 16 fun d => flag s (PRC_DUTY_CFG_EN d) && fld s (PRC_DUTY_CFG_PRIM d) == p
def standbyOf (s : State) (p : Nat) : List Nat :=
  those 16 fun d => flag s (PRC_DUTY_CFG_EN d) && fld s (PRC_DUTY_CFG_STBY d) == p

/-- The sum of QD of the enabled duties of a primary, but for duty `d`; a duty with EN = 0 does not count (DESIGN CHOICE,
log 64). -/
def dutyQuota (s : State) (p d : Nat) : Nat :=
  (((dutiesOf s p).filter fun e => e != d).map fun e => fld s (PRC_DUTY_CFG_QUOTA e)).sum

/-- TKC_QUOTA_WRITE: an entry for TKC_QUOTAu is applied, or ignored with QERR (R58). One that would make a primary's quota
smaller than the sum of its duties' QD is refused with PRC_HOSTAT.CODE 6 (R105). -/
def quotaWrite (u : Nat) (m : Mask) (d : Word) (s : State) : State :=
  let a := TKC_QUOTA u
  let v := clWord s a m d
  let s1 := showPool (putCl a v s)
  if !(hasUnit s u) then s
  else if 192 < quotaSum s1 || (u == 6 && (TKC_QUOTA_QUOTA 6).of v < 32) then setFld TKC_STAT_QERR 1 s
  else if (TKC_QUOTA_QUOTA u).of v < dutyQuota s u 16 then setFld PRC_HOSTAT_CODE 6 s
  else s1

def execTkcQuotaWrite (u : Fin 7) (m : Mask) (d : Word) (s : State) : Out := .next (quotaWrite u.val m d s)

/-- The colophon entries that the unit may hold in a tick: its quota, or its half's share, and its leased
extension (R57, R59, R115). A QSPLIT above QUOTA gives half B the whole quota (DESIGN CHOICE, log 58). -/
def entryLimit (s : State) (w : Who) : Nat :=
  let u := w.unit.val
  let q := fld s (TKC_QUOTA_QUOTA u)
  let h := fld s (TKC_QUOTA_QSPLIT u)
  let own := if pairState s u == 2 then (if w.halfB then min h q else q - h) else q
  let ext := (leaseSlots s fun k => fld s (PRC_LSLOT_CLASS k) == 4 && holdsSlot s w k).map
    fun k => fld s (PRC_LSLOT_INST k)
  own + ext.sum

/-! ### Starting units (R88) -/

/-- A unit as it starts at an address. -/
def startUnit (key : Nat) (pc : Word) (s : State) : State :=
  updUnit key (fun u => { u with
    arch := { pc := pc }, ckpt := { pc := pc }, jrn := [], clrq := [], mir := [], phase := .work, startAt := s.now
    first := true, warned := false, replays := 0, used := 0, held := false, holdRun := 0, ovf := false, ovfRun := 0
    mm := none, mmTick := false, stall := none, failed := false }) s

/-- A HELD pair starts in lockstep at PRC_VECn. -/
def startPair (n : Nat) (s : State) : State :=
  raise 410 (setFld (PRC_CTL_START n) 0 (setFld (PRC_STAT_STATE n) 1 (startUnit n (reg s (PRC_VEC n)) s)))

/-- Split halves start: A at `pa` and B at PRC_VECBn (R114, and R117 for SVA and SVB). -/
def startHalves (n : Nat) (pa : Word) (s : State) : State :=
  setFld (PRC_STAT_STATE n) 2 (startUnit (n + 8) (reg s (PRC_VECB n)) (startUnit n pa s))

/-- An applied START = 1: it reads 1 while the pair is HELD and waits, and is ignored otherwise (R88). -/
def startApply (n : Nat) (s : State) : State :=
  if n < 6 ∧ hasUnit s n ∧ pairState s n = 0 then setFld (PRC_CTL_START n) 1 s else s

/-- PRC_START: the pair whose START is set starts, at the boundary or, while no tick runs, at once. -/
def execPrcStart (n : Fin 7) (s : State) : Out :=
  .next (if flag s (PRC_CTL_START n.val) && pairState s n.val == 0 && decide (n.val < 6) && hasUnit s n.val then
    startPair n.val s else s)

/-! ### Faults (R84 to R97, R127) -/

/-- A standby can no longer take over: SREADY clears for each duty that it stands by for (R109). -/
def loseReady (p : Nat) (s : State) : State :=
  forAll (standbyOf s p) (fun d x => updPrc (fun r => { r with seed := SMap.set natD r.seed d 0 })
    (setFld (PRC_DUTY_CFG_SREADY d) 0 x)) s

/-- Codes of PRC_FAULTn (R134). -/
def permCode : PermCause → Nat
  | .replayFailure => 1
  | .doubleBitEcc => 2
  | .checker => 3
  | .selfTest => 4
  | .asyncDiverge => 5

/-- The unit stops; its work of an unfinished tick is discarded, and hold-last follows at t_CW (R91). DESIGN CHOICE (log
58): a first run that ends so is not recorded in TKC_RUNMAX. -/
def stopUnit (w : Who) (s : State) : State :=
  if (unit s w.key).phase = .asleep then s
  else updUnit w.key (fun u => { u with phase := .stopped }) (discardWork w s)

/-- A permanent fault of SV: it stops, its leases are revoked, and PRC_SV_FAULT is raised (R127). -/
def svFault (s : State) : State :=
  raise 408 (revokeThose (fun x k => fld x (PRC_LSLOT_HOLDER k) == 6)
    (updPrc (fun r => { r with svStopped := true }) s))

/-- A permanent-class fault of a pair or half (R91, R115, R127). DESIGN CHOICE (log 64): a fault of one half of a split SV
stops that half alone and is no PRC_SV_FAULT; TRU counts it as a fault of SV in probation (R455). -/
def permFault (w : Who) (k : PermCause) (s : State) : State :=
  let u := w.unit.val
  let split := pairState s u == 2
  let s1 := stopUnit w s
  let s2 := if split && w.halfB then setFld (PRC_FAULT_CAUSEB u) (permCode k) s1 else setFld (PRC_FAULT_CAUSE u) (permCode k) s1
  let s3 := raise 400 (if u = 6 then updPrc (fun r => { r with svFaulted := true }) s2 else s2)
  if split then
    let s4 := updUnit w.key (fun x => { x with failed := true }) s3
    if u < 6 then updPrc (fun r => { r with lost := r.lost ||| (1#6 <<< u) }) (loseReady u s4) else s4
  else
    let s4 := setFld (PRC_STAT_STATE u) (if k = .asyncDiverge then 0 else 4) s3
    if u = 6 then svFault s4
    else updPrc (fun r => { r with lost := r.lost ||| (1#6 <<< u) }) (loseReady u s4)

/-- The unit runs and can meet a fault. -/
def canFault (s : State) (w : Who) : Bool :=
  let st := pairState s w.unit.val
  hasUnit s w.unit.val && !s.pwr.inReset && !(w.unit.val == 6 && s.prc.svStopped) && !(unit s w.key).failed &&
  (if w.halfB then st == 2 else st == 1 || st == 2 || st == 5)

/-- The unit is in a replay of the tick, which a further fault interrupts (R136). -/
def inReplay (s : State) (w : Who) : Bool :=
  let u := unit s w.key
  decide (0 < u.replays) && (decide (u.phase = .work) || decide (u.phase = .drain))

/-- PRC_PERM_FAULT: a permanent-class fault that arises of itself, or that a replay has ended in (R90, R91). -/
def execPrcPermFault (w : Who) (k : PermCause) (t : Time) (s : State) : Out :=
  let s1 := upto t s
  .next (if canFault s w then permFault w k (raiseIf (inReplay s w) 399 s1) else s1)

/-- The byte address lies in a live asynchronous register (R95, R303, R318, R366, and the ST registers of R316 and R315,
PWR_STAT). -/
def liveAsync (s : State) (n : Nat) : Bool :=
  let a := n - n % 4
  ((List.range 12).any fun f => hasPort s f && (a == FBK_P_LPOS f || a == FBK_P_LWRAP f)) ||
  ((List.range 4).any fun e => a == FBK_EM_ST e || a == FBK_CMP_ST e) ||
  a == FBK_PLSST || a == SAF_STAT || a == PWR_STAT

/-- The snapshot registers of every block as they would be sampled now (R95, R398). -/
def sampleAll (s : State) : State :=
  forAll (List.range 4) qspSnapshot (forAll (those 6 (hasCan s)) canSnapshot (spnSnapshot s.now s))

/-- The unit's own fresh samples of the snapshot registers: those whose value has changed since the boundary (R44, step
5). -/
def resample (w : Who) (s : State) : State :=
  let t := sampleAll s
  let keys := (t.regs ++ s.regs).map (·.1)
  updUnit w.key (fun u => { u with
    snap := keys.foldl (fun m a => if reg t a = reg s a then m else SMap.insert m a (reg t a)) [] }) s

/-- The pair goes back to its checkpoint, samples the snapshot registers afresh and starts again (R44). DESIGN CHOICE (log
64): while no tick runs the checkpoint is that of its start, and no memory is restored, since nothing is journaled. -/
def replay (w : Who) (s : State) : State :=
  let s0 := if (unit s w.key).first then firstRunEnds w.unit.val w.key s.now s else s
  let s1 := raiseTkc 386 (incFld (TKC_RPCNT_REPLAY w.unit.val) s0)
  let s2 := resample w (backToCheckpoint w s1)
  spend (updUnit w.key (fun u => { u with
    replays := u.replays + 1, first := false, phase := .work, startAt := s.now + freeUpTo s2 (1200 * ns) }) s2)

/-- PAIR_REPLAY: a mismatch, or a parity error as a correctable transient, in a pair; `a` is the address of the last
load whose two values differed (R44, R90, R96, R97). -/
def execPairReplay (u : Fin 7) (k : Mismatch) (a : Word) (t : Time) (s : State) : Out :=
  let w : Who := ⟨u, false⟩
  let s1 := upto t s
  let x := unit s u.val
  let run := canFault s w && pairState s u.val != 2 && (decide (x.phase = .work) || decide (x.phase = .drain))
  let as := liveAsync s a.toNat
  .next (
    if !run then s1
    else
      let s2 := match k with
        | .parity => raise 396 (setFld (PRC_MM_KIND u.val) 3 s1)
        | k =>
          let c := if k = .bus then 1 else 2
          raise 395 (updUnit u.val (fun y => { y with mm := some (a, as), mmTick := true })
            (setReg (PRC_MMADDR u.val) a (setFld (PRC_MM_KIND u.val) c (setFld (PRC_MM_ASYNC u.val) (b2n as)
              (incFld (PRC_MM_COUNT u.val) s1)))))
      let s3 := raiseIf (0 < x.replays) 399 s2
      let diverge := decide (k ≠ .parity) && as && decide (x.mm = some (a, true))
      if diverge then permFault w .asyncDiverge (raise 398 s3)
      else if 2 ≤ x.replays then permFault w .replayFailure s3 else replay w s3)

/-- SINGLE_BIT_ECC_ERROR: a corrected error is counted and written back (R90, R177, R185). -/
def execSingleBitEccError (k : EccSite) (s : State) : Out :=
  .next (match k with
  | .pair u => if hasUnit s u.val then incFld (PRC_ECC_CORR u.val) s else s
  | .engine => raise 360 (incFld ENG_ECC_CORR s))

/-! ### The mirror (R101 to R104) -/

/-- Key of a byte of a pair's data TCM. -/
def dataTcm (p off : Nat) : Nat := p * 0x100000 + 0x80000 + off

/-- The mirror record of a primary's store of `bs` at byte offset `off` of its data TCM: one for each of its
enabled duties whose region the store lies in. -/
def mirrorRecs (s : State) (p off : Nat) (bs : List Byte) : List MRec :=
  (dutiesOf s p).filterMap fun d =>
    let base := 8 * fld s (PRC_DUTY_REG_RBASE d)
    let n := 4 * fld s (PRC_DUTY_SIZE_SIZE d)
    let sb := fld s (PRC_DUTY_CFG_STBY d)
    if base ≤ off ∧ off < base + n ∧ sb < 6 then
      some ⟨d, dataTcm sb (8 * fld s (PRC_DUTY_REG_SBASE d) + (off - base)), bs⟩
    else none

/-- The offset of the data TCM lies in a mirror that the pair holds as standby (R103). -/
def inMirror (s : State) (p off : Nat) : Bool :=
  (standbyOf s p).any fun d =>
    let base := 8 * fld s (PRC_DUTY_REG_SBASE d)
    decide (base ≤ off) && decide (off < base + 4 * fld s (PRC_DUTY_SIZE_SIZE d))

/-- Write the committed mirror records that meet a test into their mirrors, in order. -/
def mirrorFlush (p : MRec → Bool) (s : State) : State :=
  let rs := s.prc.mirq
  updPrc (fun r => { r with mirq := rs.filter fun m => !(p m) })
    (forAll (rs.filter p) (fun m => wrTcms m.key m.val) s)

/-- MIRROR_TRANSFER_DONE: the records of a duty are in the standby's mirror (R102). -/
def execMirrorTransferDone (d : Fin 16) (t : Time) (s : State) : Out :=
  .next (mirrorFlush (fun m => m.duty == d.val) (upto t s))

/-- Copy bytes between TCM keys. -/
def copyTcm (src dst n : Nat) (s : State) : State := wrTcms dst (rdTcms s src n) s

/-- A permanent-class fault has stopped the pair or a half of it (R109). -/
def broken (s : State) (p : Nat) : Bool := pairState s p == 4 || (unit s p).failed || (unit s (p + 8)).failed

/-- TRU or a block test holds the pair: a switch or a roll-back of its partition, or its self-test, is in progress (R454,
R463). -/
def inWork (s : State) (p : Nat) : Bool :=
  (s.tru.run.any fun r => (r.op == 7 || r.op == 12) && r.part == p + 1) ||
  (s.tst.bt.any fun b => b.cls == 2 && b.inst == p)

/-- MIRROR_SEED for one duty: 1,024 words at a boundary (R104). A standby with a permanent-class fault is not seeded
(R109); DESIGN CHOICE (log 64): one that stands HELD after ASYNC_DIVERGE, or once repaired, is seeded of itself. -/
def seedDuty (d : Nat) (s : State) : State :=
  let p := fld s (PRC_DUTY_CFG_PRIM d)
  let b := fld s (PRC_DUTY_CFG_STBY d)
  let size := fld s (PRC_DUTY_SIZE_SIZE d)
  let n := SMap.get natD s.prc.seed d
  if !(flag s (PRC_DUTY_CFG_EN d)) || flag s (PRC_DUTY_CFG_SREADY d) || decide (6 ≤ p) || decide (6 ≤ b) || broken s b ||
      inWork s b then s
  else
    let k := min 1024 (size - n)
    let s1 := copyTcm (dataTcm p (8 * fld s (PRC_DUTY_REG_RBASE d) + 4 * n))
      (dataTcm b (8 * fld s (PRC_DUTY_REG_SBASE d) + 4 * n)) (4 * k) s
    let s2 := updPrc (fun r => { r with seed := SMap.set natD r.seed d (n + k) }) s1
    if size ≤ n + k then raise 409 (setFld (PRC_DUTY_CFG_SREADY d) 1 s2) else s2

/-! ### Duty configuration (R99, R104, R105, R115) -/

/-- The region or the mirror of a duty does not fit (R133). -/
def regionBad (regW : Word) (size : Nat) : Bool :=
  decide (32768 < size) || decide (0x80000 < 8 * bits regW.toNat 0 16 + 4 * size) ||
  decide (0x80000 < 8 * bits regW.toNat 16 16 + 4 * size)

/-- SREADY and the seeding start anew. -/
def reseed (d : Nat) (s : State) : State :=
  updPrc (fun r => { r with seed := SMap.set natD r.seed d 0 }) (setFld (PRC_DUTY_CFG_SREADY d) 0 s)

/-- A pair number as PRIM and STBY keep it: 6 is ignored and reads 7. -/
def pairField (v : Nat) : Nat := if v = 6 then 7 else v

/-- The code with which PRC_DUTYd_CFG refuses the word `v`, 0 if it takes it: the quota rule of R105, or a safety-relevant
duty for a split pair (R115). -/
def dutyRefusal (d : Nat) (v : Word) (s : State) : Nat :=
  let p := pairField ((PRC_DUTY_CFG_PRIM d).of v)
  let b := pairField ((PRC_DUTY_CFG_STBY d).of v)
  let split := fun (n : Nat) => n < 6 && pairState s n == 2
  if (PRC_DUTY_CFG_EN d).of v ≠ 1 ∨ regionBad (reg s (PRC_DUTY_REG d)) (fld s (PRC_DUTY_SIZE_SIZE d)) then 0
  else if p < 6 ∧ fld s (TKC_QUOTA_QUOTA p) < dutyQuota s p d + (PRC_DUTY_CFG_QUOTA d).of v then 6
  else if (PRC_DUTY_CFG_SAFE d).of v = 1 ∧ (split p || split b) then 4
  else 0

/-- A store that gives PRC_DUTYd_CFG the word `v`. -/
def dutyCfgStore (d : Nat) (v : Word) (s : State) : State :=
  let p := pairField ((PRC_DUTY_CFG_PRIM d).of v)
  let b := pairField ((PRC_DUTY_CFG_STBY d).of v)
  let v1 := (PRC_DUTY_CFG_STBY d).put b ((PRC_DUTY_CFG_PRIM d).put p v)
  let en := (PRC_DUTY_CFG_EN d).of v == 1
  let c := dutyRefusal d v s
  if en && regionBad (reg s (PRC_DUTY_REG d)) (fld s (PRC_DUTY_SIZE_SIZE d)) then
    setFld PRC_HOSTAT_CODE 6 (reseed d (setReg (PRC_DUTY_CFG d) ((PRC_DUTY_CFG_EN d).put 0 v1) s))
  else if c ≠ 0 then setFld PRC_HOSTAT_CODE c s
  else
    let ch := p != fld s (PRC_DUTY_CFG_PRIM d) || b != fld s (PRC_DUTY_CFG_STBY d) || en != flag s (PRC_DUTY_CFG_EN d)
    let s1 := setReg (PRC_DUTY_CFG d) v1 s
    let s2 := if en && !(flag s (PRC_DUTY_CFG_EN d)) then
      updPrc (fun r => { r with dropped := r.dropped &&& ~~~(1#16 <<< d) }) s1 else s1
    if ch then reseed d s2 else s2

/-- A store to PRC_DUTYd_REG or PRC_DUTYd_SIZE at `a`. -/
def dutyRegionStore (d a : Nat) (v : Word) (s : State) : State :=
  let s1 := reseed d (setReg a v s)
  if regionBad (reg s1 (PRC_DUTY_REG d)) (fld s1 (PRC_DUTY_SIZE_SIZE d)) then
    setFld PRC_HOSTAT_CODE 6 (setFld (PRC_DUTY_CFG_EN d) 0 s1)
  else s1

/-! ### Take-over (R106 to R108) -/

/-- Move a duty's quota (R105). -/
def moveQuota (d p q : Nat) (s : State) : State :=
  let n := min (fld s (PRC_DUTY_CFG_QUOTA d)) (fld s (TKC_QUOTA_QUOTA p))
  let s1 := setFld (TKC_QUOTA_QUOTA p) (fld s (TKC_QUOTA_QUOTA p) - n) s
  showPool (setFld (TKC_QUOTA_QUOTA q) (fld s1 (TKC_QUOTA_QUOTA q) + n) s1)

/-- Swap RBASE and SBASE. -/
def swapBases (d : Nat) (s : State) : State :=
  let r := fld s (PRC_DUTY_REG_RBASE d)
  let b := fld s (PRC_DUTY_REG_SBASE d)
  setFld (PRC_DUTY_REG_RBASE d) b (setFld (PRC_DUTY_REG_SBASE d) r s)

/-- PRC_DUTY_LOST for one duty (R108). -/
def dropDuty (d : Nat) (s : State) : State :=
  let s1 := reseed d (setFld (PRC_DUTY_CFG_EN d) 0 s)
  let s2 := updPrc (fun r => { r with dropped := r.dropped ||| (1#16 <<< d) }) s1
  raise 411 (revokeThose (fun x k => flag x (PRC_LSLOT_DTAG k) && fld x (PRC_LSLOT_DUTY k) == d) s2)

/-- The standby of a duty becomes primary, or the duty is dropped (R107, R108). PRC_TAKEOVER goes to the new primary's
controller, and onto the spine where its route has SPINE = 1 (R131). -/
def takeOver (p d : Nat) (s : State) : State :=
  let b := fld s (PRC_DUTY_CFG_STBY d)
  if 6 ≤ b ∨ pairState s b ≠ 1 ∨ !(flag s (PRC_DUTY_CFG_SREADY d)) then dropDuty d s
  else
    let s1 := setFld (PRC_DUTY_CFG_PRIM d) b (setFld (PRC_DUTY_CFG_STBY d) 7 (swapBases d s))
    let s2 := moveQuota d p b (reseed d s1)
    let s3 := if lflag s (EVR_ROUTE_SPINE 401) then queueRemote 401 s2 else s2
    latchEvent (pendReg b 401) (401 % 32) s3

/-- Every duty of a failed pair is taken over; `all` says whether its tagged leases are revoked too (R107, R123). -/
def takeOverPair (all : Bool) (p : Nat) (s : State) : State :=
  if (dutiesOf s p).isEmpty then s
  else
    let s1 := revokeThose (fun x k => fld x (PRC_LSLOT_HOLDER k) == p && (all || !(flag x (PRC_LSLOT_DTAG k)))) s
    forAll (dutiesOf s p) (takeOver p) s1

/-- The consecutive hold-lasts of a unit at a boundary, and the cause of two in a row (R94, R106). -/
def countHolds (w : Who) (s : State) : State :=
  let u := unit s w.key
  let run := if u.held then u.holdRun + 1 else 0
  let ov := if u.held && u.ovf then u.ovfRun + 1 else 0
  let s1 := updUnit w.key (fun x => { x with holdRun := run, ovfRun := ov }) s
  if u.held ∧ 2 ≤ run then
    let c := if 2 ≤ ov then 6 else 7
    let s2 := setFld (if w.halfB then PRC_FAULT_CAUSEB w.unit.val else PRC_FAULT_CAUSE w.unit.val) c s1
    if w.unit.val < 6 then updPrc (fun r => { r with lost := r.lost ||| (1#6 <<< w.unit.val) }) s2 else s2
  else s1

/-- PRC_TAKEOVER and PRC_DUTY_LOST of the boundary (R106). -/
def takeOvers (s : State) : State :=
  let l := s.prc.lost
  forAll (those 6 fun p => l.getLsbD p) (takeOverPair true) (updPrc (fun r => { r with lost := 0 }) s)

/-! ### Hand-over, split and rejoin (R110 to R116) -/

/-- The code of the conditions of R112 for a hand-over of duty `d` to pair `p`, 0 if all hold; `pend` says that
another request is pending or that a reserved bit is set. -/
def hoCode (s : State) (d p : Nat) (pend : Bool) : Nat :=
  let q := fld s (PRC_DUTY_CFG_PRIM d)
  let n := fld s (PRC_DUTY_CFG_QUOTA d)
  if !(flag s (PRC_DUTY_CFG_EN d)) then 1
  else if p ≠ fld s (PRC_DUTY_CFG_STBY d) then 2
  else if !(flag s (PRC_DUTY_CFG_SREADY d)) then 3
  else if 6 ≤ p ∨ pairState s p ≠ 1 then 4
  else if pend then 5
  else if (q < 6 ∧ fld s (TKC_QUOTA_QUOTA q) < n + dutyQuota s q d) ∨ fld s (TKC_QUOTA_QUOTA p) < dutyQuota s p d then 6
  else 0

/-- The pair is primary or standby of an enabled duty, or it or a half of it holds a lease. -/
def pairBusy (s : State) (p : Nat) : Bool :=
  !(dutiesOf s p).isEmpty || !(standbyOf s p).isEmpty || holdsAny s p

/-- The code for a split (`kind` 1) or rejoin (2) of pair `p`. -/
def splitCode (s : State) (kind p : Nat) (pend : Bool) : Nat :=
  if 6 ≤ p ∨ pairState s p ≠ (if kind = 2 then 2 else 1) then 4
  else if pend then 5
  else if pairBusy s p then 7
  else 0

/-- A hand-over, split or rejoin request is refused. -/
def hoReject (c : Nat) (s : State) : State := raise 403 (setFld PRC_HOSTAT_CODE c s)

/-- A request is accepted, for the boundary after the next, or for boundary 0 while no tick runs (R110). -/
def hoAccept (kind d p : Nat) (s : State) : State :=
  setFld PRC_HOSTAT_CODE 0 (updPrc (fun r => { r with
    ho := some ⟨kind, d, p, if ticking s then s.tick.count + 1 else 0⟩ }) s)

/-- An applied PRC_HOREQ. -/
def hoRequest (m : Mask) (d : Word) (s : State) : State :=
  let v := clWord s PRC_HOREQ m d
  let s1 := putCl PRC_HOREQ v s
  if !(m.getLsbD 3) || PRC_HOREQ_GO.of v = 0 then s1
  else
    let bad := bits v.toNat 12 19 != 0 || bits v.toNat 3 5 != 0
    let c := hoCode s1 (PRC_HOREQ_DUTY.of v) (PRC_HOREQ_PAIR.of v) (s.prc.ho.isSome || bad)
    if c = 0 then hoAccept 0 (PRC_HOREQ_DUTY.of v) (PRC_HOREQ_PAIR.of v) s1 else hoReject c s1

/-- An applied PRC_SPLITREQ. -/
def splitRequest (m : Mask) (d : Word) (s : State) : State :=
  let v := clWord s PRC_SPLITREQ m d
  let s1 := putCl PRC_SPLITREQ v s
  if !(m.getLsbD 3) || PRC_SPLITREQ_GO.of v = 0 then s1
  else
    let k := PRC_SPLITREQ_DUTY.of v
    let bad := bits v.toNat 12 19 != 0 || bits v.toNat 3 5 != 0 || decide (1 < k)
    let c := splitCode s1 (k + 1) (PRC_SPLITREQ_PAIR.of v) (s.prc.ho.isSome || bad)
    if c = 0 then hoAccept (k + 1) 0 (PRC_SPLITREQ_PAIR.of v) s1 else hoReject c s1

def execPrcHoreq (m : Mask) (d : Word) (s : State) : Out := .next (hoRequest m d s)

/-- The pending request of a kind whose boundary has come. DESIGN CHOICE (log 58): a request among the entries applied at
that very boundary still finds it pending (code 5), since it takes effect once they have been applied. -/
def hoDue (s : State) (kind : Nat) : Option HoPend :=
  match s.prc.ho with
  | some h => if h.kind = kind ∧ ticking s ∧ h.due ≤ s.tick.count then some h else none
  | none => none

def clearHo (s : State) : State := updPrc (fun r => { r with ho := none }) s

/-- The duty moves in the order of R111; every lease tagged with it is held by the new, lockstep-running primary. -/
def handOver (d p : Nat) (s : State) : State :=
  let q := fld s (PRC_DUTY_CFG_PRIM d)
  let s0 := mirrorFlush (fun m => m.duty == d) s
  let s1 := setFld (PRC_DUTY_CFG_PRIM d) p (setFld (PRC_DUTY_CFG_STBY d) q s0)
  let s2 := if q < 6 then moveQuota d q p s1 else s1
  let s3 := forAll (leaseSlots s2 fun k => flag s2 (PRC_LSLOT_DTAG k) && fld s2 (PRC_LSLOT_DUTY k) == d)
    (fun k x => setFld (PRC_LSLOT_HALF k) 0 (setFld (PRC_LSLOT_HOLDER k) p x)) s2
  raise 402 (setFld (PRC_DUTY_CFG_SREADY d) 1 (swapBases d s3))

/-- HANDOVER_TAKE_EFFECT: the pending hand-over is checked again and carried out (R110, R111). -/
def execHandoverTakeEffect (s : State) : Out :=
  .next (match hoDue s 0 with
  | some h =>
    let c := hoCode s h.duty h.pair false
    if c = 0 then handOver h.duty h.pair (clearHo s) else hoReject c (clearHo s)
  | none => s)

/-- PRC_SPLIT: the pending split of pair `n` is checked again and carried out (R113, R114). -/
def execPrcSplit (n : Fin 6) (s : State) : Out :=
  .next (match hoDue s 1 with
  | some h =>
    if h.pair ≠ n.val then s
    else
      let c := splitCode s 1 n.val false
      if c = 0 then
        raise 402 (startHalves n.val (reg s (PRC_VEC n.val)) (clearHo s))
      else hoReject c (clearHo s)
  | none => s)

/-- PRC_REJOIN: the pending rejoin is carried out: both halves stop with their register files reset, and the TCMs keep
their contents; the pair starts in lockstep one boundary later (R116). DESIGN CHOICE (log 64): a half that is FAILED
rejoins too, and its mark goes. -/
def execPrcRejoin (n : Fin 6) (s : State) : Out :=
  .next (match hoDue s 2 with
  | some h =>
    if h.pair ≠ n.val then s
    else
      let c := splitCode s 2 n.val false
      if c = 0 then
        let s1 := startUnit (n.val + 8) 0#32 (startUnit n.val 0#32 (clearHo s))
        let s2 := updUnit n.val (fun u => { u with phase := .asleep })
          (updUnit (n.val + 8) (fun u => { u with phase := .asleep }) s1)
        raise 402 (setFld (PRC_STAT_STATE n.val) 3 s2)
      else hoReject c (clearHo s)
  | none => s)

/-- At the boundary after a rejoin the pair starts in lockstep at PRC_VECn (R116). -/
def rejoinStarts (s : State) : State :=
  forAll (those 6 fun n => pairState s n == 3) (fun n x =>
    setFld (PRC_STAT_STATE n) 1 (startUnit n (reg x (PRC_VEC n)) x)) s

/-! ### Event controllers (R128 to R130, R135) -/

/-- Mark pending bits of a word observed. -/
def markObserved (a : Nat) (m : Word) (s : State) : State :=
  { s with observed := SMap.set wordD s.observed a (SMap.get wordD s.observed a ||| m) }

/-- A unit may access the registers of controller `c`: its own, or any for SV (R135). -/
def mayEvr (w : Who) (c : Nat) : Bool := isSv w || w.unit.val == c

/-- The value that a read of EVR_TOPc returns. -/
def topWord (s : State) (c : Nat) (b : Bool) : Word :=
  match topEvent s c b with
  | some e => BitVec.ofNat 32 (2 ^ 31 + lfld s (EVR_ROUTE_PRIO e) * 2 ^ 16 + e)
  | none => 0#32

/-- A unit's read of EVR_TOPc, in the B view if `b`: the event that it returns is marked observed. -/
def topRead (w : Who) (c : Nat) (b : Bool) (s : State) : State :=
  let s1 := updUnit w.key (fun u => { u with rdata := topWord s c b }) s
  match topEvent s c b with
  | some e => markObserved (pendReg c e) (1#32 <<< (e % 32)) s1
  | none => s1

/-- A unit's read of word `i` of EVR_PENDc in a view: the bits that it returns set are marked observed. -/
def pendRead (w : Who) (c : Nat) (b : Bool) (i : Nat) (s : State) : State :=
  markObserved (EVR_PEND c i) (pendView s c b i) (updUnit w.key (fun u => { u with rdata := pendView s c b i }) s)

/-- The controller, the view and the word that the address of a pending word names. -/
def pendPlace (a : Nat) : Nat × Bool × Nat :=
  let o := a % 0x10000
  ((o % 0x800) / 0x100, decide (0x1800 ≤ o), (o % 0x100 - 0x40) / 4)

/-- EVR_PEND_CLEAR: a W1C value clears the named bits of the view that are still marked observed (R130, R132). -/
def pendClear (a : Nat) (m : Word) (s : State) : State :=
  let (c, b, i) := pendPlace a
  let p := EVR_PEND c i
  let o := SMap.get wordD s.observed p &&& m &&& pendView s c b i
  { setReg p (reg s p &&& ~~~o) s with observed := SMap.set wordD s.observed p (SMap.get wordD s.observed p &&& ~~~o) }

end Sys2Proof.Machine
end

