-- ==== Sys2Proof/Machine/EngineCore.lean ====
section
/-! DEFINITION. The engine's sequencer: the round table, passes and their attempts, pending stores, aborts, re-runs,
permanent faults and limp mode (R45, R50, R123 to R126, R137 to R149, R173 to R177). -/

namespace Sys2Proof.Machine
open Sys2Proof

/-- Replace the running attempt. -/
def putRun (p : PassSt) (s : State) : State := updEng (fun e => { e with run := some p }) s

/-! ### The round table (R137 to R140) -/

/-- Every written bit of scratch clears (R147). -/
def clearWritten (s : State) : State :=
  updEng (fun e => { e with scratch := e.scratch.filterMap fun (k, c) =>
    let c' := { c with written := false }
    if c' = {} then none else some (k, c') }) s

/-- An attempt of pass `p` starts with its prologue. -/
def startAttempt (p : Nat) (s : State) : State :=
  setFld ENG_STAT_PASS p (putRun { pass := p, pc := lfld s (ENG_RT_A_ENTRY p) } (clearWritten s))

/-- ENG_RTCYC shows the cycles of the tick's round table. -/
def showCyc (n : Nat) (s : State) : State :=
  maxFld ENG_RTCYC_MAX n (setFld ENG_RTCYC_LAST (satAdd n 0 65535) s)

/-- The engine's first run of the tick ends after the cycles that its attempts have used, in timebase ticks. -/
def engineRunEnds (s : State) : State :=
  if s.eng.first then firstRunEnds 7 7 (s.tick.last + ceilDiv (2 * s.eng.rtCyc) 5 * tb) s else s

/-- The round table of the tick completes. -/
def tableDone (s : State) : State :=
  let s1 := showCyc s.eng.rtCyc (engineRunEnds s)
  let s2 := setFldBit TKC_DONE_DONE 7 true (setFld ENG_STAT_PASS 0x7F s1)
  raise 361 (updEng (fun e => { e with run := none, done := true }) s2)

/-- The next enabled entry from `k` on starts, or the table is complete. -/
def nextPass (k : Nat) (s : State) : State :=
  match (those 64 fun p => decide (k ≤ p) && lflag s (ENG_RT_A_EN p)).head? with
  | some p =>
    startAttempt p (updEng (fun e => { e with next := p + 1, fails := 0, ran := e.ran ||| (1#64 <<< p) }) s)
  | none => tableDone s

/-- The round table of a tick starts at its boundary, while the engine runs. ENG_RTCYC.LAST is 0 after a tick in which
no pass ran. DESIGN CHOICE (log 58): with ENG_CTRL.RUN = 0 the engine counts as finished and bit 7 of TKC_DONE stays 0. -/
def startTable (s : State) : State :=
  let s0 := if s.eng.ran = 0 then setFld ENG_RTCYC_LAST 0 s else s
  let s1 := updEng (fun e => { e with
    run := none, next := 0, fails := 0, rtCyc := 0, ran := 0, aborted := 0, done := false, first := true
    warned := false, caps := [] }) (clearWritten s0)
  if fld s ENG_STAT_STATE = 1 then nextPass 0 (setFldBit TKC_DONE_DONE 7 false s1)
  else updEng (fun e => { e with done := true }) s1

/-- ABORTED of a pass that was not aborted in the tick clears (R50, R185). -/
def clearAborted (s : State) : State :=
  forAll (those 64 fun p => flag s (ENG_PSTAT_ABORTED p) && !(s.eng.aborted.getLsbD p)) (fun p => setFld (ENG_PSTAT_ABORTED p) 0) s

/-! ### Ends of an attempt (R45, R140, R175, R176) -/

/-- The attempt's pending tags clear and the scratch words that it wrote are poisoned (R147, R175). -/
def dropAttempt (p : PassSt) (s : State) : State :=
  let s1 := mapCells (fun _ c => match c.eng with
    | some (_, q) => if q = p.pass then { c with eng := none } else c
    | none => c) s
  updEng (fun e => { e with scratch := e.scratch.map fun (k, c) =>
    (k, if c.written then { c with poison := true, written := false } else c) }) s1

/-- ENG_ABORT and ENG_ABORTPC record an abort or re-run. -/
def recordAbort (p : PassSt) (cause lane code : Nat) (s : State) : State :=
  setFld ENG_ABORTPC_PC p.pc (setFld ENG_ABORT_PASS p.pass (setFld ENG_ABORT_LANE lane
    (setFld ENG_ABORT_CAUSE cause (setFld ENG_ABORT_CODE code s))))

/-- ENG_PSTATp of an attempt that has ended. -/
def passStat (p : PassSt) (aborted : Bool) (cyc : Nat) (s : State) : State :=
  setFld (ENG_PSTAT_ABORTED p.pass) (b2n aborted) (setFld (ENG_PSTAT_FLAGS p.pass) p.flags
    (setFld (ENG_PSTAT_CYC p.pass) (satAdd cyc 0 65535) s))

/-- The event of an abort's cause. -/
def abortEvent : Nat → Nat
  | 1 => 352
  | 2 => 353
  | 3 => 354
  | 4 => 355
  | _ => 640

/-- The pass aborts at cycle `cyc`, within 16 cycles, and the table goes on (R175). -/
def abortPass (cause lane code cyc : Nat) (p : PassSt) (s : State) : State :=
  let n := cyc + Config.freeTime s.free % 17
  let s1 := recordAbort p cause lane code (passStat p true n (dropAttempt p (spend s)))
  let s2 := updEng (fun e => { e with rtCyc := e.rtCyc + n, aborted := e.aborted ||| (1#64 <<< p.pass) }) s1
  nextPass s.eng.next (raise (abortEvent cause) s2)

/-- The count at which an attempt whose END issued at cycle `c` is complete: END retired and every store done, at most
8 cycles later (R140). -/
def endCount (s : State) (p : PassSt) (c : Nat) : Nat :=
  let lo := (p.flight.map fun f => f.at_ + 1).foldl max (c + 1)
  lo + Config.freeTime s.free % (c + 10 - lo)

/-- BUDGET of a pass. -/
def passBudget (s : State) (p : Nat) : Nat := lfld s (ENG_RT_B_BUDGET p)

/-- Stage the records of a completed pass, at most 256 in a tick (R179). -/
def stageCaps (cs : List Cap) (s : State) : State :=
  let room := 256 - s.eng.caps.length
  let s1 := updEng (fun e => { e with caps := e.caps ++ cs.take room }) s
  forAll (cs.drop room) (fun _ x => raise 358 (incFld ENG_CAPDROP_DROP x)) s1

/-- What a completed pass of auxsl has done beside its instruction words: the law of each of its lanes (R324, R327). -/
def lawDone (law : PassLaw) (p : PassSt) (s : State) : State :=
  match law with
  | .own => s
  | .auxsl => forAll (those (passCount s p.pass) fun _ => true)
      (fun l => auxTick p.pass (lfld s (ENG_RT_A_FIRST p.pass) + l)) s

/-- PASS_COMPLETE (R140): the running attempt, whose END has retired, completes within its budget. -/
def execPassComplete (s : State) (law : PassLaw := .own) : Out :=
  .next (match s.eng.run with
  | some p =>
    match p.ended with
    | some c =>
      let n := endCount s p c
      if passBudget s p.pass ≤ n then s
      else
        let s1 := passStat p false n (lawDone law p (spend s))
        let s2 := forAll (those 16 fun k => p.evts.getLsbD k) (fun k => raise (366 + k)) s1
        let s3 := stageCaps p.caps (flagEvent p s2)
        nextPass s.eng.next (updEng (fun e => { e with rtCyc := e.rtCyc + n }) s3)
    | none => s
  | none => s)

/-- An instruction that follows has no source that stalls it: the sources of the word at the pc are those of the
instruction command; the next issue is not before the attempt's next cycle. -/
def overBudget (s : State) (p : PassSt) : Bool :=
  match p.ended with
  | some c => decide (passBudget s p.pass ≤ endCount s p c)
  | none => decide (passBudget s p.pass ≤ p.cyc)

/-- PASS_BUDGET_ABORT (R141): the attempt's cycle count reaches BUDGET. -/
def execPassBudgetAbort (s : State) : Out :=
  .next (match s.eng.run with
  | some p => if overBudget s p then abortPass 4 0 0 (passBudget s p.pass) p s else s
  | none => s)

/-! ### Hold-last of the engine (R50) -/

/-- Every pending tag of the engine clears, and what auxsl would have kept is dropped. -/
def dropEngine (s : State) : State := auxDrop (mapCells (fun _ c => { c with eng := none }) s)

/-- The engine has not finished at t_CW. -/
def holdLastEngine (s : State) : State :=
  if s.eng.done then s
  else
    let past := s.eng.first && s.eng.run.isSome
    let s0 := if past then firstRunEnds 7 7 s.now s else s
    let s1 := match s.eng.run with
      | some p =>
        let s1 := recordAbort p 6 0 0 (passStat p true p.cyc (dropAttempt p (showCyc (s.eng.rtCyc + p.cyc) s0)))
        updEng (fun e => { e with aborted := e.aborted ||| (1#64 <<< p.pass) }) s1
      | none => showCyc s.eng.rtCyc s0
    let s2 := updEng (fun e => { e with run := none, done := true, caps := [] }) (setFld ENG_STAT_PASS 0x7F (dropEngine s1))
    let s3 := updTick (fun k => { k with engHeld := true }) (raiseTkc 385 (incFld (TKC_RPCNT_HOLD 7) s2))
    if past then raiseTkc 388 s3 else s3

/-! ### Permanent faults and limp mode (R123 to R125, R176, R177) -/

/-- UMEM of ENG_ECC. -/
def umemCode : EngMem → Nat
  | .checker => 0
  | .program => 1
  | .state => 2
  | .table => 3
  | .scratch => 4
  | .sampleBank => 5
  | .resultBank => 6

/-- Limp mode is armed: EN = 1, which PA = PB and a pair number of 6 or 7 make ineffective (R123, R134). -/
def limpArmed (s : State) : Bool :=
  flag s PRC_LIMP_EN && decide (fld s PRC_LIMP_PA < 6) && decide (fld s PRC_LIMP_PB < 6) &&
  fld s PRC_LIMP_PA != fld s PRC_LIMP_PB

/-- A permanent fault of the engine: it stops and is FAILED. With limp mode armed it commits hold-last for the tick, had
its last pass ended or not (R123). The cycles of the attempt that it cuts count in the tick's (R184). -/
def engFault (k : EngMem) (s : State) : State :=
  let s1 := setFld ENG_STAT_PASS 0x7F (setFld ENG_STAT_STATE 2 s)
  let s2 := if k = .checker then s1 else setFld ENG_ECC_UMEM (umemCode k) s1
  let again := limpArmed s && ticking s && !s.tick.engHeld
  let cut := match s.eng.run with | some p => p.cyc | none => 0
  let s3 := updEng (fun e => { e with run := none, rtCyc := e.rtCyc + cut, done := e.done && !again }) s2
  let s4 := if again && s.tick.cw then holdLastEngine s3 else s3
  raise 359 (updPrc (fun r => { r with engLost := true, limpEn := limpArmed s, twinLost := r.twinLost || k == .state }) s4)

/-- A permanent fault in any state (R177). A FAILED engine has stopped already: the fault is recorded and raised, and one
in the twin-cell memory tells against limp mode (R125). In limp mode it ends the emulation: the pairs are no longer
lockstep-running, and every group goes to its safe state at the boundary. -/
def permEngine (k : EngMem) (s : State) : State :=
  if fld s ENG_STAT_STATE = 2 then
    raise 359 (updPrc (fun r => { r with twinLost := r.twinLost || k == .state })
      (if k = .checker then s else setFld ENG_ECC_UMEM (umemCode k) s))
  else engFault k (updPrc (fun r => { r with limp := false }) s)

/-- ENG_PERM_FAULT (R177). -/
def execEngPermFault (k : EngMem) (t : Time) (s : State) : Out :=
  .next (if s.pwr.inReset then upto t s else permEngine k (upto t s))

/-- ENGINE_RERUN (R45, R176): a mismatch or transient in the running attempt; the third failing attempt of the pass in
the tick is a permanent fault. The first run of the tick ends here (DESIGN CHOICE, log 58). -/
def execEngineRerun (lane : Fin 32) (s : State) : Out :=
  .next (match s.eng.run with
  | some p =>
    let n := p.cyc + Config.freeTime s.free % 17
    let s1 := recordAbort p 5 lane.val 0 (dropAttempt p (spend s))
    let s2 := engineRunEnds (updEng (fun e => { e with rtCyc := e.rtCyc + n, fails := e.fails + 1 }) s1)
    let s3 := updEng (fun e => { e with first := false, run := none }) s2
    if 3 ≤ s3.eng.fails then engFault .checker s3
    else startAttempt p.pass (raiseTkc 386 (incFld (TKC_RPCNT_REPLAY 7) s3))
  | none => s)

/-- Every group that meets a test goes to its safe state with CAUSE 10. -/
def limpHold (p : Nat → Bool) (s : State) : State := forAll (those 16 p) (enterHold 10 false s.now) s

/-- The emulator pair starts at PRC_LIMPVEC. -/
def startEmulator (n : Nat) (s : State) : State :=
  setFld (PRC_STAT_STATE n) 5 (startUnit n (reg s PRC_LIMPVEC) s)

/-- LIMP_ENTER and its alternative, at the boundary after a permanent fault of the engine, with EN as the engine's
report found it (R123, R125). The two pairs leave lockstep together: a duty of the one whose standby is the other is
dropped (R108; DESIGN CHOICE, log 64). -/
def engLostBoundary (s : State) : State :=
  if !s.prc.engLost then s
  else
    let s1 := updPrc (fun r => { r with engLost := false }) s
    let a := fld s PRC_LIMP_PA
    let b := fld s PRC_LIMP_PB
    if s.prc.limpEn && pairState s a == 1 && pairState s b == 1 && decide (a < 6) && decide (b < 6) && a != b &&
      !s.prc.twinLost then
      let s1a := setFld (PRC_STAT_STATE b) 5 (setFld (PRC_STAT_STATE a) 5 s1)
      let s2 := takeOverPair false b (takeOverPair false a s1a)
      let s3 := startEmulator b (startEmulator a s2)
      let s4 := setFld ENG_STAT_STATE 3 (updPrc (fun r => { r with limp := true }) s3)
      raise 407 (limpHold (fun g => !((fld s PRC_LIMP_GROUPS).testBit g)) s4)
    else limpHold (fun _ => true) s1

/-! ### Pending stores (R144 to R147, R173) -/

/-- The store of a kind to a word that stands last in the order of completion so far: a list of flights holds it before
the others to the word. -/
def standing (kind : StoreKind) (key : Nat) (p : PassSt) : Option Flight :=
  p.flight.find? fun f => f.kind == kind && f.word == key

/-- The store that stands was issued within 4 cycles: it may complete after a new one (R173). -/
def unordered (kind : StoreKind) (key : Nat) (p : PassSt) : Bool :=
  (standing kind key p).any fun f => decide (p.cyc ≤ f.at_ + 4)

/-- The attempt with a further store in flight, which stands last unless it completes before the one that stood. -/
def PassSt.fly (p : PassSt) (f : Flight) (before : Bool) : PassSt :=
  { p with flight := if before then p.flight ++ [f] else f :: p.flight }

/-- A twin-cell word: a state word at its number, a result-bank word at resKey. -/
def twinStore (kind : StoreKind) (key : Nat) (v : Word) (p : PassSt) (s : State) : PassSt × State :=
  let c := cell s key
  if !c.units.isEmpty then (p, raise 356 s)
  else
    let clash := match c.eng with | some (_, q) => q != p.pass | none => false
    let near := kind == .str && unordered .str key p
    let keep := near && freeBool s
    let s1 := if near then spend s else s
    let s2 := if keep then s1 else updCell key (fun x => { x with eng := some (v, p.pass) }) s1
    (p.fly ⟨kind, key, c.pendVal, v, false, p.cyc⟩ keep, raiseIf clash 356 s2)

/-- A store to scratch: of two within 4 cycles either may complete last. -/
def scratchStore (w : Nat) (v : Word) (p : PassSt) (s : State) : PassSt × State :=
  let c := scr s w
  let near := unordered .stc w p
  let keep := near && freeBool s
  let s1 := if near then spend s else s
  let s2 := updScr w (fun x => { val := if keep then x.val else v, written := true, poison := false }) s1
  (p.fly ⟨.stc, w, if c.poison then qNaN else c.val, v, c.poison, p.cyc⟩ keep, s2)

/-- What a load may return of a word that a store within the last 4 cycles names: what the word held before it, poisoned
or not, or its value. -/
def Flight.views (f : Flight) : List (Word × Bool) := [(f.old, f.bad), (f.new, false)]

/-- A load of a word that stores may still be on their way to: the value that stands, or an old or a new one of the stores
issued within the last 4 cycles (R173). -/
def hazard (kind : StoreKind) (key : Nat) (stands : Word) (p : PassSt) (s : State) : (Word × Bool) × State :=
  match (p.flight.filter fun f => f.kind == kind && f.word == key && decide (p.cyc ≤ f.at_ + 4)).flatMap Flight.views with
  | [] => ((stands, false), s)
  | vs => ((vs[(freeWord s).toNat % (vs.length + 1)]?).getD (stands, false), spend s)

/-! ### Issue -/

/-- Issue of an instruction in the running attempt (R155, R158, R160): the word at the pc must be this one; a fetch
past the extent, a reserved opcode and an illegal form abort the pass; an instruction that cannot issue before BUDGET
does not issue. `f` acts at the issue cycle and leaves the attempt where it goes on. -/
def issue (op : Nat) (e : EngWord) (fm : Form) (f : PassSt → State → State) (s : State) : State :=
  match s.eng.run with
  | none => s
  | some p =>
    let entry := lfld s (ENG_RT_A_ENTRY p.pass)
    if p.ended.isSome || s.engHalt then s
    else if passBudget s p.pass ≤ p.cyc then s
    else if p.pc < entry ∨ entry + lfld s (ENG_RT_B_LEN p.pass) ≤ p.pc then abortPass 2 0 0 p.cyc p s
    else if opReserved (progWord s p.pc >>> 58) then abortPass 1 0 0 p.cyc p s
    else if progWord s p.pc ≠ engWord op e then s
    else
      let c := issueCycle p (fm.reads e)
      if passBudget s p.pass ≤ c then putRun { p with cyc := c } s
      else if fm.legal e then f { p with cyc := c } s
      else abortPass 1 0 0 c p s

/-- A lane-wise instruction on registers alone: `n` results per lane. -/
def laneOp (op : Nat) (e : EngWord) (fm : Form) (n : Nat) (f : PassSt → Nat → List Word × Nat) (s : State) : State :=
  issue op e fm (fun p x => putRun (writeLanes e.vd.toNat n fm.lat (writing x p e) (f p) p).advance x) s

/-! ### Injection and capture (R178, R179) -/

def igD (_ : Nat) : IgSt := {}
def ig (s : State) (n : Nat) : IgSt := SMap.get igD s.eng.igs n
def updIg (n : Nat) (f : IgSt → IgSt) (s : State) : State :=
  updEng (fun e => { e with igs := SMap.set igD e.igs n (f (SMap.get igD e.igs n)) }) s

/-- ENG_IGn_POS shows k and RUNNING. -/
def showIg (n : Nat) (s : State) : State :=
  setFld (ENG_IG_POS_RUNNING n) (b2n (ig s n).running) (setFld (ENG_IG_POS_TICKS n) (ig s n).k s)

/-- An applied ENG_IGn_CFG: RUN = 1 starts the generator, 0 stops it. -/
def igApply (n : Nat) (m : Mask) (d : Word) (s : State) : State :=
  let v := clWord s (ENG_IG_CFG n) m d
  let s1 := putCl (ENG_IG_CFG n) v s
  if !(m.getLsbD 3) then s1
  else if (ENG_IG_CFG_RUN n).of v = 0 then showIg n (updIg n (fun g => { g with running := false }) s1)
  else if (ENG_IG_CFG_KIND n).of v = 3 then raise 352 s1
  else if fld s1 (ENG_IG_LEN_TICKS n) = 0 then s1
  else showIg n (updIg n (fun _ => { running := true, k := 0, lfsr := 1, advDue := false }) s1)

/-- IG_START: an applied entry with RUN = 1. -/
def execIgStart (n : Fin 4) (m : Mask) (d : Word) (s : State) : Out :=
  .next (if (ENG_IG_CFG_RUN n.val).of d = 1 then igApply n.val m d s else s)
/-- IG_STOP: an applied entry with RUN = 0. -/
def execIgStop (n : Fin 4) (m : Mask) (d : Word) (s : State) : Out :=
  .next (if (ENG_IG_CFG_RUN n.val).of d = 0 then igApply n.val m d s else s)

/-- HOLD, with 0 read as 1. -/
def igHold (s : State) (n : Nat) : Nat := max 1 (fld s (ENG_IG_CFG_HOLD n))

/-- The generator with the advance of its LFSR, x¹⁵ + x¹⁴ + 1, that is due. -/
def IgSt.advance (g : IgSt) : IgSt :=
  if g.advDue then { g with
    advDue := false
    lfsr := (g.lfsr <<< 1) ||| (if xor (g.lfsr.getLsbD 14) (g.lfsr.getLsbD 13) then 1#15 else 0#15) }
  else g

/-- IG_PRBS_ADVANCE (R178): every HOLD ticks the LFSR advances. -/
def execIgPrbsAdvance (n : Fin 4) (s : State) : Out :=
  .next (if (ig s n.val).running && (ig s n.val).advDue then updIg n.val IgSt.advance s else s)

/-- ENG_IG_DONE (R178): at k = LEN the generator stops. -/
def execEngIgDone (n : Fin 4) (s : State) : Out :=
  let g := ig s n.val
  .next (if g.running && decide (fld s (ENG_IG_LEN_TICKS n.val) ≤ g.k) then
    raise (362 + n.val) (showIg n.val (updIg n.val (fun x => { x with running := false }) s))
  else s)

/-- The generators at a boundary: k counts the tick, an advance that was due is made, and a PRBS may be due to advance. -/
def igBoundary (s : State) : State :=
  forAll (those 4 fun n => (ig s n).running) (fun n x =>
    let k := min ((ig x n).k + 1) (fld x (ENG_IG_LEN_TICKS n))
    let due := fld x (ENG_IG_CFG_KIND n) == 1 && k % igHold x n == 0
    showIg n (updIg n (fun g => { g.advance with k := k, advDue := due }) x)) s

/-- The chirp of generator `n` at tick k: AMP × sin(2π T (F0 k + (F1 − F0) k² / (2 LEN))), T the period in seconds. The
spec gives no value for an F0 or F1 that is a NaN or infinite: the hardware's own word, made canonical (DESIGN CHOICE,
log 23). -/
def chirpWord (s : State) (n k : Nat) : FRes :=
  let amp := reg s (ENG_IG_AMP n)
  let len := fld s (ENG_IG_LEN_TICKS n)
  let c := Config.chirp amp (reg s (ENG_IG_F0 n)) (reg s (ENG_IG_F1 n)) len k s.tick.period
  match fval (reg s (ENG_IG_F0 n)), fval (reg s (ENG_IG_F1 n)) with
  | .fin _ f0, .fin _ f1 =>
    fChirp c amp (mkRat s.tick.period 400000000 * (f0 * (k : Nat) + (f1 - f0) * ((k * k : Nat) : Rat) / ((2 * len : Nat) : Rat)))
  | _, _ => ⟨fCanon c, 0⟩

/-- g_n of the tick. -/
def igValue (s : State) (n : Nat) : Word :=
  let g := ig s n
  let amp := reg s (ENG_IG_AMP n)
  match fld s (ENG_IG_CFG_KIND n) with
  | 0 => (chirpWord s n g.k).val
  | 1 => if g.advance.lfsr.getLsbD 0 then amp else amp ^^^ 0x80000000#32
  | _ => amp

/-- The generators that add to a node of a bobbin. -/
def igsAt (s : State) (node b : Nat) : List Nat :=
  those 4 fun n => (ig s n).running && decide ((ig s n).k < fld s (ENG_IG_LEN_TICKS n)) &&
    fld s (ENG_IG_CFG_NODE n) == node && fld s (ENG_IG_CFG_BOBBIN n) == b

/-- Write one staged record into the ring, or drop it when the ring is full. -/
def capWrite (c : Cap) (s : State) : State :=
  let wp := fld s ENG_CAPWP_PTR
  let size := lfld s ENG_CAPSIZE_SIZE
  let nx := if wp + 1 ≥ size then 0 else wp + 1
  if nx = fld s ENG_CAPRP_PTR then raise 358 (incFld ENG_CAPDROP_DROP s)
  else
    let a := 16 * lfld s ENG_CAPBASE_BASE + 16 * wp
    let w1 := BitVec.ofNat 32 ((c.tag % 65536) <<< 16 + (c.bobbin % 128) <<< 8 + c.lane % 32)
    setFld ENG_CAPWP_PTR nx (wrWord (a + 12) 0 (wrWord (a + 8) c.val (wrWord (a + 4) w1 (wrWord a c.tick s))))

/-- CAPTURE_WRITE at the commit (R179). -/
def capCommit (s : State) : State := updEng (fun e => { e with caps := [] }) (forAll s.eng.caps capWrite s)

/-- An applied ENG_CTRL: RUN starts or stops the engine from the round table of the next boundary (R183, R184). -/
def engCtrlApply (m : Mask) (d : Word) (s : State) : State :=
  let s1 := putCl ENG_CTRL (clWord s ENG_CTRL m d) s
  if fld s ENG_STAT_STATE < 2 then setFld ENG_STAT_STATE (fld s1 ENG_CTRL_RUN) s1 else s1

end Sys2Proof.Machine
end

