-- ==== Sys2Proof/Machine/Feedback.lean ====
section
/-! DEFINITION. Feedback ports, compare outputs, encoder emulation and pulse inputs (R297 to R323). -/

namespace Sys2Proof.Machine
open Sys2Proof

/-! ### Ports and pins -/

def portMode (s : State) (f : Nat) : Nat := lfld s (FBK_P_CFG_MODE f)
def fbPortOn (s : State) (f : Nat) : Bool := hasPort s f && lflag s (FBK_P_CFG_EN f)

/-- The timestamp of an instant on the 2.5 ns timebase. -/
def stamp (t : Time) : Nat := t / tb

def PortSt.pin (x : PortSt) : FbLine → PinSt
  | .a => x.a
  | .b => x.b
  | .z => x.z

def PortSt.setPin (x : PortSt) (k : FbLine) (p : PinSt) : PortSt :=
  match k with
  | .a => { x with a := p }
  | .b => { x with b := p }
  | .z => { x with z := p }

/-- Set a status bit of the tick. -/
def portBit (i f : Nat) (s : State) : State := updPort f (fun x => { x with bits := x.bits ||| (1#32 <<< i) }) s

/-- A quadrature, magnetic-switch or serial fault. -/
def portFault (f : Nat) (s : State) : State := raise (304 + f) (incFld (FBK_P_FCNT_FAULT f) (portBit 8 f s))

/-! ### Compare outputs (R313, R314) -/

/-- The compare output fires at `t`. -/
def cmpFire (c : Nat) (t : Time) (s : State) : State :=
  let past := (cmpo s c).out
  let s1 := if past then raise (340 + c) (incFld (FBK_CMP_ST_OVLP c) s) else s
  let s2 := updCmp c (fun x => { x with out := true, endAt := t + lfld s (FBK_CMP_CFG_WIDTH c) * tb }) s1
  let n := fld s (FBK_CMP_ST_PTR c) + 1
  if n < lfld s (FBK_CMP_CFG_LEN c) then setFld (FBK_CMP_ST_PTR c) n s2
  else if lflag s (FBK_CMP_CFG_CYC c) then setFld (FBK_CMP_ST_PTR c) 0 s2
  else setFld (FBK_CMP_ST_ARMED c) 0 (setFld (FBK_CMP_ST_DONE c) 1 s2)

/-- CMP_FIRE: POS of port `f` has changed upwards or downwards. -/
def cmpCheck (f : Nat) (up : Bool) (t : Time) (s : State) : State :=
  forAll (List.range 4) (fun c x =>
    let dirs := lfld x (FBK_CMP_CFG_DIRS c)
    if lflag x (FBK_CMP_CFG_EN c) && lfld x (FBK_CMP_CFG_SRC c) == f && flag x (FBK_CMP_ST_ARMED c) &&
        dirs.testBit (if up then 0 else 1) && (port x f).pos == live x (FBK_CMPL c (fld x (FBK_CMP_ST_PTR c))) then
      cmpFire c t x
    else x) s

/-- CMP_PULSE_END (R314). -/
def execCmpPulseEnd (c : Fin 4) (t : Time) (s : State) : Out :=
  let s1 := upto t s
  .next (if (cmpo s c.val).out && decide ((cmpo s c.val).endAt ≤ t) then
    updCmp c.val (fun x => { x with out := false }) s1 else s1)

/-- An output is armed with the pointer at 0, or disarmed (R315). -/
def cmpSetArm (c : Nat) (v : Bool) (s : State) : State :=
  if v then setFld (FBK_CMP_ST_ARMED c) 1 (setFld (FBK_CMP_ST_DONE c) 0 (setFld (FBK_CMP_ST_PTR c) 0 s))
  else setFld (FBK_CMP_ST_ARMED c) 0 s

def execCmpArm (c : Fin 4) (s : State) : Out := .next (cmpSetArm c.val true s)
def execCmpDisarm (c : Fin 4) (s : State) : Out := .next (cmpSetArm c.val false s)

/-- An applied FBK_CMPc_ARM. -/
def cmpArmEntry (c : Nat) (m : Mask) (d : Word) (s : State) : State :=
  let v := clWord s (FBK_CMP_ARM c) m d
  let s1 := putCl (FBK_CMP_ARM c) v s
  if m.getLsbD 3 then cmpSetArm c ((FBK_CMP_ARM_ARM c).of v == 1) s1 else s1

/-! ### Encoder emulation (R316) -/

/-- FBK_EMe_ST.PEND shows the waiting counts. -/
def showPend (e : Nat) (s : State) : State := setFld (FBK_EM_ST_PEND e) (em s e).waiting.length s

/-- `d` input counts of the source reach an emulation channel. -/
def emCounts (e : Nat) (d : Int) (s : State) : State :=
  let m : Int := lfld s (FBK_EM_NM_M e)
  let a := (em s e).acc + d * (lfld s (FBK_EM_NM_N e) : Int)
  let out := Int.tdiv a m
  let room := 15 - (em s e).waiting.length
  let n := out.natAbs
  let s1 := updEm e (fun x => { x with
    acc := a - out * m, waiting := x.waiting ++ List.replicate (min n room) (decide (0 < out)) }) s
  let s2 := showPend e s1
  if room < n then
    raise (344 + e) (setFld (FBK_EM_ST_OVF e) (satAdd (fld s2 (FBK_EM_ST_OVF e)) (n - room) 65535) s2)
  else s2

/-- Counts of port `f` reach the channels that emulate it. -/
def emFeed (f : Nat) (d : Int) (s : State) : State :=
  forAll (those 4 fun e => lflag s (FBK_EM_CFG_EN e) && lfld s (FBK_EM_CFG_SRC e) == f && lfld s (FBK_EM_NM_M e) != 0)
    (fun e => emCounts e d) s

/-- EM_OUTPUT_EDGE (R316): a waiting count is put out once EMIN has passed, in the quadrature sequence of R300: EA leads
EB when counting up. -/
def execEmOutputEdge (e : Fin 4) (t : Time) (s : State) : Out :=
  let s1 := upto t s
  let x := em s e.val
  let free := match x.edgeAt with | some u => decide (u + lfld s (FBK_EM_CFG_EMIN e.val) * tb ≤ t) | none => true
  .next (match x.waiting with
  | up :: r =>
    if lflag s (FBK_EM_CFG_EN e.val) && free then
      showPend e.val (updEm e.val (fun y => { y with
        waiting := r
        ea := if up then !y.eb else y.eb
        eb := if up then y.ea else !y.ea
        edgeAt := some t
        ez := !y.ez && y.idx
        idx := y.idx && y.ez }) s1)
    else s1
  | [] => s1)

/-! ### Counting (R300, R301, R305, R306) -/

/-- POS changes by `d`, with its wraps (R301). -/
def addPos (f : Nat) (d : Int) (s : State) : State :=
  let x := port s f
  let n := x.pos.toInt + d
  let w : Int := if 2 ^ 31 ≤ n then 1 else if n < -(2 ^ 31) then -1 else 0
  let s1 := updPort f (fun y => { y with pos := BitVec.ofInt 32 n, wrap := BitVec.ofInt 32 (y.wrap.toInt + w) }) s
  if w = 0 then s1 else raise (316 + f) (portBit 6 f s1)

/-- A counting edge with timestamp `u` takes effect at `t`. -/
def countEdge (f : Nat) (up : Bool) (u : Nat) (t : Time) (s : State) : State :=
  let d : Int := if up then 1 else -1
  let cpr := lfld s (FBK_P_CPR_CPR f)
  let s1 := addPos f d s
  let s2 := updPort f (fun y => { y with
    ph := if cpr = 0 then 0 else (if up then y.ph + 1 else y.ph + cpr - 1) % cpr
    hist := if y.dir = up then (u :: y.hist).take 9 else [u]
    dir := up
    still := false
    lastEdge := some u }) s1
  emFeed f d (cmpCheck f up t s2)

/-! ### Index (R307, R308) -/

/-- The qualified index is high. -/
def qualified (zq : Nat) (a b z : Bool) : Bool :=
  match zq with
  | 0 => z
  | 1 => z && a && b
  | _ => false

/-- A number folded into [−n/2, n/2). -/
def foldMod (d n : Int) : Int := (d + n / 2) % n - n / 2

/-- INDEX: the port latches POS, and stores or checks IREF. -/
def indexAt (f : Nat) (s : State) : State :=
  let x := port s f
  let s1 := portBit 4 f (updPort f (fun y => { y with idx := y.pos }) s)
  let s2 := forAll (those 4 fun e => lflag s (FBK_EM_CFG_EN e) && lfld s (FBK_EM_CFG_SRC e) == f)
    (fun e => updEm e (fun y => { y with idx := true })) s1
  if x.recap then
    setReg (FBK_P_IREF f) x.pos (updPort f (fun y => { y with recap := false, irefOk := true }) s2)
  else
    let cpr := lfld s (FBK_P_CPR_CPR f)
    let d := foldMod (x.pos.toInt - (reg s (FBK_P_IREF f)).toInt) cpr
    if lfld s (FBK_P_CPR_ITOL f) < d.natAbs then
      raise (328 + f) (portBit 5 f (setReg (FBK_P_IDIFF f) (BitVec.ofInt 32 d) s2))
    else s2

/-- RECAP (R308): the next index stores IREF. -/
def recapSet (f : Nat) (s : State) : State := updPort f (fun x => { x with recap := true }) s
def execRecap (f : Fin 12) (s : State) : Out := .next (if hasPort s f.val then recapSet f.val s else s)

/-- An applied FBK_Pf_IDXCTL. -/
def idxctlEntry (f : Nat) (m : Mask) (d : Word) (s : State) : State :=
  let v := clWord s (FBK_P_IDXCTL f) m d
  let s1 := putCl (FBK_P_IDXCTL f) v s
  if m.getLsbD 0 ∧ (FBK_P_IDXCTL_RECAP f).of v = 1 then recapSet f s1 else s1

/-! ### Speed and angle (R304, R305, R309, R312) -/

/-- π as a rational, to 80 bits. -/
def ratPi : Rat := ofFx fxPi

/-- c of R304 in rad per count. -/
def countAngle (s : State) (f : Nat) : Rat :=
  let pp := lfld s (FBK_P_CFG_PP f)
  match portMode s f with
  | 0 => 2 * ratPi * mkRat pp (lfld s (FBK_P_CPR_CPR f))
  | 1 => ratPi / 3
  | _ => 2 * ratPi * mkRat pp (2 ^ lfld s (FBK_P_SER_STB f))

/-- A duration in seconds. -/
def secs (t : Time) : Rat := mkRat t 32000000000

/-- An angle brought into [−π, π) and rounded, kept inside the range. -/
def angleWord (q : Rat) : Word :=
  let z := q - 2 * ratPi * ((((q + ratPi) / (2 * ratPi)).floor : Int) : Rat)
  let w := (fRound (decide (z < 0)) z).val
  if w = 0x40490FDB#32 then 0x40490FDA#32 else if w = 0xC0490FDB#32 then 0xC0490FDA#32 else w

/-- The fractional part. -/
def frac (q : Rat) : Rat := q - ((q.floor : Int) : Rat)

/-- Time since the last counting edge in tb, at the boundary `t`; none before the first. -/
def sinceEdge (x : PortSt) (t : Time) : Option Nat := x.lastEdge.map fun u => stamp t - u

/-- SPAN of the port. -/
def spanOf (s : State) (f : Nat) : Nat := 2 ^ lfld s (FBK_P_CFG_SPAN f)

/-- The speed at the latch as an exact value, and DECAY (R305, R312). -/
def portSpeed (s : State) (f : Nat) (t : Time) : Rat × Bool :=
  let x := port s f
  if portMode s f = 2 then (ratOf x.spd, false)
  else
    let k := min (spanOf s f) (x.hist.length - 1)
    match x.hist.head?, x.hist[k]?, sinceEdge x t with
    | some a, some b, some n =>
      if k = 0 ∨ lfld s (FBK_P_TIM_TSTILL f) * us < n * tb then (0, false)
      else
        let c := countAngle s f
        let v := ((k : Nat) : Rat) * c / secs ((a - b) * tb)
        let lim := c / secs (n * tb)
        let dec := decide (n ≠ 0) && decide (lim < v)
        let m := if dec then lim else v
        (if x.dir then m else -m, dec)
    | _, _, _ => (0, false)

/-- The electrical angle at the latch (R304, R309). -/
def portAngle (s : State) (f : Nat) (t : Time) : Word :=
  let x := port s f
  let pp := lfld s (FBK_P_CFG_PP f)
  let w := (portSpeed s f t).1
  match fval (live s (FBK_P_AOFS f)) with
  | .fin _ ofs =>
    match portMode s f with
    | 0 => angleWord (ofs + 2 * ratPi * frac (mkRat (pp * x.ph) (lfld s (FBK_P_CPR_CPR f))))
    | 1 =>
      match x.sector with
      | none => x.angHold.getD (Config.freeAngle f)
      | some k =>
        if let some h := x.angHold then h else
        let lo := ((k : Nat) : Rat) * ratPi / 3
        let hi := lo + ratPi / 3
        if x.still then angleWord (ofs + lo + ratPi / 6)
        else
          let e := if x.edgeFwd then lo else hi
          let n := (sinceEdge x t).getD 0
          angleWord (ofs + ratMin hi (ratMax lo (e + w * secs (n * tb))))
    | _ =>
      let m := 2 ^ lfld s (FBK_P_SER_STB f)
      let sv := x.lastRd.getD 0 % m
      angleWord (ofs + 2 * ratPi * frac (mkRat (pp * sv) m) + w * secs (t - x.sampAt))
  | _ => qNaN

/-! ### Accepted edges (R299, R300, R307, R309) -/

/-- The sector of a code H1 H2 H3 (R309). -/
def sectorOf (a b z : Bool) : Option Nat :=
  match 4 * b2n a + 2 * b2n b + b2n z with
  | 1 => some 0
  | 3 => some 1
  | 2 => some 2
  | 6 => some 3
  | 4 => some 4
  | 5 => some 5
  | _ => none

/-- A pin's edge with timestamp `u` is accepted. -/
def PinSt.accept (p : PinSt) (u : Nat) : PinSt :=
  if p.edge.any (fun e => stamp e == u) then { p with level := p.pin, edge := none } else p

/-- The edges of an incremental port with timestamp `u` are accepted: `x` is the port before them. -/
def incAccept (f : Nat) (x : PortSt) (u : Nat) (t : Time) (s : State) : State :=
  let y := port s f
  let ea := x.a.level != y.a.level
  let eb := x.b.level != y.b.level
  let s1 :=
    if ea && eb then portFault f s
    else if ea then countEdge f (y.a.level != y.b.level) u t s
    else if eb then countEdge f (y.a.level == y.b.level) u t s
    else s
  let zq := lfld s (FBK_P_CFG_ZQUAL f)
  if qualified zq y.a.level y.b.level y.z.level && !(qualified zq x.a.level x.b.level x.z.level) then indexAt f s1 else s1

/-- The switches of a magnetic port have changed (R309). -/
def magAccept (f : Nat) (u : Nat) (t : Time) (s : State) : State :=
  let y := port s f
  match sectorOf y.a.level y.b.level y.z.level, y.sector with
  | none, _ => portFault f (updPort f (fun x => { x with angHold := some (portAngle s f t) }) s)
  | some n, none => updPort f (fun x => { x with sector := some n, angHold := none }) s
  | some n, some o =>
    let s1 := updPort f (fun x => { x with sector := some n, angHold := none }) s
    if n = o then s1
    else if n = (o + 1) % 6 then countEdge f true u t (updPort f (fun x => { x with edgeFwd := true }) s1)
    else if o = (n + 1) % 6 then countEdge f false u t (updPort f (fun x => { x with edgeFwd := false }) s1)
    else portFault f s1

/-- Every edge of the port with timestamp `u` takes effect at `t`. -/
def portAccept (f : Nat) (u : Nat) (t : Time) (s : State) : State :=
  let x := port s f
  let s1 := updPort f (fun y => { y with a := y.a.accept u, b := y.b.accept u, z := y.z.accept u }) s
  match portMode s f with
  | 0 => incAccept f x u t s1
  | 1 => magAccept f u t s1
  | _ => s1

/-- PLS_PERIOD (R317): an accepted edge of a pulse input to level `v` with timestamp `u`. -/
def plsAccept (p : Nat) (v : Bool) (u : Nat) (s : State) : State :=
  let edge := v != lflag s (FBK_PLS_CFG_EDGE p)
  let x := pls s p
  if !edge then updPls p (fun y => { y with mid := some u }) s
  else
    let s1 := setFldBit FBK_PLSST_TMO p false s
    let val := match x.last with
      | none => x.val
      | some l =>
        let per := u - l
        let hi := match x.mid with
          | some m => if lflag s (FBK_PLS_CFG_EDGE p) then u - m else m - l
          | none => 0
        if lfld s (FBK_PLS_CFG_KIND p) = 0 then (fRound false (mkRat 400000000 per)).val
        else (fRound false (mkRat hi per)).val
    updPls p (fun y => { y with last := some u, mid := none, armAt := s.now, val := val }) s1

/-- TMIN of a pin in Time units. -/
def pinTmin (s : State) : FbPin → Time
  | .port f _ => lfld s (FBK_P_CFG_TMIN f.val) * tb
  | .pls p => lfld s (FBK_PLS_CFG_TMIN p.val) * tb

/-- The pin's edge filter is in use. -/
def pinOn (s : State) : FbPin → Bool
  | .port f _ => fbPortOn s f.val && portMode s f.val < 2
  | .pls p => lflag s (FBK_PLS_CFG_EN p.val)

def pinSt (s : State) : FbPin → PinSt
  | .port f k => (port s f.val).pin k
  | .pls p => (pls s p.val).p

def setPinSt (q : FbPin) (v : PinSt) (s : State) : State :=
  match q with
  | .port f k => updPort f.val (fun x => x.setPin k v) s
  | .pls p => updPls p.val (fun x => { x with p := v }) s

/-- The edge that waits at a pin is accepted, if TMIN has passed by `t` (R299). -/
def acceptEdge (q : FbPin) (t : Time) (s : State) : State :=
  let x := pinSt s q
  match x.edge with
  | none => s
  | some e =>
    if !(pinOn s q) || decide (t < e + pinTmin s q) then s
    else match q with
      | .port f _ => portAccept f.val (stamp e) t s
      | .pls p => plsAccept p.val x.pin (stamp e) (setPinSt q { x with level := x.pin, edge := none } s)

/-- FB_EDGE_ACCEPT (R300). -/
def execFbEdgeAccept (q : FbPin) (t : Time) (s : State) : Out := .next (acceptEdge q t (upto t s))

/-- A pin edge: one that follows another within TMIN rejects both (R299). -/
def pinEdge (q : FbPin) (v : Bool) (t : Time) (s : State) : State :=
  let x := pinSt s q
  if x.pin = v then s
  else if !(pinOn s q) then setPinSt q { x with pin := v, level := v, edge := none } s
  else if x.edge.isSome then
    let s1 := setPinSt q { x with pin := v, edge := none } s
    match q with
    | .port f _ => incFld (FBK_P_FCNT_EFLT f.val) (incFld (FBK_P_FCNT_EFLT f.val) (portBit 7 f.val s1))
    | .pls _ => s1
  else setPinSt q { x with pin := v, edge := some t } s

/-- The pin exists. -/
def hasPin (s : State) : FbPin → Bool
  | .port f _ => hasPort s f.val
  | .pls _ => true

/-- FB_PIN_EDGE (R299): a pin changes to level `v`; an earlier edge that TMIN has confirmed takes effect first. -/
def execFbPinEdge (q : FbPin) (v : Bool) (t : Time) (s : State) : Out :=
  let s1 := upto t s
  .next (if hasPin s q then pinEdge q v t (acceptEdge q t s1) else s1)

/-- No counting edge for TSTILL sets STILL and clears the history (R305). -/
def standstill (t : Time) (f : Nat) (s : State) : State :=
  let x := port s f
  if fbPortOn s f && portMode s f < 2 && !x.still &&
      x.lastEdge.all (fun u => u * tb + lfld s (FBK_P_TIM_TSTILL f) * us < t) then
    updPort f (fun y => { y with still := true, hist := [] }) s
  else s

/-- FB_STANDSTILL (R305): no counting edge for TSTILL. -/
def execFbStandstill (f : Fin 12) (t : Time) (s : State) : Out := .next (standstill t f.val (upto t s))

/-- FBK_PLS_TMO (R318): no EDGE edge for PTMO. -/
def execFbkPlsTmo (p : Fin 8) (t : Time) (s : State) : Out :=
  let s1 := upto t s
  let x := pls s p.val
  .next (if lflag s (FBK_PLS_CFG_EN p.val) && !((fld s FBK_PLSST_TMO).testBit p.val) &&
      decide (x.armAt + lfld s (FBK_PLS_CFG_PTMO p.val) * ms ≤ t) then
    let v := if lfld s (FBK_PLS_CFG_KIND p.val) = 1 && x.p.level then fOne else 0#32
    raise 348 (setFldBit FBK_PLSST_TMO p.val true (updPls p.val (fun y => { y with last := none, mid := none, val := v }) s1))
  else s1)

/-! ### Serial absolute mode (R310 to R312) -/

/-- Bits of a serial frame. -/
def serBits (s : State) (f : Nat) : Nat := lfld s (FBK_P_SER_BITS f)
def serPar (s : State) (f : Nat) : Bool := lflag s (FBK_P_SER_PAR f)

/-- FBXf as the port drives it at `t` (R297, R298, R310): none while the pin is an input; in serial mode it idles high and
is low in the first half of each clock period of a read. -/
def fbxPin (s : State) (f : Nat) (t : Time) : Option Bool :=
  if !(fbPortOn s f) || portMode s f != 2 then none
  else match (port s f).clk with
  | some (u, h, n) => some (decide (t < u) || decide (n * (2 * h) ≤ t - u) || decide (h ≤ (t - u) % (2 * h)))
  | none => some true

/-- SERIAL_READ_START (R310): SLEAD before the boundary, once per tick; the clock on FBXf falls for the first time. -/
def execSerialReadStart (f : Fin 12) (t : Time) (s : State) : Out :=
  let s1 := upto t s
  let x := port s f.val
  .next (if fbPortOn s f.val && portMode s f.val == 2 && ticking s && x.reading.isNone && x.readTick != some s.tick.count &&
      decide (s.tick.next ≤ t + lfld s (FBK_P_TIM_SLEAD f.val) * tb) &&
      decide (t + lfld s (FBK_P_TIM_SLEAD f.val) * tb < s.tick.next + tb) then
    updPort f.val (fun y => { y with
      reading := some (t, y.a.pin), readTick := some s.tick.count
      clk := some (t, lfld s (FBK_P_SER_HDIV f.val) * tb, serBits s f.val + b2n (serPar s f.val) + 1) }) s1
  else s1)

/-- Gray code of `n` bits to binary. -/
def fromGray (n v : Nat) : Nat := (List.range n).foldl (fun r i => r ^^^ (v >>> i)) 0

/-- Even parity over the bits of `v`. -/
def parityEven (n v : Nat) : Bool := ((List.range n).filter fun i => v.testBit i).length % 2 == 0

/-- The reading is rejected. -/
def readReject (f : Nat) (s : State) : State :=
  portFault f (portBit 10 f (updPort f (fun y => { y with hold := true, fresh := true }) s))

/-- A valid reading `v` with sample instant `u`, changed by `d` from the last one (R312). -/
def readAccept (f v : Nat) (d : Int) (u t : Time) (s : State) : State :=
  let x := port s f
  if x.fresh then
    updPort f (fun y => { y with
      pos := BitVec.ofNat 32 v, wrap := if y.restarted then 0 else y.wrap, spd := 0
      fresh := false, restarted := false, hold := false, lastRd := some v, sampAt := u }) s
  else
    let w := countAngle s f * ((d : Int) : Rat) / secs (u - x.sampAt)
    let s1 := updPort f (fun y => { y with
      spd := (fRound (decide (d < 0)) w).val, hold := false, lastRd := some v, sampAt := u
      dir := if d = 0 then y.dir else decide (0 < d) }) (addPos f d s)
    if d = 0 then s1 else emFeed f d (cmpCheck f (decide (0 < d)) t s1)

/-- SERIAL_READING (R311): the frame `raw`, its last sampled bit in bit 0, has been taken in. -/
def execSerialReading (f : Fin 12) (raw : BitVec 33) (t : Time) (s : State) : Out :=
  let s1 := upto t s
  let x := port s f.val
  let n := serBits s f.val
  let par := serPar s f.val
  let len := n + b2n par
  .next (match x.reading with
  | none => s1
  | some (u, high) =>
    if t < u + 2 * lfld s (FBK_P_SER_HDIV f.val) * len * tb then s1
    else
      let s2 := updPort f.val (fun y => { y with reading := none }) s1
      let data := bits (if par then raw.toNat / 2 else raw.toNat) 0 n
      let v := if lflag s (FBK_P_SER_GRAY f.val) then fromGray n data else data
      let d := match x.lastRd with | some o => foldMod ((v : Int) - o) (2 ^ n : Nat) | none => 0
      let far := decide ((2 ^ lfld s (FBK_P_SER_STB f.val) : Nat) < 8 * d.natAbs)
      if !high || (par && !(parityEven len raw.toNat)) || far then readReject f.val s2
      else readAccept f.val v d u t s2)

/-! ### The snapshot (R302, R304, R305, R309, R319) -/

/-- The status word +4. -/
def portStatus (s : State) (f : Nat) (t : Time) : Word :=
  let x := port s f
  let mode := portMode s f
  let cur := b2n (fbPortOn s f && (mode != 2 || x.lastRd.isSome)) + 2 * b2n x.dir + 4 * b2n x.still +
    8 * b2n (portSpeed s f t).2 + 512 * b2n x.irefOk + 65536 * mode
  BitVec.ofNat 32 (cur ||| x.bits.toNat)

/-- Word `k` of the port's snapshot at the boundary `t` (R302); a rejected reading keeps every value word, and of a
disabled port only the status word says something (R319). -/
def portWord (s : State) (f k : Nat) (t : Time) : Word :=
  let x := port s f
  let sat := fun (n : Nat) => BitVec.ofNat 32 (min n 0x7FFFFFFF)
  if !(hasPort s f) || k = 7 then 0
  else if k = 4 then portStatus s f t
  else if !(fbPortOn s f) then 0
  else if x.hold && portMode s f == 2 then sample s (360 + 8 * f + k)
  else match k with
    | 0 => x.pos
    | 1 => x.wrap
    | 2 => let v := (portSpeed s f t).1; (fRound (decide (v < 0)) v).val
    | 3 => portAngle s f t
    | 5 => x.idx
    | _ => if portMode s f = 2 then sat (stamp (t - x.sampAt)) else sat ((sinceEdge x t).getD 0x7FFFFFFF)

/-- The status bits of the tick go with its latch. -/
def portsNewTick (s : State) : State := forAll (List.range 12) (fun f => updPort f (fun x => { x with bits := 0 })) s

/-! ### Flips (R321) -/

/-- A port restarts: the pins' present levels are its filtered ones. -/
def restartPort (f : Nat) (s : State) : State :=
  let keep := fun (p : PinSt) => ({ level := p.pin, pin := p.pin, edge := none } : PinSt)
  let s1 := updPort f (fun x => { a := keep x.a, b := keep x.b, z := keep x.z, still := true,
                                  sector := sectorOf x.a.pin x.b.pin x.z.pin }) s
  setReg (FBK_P_IREF f) 0 s1

/-- What an FBK flip changes; `old` is the state before it, and `run` says that it is the one of RUN. -/
def fbkFlip (run : Bool) (old : State) (s : State) : State :=
  let s1 := forAll (those 12 fun f => (run && fbPortOn s f) || lfld s (FBK_P_CFG_EN f) != lfld old (FBK_P_CFG_EN f) ||
    portMode s f != portMode old f) restartPort s
  let s2 := forAll (those 4 fun e => live s (FBK_EM_NM e) != live old (FBK_EM_NM e) ||
      lfld s (FBK_EM_CFG_SRC e) != lfld old (FBK_EM_CFG_SRC e))
    (fun e x => showPend e (updEm e (fun y => { y with acc := 0, waiting := [] }) x)) s1
  let s3 := forAll (those 4 fun c => live s (FBK_CMP_CFG c) != live old (FBK_CMP_CFG c) ||
      (List.range 64).any fun k => live s (FBK_CMPL c k) != live old (FBK_CMPL c k))
    (fun c => cmpSetArm c false) s2
  forAll (those 8 fun p => run || live s (FBK_PLS_CFG p) != live old (FBK_PLS_CFG p))
    (fun p x => setFldBit FBK_PLSST_TMO p false (updPls p (fun y => {
      p := { level := y.p.pin, pin := y.p.pin, edge := none }, armAt := s.now }) x)) s3

end Sys2Proof.Machine
end

