-- ==== Sys2Proof/Machine/Trust.lean ====
section
/-! DEFINITION. Trust and update: life cycle, key slots, tokens, partitions and their switch, gatherings, and the
commands of TRU (R435 to R460, R470, R471). -/

namespace Sys2Proof.Machine
open Sys2Proof

/-! ### eMRAM (R439, R495) -/

/-- Offset and size of partition `k` in each region. -/
def partOff (k : Nat) : Nat :=
  if k = 0 then 0 else if k ≤ 6 then 0x200000 + (k - 1) * 0x100000 else if k = 7 then 0x800000
  else if k = 8 then 0x880000 else 0x900000
def partSize (k : Nat) : Nat := if k = 0 then 0x200000 else if k ≤ 6 then 0x100000 else if k ≤ 8 then 0x80000 else 0x100000

/-- Address of partition `k` in the active, the staging and the fallback region. -/
def activeAt (k : Nat) : Nat := 0x30000000 + partOff k
def stagingAt (k : Nat) : Nat := 0x30A00000 + partOff k
def fallbackAt (k : Nat) : Nat := 0x31400000 + partOff k

/-- DESIGN CHOICE (the spec gives no offsets within the records): key slot `k`, its commit word after the record,
and the calibration record. -/
def keyAt (k : Nat) : Nat := 0x31E00000 + 0x200 * k
def calAt : Nat := 0x31E10000

/-- A word of eMRAM among the `n` bytes from `a` has an uncorrectable error, and counts as invalid (R440). -/
def emBad (s : State) (a n : Nat) : Bool := s.eccBad.any fun e => e.2 && decide (a < 8 * (e.1 + 1)) && decide (8 * e.1 < a + n)

/-- The words among the `n` bytes from `a` have no error any more. -/
def emClean (a n : Nat) (m : SMap Bool) : SMap Bool := m.filter fun e => !(decide (a < 8 * (e.1 + 1)) && decide (8 * e.1 < a + n))

/-- Write bytes of eMRAM: the words written are sound. -/
def emWrite (a : Nat) (bs : List Byte) (s : State) : State :=
  let x := wrBytes a bs s
  { x with eccBad := emClean a bs.length x.eccBad }

/-- The `n` bytes from `src` copied to `dst`, the two apart; a word in error is one in error there too. -/
def copyMem (src dst n : Nat) (s : State) : State :=
  let keep := s.mem.filter fun e => !(decide (dst ≤ e.1) && decide (e.1 < dst + n))
  let from_ := s.mem.filter fun e => decide (src ≤ e.1) && decide (e.1 < src + n)
  let bad := s.eccBad.filter fun e => decide (src ≤ 8 * e.1) && decide (8 * e.1 < src + n)
  { s with
    mem := from_.foldl (fun m e => SMap.set memD m (e.1 - src + dst) e.2) keep
    eccBad := bad.foldl (fun m e => SMap.set falseD m ((8 * e.1 - src + dst) / 8) e.2) (emClean dst n s.eccBad) }

/-- SPN_VERD takes a version digest, which the gathering record keeps (R449, R457, R459). -/
def setVerd (v : Word) (s : State) : State :=
  updTru (fun t => { t with recVerd := v }) (updSpn (fun n => { n with verd := v }) s)

/-- Every eMRAM byte is erased, and with it the partition journals and the gathering record, which lie there (R438,
R439). -/
def eraseEmram (s : State) : State :=
  let s1 := { s with
    mem := s.mem.filter fun e => !(decide (0x30000000 ≤ e.1) && decide (e.1 < 0x32000000))
    eccBad := emClean 0x30000000 0x2000000 s.eccBad }
  let s2 := updTru (fun t => { t with
    staged := [], sealed := [], manifest := [], switched := [], okParts := [], failedParts := [], oldVerd := 0, recVerd := 0
    resume := none, succ := 0, rolled := 0, fails := 0, failReport := false, closing := false, abortAt := none
    aloneAt := none }) s1
  forAll (List.range 10) (fun k => setReg (TRU_PART k) 0)
    (setReg TRU_GATH 0 (setReg TRU_GSTAT 0 (updSpn (fun n => { n with gath := 0 }) s2)))

/-- The image of partition `k` in the region at `a`, by the length in its header. -/
def imageAt (s : State) (a k : Nat) : List Byte :=
  let all := rdBytes s a (partSize k)
  all.take (Config.imageLen all)

/-- Durations of a copy at 64 MiB/s, of a hash at 512 MiB/s, and of a verification (R440). -/
def copyTime (n : Nat) : Time := n * 32000000000 / 67108864
def hashTime (n : Nat) : Time := n * 32000000000 / 536870912
def verifyTime (n : Nat) : Time := hashTime n + 2 * ms

/-! ### Keys (R441 to R443) -/

/-- The programmed, unrevoked root slot to which a root public key hashes; none once scan blocks the reads of OTP
keys (R469). -/
def rootSlot (s : State) (pub : List Byte) : Option Nat :=
  (those 2 fun k => !s.tru.otpBlocked && s.tru.prog.getLsbD k && !(s.tru.rev.getLsbD k) &&
    SMap.get (fun _ => 0#256) s.tru.rootHash k == Config.sha256 pub).head?

/-- Bytes `a` up to `b` of a record. -/
def part (bs : List Byte) (a b : Nat) : List Byte := (bs.drop a).take (b - a)

/-- A key record meets the root and signature conditions of R443: 0, or the code of its refusal. -/
def keyCode (s : State) (r : List Byte) : Nat :=
  if (rootSlot s (part r 128 192)).isNone then 5
  else if Config.ecdsaOk (part r 128 192) (part r 0 192) (part r 192 256) then 0 else 3

def keyRec (s : State) (k : Nat) : List Byte := rdBytes s (keyAt k) 256
def keySeq (s : State) (k : Nat) : Nat := leNat (rdBytes s (keyAt k) 4)

/-- The commit word of a record. -/
def commitOf (r : List Byte) : List Byte := leBytes 4 (crc32 r) ++ r.take 4

/-- Key slot `k` is valid (R443). -/
def keyValid (s : State) (k : Nat) : Bool :=
  !(emBad s (keyAt k) 264) && rdBytes s (keyAt k + 256) 8 == commitOf (keyRec s k) &&
  keyCode s (keyRec s k) == 0

/-- The valid slots of a signing key's SEQ. -/
def slotOf (s : State) (seq : Nat) : Option Nat := (those 2 fun k => keyValid s k && keySeq s k == seq).head?

/-- The signing key of slot `k` verifies a signature. -/
def signedBy (s : State) (seq : Nat) (msg sg : List Byte) : Bool :=
  match slotOf s seq with
  | some k => Config.ecdsaOk (part (keyRec s k) 16 80) msg sg
  | none => false

/-- An image verifies under a valid key slot. -/
def imageSigned (s : State) (img : List Byte) : Bool :=
  signedBy s (Config.imageSeq img) (Config.imageSigned img) (Config.imageSig img)

/-- The content of an image: an encrypted one is opened with the image key of its key slot, which the device key unwraps
(R441, R442). -/
def opened (s : State) (img : List Byte) : Option (List Byte) :=
  if Config.imageEnc img then
    match slotOf s (Config.imageSeq img) with
    | some k =>
      let r := keyRec s k
      if (slice r 5 1).testBit 0 && s.tru.devKey && !s.tru.otpBlocked && !s.tru.zeroised then
        Config.aesOpen (part r 80 120) img
      else none
    | none => none
  else some img

/-- An image is accepted: in MANUFACTURE unsigned too, in RETURN and SCRAPPED never (R436, R443); an encrypted one must
open. -/
def imageOk (s : State) (img : List Byte) : Bool :=
  decide (lcState s < 5) && (lcState s == 1 || imageSigned s img) && (opened s img).isSome

/-- The code of the verification of the image of partition `k` at `a`: 0, 3, or 11 where a word of it cannot be read
(R440, R471; DESIGN CHOICE, log 46: R471 names the code and no rule its use). -/
def imageCode (s : State) (a k : Nat) : Nat :=
  let img := imageAt s a k
  if emBad s a img.length then 11 else if imageOk s img then 0 else 3

/-- The key registers follow the slots. -/
def showKeys (s : State) : State :=
  let one (k : Nat) (x : State) : State :=
    let v := keyValid s k
    setFld (TRU_KEY_SEQ_SEQ k) (keySeq s k) (setFld (TRU_KEY_ST_VALID k) (b2n v)
      (setFld (TRU_KEY_ST_ROOT k) (leNat (part (keyRec s k) 4 5)) (setFldBit TRU_BOOTST_KVALID k v x)))
  let hi := keyValid s 1 && (!(keyValid s 0) || decide (keySeq s 0 < keySeq s 1))
  setFld TRU_BOOTST_INUSE (b2n hi) (one 1 (one 0 s))

/-! ### Life cycle (R435 to R438) -/

/-- TRU_LC and its copy SYS_LCM show a state; a change raises TRU_LC. -/
def setLc (v : Nat) (s : State) : State :=
  if lcState s = v then s else raise 594 (setFld SYS_LCM_STATE v (setFld TRU_LC_STATE v s))

/-- A command or request is refused; the STATE of a running command stays. -/
def refuse (code : Nat) (s : State) : State :=
  raise 593 (setFld TRU_CMDST_CODE code (if s.tru.run.isSome then s else setFld TRU_CMDST_STATE 3 s))

/-- Every token ends. -/
def endTokens (s : State) : State :=
  setFld TRU_LC_TOKDBG 0 (updTru (fun t => { t with service := none, debug := none, ret := none }) s)

/-- The copies of a life-cycle step in OTP that read programmed; two of the four count as the step (R435). -/
def stepTaken (t : TruSt) (v : Nat) : Bool :=
  decide (2 ≤ (List.range 4).countP fun i => (SMap.get (fun _ => 0#4) t.otp v).getLsbD i)
/-- The life-cycle state of OTP: that of the last step taken. -/
def otpLc (t : TruSt) : Nat := ([6, 5, 3, 2, 1].find? (stepTaken t)).getD 0

/-- Program the four copies of the step to state `v`. -/
def programStep (v : Nat) (t : TruSt) : TruSt := { t with otp := SMap.set (fun _ => 0#4) t.otp v 15#4 }

/-- A step of the OTP life cycle. -/
def otpStep (v : Nat) (s : State) : State := setLc v (endTokens (updTru (programStep v) s))

/-- No image runs: every unit stops, and is HELD, but for a FAILED one, which stays FAILED (R92). -/
def stopAll (s : State) : State :=
  forAll (those 7 fun u => hasUnit s u) (fun u x =>
    setFld (PRC_STAT_STATE u) (if pairState x u = 4 then 4 else 0)
      (stopUnit ⟨Fin.ofNat 7 u, true⟩ (stopUnit ⟨Fin.ofNat 7 u, false⟩ x)))
    (updTru (fun t => { t with svSeq := none }) (updPrc (fun r => { r with svStopped := true }) s))

/-- LCREQ_PROVISIONED. -/
def lcProvisioned (s : State) : State :=
  if lcState s = 1 ∧ s.tru.prog.getLsbD 0 = true ∧ s.tru.devKey = true then otpStep 2 s else refuse 2 s
/-- The running SV image was verified under a key slot that is valid (R437). -/
def svVerified (s : State) : Bool := s.tru.svSeq.any fun q => (slotOf s q).isSome

/-- LCREQ_FIELD. -/
def lcField (s : State) : State := if lcState s = 2 ∧ svVerified s = true then otpStep 3 s else refuse 2 s
/-- LCREQ_RETURN: the OTP step first, then the erase. -/
def lcReturn (s : State) : State :=
  let tok := match s.tru.ret with | some e => decide (s.now < e) | none => false
  if (lcState s = 3 ∨ lcState s = 4) ∧ tok = true then
    let s1 := setFld TRU_BOOTST_CAUSE 5 (stopAll (otpStep 5 s))
    updTru (fun t => { t with erased := false, eraseEnd := s.now + 500 * ms, run := none, auto_ := none }) s1
  else refuse 2 s
/-- LCREQ_SCRAPPED. -/
def lcScrapped (s : State) : State := if lcState s = 5 ∧ s.tru.erased = true then otpStep 6 s else refuse 2 s

/-- An applied TRU_LCREQ with GO = 1, by its TARGET (R437). -/
def lcRequest (target : Nat) (s : State) : State :=
  match target with
  | 2 => lcProvisioned s
  | 3 => lcField s
  | 5 => lcReturn s
  | 6 => lcScrapped s
  | _ => refuse 2 s

def execLcreqProvisioned (s : State) : Out := .next (lcProvisioned s)
def execLcreqField (s : State) : Out := .next (lcField s)
def execLcreqReturn (s : State) : Out := .next (lcReturn s)
def execLcreqScrapped (s : State) : Out := .next (lcScrapped s)

/-- The erase of RETURN is complete. -/
def eraseDone (s : State) : State :=
  showKeys (setFld TRU_BOOTST_CAUSE 0 (updTru (fun t => { t with erased := true }) (eraseEmram s)))

/-- RETURN_ERASE_DONE (R438). -/
def execReturnEraseDone (t : Time) (s : State) : Out :=
  let s1 := upto t s
  .next (if lcState s = 5 ∧ s.tru.erased = false ∧ s.tru.eraseEnd ≤ t then eraseDone s1 else s1)

/-- An applied TRU_REVOKE (R441). -/
def revokeRoots (k : BitVec 2) (s : State) : State :=
  if k = 0#2 then s
  else if s.tru.prog &&& ~~~(s.tru.rev ||| k) = 0#2 then refuse 5 s
  else
    let s1 := updTru (fun t => { t with rev := t.rev ||| k }) s
    showKeys (setFld TRU_OTP_REV s1.tru.rev.toNat s1)

/-- TRU_REVOKE. -/
def execTruRevoke (d : Word) (s : State) : Out := .next (revokeRoots (BitVec.ofNat 2 (TRU_REVOKE_REV.of d)) s)

/-- TRU_TOKEN_END (R448): the lifetime of a token ends. -/
def execTruTokenEnd (t : Time) (s : State) : Out :=
  let s1 := upto t s
  let past (o : Option Time) : Bool := match o with | some e => decide (e ≤ t) | none => false
  let sv := past s.tru.service
  let db := past s.tru.debug
  let rt := past s.tru.ret
  .next (if sv || db || rt then
    let s2 := updTru (fun x => { x with
      service := if sv then none else x.service
      debug := if db then none else x.debug
      ret := if rt then none else x.ret }) s1
    let s3 := if db then setFld TRU_LC_TOKDBG 0 s2 else s2
    raise 601 (if sv then setLc 3 s3 else s3)
  else s1)

/-! ### Parts and gatherings (R452 to R460) -/

/-- The recorded journal state of partition `k`. -/
def partState (s : State) (k : Nat) : Nat := fld s (TRU_PART_STATE k)
def setPart (k v : Nat) (s : State) : State := setFld (TRU_PART_STATE k) v s

/-- A report to the lead on the open gathering: 5 success, 6 rollback complete, 8 failure (R457, R459, R460). -/
def report (kind : Nat) (s : State) : State :=
  if isFollower s then sendMgmt s.spn.lead (Config.reportBytes kind s.spn.gath.toNat) s else s

/-- An entry of a manifest (R456). -/
structure MEntry where
  serial : Nat
  part : Nat
  unchanged : Bool
  order : Nat
  len : Nat
  hash : Nat

/-- Entry `i` of a manifest. -/
def mEntry (m : List Byte) (i : Nat) : MEntry where
  serial := slice m (16 + 48 * i) 8
  part := slice m (24 + 48 * i) 1
  unchanged := (slice m (25 + 48 * i) 1).testBit 0
  order := slice m (26 + 48 * i) 2
  len := slice m (28 + 48 * i) 4
  hash := ((part m (32 + 48 * i) (64 + 48 * i)).foldl (fun n b => 256 * n + b.toNat) 0)

/-- The entries of a manifest, and those of a device. -/
def mEntries (m : List Byte) : List MEntry := (List.range (slice m 8 2)).map (mEntry m)
def entriesFor (m : List Byte) (serial : Nat) : List MEntry := (mEntries m).filter fun e => e.serial == serial
def myEntries (m : List Byte) : List MEntry := entriesFor m Config.serial.toNat

/-- This device's entry for partition `k` in the open gathering. -/
def entryOf (s : State) (k : Nat) : Option MEntry := (myEntries s.tru.manifest).find? fun e => e.part == k

/-- The parts that the open gathering changes here. -/
def changedParts (s : State) : List Nat := ((myEntries s.tru.manifest).filter fun e => !e.unchanged).map (·.part)

/-- The version digest of a manifest: the first 32 bits of its SHA-256. -/
def digestOf (m : List Byte) : Word := (Config.sha256 m).extractLsb' 224 32

/-- The counts of the gathering. -/
def showGath (s : State) : State :=
  setFld TRU_GSTAT_OKCNT s.tru.okParts.length (setFld TRU_GSTAT_SWCNT s.tru.switched.length s)

/-- The gathering is open on this device, and takes switches and reports. -/
def gathOpen (s : State) : Bool := fld s TRU_GATH_ID != 0 && (fld s TRU_GSTAT_STATE == 1 || fld s TRU_GSTAT_STATE == 2)

/-- The gathering turns to all OK when every changed part has reported; the lead is told (R457). -/
def gathCheck (s : State) : State :=
  if fld s TRU_GSTAT_STATE = 1 ∧ (changedParts s).all (fun k => s.tru.okParts.contains k) = true then
    report 5 (updTru (fun t => { t with succ := t.succ ||| (1#64 <<< myAddr s), reportAt := s.tick.count + 64 })
      (setFld TRU_GSTAT_STATE 2 s))
  else s

/-- The last part is back: the version digest returns, and the lead is told (R459). -/
def rolledCheck (s : State) : State :=
  if fld s TRU_GSTAT_STATE = 3 ∧ s.tru.switched = [] then
    report 6 (setFld TRU_GSTAT_STATE 4
      (updTru (fun t => { t with rolled := t.rolled ||| (1#64 <<< myAddr s) }) (setVerd s.tru.oldVerd s)))
  else s

/-- The gathering is aborted on this device (R459). -/
def gathAbort (s : State) : State :=
  if gathOpen s then rolledCheck (raise 598 (setFld TRU_GSTAT_STATE 3 (updTru (fun t => { t with closing := false }) s)))
  else s

/-- The gathering is closed on this device. -/
def gathClose (s : State) : State :=
  setFld TRU_GATH_ID 0 (updSpn (fun n => { n with gath := 0 }) (updTru (fun t => { t with
    closing := false, abortAt := none, aloneAt := none, succ := 0, rolled := 0, fails := 0, failReport := false }) s))

/-- GATH_MEMBER_COMMIT (R458): every partition in PROBATION becomes IDLE. -/
def gathCommit (s : State) : State :=
  let s1 := forAll ((List.range 9).filter fun k => partState s k == 5) (fun k => setPart k 0) s
  gathClose (raise 597 (setFld TRU_GSTAT_STATE 5 s1))

/-- The target of a switch or roll-back is free (R454). -/
def targetFree (s : State) (k : Nat) : Bool :=
  if k = 0 then !(holdsAny s 6)
  else if k ≤ 6 then (dutiesOf s (k - 1)).isEmpty && !(holdsAny s (k - 1))
  else true

/-- A pair is held while TRU works on it, and what it stands by for loses SREADY, held before or not; a FAILED pair stays
FAILED (R92, R454). -/
def holdPair (p : Nat) (s : State) : State :=
  if pairState s p = 0 ∨ pairState s p = 4 then loseReady p s
  else setFld (PRC_STAT_STATE p) 0 (loseReady p (stopUnit ⟨Fin.ofNat 7 p, true⟩ (stopUnit ⟨Fin.ofNat 7 p, false⟩ s)))

/-- The target of a switch or roll-back stops, at the boundary or, while no tick runs, at once (R454). -/
def holdTarget (k : Nat) (s : State) : State :=
  if k = 0 then
    if s.prc.svStopped then s
    else setFld (PRC_STAT_STATE 6) 0 (updTru (fun t => { t with svSeq := none })
      (updPrc (fun r => { r with svStopped := true }) (stopUnit Who.sv s)))
  else if k ≤ 6 then holdPair (k - 1) s
  else s

/-- Load an image into a TCM. -/
def loadTcm (u : Nat) (img : List Byte) (s : State) : State :=
  match opened s img with
  | some c => wrTcms (u * 0x100000) ((Config.imageTcm c).take 0x100000) s
  | none => s

/-- Step 5 of R453: the active image of partitions 0 to 6 is loaded; SV starts on it, as SVA at its entry and SVB at
PRC_VECB6 where SYS_CFG.SV_SPLIT is set (R117; DESIGN CHOICE, log 58: no rule names SVB's start address). -/
def loadPart (k : Nat) (s : State) : State :=
  let img := imageAt s (activeAt k) k
  if k = 0 then
    let s0 := loadTcm 6 img s
    let s1 := if flag s SYS_CFG_SVSPLIT then startHalves 6 (Config.imageEntry img) s0
      else setFld (PRC_STAT_STATE 6) 1 (startUnit 6 (Config.imageEntry img) s0)
    let q := if imageSigned s img then some (Config.imageSeq img) else none
    raiseIf (pairState s 6 == 0) 410 (updTru (fun t => { t with svStart := s.tick.count, svOk := false, svSeq := q })
      (updPrc (fun r => { r with svStopped := false, svFaulted := false }) s1))
  else if k ≤ 6 then setReg (PRC_VEC (k - 1)) (Config.imageEntry img) (loadTcm (k - 1) img s)
  else s

/-- LENK of the active image. -/
def showLen (k : Nat) (s : State) : State := setFld (TRU_PART_LENK k) (ceilDiv (imageAt s (activeAt k) k).length 1024) s

/-- A roll-back ends: fallback is active again, verified and loaded (R455). -/
def rollDone (k : Nat) (s : State) : Nat × State :=
  let s1 := showLen k (copyMem (fallbackAt k) (activeAt k) (partSize k) s)
  let c := imageCode s1 (activeAt k) k
  let s2 := setPart k 0 (if c = 0 then loadPart k s1 else s1)
  let s3 := showGath (updTru (fun t => { t with switched := t.switched.filter (· != k) }) s2)
  (c, raise 599 (rolledCheck s3))

/-- Step 1 of a switch: 0 if the staged image is the one that the manifest names, and verifies (R453). -/
def stagedCode (s : State) (k : Nat) : Nat :=
  let n := SMap.get natD s.tru.staged k
  let img := rdBytes s (stagingAt k) n
  if emBad s (stagingAt k) n then 11
  else if (entryOf s k).any (fun e => img.length == e.len && (Config.sha256 img).toNat == e.hash) && imageOk s img then 0
  else 3

/-- Steps 2 and 3: active is copied to fallback, then staging to active. -/
def copied (k : Nat) (s : State) : State :=
  copyMem (stagingAt k) (activeAt k) (partSize k) (copyMem (activeAt k) (fallbackAt k) (partSize k) s)

/-- A switch ends in PROBATION, or with CODE 3, or 11 for an eMRAM error, in IDLE, active restored (R453). -/
def switchDone (k : Nat) (s : State) : Nat × State :=
  if stagedCode s k ≠ 0 then (stagedCode s k, setPart k 0 s)
  else
    let s1 := copied k s
    if imageCode s1 (activeAt k) k ≠ 0 then
      (imageCode s1 (activeAt k) k, setPart k 0 (showLen k (copyMem (fallbackAt k) (activeAt k) (partSize k) s1)))
    else
      (0, showGath (updTru (fun t => { t with switched := t.switched.filter (· != k) ++ [k] })
        (setPart k 5 (loadPart k (showLen k s1)))))

/-! ### Commands: start (R470, R471) -/

/-- Where a switch or roll-back stands at `t`: the journal state that TRU_PARTk shows (R452). -/
def runState (s : State) (r : TruRun) (t : Time) : Nat :=
  let d := t - r.startAt
  let n := r.len
  match r.op with
  | 7 =>
    if d < verifyTime n then 2 else if d < verifyTime n + copyTime n then 3
    else if d < 2 * (verifyTime n + copyTime n) then 4
    else if r.endAt = r.startAt + 2 * (verifyTime n + copyTime n) + hashTime n then 7 else 6
  | 12 => if d < copyTime n + verifyTime n then 6 else if r.part ≤ 6 then 7 else 6
  | 14 => 7
  | _ => partState s r.part

/-- TRU_PARTk as a read shows it: the state of a running step, or the recorded one. -/
def partView (s : State) (k : Nat) : Word :=
  let st := match s.tru.auto_, s.tru.run with
    | some (a, _), _ =>
      let n := (imageAt s (fallbackAt 0) 0).length
      if k = 0 then (if s.now - a < copyTime n + verifyTime n then 6 else 7) else partState s k
    | none, some r => if r.part = k then runState s r s.now else partState s k
    | none, none => partState s k
  (TRU_PART_STATE k).put st (reg s (TRU_PART k))

/-- The command's data lie in system SRAM. -/
def dataIn (a n : Nat) : Bool := decide (0x20000000 ≤ a) && decide (a + n ≤ 0x20800000)

def cmdAddr (s : State) : Nat := (reg s TRU_CMDADDR).toNat
def cmdLen (s : State) : Nat := (reg s TRU_CMDLEN).toNat

/-- Whether an OP uses PART. -/
def usesPart (op : Nat) : Bool := op == 4 || op == 5 || op == 7 || op == 8 || op == 9 || op == 12 || op == 14

/-- Go on with a command with GO = 1 that no running command and no field of its word refuses. -/
def truGate (op : Nat) (d : Word) (f : Nat → State → State) (s : State) : State :=
  if TRU_CMD_GO.of d = 0 ∨ TRU_CMD_OP.of d ≠ op then s
  else if s.tru.run.isSome ∨ s.tru.auto_.isSome then refuse 10 s
  else if bits d.toNat 20 11 ≠ 0 ∨ bits d.toNat 4 12 ≠ 0 then refuse 1 s
  else if usesPart op ∧ 8 < TRU_CMD_PART.of d then refuse 1 s
  else f (TRU_CMD_PART.of d) s

/-- The command runs for `dur`, on data of `len` bytes. -/
def truRun (op k len : Nat) (dur : Time) (s : State) : State :=
  setFld TRU_CMDST_CODE 0 (setFld TRU_CMDST_STATE 1 (updTru (fun t => { t with run := some {
    op := op, part := k, addr := cmdAddr s, len := len, startAt := s.now, endAt := s.now + dur } }) s))

/-- The command acts at once, and its status follows. -/
def truNow (op k : Nat) (f : State → State) (s : State) : State := f (truRun op k 0 (Config.truTime op) s)

/-- The slot that an install writes: one with no valid record, or the one of lower SEQ. -/
def installSlot (s : State) : Nat :=
  if !(keyValid s 0) then 0 else if !(keyValid s 1) then 1 else if keySeq s 0 < keySeq s 1 then 0 else 1

/-- The key of slot `k` signs an image: the image names its SEQ, and its signature verifies under it. -/
def signsImage (s : State) (k : Nat) (img : List Byte) : Bool :=
  Config.imageSeq img == keySeq s k &&
    Config.ecdsaOk (part (keyRec s k) 16 80) (Config.imageSigned img) (Config.imageSig img)

/-- A valid target's key signs an image of some region (R444). -/
def slotInUse (s : State) (k : Nat) : Bool :=
  keyValid s k && (List.range 9).any fun p => [activeAt p, stagingAt p, fallbackAt p].any fun a => signsImage s k (imageAt s a p)

/-- TRU_INSTALL_KEY (OP 1, R444). -/
def truInstall (s : State) : State :=
  if !(dataIn (cmdAddr s) 256) then refuse 1 s
  else
    let r := rdBytes s (cmdAddr s) 256
    let c := keyCode s r
    if c ≠ 0 then refuse c s
    else if (those 2 fun k => keyValid s k && decide (leNat (r.take 4) ≤ keySeq s k)) ≠ [] then refuse 4 s
    else if slotInUse s (installSlot s) then refuse 4 s
    else spend (updTru (fun t => { t with run := t.run.map fun x => { x with data := r } })
      (truRun 1 (installSlot s) 256 (Config.freeTime s.free % (9 * ms + 1)) s))

/-- The code with which a token is refused, 0 if it is accepted (R447). -/
def tokenCode (s : State) (r : List Byte) : Nat :=
  if slice r 0 8 ≠ Config.serial.toNat ∨ slice r 8 8 ≠ (Config.nonce s.tru.nonceN).toNat then 12
  else if (rootSlot s (part r 32 96)).isNone then 5
  else if !(Config.ecdsaOk (part r 32 96) (part r 0 96) (part r 96 160)) then 3
  else if slice r 16 1 = 0 ∨ 3 < slice r 16 1 ∨ slice r 20 4 = 0 ∨ 65535 < slice r 20 4 then 1
  else if lcState s ≠ 3 ∧ lcState s ≠ 4 then 2
  else 0

/-- An accepted token acts (R448). -/
def tokenActs (scope : Nat) (until_ : Time) (s : State) : State :=
  match scope with
  | 1 => setFld TRU_LC_TOKDBG 1 (updTru (fun t => { t with debug := some until_ }) s)
  | 2 => setLc 4 (updTru (fun t => { t with service := some until_ }) s)
  | _ => updTru (fun t => { t with ret := some until_ }) s

/-- TRU_PRESENT_TOKEN (OP 2, R446, R447). -/
def truToken (s : State) : State :=
  if !(dataIn (cmdAddr s) 160) then refuse 1 s
  else
    let r := rdBytes s (cmdAddr s) 160
    let c := tokenCode s r
    let s1 := updTru (fun t => { t with nonceN := t.nonceN + 1 }) s
    if c ≠ 0 then refuse c s1
    else truNow 2 0 (tokenActs (slice r 16 1) (s.now + slice r 20 4 * 1000 * ms)) s1

/-- TRU_LEAVE_SERVICE (OP 3, R437). -/
def truLeave (s : State) : State :=
  if lcState s = 4 then truNow 3 0 (fun x => setLc 3 (updTru (fun t => { t with service := none }) x)) s else refuse 2 s

/-- TRU_STAGE_BYTES (OP 4, R452). -/
def truStage (k : Nat) (s : State) : State :=
  let have_ := if partState s k = 1 then SMap.get natD s.tru.staged k else 0
  if 1 < partState s k then refuse 6 s
  else if !(dataIn (cmdAddr s) (cmdLen s)) || decide (partSize k < have_ + cmdLen s) then refuse 1 s
  else truRun 4 k (cmdLen s) (cmdLen s * ms / 65536)
    (setPart k 1 (updTru (fun t => { t with staged := SMap.set natD t.staged k have_ }) s))

/-- TRU_SEAL (OP 5, R452). -/
def truSeal (k : Nat) (s : State) : State :=
  if partState s k ≠ 1 then refuse 6 s
  else if !(dataIn (cmdAddr s) 32) then refuse 1 s
  else truRun 5 k 32 (hashTime (SMap.get natD s.tru.staged k)) s

/-- The orders of a manifest's entries ascend; entries of one order, of different devices, may follow each other (DEDUCED,
log 46). -/
def ascending (es : List MEntry) : Bool :=
  match es with
  | a :: b :: r => decide (a.order ≤ b.order) && ascending (b :: r)
  | _ => true

/-- The serial numbers of the devices of the ring, this one first. -/
def ringSerials (s : State) : List Nat :=
  Config.serial.toNat :: ((addrsOf (memberMap s)).filter fun a => a != myAddr s).map (serialOf s)

/-- The form of a manifest: its length, its ID, its reserved bytes, the ascending orders, and an entry for each
partition of every device of the ring (R456). -/
def manifestOk (s : State) (m : List Byte) (n : Nat) : Bool :=
  n == 16 + 48 * slice m 8 2 + 64 && slice m 0 4 != 0 && slice m 10 6 == 0 && ascending (mEntries m) &&
  (ringSerials s).all fun v => (List.range 9).all fun k => (entriesFor m v).any fun e => e.part == k

/-- The device's gathering opens on a manifest. -/
def gathStart (m : List Byte) (s : State) : State :=
  let s1 := updTru (fun t => { t with
    manifest := m, switched := [], okParts := [], failedParts := [], oldVerd := s.spn.verd, succ := 0, rolled := 0, fails := 0
    failReport := false
    aloneAt := none, closing := false, abortAt := none }) s
  let s2 := setFld TRU_GSTAT_STATE 1 (setFld TRU_GATH_ID (slice m 0 4) s1)
  let s3 := updSpn (fun n => { n with gath := BitVec.ofNat 32 (slice m 0 4) }) s2
  let s4 := if (changedParts s3).isEmpty then setVerd (digestOf m) s3 else s3
  raise 596 (gathCheck (showGath s4))

/-- TRU_OPEN_MANIFEST (OP 6, R456, R457). -/
def truOpen (s : State) : State :=
  let n := cmdLen s
  if !(dataIn (cmdAddr s) n) then refuse 1 s
  else
    let m := rdBytes s (cmdAddr s) n
    if !(manifestOk s m n) then refuse 1 s
    else if !(signedBy s (slice m 4 4) (m.take (n - 64)) (m.drop (n - 64))) then refuse 3 s
    else if fld s TRU_GATH_ID ≠ 0 then refuse 8 s
    else if isFollower s ∧ (match s.spn.sig with | some g => decide (g.gath.toNat = slice m 0 4) | none => false) = false
      then refuse 8 s
    else truNow 6 0 (gathStart m) s

/-- Duration of a switch of `n` bytes (R453): up to the step at which it fails, with the copy that restores active. -/
def switchTime (s : State) (k n : Nat) : Time :=
  if stagedCode s k ≠ 0 then verifyTime n
  else if imageCode (copied k s) (activeAt k) k ≠ 0 then 2 * verifyTime n + 2 * copyTime n + copyTime (imageAt s (activeAt k) k).length
  else 2 * copyTime n + 2 * verifyTime n + (if k ≤ 6 then hashTime n else 0)

/-- Every changed part that goes before part `k` in manifest order has been reported (R457). -/
def earlierReported (s : State) (k : Nat) : Bool :=
  ((changedParts s).takeWhile (· != k)).all fun p => s.tru.okParts.contains p || s.tru.failedParts.contains p

/-- TRU_SWITCH (OP 7, R453, R454). A part out of manifest order, or before the report of the one before, is refused with
CODE 6 (R457; DESIGN CHOICE, log 46: no rule names the code). -/
def truSwitch (k : Nat) (s : State) : State :=
  match entryOf s k with
  | none => refuse 8 s
  | some e =>
    if !(gathOpen s) || e.unchanged then refuse 8 s
    else if partState s k ≠ 2 || !(earlierReported s k) then refuse 6 s
    else if !(targetFree s k) then refuse 7 s
    else
      let first := s.tru.switched.isEmpty
      let s1 := if first then setVerd (digestOf s.tru.manifest) s else s
      let s2 := if ticking s then s1 else holdTarget k s1
      truRun 7 k e.len (switchTime s k e.len) s2

/-- TRU_REPORT_OK (OP 8, R457). -/
def truOk (k : Nat) (s : State) : State :=
  if !(gathOpen s) then refuse 8 s
  else if partState s k ≠ 5 then refuse 6 s
  else truNow 8 k (fun x => gathCheck (showGath (updTru (fun t => { t with
    okParts := t.okParts.filter (· != k) ++ [k], svOk := t.svOk || k == 0 }) x))) s

/-- TRU_REPORT_FAILED (OP 9, R457): the lead is told, and a gathering that was all OK is so no more. -/
def truFailed (k : Nat) (s : State) : State :=
  if !(gathOpen s) then refuse 8 s
  else truNow 9 k (fun x => report 8 (showGath (updTru (fun t => { t with
    failedParts := t.failedParts.filter (· != k) ++ [k], okParts := t.okParts.filter (· != k)
    succ := t.succ &&& ~~~(1#64 <<< myAddr s), fails := t.fails ||| (1#64 <<< myAddr s) }) (setFld TRU_GSTAT_STATE 1 x)))) s

/-- Every member's report of a kind is held, this device's own included. -/
def allReports (s : State) (m : BitVec 64) : Bool :=
  m.getLsbD (myAddr s) && (addrsOf (memberMap s)).all fun a => m.getLsbD a

/-- TRU_COMMIT (OP 10, R458). -/
def truCommit (s : State) : State :=
  if isFollower s then refuse 9 s
  else if !(gathOpen s) || fld s TRU_GSTAT_STATE != 2 || !(allReports s s.tru.succ) then refuse 8 s
  else truNow 10 0 (fun x =>
    if ticking x then updTru (fun t => { t with closing := true }) x else gathCommit x) s

/-- TRU_ABORT (OP 11, R459). -/
def truAbort (s : State) : State :=
  if isFollower s then refuse 9 s
  else if !(gathOpen s) then refuse 8 s
  else truNow 11 0 (fun x => gathAbort (updTru (fun t => { t with abortAt := some x.now }) x)) s

/-- Duration of a roll-back of partition `k` (R455). -/
def rollTime (s : State) (k : Nat) : Time :=
  let n := (imageAt s (fallbackAt k) k).length
  copyTime n + verifyTime n + (if k ≤ 6 then hashTime n else 0)

/-- TRU_ROLLBACK (OP 12, R455). In an aborted gathering the parts go back in reverse manifest order; another one is
refused with CODE 6 (R459; DESIGN CHOICE, log 46: no rule names the code). -/
def truRoll (k : Nat) (s : State) : State :=
  if partState s k ≠ 5 || (fld s TRU_GSTAT_STATE == 3 && s.tru.switched.getLast? != some k) then refuse 6 s
  else if !(targetFree s k) then refuse 7 s
  else truRun 12 k (imageAt s (fallbackAt k) k).length (rollTime s k) (if ticking s then s else holdTarget k s)

/-- TRU_WRITE_CAL_RECORD (OP 13, R436, R443). -/
def truCal (s : State) : State :=
  let n := cmdLen s
  let r := rdBytes s (cmdAddr s) n
  if lcState s ≠ 1 ∧ lcState s ≠ 4 then refuse 2 s
  else if !(dataIn (cmdAddr s) n) || decide (0x31E80000 < calAt + n) then refuse 1 s
  else if !(imageSigned s r) then refuse 3 s
  else truRun 13 0 n (copyTime n) s

/-- TRU_LOAD_PAIR (OP 14, R451). -/
def truLoad (k : Nat) (s : State) : State :=
  let n := (imageAt s (activeAt k) k).length
  if k = 0 ∨ 6 < k ∨ hasUnit s (k - 1) = false then refuse 1 s
  else if 4 < lcState s then refuse 2 s
  else if pairState s (k - 1) ≠ 0 then refuse 7 s
  else truRun 14 k n (verifyTime n + hashTime n) s

/-- TRU_CMD_INVALID (R471): OP 0 or 15. -/
def truInvalid (d : Word) (s : State) : State :=
  if TRU_CMD_GO.of d = 0 ∨ (TRU_CMD_OP.of d ≠ 0 ∧ TRU_CMD_OP.of d ≠ 15) then s
  else if s.tru.run.isSome ∨ s.tru.auto_.isSome then refuse 10 s else refuse 1 s

def execTruInstallKey (d : Word) (s : State) : Out := .next (truGate 1 d (fun _ => truInstall) s)
def execTruPresentToken (d : Word) (s : State) : Out := .next (truGate 2 d (fun _ => truToken) s)
def execTruLeaveService (d : Word) (s : State) : Out := .next (truGate 3 d (fun _ => truLeave) s)
def execTruStageBytes (d : Word) (s : State) : Out := .next (truGate 4 d truStage s)
def execTruSeal (d : Word) (s : State) : Out := .next (truGate 5 d truSeal s)
def execTruOpenManifest (d : Word) (s : State) : Out := .next (truGate 6 d (fun _ => truOpen) s)
def execTruSwitch (d : Word) (s : State) : Out := .next (truGate 7 d truSwitch s)
def execTruReportOk (d : Word) (s : State) : Out := .next (truGate 8 d truOk s)
def execTruReportFailed (d : Word) (s : State) : Out := .next (truGate 9 d truFailed s)
def execTruCommit (d : Word) (s : State) : Out := .next (truGate 10 d (fun _ => truCommit) s)
def execTruAbort (d : Word) (s : State) : Out := .next (truGate 11 d (fun _ => truAbort) s)
def execTruRollback (d : Word) (s : State) : Out := .next (truGate 12 d truRoll s)
def execTruWriteCalRecord (d : Word) (s : State) : Out := .next (truGate 13 d (fun _ => truCal) s)
def execTruLoadPair (d : Word) (s : State) : Out := .next (truGate 14 d truLoad s)
def execTruCmdInvalid (d : Word) (s : State) : Out := .next (truInvalid d s)

/-- An applied TRU_CMD entry, by its OP. -/
def truCommand (d : Word) (s : State) : State :=
  let all : List (Nat × (Nat → State → State)) :=
    [(1, fun _ => truInstall), (2, fun _ => truToken), (3, fun _ => truLeave), (4, truStage), (5, truSeal),
     (6, fun _ => truOpen), (7, truSwitch), (8, truOk), (9, truFailed), (10, fun _ => truCommit),
     (11, fun _ => truAbort), (12, truRoll), (13, fun _ => truCal), (14, truLoad)]
  match all.find? fun e => e.1 == TRU_CMD_OP.of d with
  | some (op, f) => truGate op d f s
  | none => truInvalid d s

/-! ### Commands: completion -/

/-- Step 3 to 6 of an install (R444): the target's commit word is cleared, the record written, read back and verified
again, and only then committed. -/
def installDone (r : TruRun) (s : State) : Nat × State :=
  let s1 := emWrite (keyAt r.part) r.data (emWrite (keyAt r.part + 256) (leBytes 8 0) s)
  let c := if emBad s1 (keyAt r.part) 256 || keyRec s1 r.part != r.data then 11 else keyCode s1 (keyRec s1 r.part)
  if c = 0 then (0, raise 600 (showKeys (emWrite (keyAt r.part + 256) (commitOf r.data) s1))) else (c, showKeys s1)

/-- What a command does as it completes, with its code. -/
def truFinish (r : TruRun) (s : State) : Nat × State :=
  let k := r.part
  match r.op with
  | 1 => installDone r s
  | 4 =>
    let n := SMap.get natD s.tru.staged k
    (0, updTru (fun t => { t with staged := SMap.set natD t.staged k (n + r.len) })
      (emWrite (stagingAt k + n) (rdBytes s r.addr r.len) s))
  | 5 =>
    let h := Config.sha256 (rdBytes s (stagingAt k) (SMap.get natD s.tru.staged k))
    if emBad s (stagingAt k) (SMap.get natD s.tru.staged k) then (11, setPart k 0 s)
    else if h.toNat = (rdBytes s r.addr 32).foldl (fun n b => 256 * n + b.toNat) 0 then
      (0, setPart k 2 (updTru (fun t => { t with sealed := SMap.set (fun _ => 0#256) t.sealed k h }) s))
    else (3, setPart k 0 s)
  | 7 => switchDone k s
  | 12 => rollDone k s
  | 13 => (0, emWrite calAt (rdBytes s r.addr r.len) s)
  | 14 =>
    let c := imageCode s (activeAt k) k
    (c, if c = 0 then loadPart k s else s)
  | _ => (0, s)

/-- TRU_CMD_DONE (R471): the running command, or TRU's own roll-back, completes. -/
def execTruCmdDone (t : Time) (s : State) : Out :=
  let s1 := upto t s
  .next (match s.tru.auto_, s.tru.run with
  | some (_, e), _ =>
    if e ≤ t then (rollDone 0 (updTru (fun x => { x with auto_ := none }) s1)).2 else s1
  | none, some r =>
    if t < r.endAt then s1
    else
      let (c, s2) := truFinish r (updTru (fun x => { x with run := none }) s1)
      if c = 0 then raise 592 (setFld TRU_CMDST_CODE 0 (setFld TRU_CMDST_STATE 2 s2)) else refuse c s2
  | none, none => s1)

/-- TRU_PROB_TIMEOUT (R455): SV in probation has not reported in time, or has met a permanent-class fault; TRU rolls
partition 0 back by itself. -/
def execTruProbTimeout (s : State) : Out :=
  let late := !s.tru.svOk && decide (s.tru.svStart + fld s TRU_PROBT_VALUE ≤ s.tick.count)
  .next (if partState s 0 = 5 ∧ s.tru.auto_ = none ∧ (late = true ∨ s.prc.svFaulted = true) then
    let s1 := updTru (fun t => { t with auto_ := some (s.now, s.now + rollTime s 0) }) s
    raise 595 (if ticking s then s1 else holdTarget 0 s1)
  else s)

/-- GATH_TIMEOUT (R459): a member has run standalone for TRU_GTMO ms. One that has rolled back by then, which no lead's
tick signature closes, closes its gathering (DESIGN CHOICE, log 46). -/
def execGathTimeout (t : Time) (s : State) : Out :=
  let s1 := upto t s
  .next (match s.tru.aloneAt with
  | some u => if s.spn.role = 0 ∧ u + fld s TRU_GTMO_VALUE * ms ≤ t then
      (if fld s TRU_GSTAT_STATE = 4 then gathClose s1 else gathAbort s1) else s1
  | none => s1)

/-- GATH_ROLLBACK_TIMEOUT (R459): the lead closes an aborted gathering TRU_GTMO ms after its abort. -/
def execGathRollbackTimeout (t : Time) (s : State) : Out :=
  let s1 := upto t s
  .next (match s.tru.abortAt with
  | some u => if u + fld s TRU_GTMO_VALUE * ms ≤ t then gathClose s1 else s1
  | none => s1)

/-- The success report is repeated every 64 ticks while the gathering is open (R457). -/
def reportAgain (s : State) : State :=
  if gathOpen s && fld s TRU_GSTAT_STATE == 2 && isFollower s && decide (s.tru.reportAt ≤ s.tick.count) then
    report 5 (updTru (fun t => { t with reportAt := s.tick.count + 64 }) s)
  else s

/-- A device that started with a gathering open reports failure once it is a member again (R460). -/
def reportFailure (s : State) : State :=
  if s.tru.failReport && isFollower s then report 8 (updTru (fun t => { t with failReport := false }) s) else s

/-- What TRU does at a boundary: the stop of a target, the commit that a tick signature has announced, ABORT every
tick, the close of a rolled-back gathering, the reports to the lead, and the count of a member's standalone time. -/
def truBoundary (s : State) : State :=
  let s1 := match s.tru.auto_, s.tru.run with
    | some _, _ => holdTarget 0 s
    | none, some r => if r.op = 7 ∨ r.op = 12 then holdTarget r.part s else s
    | none, none => s
  let s2 := if s1.tru.closing && (!(isLead s1) || s1.spn.sigSeen) then gathCommit s1 else s1
  let s3 :=
    if s2.tru.abortAt.isNone then s2
    else if allReports s2 s2.tru.rolled then gathClose s2
    else forAll ((addrsOf (memberMap s2)).filter fun a => a != myAddr s2) (fun a => sendMgmt a Config.abortBytes) s2
  updTru (fun t => { t with
    aloneAt := if s3.spn.role = 0 ∧ fld s3 TRU_GATH_ID ≠ 0 then some (t.aloneAt.getD s3.now) else none })
    (reportFailure (reportAgain s3))

end Sys2Proof.Machine
end

