-- ==== Sys2Proof/Machine/Power.lean ====
section
/-! DEFINITION. Device reset and boot, the bank monitors, the logic-supply hand-over, the die temperature, and the
pins that show them (R449 to R451, R460, R478 to R494). -/

namespace Sys2Proof.Machine
open Sys2Proof

/-! ### Reset (R481, R435, R448, R453) -/

/-- Code of PWR_RSTC.CAUSE. -/
def rstCode : RstCause → Nat
  | .powerUp _ _ => 0
  | .porst => 1
  | .reset => 2
  | .vdd _ => 3
  | .vddmSd => 4
  | .io18 => 5
  | .io33 _ => 6

/-- VDD or VDDIO33 leaves its range, and how it comes back: the hand-over logic stops meanwhile (R483). -/
def railsLost : RstCause → Option Rails
  | .powerUp _ r => some r
  | .vdd r => some r
  | .io33 r => some r
  | _ => none

/-- The bank voltages, which the device detects at power-up and keeps otherwise (R229). -/
def banksAt (s : State) : RstCause → Nat
  | .powerUp b _ => if is9610 s then b.toNat else b.toNat % 256
  | _ => fld s PWR_BANK_IOV

/-- The hand-over logic from the instant at which the rails come into range: SRC_SEL selects main if MAIN_OK is high, else
backup if BKUP_OK is high, else main (R483). The levels at that instant count as accepted (DESIGN CHOICE, log 62). -/
def railsBack (r : Rails) (t : Time) : PwrSt :=
  let u := max t r.from_
  { railsFrom := u, mainOk := r.mainOk, bkupOk := r.bkupOk, src := !r.mainOk && r.bkupOk
    mainSince := if r.mainOk then some u else none }

/-- Reset, supplies and temperature once reset has been entered at `t`; the 1 ms of the release is counted from `t`, or
from the rails' return (R481). -/
def pwrReset (k : RstCause) (t : Time) (p : PwrSt) : PwrSt :=
  let q := match railsLost k with | some r => railsBack r t | none => p
  { q with inReset := true, resetEnd := max t q.railsFrom + ms, booting := false, ts := [], therm := false }

/-- What a reset that strikes a running TRU command leaves for the boot ROM to complete (R453). -/
def interrupted (s : State) (t : Time) : Option (Nat × Bool) :=
  match s.tru.auto_, s.tru.run with
  | some _, _ => some (0, true)
  | none, some r =>
    if r.op = 7 ∧ runState s r t ≠ 2 then some (r.part, false)
    else if r.op = 12 then some (r.part, true)
    else s.tru.resume
  | none, none => s.tru.resume

/-- The target slot of an install that a reset strikes (R444): the old slot, a cleared or broken commit word, or the
new record whole; which of them, the step at which it strikes decides. -/
def installCut (r : TruRun) (s : State) : State :=
  let a := keyAt r.part
  let s1 := spend s
  match (freeWord s).toNat % 4 with
  | 0 => s1
  | 1 => emWrite (a + 256) (leBytes 8 0) s1
  | 2 => { s1 with eccBad := SMap.set falseD s1.eccBad ((a + 256) / 8) true }
  | _ => emWrite a (r.data ++ commitOf r.data) s1

/-- A write of bytes to eMRAM that a reset strikes after `n` whole words: the word that it strikes reads as the old
word, as the new one, or as one with an uncorrectable error (R440). -/
def writeCut (a n : Nat) (bs : List Byte) (s : State) : State :=
  let s1 := spend (emWrite a (bs.take (8 * n)) s)
  let w := (bs.drop (8 * n)).take 8
  if w = [] then s1
  else match (freeWord s).toNat % 3 with
    | 0 => s1
    | 1 => emWrite (a + 8 * n) w s1
    | _ => { s1 with eccBad := SMap.set falseD s1.eccBad ((a + 8 * n) / 8) true }

/-- What a reset at `t` leaves of a TRU command that writes eMRAM (R440, R444). The copies of a switch or a roll-back,
and their struck words with them, are written again by the boot ROM (R453). -/
def runCut (t : Time) (s : State) : State :=
  match s.tru.run with
  | some r =>
    let d := t - r.startAt
    let bs := rdBytes s r.addr r.len
    if r.op = 1 then installCut r s
    else if r.op = 4 then writeCut (stagingAt r.part + SMap.get natD s.tru.staged r.part) (d * 8192 / ms) bs s
    else if r.op = 13 then writeCut calAt (d * 8388608 / 32000000000) bs s
    else s
  | none => s

/-- The device in reset: eMRAM, OTP, the journals, the hand-over logic and the time stay; all else is as after
power-up, and every gate is low. -/
def resetState (k : RstCause) (t : Time) (s0 : State) : State :=
  let s := runCut t s0
  let o := s.tru
  let kept := s.regs.filter fun e => (decide (TRU_PART 0 ≤ e.1) && decide (e.1 < TRU_PART 10)) || e.1 == TRU_GATH
  let d : State := {
    pending := s.pending, variant := s.variant, now := max s.now t, free := s.free, regs := kept
    saf := { stoAt := some t }
    mem := s.mem.filter fun e => decide (0x30000000 ≤ e.1) && decide (e.1 < 0x32000000)
    eccBad := s.eccBad.filter fun e => decide (0x6000000 ≤ e.1) && decide (e.1 < 0x6400000)
    tru := {
      otp := o.otp, rootHash := o.rootHash, prog := o.prog, rev := o.rev, devKey := o.devKey
      nonceN := o.nonceN, erased := o.erased, eraseEnd := o.eraseEnd, resume := interrupted s0 t
      staged := o.staged, sealed := o.sealed, manifest := o.manifest, switched := o.switched
      failedParts := o.failedParts, oldVerd := o.oldVerd, recVerd := o.recVerd, svOk := o.svOk }
    pwr := pwrReset k t s.pwr }
  showPool <| setFld PWR_BANK_IOV (banksAt s k) <| setFld PWR_RSTC_CAUSE (rstCode k)
    (setFld TRU_OTP_REV o.rev.toNat (setFld TRU_OTP_PROG o.prog.toNat
    (setFld SYS_LCM_STATE (otpLc o) (setFld TRU_LC_STATE (otpLc o) d))))

/-- RESET_ASSERT (R481): a reset pin has been low for 1 µs, or a monitor reports its rail low. A cause that arises in a
running reset prolongs it; PWR_RSTC keeps the cause that entered the reset, but for a power-up (DESIGN CHOICE, log 62). -/
def execResetAssert (k : RstCause) (t : Time) (s : State) : Out :=
  .next (if s.pwr.inReset then
    let c := match k with | .powerUp _ _ => 0 | _ => fld s PWR_RSTC_CAUSE
    setFld PWR_BANK_IOV (banksAt s k) (setFld PWR_RSTC_CAUSE c (updPwr (pwrReset k (max s.now t)) (upto t s)))
  else resetState k t s)

/-- Complete what a reset interrupted (R453). -/
def resumeWork (s : State) : State :=
  match s.tru.resume with
  | some (k, roll) =>
    let s1 := setFld TRU_BOOTST_RESUMED 1 (updTru (fun t => { t with resume := none }) s)
    if roll then (rollDone k s1).2 else (switchDone k s1).2
  | none => s

/-- With a gathering open, every partition in PROBATION rolls back during boot, the last one switched first; the
gathering is then rolled back here, and its failure is to be reported to the ring (R459, R460). -/
def bootRoll (s : State) : State :=
  if fld s TRU_GATH_ID = 0 then s
  else
    let on := fun (k : Nat) => partState s k == 5
    let ks := s.tru.switched.reverse.filter on ++ (List.range 9).filter fun k => on k && !(s.tru.switched.contains k)
    let s1 := forAll ks (fun k x => (rollDone k x).2) (setFld TRU_GSTAT_STATE 3 s)
    rolledCheck (updTru (fun t => { t with switched := [], failReport := true }) s1)

/-- RESET_RELEASE (R481, R449): 1 ms after the last reset condition ended the device leaves reset and the boot ROM
starts: the life-cycle state is known, BLANK advances, an incomplete erase resumes, the key slots are verified and
interrupted work is completed. -/
def execResetRelease (t : Span) (s : State) : Out :=
  let s1 := upto t.till s
  .next (if s.pwr.inReset ∧ s.pwr.resetEnd ≤ t.since + ms ∧ t.since + ms ≤ t.till then
    let s2 := updPwr (fun p => { p with inReset := false, booting := true }) s1
    let s3 := raiseIf (decide (otpLc s.tru = 0)) 594
      (updTru (fun x => { if otpLc x = 0 then programStep 1 x else x with nonceN := x.nonceN + 1 }) s2)
    let lc := otpLc s3.tru
    let s4 := setFld SYS_LCM_STATE lc (setFld TRU_LC_STATE lc s3)
    if lc = 5 ∧ s.tru.erased = false then
      setFld TRU_BOOTST_CAUSE 5 (updTru (fun x => { x with eraseEnd := t.till + 500 * ms, resume := none }) s4)
    else bootRoll (resumeWork (showKeys s4))
  else s1)

/-- SV starts on the active image, with what the boot ROM loads beside it (R449). -/
def startSv (cause : Nat) (s : State) : State :=
  let img := imageAt s (activeAt 0) 0
  let s1 := setFld TRU_BOOTST_CAUSE cause (setFld SYS_CFG_SVSPLIT (b2n (Config.imageSvSplit img)) s)
  loadPart 0 (updSpn (fun n => { n with verd := s.tru.recVerd, gath := BitVec.ofNat 32 (fld s TRU_GATH_ID) }) s1)

/-- The boot ROM stops without starting an image (R450). -/
def bootStop (cause : Nat) (s : State) : State :=
  setFld TRU_BOOTST_CAUSE cause (setFld (PRC_STAT_STATE 6) 0 (updPrc (fun r => { r with svStopped := true }) s))

/-- BOOT_COMPLETE (R449, R450): the SV image is verified, loaded and started, or the ROM stops with a cause. -/
def execBootComplete (t : Time) (s : State) : Out :=
  let s1 := upto t s
  .next (if !s.pwr.booting || s.pwr.inReset || (lcState s == 5 && !s.tru.erased) then s1
  else
    let s2 := updPwr (fun p => { p with booting := false }) s1
    if lcState s = 6 then bootStop 4 s2
    else if lcState s ≠ 1 ∧ (keyValid s 0 || keyValid s 1) = false then bootStop 2 s2
    else if imageCode s2 (activeAt 0) 0 = 0 then startSv 0 s2
    else
      let s3 := showLen 0 (copyMem (fallbackAt 0) (activeAt 0) (partSize 0) s2)
      if imageCode s3 (activeAt 0) 0 = 0 then startSv 1 s3 else bootStop 3 s3)

/-! ### Bank monitors (R482) -/

/-- PWR_BANK_BOR (R482): VDDGCc leaves its range, which acts as FLTc held low for FLT_HARD_T. -/
def execPwrBankBor (c : Fin 16) (t : Time) (s : State) : Out :=
  let s1 := upto t s
  .next (if hasCluster s c.val then
    let x := cl s c.val
    let s2 := raise 612 (setFldBit PWR_BANK_BOR c.val true s1)
    let s3 := updCl c.val (fun y => { y with low := x.low, lowAt := x.lowAt, hardDone := x.hardDone }) (fltFall c.val t s2)
    raise (96 + c.val) (forAll (clGrps s c.val) (hardHold t) s3)
  else s1)

/-! ### Logic-supply hand-over (R483 to R488) -/

/-- The hand-over logic is enabled. -/
def hoEn (s : State) : Bool := lflag s PWR_CTRL_HOEN
/-- The accepted OK of the selected source, and of the other one. -/
def selOk (p : PwrSt) : Bool := if p.src then p.bkupOk else p.mainOk
def othOk (p : PwrSt) : Bool := if p.src then p.mainOk else p.bkupOk

/-- A hand-over starts at `t`; HOLD_REQ rises within 50 ns, unless it is high. -/
def hoStart (forced : Bool) (t : Time) (s : State) : State :=
  let d := if s.pwr.holdReq then 0 else Config.freeTime s.free % (50 * ns + 1)
  raise 608 (spend (updPwr (fun p => { p with stage := .hold, forced := forced, stageAt := t + d, holdReq := true }) s))

/-- With the selected source lost, a forced hand-over starts, or both are lost (R485, R487). -/
def hoCheck (t : Time) (s : State) : State :=
  if selOk s.pwr then s
  else if othOk s.pwr then hoStart true t s
  else raise 611 (updPwr (fun p => { p with stage := .lost, holdReq := true }) s)

/-- A level held since `since` passes the filter of OKF × 62.5 ns at `t` (R483). -/
def okHeld (s : State) (since t : Time) : Bool := decide (since + lfld s PWR_CTRL_OKF * 2000 ≤ t)

/-- OK_ACCEPT (R483, R485, R487): MAIN_OK, or with `bkup` BKUP_OK, has held the level `v`, and is accepted. -/
def execOkAccept (bkup v : Bool) (t : Span) (s : State) : Out :=
  let s1 := upto t.till s
  .next (if (if bkup then s.pwr.bkupOk else s.pwr.mainOk) = v ∨ okHeld s (max t.since s.pwr.railsFrom) t.till = false then s1
  else
    let s2 := updPwr (fun p => { p with
      mainOk := if bkup then p.mainOk else v
      bkupOk := if bkup then v else p.bkupOk
      mainSince := if bkup then p.mainSince else if v then some t.till else none }) s1
    let sel := s.pwr.src == bkup
    if !(hoEn s) then s2
    else match s.pwr.stage with
      | .idle => if sel && !v then hoCheck t.till s2 else s2
      | .lost =>
        if !v then s2
        else if sel then updPwr (fun p => { p with stage := .idle, holdReq := false }) s2
        else hoStart true t.till s2
      | _ => s2)

/-- Main has been accepted good for 20 ms without a break, and 50 ms have passed since the last hand-over. -/
def good20 (p : PwrSt) (t : Time) : Bool :=
  p.mainOk && (match p.mainSince with | some u => decide (u + 20 * ms ≤ t) | none => false)
def dwelling (p : PwrSt) (t : Time) : Bool :=
  match p.doneAt with | some u => decide (t < u + 50 * ms) | none => false

/-- HO_RETURN_START (R486). -/
def execHoReturnStart (t : Time) (s : State) : Out :=
  let s1 := upto t s
  let p := s.pwr
  .next (if hoEn s && p.src && decide (p.stage = .idle) && !(dwelling p t) && good20 p t then hoStart false t s1 else s1)

/-- HO_SWITCH (R484, R486): THLD after HOLD_REQ rose, SRC_SEL changes; a return whose MAIN_OK pin is low is skipped. -/
def execHoSwitch (mainPin : Bool) (t : Time) (s : State) : Out :=
  let s1 := upto t s
  let p := s.pwr
  .next (if hoEn s && decide (p.stage = .hold) && decide (p.stageAt + lfld s PWR_CTRL_THLD * us ≤ t) then
    if !p.forced && !mainPin then
      hoCheck t (raise 610 (incFld PWR_HOCNT_SKIP (updPwr (fun q => { q with
        stage := .idle, holdReq := false, mainSince := q.mainSince.map fun _ => t }) s1)))
    else updPwr (fun q => { q with stage := .settle, src := !q.src }) s1
  else s1)

/-- PWR_HO_DONE (R484): TSET after the switch HOLD_REQ falls and the hand-over is complete. -/
def execPwrHoDone (t : Time) (s : State) : Out :=
  let s1 := upto t s
  let p := s.pwr
  .next (if hoEn s && decide (p.stage = .settle) &&
      decide (p.stageAt + (lfld s PWR_CTRL_THLD + lfld s PWR_CTRL_TSET) * us ≤ t) then
    hoCheck t (raise 609 (incFld PWR_HOCNT_DONE (updPwr (fun q => { q with
      stage := .idle, holdReq := false, doneAt := some t }) s1)))
  else s1)

/-! ### Temperature (R492) -/

/-- The signed thresholds, in °C. -/
def thermHi (s : State) : Int := toSigned (lfld s PWR_THERM_HI) 8
def thermLo (s : State) : Int := toSigned (lfld s PWR_THERM_LO) 8

/-- THERM_ASSERT (R492): sensor `k` reads `deg`. -/
def execThermAssert (k : Fin 4) (deg : BitVec 8) (t : Time) (s : State) : Out :=
  let s1 := updPwr (fun p => { p with ts := SMap.set (fun _ => 0#8) p.ts k.val deg }) (upto t s)
  .next (if !s.pwr.therm && decide (thermHi s < deg.toInt) then raise 613 (updPwr (fun p => { p with therm := true }) s1) else s1)

/-- THERM_RELEASE (R492): the four sensors read as given. -/
def execThermRelease (t0 t1 t2 t3 : BitVec 8) (t : Time) (s : State) : Out :=
  let put := fun (k : Nat) (v : BitVec 8) (x : State) => updPwr (fun p => { p with ts := SMap.set (fun _ => 0#8) p.ts k v }) x
  let s1 := put 3 t3 (put 2 t2 (put 1 t1 (put 0 t0 (upto t s))))
  .next (if s.pwr.therm && [t0, t1, t2, t3].all (fun v => decide (v.toInt < thermLo s)) then
    raise 614 (updPwr (fun p => { p with therm := false }) s1) else s1)

/-! ### Views and pins -/

/-- PWR_STAT as a read shows it (R493). -/
def pwrStat (s : State) : Word :=
  let p := s.pwr
  BitVec.ofNat 32 (b2n p.mainOk + 2 * b2n p.bkupOk + 4 * b2n p.src +
    8 * b2n (decide (p.stage = .hold) || decide (p.stage = .settle)) + 16 * b2n (dwelling p s.now) + 32 * b2n (good20 p s.now))

/-- The levels of DEVFLT_N, RSTOUT_N and THERM_N (R478, R481, R492, R493). -/
def devfltN (s : State) : Bool := flag s PWR_OUT_FLTN && !s.pwr.inReset && s.saf.sstate == 1
def rstoutN (s : State) : Bool := !s.pwr.inReset
def thermN (s : State) : Bool := !s.pwr.therm && !s.pwr.inReset

/-- The signal groups of R478 with more than one state. -/
inductive PinGroup where
  /-- GHx and GLx of a leg; PCKc and PDTc of a cluster; BSCKk. -/
  | gate (l : Nat) | profileClock (c : Nat) | profileData (c : Nat) | clock (k : Nat)
  /-- REFOUT and REFC0 to REFC7; FBXf; SCKp, Dp and RCKp; CSELp and CSTBp. -/
  | reference | serialClock (f : Nat) | serialPort (p : Nat) | select (p : Nat)
  /-- CANTXn and CANSTBn; SPpTXP and SPpTXN; SRC_SEL and HOLD_REQ; CLKOUT; DTDO; TRCLK and TRD0 to TRD15. -/
  | canTx (n : Nat) | spine (p : Nat) | supply | clkout | debugOut | trace
  deriving DecidableEq, Repr

/-- The state of a group at rest; a ball of an absent instance is a no-connect (R8). -/
inductive PinRest where
  | low | high | input | inputUp | inputDown | highZ | pulledDown | off | noConnect
  deriving DecidableEq, Repr

/-- The part has the balls of the group connected (R8, R477). -/
def pinPresent (s : State) : PinGroup → Bool
  | .gate l => hasLeg s l
  | .profileClock c => hasCluster s c
  | .profileData c => hasCluster s c
  | .clock k => hasClk s k
  | .serialClock f => hasPort s f
  | .serialPort p => decide (p < 4)
  | .select p => decide (p < 4)
  | .canTx n => hasCan s n
  | .spine p => hasSp s p
  | _ => true

/-- The state that each group holds from power-up and in reset (R478). -/
def pinRest : PinGroup → PinRest
  | .gate _ => .low
  | .profileClock _ => .low
  | .profileData _ => .inputUp
  | .clock _ => .input
  | .reference => .off
  | .serialClock _ => .input
  | .serialPort _ => .inputDown
  | .select _ => .inputUp
  | .canTx _ => .high
  | .spine _ => .off
  | .supply => .pulledDown
  | .clkout => .low
  | .debugOut => .highZ
  | .trace => .low

/-- The condition that ends the state at rest of a group (R478). -/
def pinActs (s : State) : PinGroup → Bool
  | .gate _ => ticking s
  | .profileClock _ => ticking s
  | .profileData _ => ticking s
  | .clock k => lflag s (BSI_CLK_DIR k)
  | .reference => ticking s
  | .serialClock f => lflag s (FBK_P_CFG_EN f) && lfld s (FBK_P_CFG_MODE f) == 2
  | .serialPort p => lflag s (QSP_CFG_EN p)
  | .select p => lflag s (QSP_CFG_EN p)
  | .canTx n => lflag s (CAN_CFG_EN n)
  | .spine p => lflag s SPN_CTRL_EN && bitOf (lfld s SPN_CTRL_PEN) p
  | .supply => decide (s.pwr.railsFrom ≤ s.now)
  | .clkout => lflag s PWR_CTRL_CLKOEN
  | .debugOut => dbgActs s
  | .trace => dbgActs s

/-- What R478 says of a group now: no connection, its state at rest, or none once the condition is met. The hand-over
logic alone acts in a reset too (R483). -/
def pinNow (s : State) (g : PinGroup) : Option PinRest :=
  if !(pinPresent s g) then some .noConnect
  else if pinActs s g && (!s.pwr.inReset || decide (g = .supply)) then none
  else some (pinRest g)

/-- PWR is ready for a rebinding (R493). -/
def pwrReady (s : State) : Bool :=
  sfld s PWR_CTRL_OKF != 0 && sfld s PWR_CTRL_THLD != 0 &&
  sfld s PWR_CTRL_TSET != 0 && decide (sfld s PWR_CTRL_TSET < 1024) &&
  decide (toSigned (sfld s PWR_THERM_LO) 8 < toSigned (sfld s PWR_THERM_HI) 8)

end Sys2Proof.Machine
end

