-- ==== Sys2Proof/Machine/Sensing.lean ====
section
/-! DEFINITION. Bitstream inputs, filters, overcurrent comparators and slope detection, SAR converters, the
calibration of offsets, the redundant DC-link check, and the spare filter units (R250, R270 to R296, R467). -/

namespace Sys2Proof.Machine
open Sys2Proof

/-! ### The filters (R273) -/

/-- The sums of every `n` consecutive members. -/
def boxSum (n : Nat) (xs : List Int) : List Int :=
  let p := xs.scanl (· + ·) 0
  List.zipWith (fun a b => a - b) (p.drop n) p

/-- The window of a filter in bits. -/
def window (order osr : Nat) : Nat := order * (osr - 1) + 1

/-- A bit as the filters read it. -/
def bitVal (b : Bool) : Int := if b then 1 else -1

/-- The last `w` bits as +1 and −1; bits before a filter's restart count as empty. -/
def lastBits (w : Nat) (bs : List Bool) : List Int :=
  let k := bs.length
  List.replicate (w - k) 0 ++ (bs.drop (k - w)).map bitVal

/-- A sinc result of the given order, normalised, before its conversion to FP32. -/
def sincVal (order osr : Nat) (bs : List Bool) : Rat :=
  let go := fun (xs : List Int) (_ : Nat) => boxSum osr xs
  let r := (List.range order).foldl go (lastBits (window order osr) bs)
  mkRat (r.headD 0) (osr ^ order)

/-- The raw value as FP32. -/
def sincRaw (order osr : Nat) (bs : List Bool) : Word := (fRound false (sincVal order osr bs)).val

/-- The longest run of identical bits. -/
def longestRun : List Bool → Option Bool → Nat → Nat → Nat
  | [], _, n, m => max n m
  | b :: r, last, n, m => if last = some b then longestRun r last (n + 1) m else longestRun r (some b) 1 (max n m)

/-! ### Channels (R270 to R276) -/

/-- CLKOK of the clock of channel `i`. -/
def chClk (s : State) (i : Nat) : Bool := (fld s BSI_CLKST_CLKOK).testBit (i / 8)

/-- The period of the channel's clock where the device drives it; none for an input clock. -/
def chPeriod (s : State) (i : Nat) : Option Time :=
  if lflag s (BSI_CLK_DIR (i / 8)) then some (lfld s (BSI_CLK_DIV (i / 8)) * tb) else none

/-- Clock edges of channel `i` from its start up to `t`, where the device drives the clock (R270, R273). -/
def edgesTo (s : State) (i : Nat) (p t : Time) : Nat :=
  let c := SMap.get natD s.clkAt (i / 8)
  (t - c) / p - ((chan s i).startAt - c) / p

/-- `t` is an edge of the clock of period `p` that the device drives for channel `i`. -/
def onEdge (s : State) (i : Nat) (p t : Time) : Bool :=
  let c := SMap.get natD s.clkAt (i / 8)
  decide (c < t) && (t - c) % p == 0

/-- The shortest and the longest period of an input clock that is good (R272): 27.5 MHz and 4.5 MHz. -/
def clkMin : Time := 36 * ns
def clkMax : Time := 223 * ns

/-- A filter of `osr` that gives a result every `osr` clocks from the channel's start gives one at `t`; `last` is the
instant of the one before. An input clock's edges lie outside the device: no fewer than `osr` of its shortest periods
pass between two results (R273). -/
def clocked (s : State) (i osr : Nat) (last t : Time) : Bool :=
  match chPeriod s i with
  | some p => onEdge s i p t && decide (last < t) && edgesTo s i p t != 0 && edgesTo s i p t % osr == 0
  | none => decide (max last (chan s i).startAt + osr * clkMin ≤ t)

/-- The window of `w` bits that ends at `t` began after the channel's last start, with its clock good (R275). -/
def windowOk (s : State) (i w : Nat) (bs : List Bool) (t : Time) : Bool :=
  chClk s i && decide (w ≤ bs.length) &&
  (match chPeriod s i with
   | some p => decide ((chan s i).startAt + w * p ≤ t)
   | none => true)

/-- GAIN × (raw − OFFSET) (R276). -/
def chCorr (s : State) (i : Nat) (raw : Word) : Word :=
  (fMul (live s (BSI_CH_GAIN i)) (fSub raw (live s (BSI_CH_OFS i))).val).val

def updRel (f : RelSt → RelSt) (s : State) : State := { s with rel := f s.rel }

/-- A relief of channel `i` that runs awaits its full windows anew. -/
def reliefAgain (i : Nat) (t : Time) (s : State) : State :=
  if s.rel.run.any (fun r => r.1 == i) then updRel (fun r => { r with runAt := t, mains := 0, fasts := 0 }) s else s

/-- A channel starts: its filters restart empty (R275). -/
def startChan (t : Time) (i : Nat) (s : State) : State :=
  updChan i (fun x => { x with startAt := t, mainOk := false })
    (reliefAgain i t <| forAll ((List.range 96).filter fun l => afld s (GLK_LEG_SC_SCBS l) == i)
      (fun l => updLeg l (fun x => { x with scLast := none, scN := 0 })) s)

/-- Channel `i` is enabled in the live page. -/
def chOn (s : State) (i : Nat) : Bool := hasBs s i && lflag s (BSI_CH_CFG_EN i)

/-! ### Calibration (R284 to R287) -/

def calD (_ : Nat) : Nat × Rat × Rat := (0, 0, 0)

/-- A further result `v` of channel `ch` for a running calibration of block `isSar`. -/
def calCollect (isSar : Bool) (ch : Nat) (v : Rat) (ok : Bool) (s : State) : State :=
  match s.cal with
  | none => s
  | some c =>
    if c.sar != isSar || ch < c.first || c.last < ch then s
    else
      let (n, a, b) := SMap.get calD c.sums ch
      if c.count ≤ n then s
      else { s with cal := some { c with
        sums := SMap.set calD c.sums ch (n + 1, a + v, b + v * v)
        bad := if c.bad.isNone && !ok then some ch else c.bad } }

/-- CAL_REQUEST (R284): an applied BSI_CALREQ. -/
def calRequest (m : Mask) (d : Word) (s : State) : State :=
  let v := clWord s BSI_CALREQ m d
  let s1 := putCl BSI_CALREQ v s
  if !(m.getLsbD 3) || BSI_CALREQ_GO.of v = 0 then s1
  else
    let isSar := BSI_CALREQ_SRC.of v == 1
    let first := BSI_CALREQ_FIRST.of v
    let last := BSI_CALREQ_LAST.of v
    let n := BSI_CALREQ_NLOG2.of v
    let pend := fld s TKC_RBSTAT_STATE == 1 && s.tick.rbPart.getLsbD (if isSar then 6 else 5)
    let far := if isSar then decide (128 ≤ last) else !(hasBs s last)
    let bad := decide (last < first) || far || n < 6 || 14 < n || bits v.toNat 28 2 != 0 || bits v.toNat 16 4 != 0
    if s.cal.isSome then raise 249 (setFld BSI_CALST_CODE 5 s1)
    else if pend then raise 249 (setFld BSI_CALST_CODE 5 (setFld BSI_CALST_STATE 3 s1))
    else if bad then raise 249 (setFld BSI_CALST_CODE 6 (setFld BSI_CALST_STATE 3 s1))
    else
      let s2 := setReg BSI_CALST 0x40000000#32 s1
      { s2 with cal := some { sar := isSar, grp := BSI_CALREQ_GRP.of v, first, last, count := 2 ^ n, startTick := s.tick.count } }

def execCalRequest (m : Mask) (d : Word) (s : State) : Out := .next (calRequest m d s)

/-- The calibration is refused with a code that names channel `ch`. -/
def calRefuse (code ch : Nat) (s : State) : State :=
  raise 249 (setFld BSI_CALST_CH ch (setFld BSI_CALST_CODE code (setFld BSI_CALST_STATE 3 { s with cal := none })))

/-- The offset register of a channel or slot. -/
def ofsReg (isSar : Bool) (ch : Nat) : Nat := if isSar then SAR_SLOT_OFS ch else BSI_CH_OFS ch

/-- The channels of a calibration. -/
def calChans (c : CalSt) : List Nat := (List.range (c.last + 1)).filter fun i => c.first ≤ i

/-- Mean and population variance of a channel. -/
def calStat (c : CalSt) (ch : Nat) : Rat × Rat :=
  let (n, a, b) := SMap.get calD c.sums ch
  let m := a / ((n : Nat) : Rat)
  (m, b / ((n : Nat) : Rat) - m * m)

/-- The code of a channel at the last result: 3 mean, 4 variance, 0 good. DESIGN CHOICE (log 59): a NaN offset or bound
refuses. -/
def calJudge (s : State) (c : CalSt) (ch : Nat) : Nat :=
  let (m, v) := calStat c ch
  let above := fun (q : Rat) (lim : Word) => match fval lim with
    | .fin _ x => decide (x < q)
    | .inf neg => neg
    | .nan => true
  let far := match fval (live s (ofsReg c.sar ch)) with
    | .fin _ o => above (ratAbs (m - o)) (live s BSI_CALOFS)
    | .inf _ => live s BSI_CALOFS != 0x7F800000#32
    | .nan => true
  if far then 3
  else if above v (live s BSI_CALVAR) then 4
  else 0

/-- Refuse with the statistics of a channel. -/
def calRefuseStat (c : CalSt) (code ch : Nat) (s : State) : State :=
  let (m, v) := calStat c ch
  setReg BSI_CALMEAN (fRound false m).val (setReg BSI_CALVARM (fRound false v).val (calRefuse code ch s))

/-- CAL_DONE (R287): at the first boundary after the last result the calibration is judged. -/
def calDone (s : State) : State :=
  match s.cal with
  | none => s
  | some c =>
    if !((calChans c).all fun ch => c.count ≤ (SMap.get calD c.sums ch).1) then s
    else match c.bad with
      | some ch => calRefuse 7 ch s
      | none =>
        match (calChans c).find? fun ch => calJudge s c ch != 0 with
        | some ch => calRefuseStat c (calJudge s c ch) ch s
        | none =>
          let s1 := forAll (calChans c) (fun ch x =>
            let w := (fRound false (calStat c ch).1).val
            setShad (ofsReg c.sar ch) w (setLive (ofsReg c.sar ch) w x)) s
          raise 248 (setFld BSI_CALST_STATE 2 (setFld BSI_CALST_CODE 0 { s1 with cal := none }))

/-- |GSPD| of the group does not exceed CALSPD. -/
def calSlow (s : State) (g : Nat) : Bool :=
  match fval (latched s (384 + g)), fval (live s BSI_CALSPD) with
  | .fin _ q, .fin _ x => decide (ratAbs q ≤ x)
  | .fin _ _, .inf neg => !neg
  | .inf _, .inf neg => !neg
  | _, _ => false

/-- CAL_BOUNDARY_CHECK (R285). -/
def calCheck (s : State) : State :=
  match s.cal with
  | none => s
  | some c =>
    if grpState (grp s c.grp) ≠ 1 then calRefuse 1 c.first s
    else if !(calSlow s c.grp) then calRefuse 2 c.first s
    else match c.bad with
      | some ch => calRefuse 7 ch s
      | none => s

/-- CAL_TIMEOUT (R285): 65,536 ticks have passed since acceptance. -/
def execCalTimeout (s : State) : Out :=
  .next (match s.cal with
  | none => s
  | some c =>
    if c.startTick + 65536 ≤ s.tick.count then
      match (calChans c).find? fun ch => (SMap.get calD c.sums ch).1 < c.count with
      | some ch => calRefuse 7 ch s
      | none => s
    else s)

/-! ### Results (R250, R273, R277) -/

/-- The order of the main filter. -/
def mainOrder (s : State) (i : Nat) : Nat := if lflag s (BSI_CH_CFG_MORD i) then 4 else 3

/-- `t` is the first clock edge at or after `u`; of an input clock, an instant within its longest period. -/
def firstEdge (s : State) (i : Nat) (u t : Time) : Bool :=
  decide (u ≤ t) &&
  (match chPeriod s i with
   | some p => onEdge s i p t && decide (t < u + p)
   | none => decide (t ≤ u + clkMax))

/-- The main filter gives a result at `t`: every MOSR clocks, or with SYNC = 1 one for each sampling instant of its group
(R273). -/
def mainDue (s : State) (i : Nat) (t : Time) : Bool :=
  let x := chan s i
  if lflag s (BSI_CH_CFG_SYNC i) then
    match (grp s (lfld s (BSI_CH_CFG_GRP i))).sampledAt with
    | some u => firstEdge s i u t && (x.raw.isNone || decide (x.mainAt < u))
    | none => false
  else clocked s i (lfld s (BSI_CH_CFG_MOSR i)) x.mainAt t

/-- A result of channel `i` whose window of `w` bits began after the start of a relief of the channel: it is compared
(R289). -/
def compared (s : State) (i w : Nat) (t : Time) : Bool :=
  s.rel.run.any (fun r => r.1 == i) && decide (s.rel.runAt + w * (match chPeriod s i with | some p => p | none => clkMin) ≤ t)

/-- The level of the internal test modulator in millionths (R467). -/
def tmodLevel (s : State) : Int :=
  match fld s TST_TMOD_LEVEL with
  | 1 => 250000
  | 2 => 500000
  | 3 => -250000
  | 4 => -500000
  | _ => 0

/-- The loop-back of the test modulator at a disabled input (R467). -/
def loopBack (i : Nat) (bs : List Bool) (s : State) : State :=
  let q := sincVal 3 (lfld s (BSI_CH_CFG_MOSR i)) bs
  if flag s TST_TMOD_EN && fld s TST_TMOD_PIN == i && fld s TST_TMOD_LEVEL < 5 &&
      decide (mkRat 2 1000 < ratAbs (q - mkRat (tmodLevel s) 1000000)) then raise 629 s
  else s

/-- MAIN_RESULT (R273): the main filter of channel `i` has taken in the bits `bs`, oldest first. -/
def execMainResult (i : Fin 112) (bs : List Bool) (t : Time) (s : State) : Out :=
  let s1 := upto t s
  .next (if !(hasBs s i.val) then s1
  else if !(chOn s i.val) then loopBack i.val bs s1
  else if !(mainDue s i.val t) then s1
  else
    let o := mainOrder s i.val
    let osr := lfld s (BSI_CH_CFG_MOSR i.val)
    let w := window o osr
    let raw := sincRaw o osr bs
    let ok := windowOk s i.val w bs t && decide (longestRun (bs.drop (bs.length - w)) none 0 0 < 256)
    let s2 := if compared s i.val w t then updRel (fun r => { r with mains := r.mains + 1 }) s1 else s1
    calCollect false i.val (ratOf raw) ok
      (updChan i.val (fun x => { x with raw := some raw, mainOk := ok, mainAt := t }) s2))

/-- A slope detection on a leg; the count of consecutive results restarts (R250). -/
def slopeDetect (t : Time) (l : Nat) (s : State) : State :=
  if legOn s l then
    legFaultGroup 5 t l (setLatch l (legFault 5 l (legLow t l (updLeg l (fun y => { y with scN := 0 }) s))))
  else s

/-- The slope between two corrected results `d` units of Time apart exceeds THR A/µs. -/
def slopeOver (a b : Word) (d : Time) (thr : Nat) : Bool :=
  match fval a, fval b with
  | .fin _ x, .fin _ y => decide (((thr * d : Nat) : Rat) < ratAbs (x - y) * ((us : Nat) : Rat))
  | .inf _, .fin _ _ => true
  | .fin _ _, .inf _ => true
  | _, _ => false

/-- SLOPE_DETECTION: the slope of leg `l` at the corrected fast result `x`; a result that does not meet the conditions
of R275 takes no part. -/
def slopeStep (x : Word) (ok : Bool) (d t : Time) (l : Nat) (s : State) : State :=
  if !ok then updLeg l (fun y => { y with scLast := none, scN := 0 }) s
  else
    let past := match (leg s l).scLast with
      | some w => slopeOver x w d (afld s (GLK_LEG_SCT_THR l))
      | none => false
    let n := if past then (leg s l).scN + 1 else 0
    let hit := past && decide (afld s (GLK_LEG_SC_SCM l) ≤ n)
    let s1 := updLeg l (fun y => { y with scLast := some x, scN := n }) s
    if hit then slopeDetect t l s1 else s1

/-- OVERCURRENT_TRIP (R277). -/
def overcurrent (i : Nat) (r : Word) (t : Time) (s : State) : State :=
  let hi := toSigned (lfld s (BSI_CH_OC_OCHI i)) 16
  let lo := toSigned (lfld s (BSI_CH_OC_OCLO i)) 16
  if decide (mkRat hi 32768 < ratOf r) || decide (ratOf r < mkRat lo 32768) then
    let s1 := raise (128 + i) (setFldBit (BSI_OCSTAT_TRIP (i / 32)) (i % 32) true s)
    if lflag s (BSI_CH_CFG_OCEN i) && decide (lfld s (BSI_CH_CFG_OCLEG i) < 96) then
      slopeDetect t (lfld s (BSI_CH_CFG_OCLEG i)) s1
    else s1
  else s

/-- FAST_RESULT (R273): the fast filter of channel `i` has taken in the bits `bs`, oldest first. -/
def execFastResult (i : Fin 112) (bs : List Bool) (t : Time) (s : State) : Out :=
  let s1 := upto t s
  let osr := lfld s (BSI_CH_CFG_FOSR i.val)
  .next (if !(chOn s i.val) || !(lflag s (BSI_CH_CFG_FEN i.val)) || !(clocked s i.val osr (chan s i.val).fastAt t) then s1
  else
    let raw := sincRaw 2 osr bs
    let ok := windowOk s i.val (window 2 osr) bs t
    let d := match chPeriod s i.val with | some p => osr * p | none => t - (chan s i.val).fastAt
    let s1a := if compared s i.val (window 2 osr) t then updRel (fun r => { r with fasts := r.fasts + 1 }) s1 else s1
    let s2 := updChan i.val (fun x => { x with fastRaw := some raw, fastAt := t }) s1a
    let s3 := forAll (those 96 fun l =>
        legOn s l && aflag s (GLK_LEG_SC_SCEN l) && afld s (GLK_LEG_SC_SCBS l) == i.val)
      (slopeStep (chCorr s i.val raw) ok d t) s2
    if ok then overcurrent i.val raw t s3 else s3)

/-- BSCK_LOST (R272): an input clock shows no edge for 400 ns, or leaves its range. -/
def execBsckLost (k : Fin 14) (t : Time) (s : State) : Out :=
  let s1 := upto t s
  .next (if hasClk s k.val && !(lflag s (BSI_CLK_DIR k.val)) && (fld s BSI_CLKST_CLKOK).testBit k.val then
    raise 253 { setFldBit BSI_CLKST_CLKOK k.val false s1 with clkLost := SMap.set natD s.clkLost k.val t }
  else s1)

/-- The time that 64 periods within range take (R272). -/
def goodClocks (p : Span) : Bool := decide (p.since + 64 * clkMin ≤ p.till) && decide (p.till ≤ p.since + 64 * clkMax)

/-- BSCK_RECOVER (R272): 64 consecutive periods within range run from `p.since` to `p.till`; the clock is usable again
and its channels restart. -/
def execBsckRecover (k : Fin 14) (p : Span) (s : State) : Out :=
  let s1 := upto p.till s
  .next (if hasClk s k.val && !(lflag s (BSI_CLK_DIR k.val)) && !((fld s BSI_CLKST_CLKOK).testBit k.val) &&
      decide (SMap.get natD s.clkLost k.val ≤ p.since) && goodClocks p then
    forAll (those 112 fun i => i / 8 == k.val && chOn s i) (startChan p.till) (setFldBit BSI_CLKST_CLKOK k.val true s1)
  else s1)

/-! ### Sample words and the boundary (R275, R276, R288) -/

/-- Main (0 to 111) and fast (112 to 223) words. -/
def bsWord (s : State) (w : Nat) : Word :=
  let i := w % 112
  let r := if w < 112 then (chan s i).raw else (chan s i).fastRaw
  match r with
  | some x => if hasBs s i then chCorr s i x else 0
  | none => 0

/-- The latched main result of channel `i` is valid (R275). -/
def chValid (s : State) (i : Nat) : Bool := chOn s i && chClk s i && (chan s i).mainOk

/-- A word of 32 bits from a test of bit numbers. -/
def bitWord (p : Nat → Bool) : Word :=
  BitVec.ofNat 32 ((List.range 32).foldl (fun n i => if p i then n + 2 ^ i else n) 0)

/-- The valid bits are latched; the fall of one after a period of validity raises its event. -/
def latchValid (s : State) : State :=
  forAll (List.range 112) (fun i x =>
    let v := chValid x i
    let was := (chan x i).valid
    if v = was then x
    else raiseIf (was && !v) (128 + i) (updChan i (fun c => { c with valid := v }) x)) s

/-- Sample word `w` is invalid or flagged. -/
def wordBad (s : State) (w : Nat) : Bool :=
  if w < 224 then !((sample s (352 + w % 112 / 32)).getLsbD (w % 112 % 32))
  else if w < 352 then (sample s (356 + (w - 224) / 32)).getLsbD ((w - 224) % 32)
  else false

/-- DCX_CHECK (R288), on the newly latched sample bank. -/
def dcxCheck (s : State) : State :=
  if !(lflag s BSI_DCX_EN) then s
  else
    let a := lfld s BSI_DCX_BS
    let b := 224 + lfld s BSI_DCX_SLOT
    let far := match fval (sample s a), fval (sample s b), fval (live s BSI_DCXTOL) with
      | .fin _ x, .fin _ y, .fin _ z => decide (z < ratAbs (x - y))
      | .fin _ _, .fin _ _, .inf false => false
      | _, _, _ => true
    if far || wordBad s a || wordBad s b then
      let n := satAdd (fld s BSI_DCXST_COUNT) 1 15
      let s1 := setFld BSI_DCXST_COUNT n s
      if lfld s BSI_DCX_N ≤ n ∧ !(flag s BSI_DCXST_MIS) then raise 250 (setFld BSI_DCXST_MIS 1 s1) else s1
    else setFld BSI_DCXST_MIS 0 (setFld BSI_DCXST_COUNT 0 s)

/-! ### Spare filter units (R289, R290) -/

/-- The unit that serves a channel. -/
def unitOf (s : State) (ch : Nat) : Nat := SMap.get (fun i => i) s.rel.unitOf ch

/-- The next enabled channel after the last relieved one, in ascending order and wrapping. -/
def nextRelief (s : State) : Option Nat :=
  let on := those 112 fun i => chOn s i
  match on.find? fun i => s.rel.lastCh < i with
  | some i => some i
  | none => on.head?

/-- RELIEF_START (R289). -/
def execReliefStart (s : State) : Out :=
  let rot := lfld s BSI_SPARE_ROT
  .next (match nextRelief s, s.rel.spares with
  | some ch, sp :: rest =>
    if ticking s && rot != 0 && s.rel.run.isNone && decide (s.rel.tick + rot ≤ s.tick.count) then
      setFld BSI_SPARE_CUR ch
        (updRel (fun r => { r with
          run := some (ch, sp), runAt := s.now, mains := 0, fasts := 0, spares := rest, lastCh := ch, tick := s.tick.count }) s)
    else s
  | _, _ => s)

/-- Four main results, and four fast ones where the channel has a fast filter, have been compared, and `t` ends a result
of the channel (R289). -/
def comparedAll (s : State) (ch : Nat) (t : Time) : Bool :=
  decide (4 ≤ s.rel.mains) && (!(lflag s (BSI_CH_CFG_FEN ch)) || decide (4 ≤ s.rel.fasts)) &&
  ((chan s ch).mainAt == t || (chan s ch).fastAt == t)

/-- RELIEF_COMPARE (R289, R290): the spare's four main and four fast results are those of the live unit, or not. -/
def execReliefCompare (eq : Bool) (t : Time) (s : State) : Out :=
  let s1 := upto t s
  .next (match s.rel.run with
  | none => s1
  | some (ch, sp) =>
    let s2 := setFld BSI_SPARE_CUR 0x7F s1
    if !(comparedAll s ch t) then s1
    else if eq then
      updRel (fun r => { r with
        run := none, unitOf := SMap.set (fun i => i) r.unitOf ch sp, testing := r.testing ++ [unitOf s ch] }) s2
    else updRel (fun r => { r with
      run := none, testing := r.testing ++ [sp], suspects := r.suspects ++ [(sp, ch)] }) s2)

/-- A filter unit is marked failed. -/
def failUnit (u : Nat) (s : State) : State :=
  raise 252 (incFld BSI_SPARE_FAILU (updRel (fun r => { r with failed := r.failed ++ [u] }) s))

/-- FILTER_SELFTEST_DONE (R290, R467): the self-test of unit `u` ends with the mean `mean` millionths of full scale. -/
def execFilterSelftestDone (u : Fin 116) (mean : Int) (t : Time) (s : State) : Out :=
  let s1 := upto t s
  let pass := decide (mean - tmodLevel s ≤ 2000) && decide (tmodLevel s - mean ≤ 2000)
  .next (if !(s.rel.testing.contains u.val) then s1
  else
    let s2 := updRel (fun r => { r with
      testing := r.testing.filter (fun x => x != u.val), suspects := r.suspects.filter (fun x => x.1 != u.val) }) s1
    match s.rel.suspects.find? fun x => x.1 == u.val with
    | some (_, ch) =>
      if pass then failUnit (unitOf s ch) (updRel (fun r => { r with unitOf := SMap.set (fun i => i) r.unitOf ch u.val }) s2)
      else failUnit u.val s2
    | none => if pass then updRel (fun r => { r with spares := r.spares ++ [u.val] }) s2 else failUnit u.val s2)

/-! ### SAR converters (R278 to R283) -/

/-- The input that converter `c` selects by a channel code (R278). -/
def sarInput (c code : Nat) : SarInput :=
  match code with
  | 8 => .sensor (c / 2)
  | 9 => .vdd
  | 10 => .vddm
  | 11 => .vdda18Half
  | 12 => .vdda33Half
  | 13 => .tapQuarter
  | 14 => .tapThreeQuarters
  | 15 => .vssa
  | k => .ain (8 * c + k)

/-- The channel codes of the slots 0 to LEN − 1 of a sequence in the live page (R279). -/
def slotCodes (s : State) (c : Nat) : List Nat :=
  (List.range (lfld s (SAR_SEQ_CFG_LENM1 c) + 1)).map fun k =>
    if k < 8 then bits (live s (SAR_SEQ_CHA c)).toNat (4 * k) 4 else bits (live s (SAR_SEQ_CHB c)).toNat (4 * (k - 8)) 4

def sarBusy (s : State) (c : Nat) : Bool := (sar s c).slot.isSome || (sar s c).urgent

/-- SAR_STAT.BUSY shows the converter. -/
def showBusy (c : Nat) (s : State) : State := setFldBit SAR_STAT_BUSY c (sarBusy s c) s

/-- The timebase tick in which an instant lies. -/
def tbOf (t : Time) : Nat := t / tb

/-- A sequence starts at `t`. -/
def seqRun (c : Nat) (t : Time) (s : State) : State :=
  showBusy c (updSar c (fun x => { x with
    slot := some 0, chs := slotCodes s c, startAt := t, deferred := false }) s)

/-- A trigger of an enabled sequence (R279, R280). -/
def seqTrigger (c : Nat) (t : Time) (s : State) : State :=
  let x := sar s c
  if !(lflag s (SAR_SEQ_CFG_EN c)) then s
  else
    let s1 := updSar c (fun y => { y with trigAt := some t }) s
    if x.trigAt.any (fun u => tbOf u == tbOf t) then s1
    else if x.slot.isSome then raise (240 + c) (incFld (SAR_SEQ_CNT_TRGDROP c) s1)
    else if x.urgent then updSar c (fun y => { y with deferred := true }) s1
    else seqRun c t s1

/-- SAR_SEQ_START (R279): the group's sampling instant, or a boundary, triggers the sequence. -/
def execSarSeqStart (c : Fin 8) (k : SarTrig) (t : Time) (s : State) : Out :=
  let s1 := upto t s
  let due := match k with
    | .instant => lfld s (SAR_SEQ_CFG_TRIG c.val) == 1 && (grp s (lfld s (SAR_SEQ_CFG_GRP c.val))).sampledAt == some t
    | .boundary => lfld s (SAR_SEQ_CFG_TRIG c.val) == 2 && s.tick.last == t
  .next (if ticking s && due then seqTrigger c.val t s1 else s1)

/-- SAR_SEQ_GO (R279): an applied SAR_SEQs_SW.GO. -/
def execSarSeqGo (c : Fin 8) (t : Time) (s : State) : Out := .next (seqTrigger c.val t (upto t s))

/-- An urgent request (R281). -/
def urgentRequest (c : Nat) (t : Time) (s : State) : State :=
  let x := sar s c
  if sarBusy s c || x.urgAt.any (fun u => tbOf u == tbOf t) then
    raise (240 + c) (incFld (SAR_SEQ_CNT_URGDROP c) s)
  else showBusy c (updSar c (fun y => { y with
    urgent := true, urgCh := lfld s (SAR_SEQ_CFG_URGCH c), urgAt := some t, startAt := t }) s)

/-- The urgent source is one that URGSRC names. -/
def urgentAllowed (s : State) (c : Nat) (sw : Bool) : Bool :=
  lflag s (SAR_SEQ_CFG_EN c) && (lfld s (SAR_SEQ_CFG_URGSRC c)).testBit (if sw then 1 else 0)

/-- SAR_URGENT_REQUEST (R281): by software, or by a diagnostic sampling instant of the sequence's group. -/
def execSarUrgentRequest (c : Fin 8) (sw : Bool) (t : Time) (s : State) : Out :=
  let s1 := upto t s
  let due := sw || (grp s (lfld s (SAR_SEQ_CFG_GRP c.val))).diagSeen == some t
  .next (if urgentAllowed s c.val sw && due then urgentRequest c.val t s1 else s1)

/-- An applied SAR_SEQs_SW. -/
def seqSw (c : Nat) (m : Mask) (d : Word) (s : State) : State :=
  let a := SAR_SEQ_SW c
  let v := clWord s a m d
  let s1 := putCl a v s
  if !(m.getLsbD 3) then s1
  else
    let s2 := if (SAR_SEQ_SW_GO c).of v = 1 then seqTrigger c s.now s1 else s1
    if (SAR_SEQ_SW_URG c).of v = 1 ∧ urgentAllowed s c true then urgentRequest c s.now s2 else s2

/-- The result of slot `k` of a converter whose conversion began at `acq`; its acquisition ends within 70 ns (R279), and
its flag REF tells whether that overlapped the time in which the reference was not settled (R282). -/
def slotResult (c k : Nat) (code : Nat) (acq : Time) (s : State) : State :=
  let j := 16 * c + k
  let ref := decide (acq < s.refAt) && decide (s.refFrom < acq + 70 * ns)
  let clip := code == 0 || code == 16383
  let s1 := updSlot j (fun _ => { code := some code, clip := clip, refBad := ref, none_ := false }) s
  let s2 := if ref || clip then setReg (SAR_SEQ_ST c) (BitVec.ofNat 32 (b2n ref + 2 * b2n clip)) s1 else s1
  calCollect true j ((code : Nat) : Rat) (!ref && !clip) s2

/-- A conversion that began at `acq` ends at `t`: after 200 ns, of which 10 ns are of slack (R279, R281). -/
def convEnds (acq t : Time) : Bool := decide (acq + 200 * ns ≤ t) && decide (t ≤ acq + 210 * ns)

/-- The sequence goes on after slot `k`; where SAX runs in parallel, its code is compared with the converter's (R464). -/
def nextSlot (k : Nat) (differ : Bool) (y : SarSt) : SarSt :=
  let last := decide (y.chs.length ≤ k + 1)
  { y with
    slot := if last then none else some (k + 1)
    par := if last && !y.parSkip then y.par.map (· + 1) else y.par
    parSkip := y.parSkip && !last
    parBad := y.parBad || (y.par.isSome && !y.parSkip && differ) }

/-- SAR_SLOT_RESULT (R282): the conversion in progress, of the input that the slot's channel code selects, ends with a
code. -/
def execSarSlotResult (c : Fin 8) (v : SarCode) (t : Time) (s : State) : Out :=
  let s1 := upto t s
  let x := sar s c.val
  let differ := decide (v.code.toNat + 16 < v.par.toNat) || decide (v.par.toNat + 16 < v.code.toNat)
  .next (if x.urgent then
    if v.inp ≠ sarInput c.val x.urgCh || !(convEnds x.startAt t) then s1
    else
      let s2 := slotResult c.val 15 v.code.toNat x.startAt (updSar c.val (fun y => { y with urgent := false }) s1)
      if x.deferred then seqRun c.val t s2 else showBusy c.val s2
  else match x.slot with
    | some k =>
      let acq := x.startAt + 200 * ns * k
      if v.inp ≠ sarInput c.val (x.chs.getD k 0) || !(convEnds acq t) then s1
      else showBusy c.val (updSar c.val (nextSlot k differ) (slotResult c.val k v.code.toNat acq s1))
    | none => s1)

/-- SAR_REF_SETTLED (R283). -/
def execSarRefSettled (t : Time) (s : State) : Out :=
  let s1 := upto t s
  .next (if ticking s && !(flag s SAR_STAT_REFSETTLED) && decide (s.refAt ≤ t) then
    raise 251 (setFld SAR_STAT_REFSETTLED 1 s1)
  else s1)

/-- The corrected word of slot `j` (R282). -/
def sarWord (s : State) (j : Nat) : Word :=
  match (slot s j).code with
  | some c => (fMul (live s (SAR_SLOT_GAIN j)) (fSub (fOfInt (BitVec.ofNat 32 c)).val (live s (SAR_SLOT_OFS j))).val).val
  | none => 0

/-- The flag of slot `j`. -/
def slotFlag (s : State) (j : Nat) : Bool := (slot s j).refBad || (slot s j).clip || (slot s j).none_

/-! ### Flips (R283, R287, R293) -/

/-- DESIGN CHOICE (log 59): a relief whose channel a flip disables ends without a comparison, and its spare is free. -/
def reliefEnds (s : State) : State :=
  match s.rel.run with
  | some (ch, sp) =>
    if chOn s ch then s
    else setFld BSI_SPARE_CUR 0x7F (updRel (fun r => { r with run := none, spares := r.spares ++ [sp] }) s)
  | none => s

/-- What a BSI flip changes; `old` is the state before the flip. -/
def bsiFlip (old : State) (s : State) : State :=
  let t := s.now
  let out := bitWord fun k => hasClk s k && k < 14 &&
    (if lflag s (BSI_CLK_DIR k) then true
     else !(lflag old (BSI_CLK_DIR k)) && (fld old BSI_CLKST_CLKOK).testBit k)
  let fell := (List.range 14).any fun k => (fld old BSI_CLKST_CLKOK).testBit k && !(out.getLsbD k)
  let s0 := forAll (those 14 fun k => lflag s (BSI_CLK_DIR k) && live s (BSI_CLK k) != live old (BSI_CLK k)) (fun k x =>
    { x with clkAt := SMap.set natD x.clkAt k t }) (reliefEnds s)
  let s0a := forAll (those 14 fun k => live s (BSI_CLK k) != live old (BSI_CLK k) && !(out.getLsbD k)) (fun k x =>
    { x with clkLost := SMap.set natD x.clkLost k t }) s0
  let s1 := raiseIf fell 253 (setReg BSI_CLKST out s0a)
  let chg := fun (i : Nat) => chOn s i &&
    (live s (BSI_CH_CFG i) != live old (BSI_CH_CFG i) || live s (BSI_CLK (i / 8)) != live old (BSI_CLK (i / 8)))
  forAll (those 112 chg) (startChan t) s1

/-- What a SAR flip changes: the reference settles anew if its source changes (or at RUN), unsettled without a break
since the last time that it was settled, and slots of a sequence that becomes enabled have no result. -/
def sarFlip (run : Bool) (old : State) (s : State) : State :=
  let s1 := if run || lfld s SAR_REF_SRC != lfld old SAR_REF_SRC then
    { setFld SAR_STAT_REFSETTLED 0 s with refFrom := if flag s SAR_STAT_REFSETTLED then s.now else s.refFrom, refAt := s.now + lfld s SAR_REF_SETTLE * us } else s
  forAll (those 8 fun c => lflag s (SAR_SEQ_CFG_EN c) && !(lflag old (SAR_SEQ_CFG_EN c))) (fun c x =>
    setReg (SAR_SEQ_ST c) 4 (forAll (List.range 16) (fun k => updSlot (16 * c + k) (fun y => { y with none_ := true })) x)) s1

end Sys2Proof.Machine
end

