-- ==== Sys2Proof/Machine/Saf.lean ====
section
/-! DEFINITION. The safety fabric: its states and heartbeat, the demands on groups, the STO pins, safe inputs and
outputs, limit entries, SS1, the discharge, and its status words (R340 to R370). -/

namespace Sys2Proof.Machine
open Sys2Proof

/-! ### Demands (R344, R345) -/

/-- Bit `g` of a field that names groups. -/
def inGroups (s : State) (f : Fld) (g : Nat) : Bool := (lfld s f).testBit g

/-- The STO pins demand, or their discrepancy latch is set. -/
def stoDemand (s : State) : Bool := s.saf.stoA || s.saf.stoB || flag s SAF_LATCH_STODISC

/-- Safe input `p` is enabled and acts (R340). -/
def sinOn (s : State) (p : Nat) : Bool := s.saf.sstate != 0 && lflag s (SAF_SIN_CFG_EN p)

/-- The latch of safe input `p`. -/
def sinLatch (s : State) (p : Nat) : Bool := (fld s SAF_LATCH_SIND).testBit p

/-- A channel of safe input `p` demands: A while low, B while low or, with ANTI = 1, while high (R349). -/
def chDemand (s : State) (p : Nat) : Bool × Bool :=
  (!(sin s p).a, (sin s p).b == lflag s (SAF_SIN_CFG_ANTI p))

/-- Either channel demands, and the two disagree. -/
def anyDemand (s : State) (p : Nat) : Bool := (chDemand s p).1 || (chDemand s p).2
def disagree (s : State) (p : Nat) : Bool := (chDemand s p).1 != (chDemand s p).2

/-- Safe input `p` demands, or its discrepancy latch is set. -/
def sinDemand (s : State) (p : Nat) : Bool := sinLatch s p || (sinOn s p && anyDemand s p)

/-- The kind that a FUNC demands: 0 none, 1 HOLD, 2 ALL-OFF, 3 ASC, 4 DISCHARGE, 5 STO. -/
def funcKind : Nat → Nat
  | 1 => 5
  | 3 => 1
  | 4 => 3
  | _ => 0

/-- The kind of a limit entry's KIND, and of a manager demand's OP: 1 HOLD, 2 ASC, 3 ALL-OFF, 4 STO. -/
def opKind : Nat → Nat
  | 1 => 1
  | 2 => 3
  | 3 => 2
  | 4 => 5
  | _ => 0

def sinDemands (s : State) (p g : Nat) : Bool := sinDemand s p && inGroups s (SAF_SIN_GRP_GROUPS p) g
def limDemands (s : State) (k g : Nat) : Bool := (fld s SAF_LIMST_TRIP).testBit k && inGroups s (SAF_LIM_GRP_GROUPS k) g

/-- A discharge runs. -/
def disRuns (s : State) : Bool := fld s SAF_DIS_ST_STATE == 1
def disGroup (s : State) : Nat := lfld s SAF_DIS_CFG_GROUP

/-- The strongest kind that demands a group (R345). -/
def demandKind (s : State) (g : Nat) : Nat :=
  let kinds :=
    [if stoDemand s && inGroups s SAF_STO_GROUPS g then 5 else 0,
     opKind (grp s g).man,
     if (grp s g).ss1Exp then 5 else 0,
     if disRuns s && disGroup s == g then 4 else 0,
     if flag s SAF_LATCH_DISFLT && disGroup s == g then 1 else 0,
     if s.tst.scan then 2 else 0] ++
    ((List.range 8).filter fun p => sinDemands s p g).map (fun p => funcKind (lfld s (SAF_SIN_CFG_FUNC p))) ++
    ((List.range 16).filter fun k => limDemands s k g).map (fun k => opKind (lfld s (SAF_LIM_CFG_KIND k)))
  kinds.foldl max 0

/-! ### Safe outputs (R352, R353) -/

/-- A group of a brake output's GRP has been under an STO demand for SBCDLY or longer at `t`. -/
def brakeDue (s : State) (o : Nat) (t : Time) : Bool :=
  lflag s (SAF_SOUT_CFG_SBC o) && (List.range 16).any fun g =>
    inGroups s (SAF_SOUT_GRP_GROUPS o) g &&
    (match (grp s g).stoAt with | some u => decide (u + lfld s (SAF_SOUT_CFG_SBCDLY o) * ms ≤ t) | none => false)

/-- The conditions under which output `o` is energised, but for its brake control (R352). -/
def soutMay (s : State) (o : Nat) : Bool :=
  s.saf.sstate != 0 && lflag s (SAF_SOUT_CFG_EN o) && (fld s SAF_SOUT_SET_ON).testBit o &&
  !((fld s SAF_LATCH_SOUTF).testBit o) && (sout s o).armed

/-- An output follows its conditions, but for the delay of its brake control, which SBC_DEENERGISE ends. -/
def soutRefresh (t : Time) (o : Nat) (s : State) : State :=
  let may := soutMay s o
  let x := sout s o
  if may && !(brakeDue s o t) && !x.on then
    updSout o (fun y => { y with on := true, onAt := t, testAt := t, testEnd := t }) s
  else if x.on && !may then updSout o (fun y => { y with on := false }) s
  else s

/-- The acting kinds of all groups follow the demands at `t`, and the outputs their conditions. -/
def refresh (t : Time) (s : State) : State :=
  let s1 := if ticking s then forAll (List.range 16) (fun g x => setKind (demandKind x g) t g x) s else s
  forAll (List.range 4) (soutRefresh t) s1

/-! ### Discharge (R358 to R363) -/

/-- An exact product and difference; an operation that has no value is a NaN. -/
def mulV (a b : FVal) : FVal := a.mul b
def subV (a b : FVal) : FVal :=
  match a, b with
  | .fin _ x, .fin _ y => .fin false (x - y)
  | .fin _ _, .inf n => .inf (!n)
  | .inf n, .fin _ _ => .inf n
  | .inf n, .inf m => if n = m then .nan else .inf n
  | _, _ => .nan

/-- A voltage as the discharge takes it: +∞ where it is invalid or flagged. -/
def disV (s : State) (w : Nat) : FVal := if wordBad s w then .inf false else fval (sample s w)

/-- The greater of V_B and V_S. -/
def disMax (s : State) : FVal :=
  let a := disV s (lfld s SAF_DIS_CFG_BSW)
  let b := disV s (lfld s SAF_DIS_CFG_SARW)
  if fLtIeee a b then b else a

/-- Set the charge model and its register. -/
def setQ (q : FVal) (s : State) : State := setReg SAF_DIS_Q (fOfVal q).val (updSaf (fun x => { x with disQ := q }) s)

/-- The start boundary: Q, and the instant after which the duty acts (R358, R359). -/
def startQ (s : State) : State :=
  setQ (mulV (fval (live s SAF_DIS_C)) (disMax s)) (updSaf (fun x => { x with disFresh := false, disFrom := s.now }) s)

/-- A discharge starts at `t`; `fresh` says that its start boundary is still to come. -/
def disStart (fresh : Bool) (t : Time) (s : State) : State :=
  if s.saf.sstate = 0 || !(lflag s SAF_DIS_CFG_EN) || disRuns s then s
  else
    let s1 := setReg SAF_DIS_ST 0x40000000#32 (updSaf (fun x => { x with disAt := t, disN := 0, disFresh := fresh }) s)
    refresh t (if fresh then s1 else startQ s1)

/-- A running discharge ends with a STATE. -/
def disEnd (st : Nat) (s : State) : State :=
  if disRuns s then refresh s.now (setFld SAF_DIS_ST_STATE st s) else s

/-- DISCH_MODEL_UPDATE (R359 to R361) at a boundary, and the count of R360. -/
def dischModel (s : State) : State :=
  if !(disRuns s) then s
  else
    let v := disMax s
    let sec := mkRat (s.tick.period * 25) 10000000000
    let r := match fval (live s SAF_DIS_R) with | .fin _ x => .fin false (if x = 0 then 0 else sec / x) | _ => FVal.nan
    let s1 := if s.saf.disFresh then startQ s else setQ (subV s.saf.disQ (mulV (mulV (fval (live s SAF_DIS_DUTY)) v) r)) s
    let vs := fval (live s SAF_DIS_VSAFE)
    let lim := mulV (fval (live s SAF_DIS_C)) vs
    let le := fun (a b : FVal) => fLtIeee a b || fEqIeee a b
    let s2 := if !(flag s SAF_DIS_ST_IMPL) && le s1.saf.disQ lim && fLtIeee vs v then
      raise 435 (setFld SAF_DIS_ST_IMPL 1 s1) else s1
    let low := le (disV s (lfld s SAF_DIS_CFG_BSW)) vs && le (disV s (lfld s SAF_DIS_CFG_SARW)) vs
    updSaf (fun x => { x with disN := if low then x.disN + 1 else 0 }) s2

/-- DISCHARGE_START (R358): an applied SAF_DIS_REQ with OP = 1. -/
def execDischargeStart (s : State) : Out := .next (disStart false s.now s)
/-- DISCHARGE_STOP (R358): an applied SAF_DIS_REQ with OP = 0. -/
def execDischargeStop (s : State) : Out := .next (disEnd 0 s)

/-- An applied SAF_DIS_REQ. -/
def disRequest (m : Mask) (d : Word) (s : State) : State :=
  let v := clWord s SAF_DIS_REQ m d
  let s1 := putCl SAF_DIS_REQ v s
  if !(m.getLsbD 3) || SAF_DIS_REQ_GO.of v = 0 then s1
  else if SAF_DIS_REQ_OP.of v = 1 then disStart false s1.now s1 else disEnd 0 s1

/-- DISCH_DONE (R360): the NDONE-th boundary in a row at or below VSAFE. -/
def execDischDone (s : State) : Out :=
  .next (if disRuns s && decide (lfld s SAF_DIS_CFG_NDONE ≤ s.saf.disN) then raise 434 (disEnd 2 s) else s)

/-- DISCH_FAULT (R362): TMO ms after the start. -/
def execDischFault (t : Time) (s : State) : Out :=
  let s1 := upto t s
  .next (if disRuns s && decide (s.saf.disAt + lfld s SAF_DIS_TMO_TMO * ms ≤ t) then
    raise 436 (disEnd 3 (setFld SAF_LATCH_DISFLT 1 s1))
  else s1)

/-! ### STO pins (R347, R348) -/

/-- The instant from which the STO pins or their latch demand follows at `t` (R352). -/
def stoNote (t : Time) (s : State) : State :=
  updSaf (fun x => { x with stoAt := if stoDemand s then some (x.stoAt.getD t) else none }) s

/-- The pins' levels after a change at `t`. -/
def stoSet (pinB v : Bool) (t : Time) (s : State) : State :=
  stoNote t (updSaf (fun x =>
    let a := if pinB then x.stoA else v
    let b := if pinB then v else x.stoB
    { x with stoA := a, stoB := b, stoDifAt := if a = b then none else some (x.stoDifAt.getD t) }) s)

/-- STO_PIN_FALL (R347): an STO pin demands. -/
def execStoPinFall (pinB : Bool) (t : Time) (s : State) : Out :=
  let s1 := upto t s
  .next (if (if pinB then s.saf.stoB else s.saf.stoA) then s1
  else
    let was := s.saf.stoA || s.saf.stoB
    let s2 := refresh t (raise 416 (stoSet pinB true t s1))
    if !was && lflag s SAF_DIS_CFG_ONSTO then disStart true t s2 else s2)

/-- STO_PIN_RISE (R347): an STO pin ends its demand; the groups stay held. -/
def execStoPinRise (pinB : Bool) (t : Time) (s : State) : Out :=
  let s1 := upto t s
  .next (if (if pinB then s.saf.stoB else s.saf.stoA) then refresh t (stoSet pinB false t s1) else s1)

/-- SAF_STO_DISC (R348): the pins have differed for longer than SDISC. -/
def execSafStoDisc (t : Time) (s : State) : Out :=
  let s1 := upto t s
  .next (match s.saf.stoDifAt with
  | some u =>
    if u + lfld s SAF_STO_SDISC * ms < t ∧ !(flag s SAF_LATCH_STODISC) then
      refresh t (raise 417 (stoNote t (setFld SAF_LATCH_STODISC 1 s1)))
    else s1
  | none => s1)

/-! ### SS1 (R355) and manager demands (R369) -/

/-- The group's SS1 timer starts; a running one is not restarted. -/
def ss1Start (t : Time) (g : Nat) (s : State) : State :=
  updGrp g (fun x => { x with ss1 := some (x.ss1.getD (t + lfld s (SAF_SS1T_SS1T g) * ms)) }) s

/-- SS1_EXPIRE (R355). -/
def execSs1Expire (g : Fin 16) (t : Time) (s : State) : Out :=
  let s1 := upto t s
  .next (match (grp s g.val).ss1 with
  | some e =>
    if e ≤ t ∧ s.saf.sstate ≠ 0 then refresh t (raise 433 (updGrp g.val (fun x => { x with ss1 := none, ss1Exp := true }) s1)) else s1
  | none => s1)

/-- An OP of SAF_GRPREQ on one group. -/
def grpOp (op : Nat) (t : Time) (g : Nat) (s : State) : State :=
  match op with
  | 0 => updGrp g (fun x => { x with man := 0, ss1Exp := false }) s
  | 5 => ss1Start t g s
  | 6 => updGrp g (fun x => { x with ss1 := none }) s
  | k => updGrp g (fun x => { x with man := if opKind x.man < opKind k then k else x.man }) s

/-- An OP on the groups of a set; in BOOT the STO pins act and nothing else (R505). -/
def grpReq (op : Nat) (gs : BitVec 16) (s : State) : State :=
  if s.saf.sstate = 0 then s else refresh s.now (forAll (those 16 fun g => gs.getLsbD g) (grpOp op s.now) s)

def execGrpreqClear (gs : BitVec 16) (s : State) : Out := .next (grpReq 0 gs s)
def execGrpreqHold (gs : BitVec 16) (s : State) : Out := .next (grpReq 1 gs s)
def execGrpreqAsc (gs : BitVec 16) (s : State) : Out := .next (grpReq 2 gs s)
def execGrpreqAllOff (gs : BitVec 16) (s : State) : Out := .next (grpReq 3 gs s)
def execGrpreqSto (gs : BitVec 16) (s : State) : Out := .next (grpReq 4 gs s)
def execGrpreqSs1Start (gs : BitVec 16) (s : State) : Out := .next (grpReq 5 gs s)
def execGrpreqSs1Stop (gs : BitVec 16) (s : State) : Out := .next (grpReq 6 gs s)

/-- A SAF_GRPREQ value is in error: OP 7, or a reserved bit (R368, R369). -/
def grpreqBad (v : Word) : Bool := SAF_GRPREQ_OP.of v == 7 || bits v.toNat 19 12 != 0

/-- SAF_REQ_ERR (R369): the request is ignored and its event raised. -/
def execSafReqErr (d : Word) (s : State) : Out :=
  .next (if SAF_GRPREQ_GO.of d = 1 ∧ grpreqBad d then raise 437 s else s)

/-- An applied SAF_GRPREQ. -/
def grpRequest (m : Mask) (d : Word) (s : State) : State :=
  let v := clWord s SAF_GRPREQ m d
  let s1 := putCl SAF_GRPREQ v s
  if !(m.getLsbD 3) || SAF_GRPREQ_GO.of v = 0 then s1
  else if grpreqBad v then raise 437 s1
  else grpReq (SAF_GRPREQ_OP.of v) (BitVec.ofNat 16 (SAF_GRPREQ_GROUPS.of v)) s1

/-- An applied SAF_RELEASE. -/
def releaseEntry (m : Mask) (d : Word) (s : State) : State :=
  let v := clWord s SAF_RELEASE m d
  let n := BitVec.ofNat 16 (d.toNat &&& maskBits m)
  releaseApply n (putCl SAF_RELEASE v s)

/-! ### Safe inputs (R349 to R351) -/

/-- What a FUNC starts as the input begins to demand. -/
def sinAct (p : Nat) (t : Time) (s : State) : State :=
  match lfld s (SAF_SIN_CFG_FUNC p) with
  | 2 => forAll (those 16 fun g => inGroups s (SAF_SIN_GRP_GROUPS p) g) (ss1Start t) s
  | 5 => if inGroups s (SAF_SIN_GRP_GROUPS p) (disGroup s) then disStart true t s else s
  | _ => s

/-- Input `p` acts and a channel of it demands. -/
def sinActive (s : State) (p : Nat) : Bool := sinOn s p && anyDemand s p

/-- What follows at `t` when the pins or the page of safe input `p` have changed: the disagreement counts on or ends, and
an input that begins to demand raises its event and acts; `was` says that it was active, `dis` since when its channels
disagreed. -/
def sinChange (was : Bool) (dis : Option Time) (t : Time) (p : Nat) (s : State) : State :=
  let s1 := updSin p (fun y => { y with disAt := if sinOn s p && disagree s p then some (dis.getD t) else none }) s
  if sinActive s p && !was then sinAct p t (raise (418 + p) s1) else s1

/-- The safe inputs at RUN and at a flip (R340, R349); `old` is the state before. Channels that demand under the new page,
and did not act before, begin to demand. -/
def sinBegins (old : State) (s : State) : State :=
  forAll (List.range 8) (fun p x => sinChange (sinActive old p) (sin x p).disAt x.now p x) s

/-- The filter of safe input `p` has passed a level that its pins have had since `h` (R349). -/
def sinPassed (s : State) (p : Nat) (h t : Time) : Bool := decide (h + lfld s (SAF_SIN_CFG_FILT p) * (100 * us) + 100 * ns ≤ t)

/-- Pins of input `p` at new filtered levels. -/
def sinLevels (a b : Bool) (t : Time) (p : Nat) (s : State) : State :=
  refresh t (sinChange (sinActive s p) (sin s p).disAt t p (updSin p (fun y => { y with a := a, b := b }) s))

/-- SAFE_INPUT_DEMAND (R349, R351): SINpA and SINpB have had the levels `a` and `b` long enough to pass the
filter, and a channel demands. An input that does not act yet keeps the levels until it does. -/
def execSafeInputDemand (p : Fin 8) (a b : Bool) (t : Span) (s : State) : Out :=
  let s1 := upto t.till s
  .next (if sinPassed s p.val t.since t.till && (!a || b == lflag s (SAF_SIN_CFG_ANTI p.val)) then
    sinLevels a b t.till p.val s1
  else s1)

/-- SAFE_INPUT_DEMAND_END (R349): the pins of input `p` have been at the levels at which neither channel demands. -/
def execSafeInputDemandEnd (p : Fin 8) (t : Span) (s : State) : Out :=
  let s1 := upto t.till s
  .next (if sinPassed s p.val t.since t.till then
    sinLevels true (!(lflag s (SAF_SIN_CFG_ANTI p.val))) t.till p.val s1
  else s1)

/-- SIN_DISCREPANCY (R350): the channels have disagreed for longer than DISC. -/
def execSinDiscrepancy (p : Fin 8) (t : Time) (s : State) : Out :=
  let s1 := upto t s
  .next (match (sin s p.val).disAt with
  | some u =>
    if sinOn s p.val && decide (u + lfld s (SAF_SIN_CFG_DISC p.val) * ms < t) && !(sinLatch s p.val) then
      refresh t (raise (418 + p.val) (setFldBit SAF_LATCH_SIND p.val true s1))
    else s1
  | none => s1)

/-! ### Safe outputs: commands -/

/-- An applied SAF_SOUT_SET. -/
def soutApply (m : Mask) (d : Word) (s : State) : State :=
  let s1 := putCl SAF_SOUT_SET (clWord s SAF_SOUT_SET m d) s
  let set := fun (o : Nat) => m.getLsbD 0 && d.getLsbD o
  forAll (List.range 4) (soutRefresh s.now)
    (forAll ((List.range 4).filter set)
      (fun o => updSout o (fun y => { y with armed := y.armed || !((fld s SAF_LATCH_SOUTF).testBit o) })) s1)

/-- SOUT_SET (R352). -/
def execSoutSet (m : Mask) (d : Word) (s : State) : Out := .next (soutApply m d s)

/-- SOUT_TEST_PULSE (R353): TPP ms after the last one, on the other pin. -/
def execSoutTestPulse (o : Fin 4) (t : Time) (s : State) : Out :=
  let s1 := upto t s
  let x := sout s o.val
  .next (if x.on && decide (x.testAt + lfld s (SAF_SOUT_CFG_TPP o.val) * ms ≤ t) then
    updSout o.val (fun y => { y with
      testAt := t, testB := !y.testB, testEnd := t + lfld s (SAF_SOUT_CFG_TPW o.val) * us }) s1
  else s1)

/-- The read-back of pin A or B of an energised output, which has had the level `rb` since `h`, fails at `t` (R353): it
has not gone low within 50 µs of the pin's test pulse, or it has disagreed with the pin for more than 10 µs outside one.
-/
def rbFails (x : SoutSt) (pinB rb : Bool) (h t : Time) : Bool :=
  let own := x.testB == pinB && decide (x.testAt < x.testEnd)
  let free := max h (if own then max x.onAt x.testEnd else x.onAt)
  x.on && ((own && rb && decide (h ≤ x.testAt) && decide (x.testAt + 50 * us ≤ t)) ||
    (!rb && decide (free + 10 * us < t)))

/-- SOUT_FAULT (R353): a read-back of output `o` fails. -/
def execSoutFault (o : Fin 4) (r : ReadBack) (s : State) : Out :=
  let s1 := upto r.span.till s
  .next (if s.saf.sstate != 0 && lflag s (SAF_SOUT_CFG_EN o.val) && !((fld s SAF_LATCH_SOUTF).testBit o.val) &&
      rbFails (sout s o.val) r.pinB r.level r.span.since r.span.till then
    raise (426 + o.val) (setFldBit SAF_LATCH_SOUTF o.val true
      (updSout o.val (fun y => { y with on := false, armed := false }) s1))
  else s1)

/-- SBC_DEENERGISE (R352): SBCDLY ms after an STO demand on a group of the brake output. -/
def execSbcDeenergise (o : Fin 4) (t : Time) (s : State) : Out :=
  let s1 := upto t s
  .next (if (sout s o.val).on && brakeDue s o.val t then updSout o.val (fun y => { y with on := false }) s1 else s1)

/-! ### States and heartbeat (R340 to R343) -/

/-- SV runs in lockstep. -/
def svRuns (s : State) : Bool := pairState s 6 == 1 && !s.prc.svStopped

/-- SAF_FROZEN (R341). -/
def execSafFrozen (s : State) : Out :=
  .next (if s.saf.sstate = 1 ∧ (!(svRuns s) ∨ lfld s SAF_CTRL_HBT ≤ s.saf.hbMiss) then
    refresh s.now (raise 431 (updSaf (fun x => { x with sstate := 2, hbOk := 0, hbPrev := 0 }) s)) else s)

/-- SAF_UNFREEZE (R341). -/
def execSafUnfreeze (s : State) : Out :=
  .next (if s.saf.sstate = 2 ∧ svRuns s ∧ lfld s SAF_CTRL_HBT ≤ s.saf.hbPrev then
    updSaf (fun x => { x with sstate := 1, hbMiss := 0 }) s else s)

/-- The heartbeat of a boundary is counted; boundary 0 (`first`) counts neither way. -/
def hbBoundary (first : Bool) (s : State) : State :=
  let x := s.saf
  if first || x.sstate == 0 || x.sstate == 3 then updSaf (fun y => { y with hb := false, hbMissBit := false }) s
  else
    let s1 := updSaf (fun y => { y with
      hb := false
      hbMissBit := !x.hb
      hbPrev := x.hbOk
      hbOk := if x.hb && svRuns s then x.hbOk + 1 else 0
      hbMiss := if x.hb then 0 else x.hbMiss + 1 }) s
    raiseIf (x.sstate == 1 && !x.hb) 432 s1

/-- SAF_HB (R341): an applied heartbeat. -/
def hbApply (s : State) : State := updSaf (fun x => { x with hb := true }) s

/-! ### Latches (R348, R350, R353, R362) -/

def clearStodisc (s : State) : State :=
  if !s.saf.stoA && !s.saf.stoB then refresh s.now (stoNote s.now (setFld SAF_LATCH_STODISC 0 s)) else s
def clearSind (p : Nat) (s : State) : State :=
  if !(anyDemand s p) then refresh s.now (setFldBit SAF_LATCH_SIND p false s) else s
def clearSoutf (o : Nat) (s : State) : State := setFldBit SAF_LATCH_SOUTF o false s
def clearDisflt (s : State) : State := if disRuns s then s else refresh s.now (setFld SAF_LATCH_DISFLT 0 s)

def execLatchClearStodisc (s : State) : Out := .next (clearStodisc s)
def execLatchClearSind (p : Fin 8) (s : State) : Out := .next (clearSind p.val s)
def execLatchClearSoutf (o : Fin 4) (s : State) : Out := .next (clearSoutf o.val s)
def execLatchClearDisflt (s : State) : Out := .next (clearDisflt s)

/-- An applied W1C value of SAF_LATCH. -/
def latchClear (v : Word) (s : State) : State :=
  let s1 := if v.getLsbD 0 then clearStodisc s else s
  let s2 := forAll ((List.range 8).filter fun p => v.getLsbD (1 + p)) clearSind s1
  let s3 := forAll ((List.range 4).filter fun o => v.getLsbD (9 + o)) clearSoutf s2
  if v.getLsbD 13 then clearDisflt s3 else s3

/-! ### Limit entries (R354) -/

/-- The word of a limit entry is out of bounds. -/
def limOut (s : State) (k : Nat) : Bool :=
  let w := lfld s (SAF_LIM_CFG_WORD k)
  let x0 := if lflag s (SAF_LIM_CFG_RB k) then latched s w else sample s w
  let x := fval (if lflag s (SAF_LIM_CFG_ABS k) then BitVec.ofNat 32 (bits x0.toNat 0 31) else x0)
  x = .nan || fLtIeee x (fval (live s (SAF_LIM_LO k))) || fLtIeee (fval (live s (SAF_LIM_HI k))) x

/-- The entry is evaluated in the fabric's state. -/
def limOn (s : State) (k : Nat) : Bool :=
  lflag s (SAF_LIM_CFG_EN k) && (if s.saf.sstate = 1 then !(lflag s (SAF_LIM_CFG_FRZ k)) else s.saf.sstate != 0)

/-- LIMIT_EVALUATE of one entry. -/
def limStep (k : Nat) (s : State) : State :=
  let n := if limOn s k && limOut s k then SMap.get natD s.saf.limN k + 1 else 0
  let trip := limOn s k && limOut s k && decide (lfld s (SAF_LIM_CFG_N k) ≤ n)
  let was := (fld s SAF_LIMST_TRIP).testBit k
  let s1 := updSaf (fun x => { x with limN := SMap.set natD x.limN k (min n 15) }) s
  raiseIf (trip && !was) 430 (setFldBit SAF_LIMST_TRIP k trip s1)

/-- LIMIT_EVALUATE at a boundary, and the kinds that then act. -/
def limEvaluate (s : State) : State := refresh s.now (forAll (List.range 16) limStep s)

/-! ### Status words (R365, R366) -/

/-- KIND as R365 encodes it. -/
def kindCode : Nat → Nat
  | 1 => 1
  | 2 => 3
  | 3 => 2
  | 4 => 5
  | 5 => 4
  | _ => 0

/-- Bits 31:16 of a group status word. -/
def grpSafBits (s : State) (g : Nat) : Nat :=
  let x := grp s g
  2 ^ 16 * (b2n (stoDemand s && inGroups s SAF_STO_GROUPS g) + 2 * b2n ((List.range 8).any fun p => sinDemands s p g) +
    4 * b2n ((List.range 16).any fun k => limDemands s k g) + 8 * b2n (x.man != 0 || x.ss1Exp) + 16 * b2n x.ss1.isSome +
    32 * b2n (disRuns s && disGroup s == g) + 64 * b2n (flag s SAF_LATCH_DISFLT && disGroup s == g) +
    128 * b2n ((List.range 4).any fun o => lflag s (SAF_SOUT_CFG_EN o) && lflag s (SAF_SOUT_CFG_SBC o) &&
      inGroups s (SAF_SOUT_GRP_GROUPS o) g && !(sout s o).on) + 256 * kindCode x.kind)

/-- A group status word (R266, R365). -/
def grpWord (s : State) (g : Nat) : Word := BitVec.ofNat 32 (grpStatus s g + grpSafBits s g)

/-- The device status word, and SAF_STAT as read live (R366). -/
def safStat (s : State) : Word :=
  let x := s.saf
  let sins := (List.range 8).foldl (fun n p => n + 2 ^ p * b2n (sinDemand s p)) 0
  BitVec.ofNat 32 (x.sstate + 8 * b2n x.stoA + 16 * b2n x.stoB + 32 * fld s SAF_LATCH_STODISC + 64 * sins +
    2 ^ 14 * fld s SAF_LATCH_SOUTF + 2 ^ 18 * fld s BSI_DCXST_MIS + 2 ^ 19 * b2n x.hbMissBit +
    2 ^ 20 * fld s SAF_DIS_ST_STATE + 2 ^ 22 * fld s SAF_DIS_ST_IMPL)

end Sys2Proof.Machine
end

