-- ==== Sys2Proof/Machine/SelfTest.lean ====
section
/-! DEFINITION. The continuous memory test, block self-tests, pad read-back and test access (R461 to R469). -/

namespace Sys2Proof.Machine
open Sys2Proof

/-! ### Memory test (R461, R462) -/

/-- The number of a class: 0 to 6 the TCMs, 7 system SRAM, 8 twin cells, 9 the colophon. -/
def memKey : MemClass → Nat
  | .tcm u => u.val
  | .sram => 7
  | .twin => 8
  | .colophon => 9

/-- Words of a class, the bit of TST_MT that enables it, and the byte of TST_MTIV that paces it. -/
def memWords : MemClass → Nat
  | .tcm _ => 131072
  | .sram => 1048576
  | .twin => 131072
  | .colophon => 400
def memBit : MemClass → Nat
  | .tcm _ => 0
  | .sram => 1
  | .twin => 2
  | .colophon => 3

/-- The interval of a class; 0 reads as 1. -/
def memIv (s : State) (k : MemClass) : Time := max 1 (bits (fld s TST_MTIV_IV) (8 * memBit k) 8) * us

/-- The next word of a class. -/
def memPos (s : State) (k : MemClass) : Nat := SMap.get natD s.tst.pos (memKey k)

/-- The address of a word as TST_MFAILA shows it; a colophon entry shows its number. -/
def memAddr (k : MemClass) (w : Nat) : Nat :=
  match k with
  | .tcm _ => 0x10000000 + 8 * w
  | .sram => 0x20000000 + 8 * w
  | .twin => 0x44100000 + 4 * (w % 65536)
  | .colophon => w

/-- A spare of a class is used: `f` counts them up to `n`; the last raises TST_SPARE_LOW. -/
def useSpare (f : Fld) (n : Nat) (s : State) : State :=
  if n ≤ fld s f then s else raiseIf (fld s f + 1 == n) 625 (setFld f (fld s f + 1) s)

/-- The effect of a failing word by its class (R462): of a TCM a block self-test failure of its pair, running or HELD. -/
def memFail (k : MemClass) (w : Nat) (s : State) : State :=
  match k with
  | .tcm u =>
    let half := pairState s u.val == 2 && decide (0x40000 ≤ (8 * w) % 0x80000)
    if hasUnit s u.val && pairState s u.val != 4 && !(unit s (Who.key ⟨u, half⟩)).failed then
      permFault ⟨u, half⟩ .selfTest (raiseIf (canFault s ⟨u, half⟩ && inReplay s ⟨u, half⟩) 399 s)
    else s
  | .sram => useSpare TST_SPARE_SRAM 64 s
  | .twin => permEngine .state s
  | .colophon => useSpare (if w < 200 then TST_SPARE_COLA else TST_SPARE_COLB) 8 s

/-- TST_MFAIL records a failure. -/
def memRecord (k : MemClass) (w : Nat) (s : State) : State :=
  let (mem, other) := match k with
    | .tcm u => (u.val, 0)
    | .sram => (7, 0)
    | .twin => (7, 1)
    | .colophon => (7, 2)
  raise 624 (setReg TST_MFAILA (BitVec.ofNat 32 (memAddr k w)) (setFld TST_MFAIL_VALID 1
    (setFld TST_MFAIL_MEM mem (setFld TST_MFAIL_OTHER other s))))

/-- MEMTEST_VISIT (R461, R462): the next word of a class is tested, and with `fail` fails. -/
def execMemtestVisit (k : MemClass) (fail : Bool) (t : Time) (s : State) : Out :=
  let s1 := upto t s
  let n := memKey k
  let here := match k with | .tcm u => hasUnit s u.val | _ => true
  .next (if (fld s TST_MT_EN).testBit (memBit k) && here && !s.pwr.inReset &&
      decide (SMap.get natD s.tst.visitAt n + memIv s k ≤ t) then
    let w := memPos s k
    let s2 := { s1 with tst := { s1.tst with
      pos := SMap.set natD s1.tst.pos n ((w + 1) % memWords k), visitAt := SMap.set natD s1.tst.visitAt n t } }
    if fail then memFail k w (memRecord k w s2) else s2
  else s1)

/-! ### Block self-test (R463 to R465) -/

/-- What an instance of class 3 is, in the order in which R463 lists them. -/
def ioInstance (s : State) (i : Nat) : Option (Bool × Nat) :=
  if i < 6 then (if hasCan s i then some (lflag s (CAN_CFG_EN i), 10) else none)
  else if i < 10 then some (lflag s (QSP_CFG_EN (i - 6)), 11)
  else if i < 14 then
    (if hasSp s (i - 10) then some (lflag s SPN_CTRL_EN && bitOf (lfld s SPN_CTRL_PEN) (i - 10), 9) else none)
  else if i < 26 then (if hasPort s (i - 14) then some (lflag s (FBK_P_CFG_EN (i - 14)), 7) else none)
  else none

/-- The duration of a test whose conditions hold. -/
def btTime (s : State) (cls i : Nat) : Option Time :=
  match cls with
  | 1 => if i < 8 && !s.tst.saxUsed && !(match s.cal with | some c => c.sar | none => false) then some (2 * ms) else none
  | 2 => if i < 6 && hasUnit s i && targetFree s (i + 1) then some (5 * ms) else none
  | 3 => match ioInstance s i with
    | some (false, _) => some ms
    | _ => none
  | _ => none

/-- SAX and converter `c` run in parallel from now on; a sequence in progress is none of the four that are compared. -/
def sideBySide (c : Nat) (s : State) : State :=
  updSar c (fun x => { x with par := some 0, parBad := false, parSkip := x.slot.isSome }) s

/-- An applied TST_BTREQ with GO = 1. -/
def btRequest (d : Word) (s : State) : State :=
  let cls := TST_BTREQ_CLASS.of d
  let i := TST_BTREQ_INST.of d
  if TST_BTREQ_GO.of d = 0 then s
  else if s.tst.bt.isSome then setFld TST_BTST_RESULT 3 s
  else
    let s1 := setFld TST_BTST_CLASS cls (setFld TST_BTST_INST i s)
    match btTime s cls i with
    | none => setFld TST_BTST_RESULT 3 s1
    | some dt =>
      let s2 := setFld TST_BTST_BUSY 1 (setFld TST_BTST_RESULT 0
        { s1 with tst := { s1.tst with bt := some { cls := cls, inst := i, endAt := s.now + dt } } })
      if cls = 1 then sideBySide i s2
      else if cls = 2 ∧ ticking s = false then holdPair i s2
      else s2

/-- BLOCK_TEST_REQUEST (R463). -/
def execBlockTestRequest (d : Word) (t : Time) (s : State) : Out := .next (btRequest d (upto t s))

/-- Four sequences of converter `c` have been compared; of a disabled one none run. -/
def fourCompared (s : State) (c : Nat) : Bool :=
  !(lflag s (SAR_SEQ_CFG_EN c)) || (sar s c).par.any fun n => decide (4 ≤ n)

/-- The next stage of a converter's test. -/
def setStage (x : SaxStage) (s : State) : State :=
  { s with tst := { s.tst with bt := s.tst.bt.map fun b => { b with stage := x } } }

/-- The comparison of converter `c` ends at a boundary: with all codes within 16 of each other the work passes to SAX, or
back from it; otherwise R290 applies with SAX as the spare (R464). -/
def saxBoundary (c : Nat) (st : SaxStage) (s : State) : State :=
  let ends (next : SaxStage) (spare : Bool) : State :=
    if !(fourCompared s c) then s
    else if (sar s c).parBad then setStage .differs (updSar c (fun x => { x with par := none }) s)
    else setStage next (updSar c (fun x => { x with par := none, onSpare := spare }) s)
  match st with
  | .joining => ends .checking true
  | .returning => ends .returned false
  | _ => s

/-- At a boundary a pair under test is held, and a comparison of converters ends. -/
def tstBoundary (s : State) : State :=
  match s.tst.bt with
  | some b => if b.cls = 1 then saxBoundary b.inst b.stage s else if b.cls = 2 then holdPair b.inst s else s
  | none => s

/-- The ladder check: codes 13, 14 and 15 give 4,096, 12,288 and 0 within LTOL (R466). -/
def ladderOk (s : State) (c13 c14 c15 : Nat) : Bool :=
  let near (x y : Nat) : Bool := decide (x ≤ y + fld s TST_ANA_LTOL) && decide (y ≤ x + fld s TST_ANA_LTOL)
  near c13 4096 && near c14 12288 && near c15 0

/-- A converter, or SAX, is marked failed (R290). -/
def markSar (s : State) : State := raise 252 (incFld BSI_SPARE_FAILU { s with tst := { s.tst with saxUsed := true } })

/-- The check of converter `c` ends: the return's comparison begins, or the converter stays on SAX (R464, R466). -/
def converterChecked (c : Nat) (pass ladder : Bool) (s : State) : State :=
  let s1 := raiseIf (!ladder) 628 s
  if pass && ladder then setStage .returning (sideBySide c s1) else setStage .failed (markSar s1)

/-- The self-test of SAX after a difference ends: with a pass the converter is the failed one and SAX takes its work for
good; otherwise SAX has failed, and the converter has its work (R290, R464). -/
def saxJudged (c : Nat) (pass : Bool) (s : State) : State := markSar (updSar c (fun x => { x with onSpare := pass }) s)

/-- The end of a pair's test (R465): HELD with its registers reset, or FAILED. PRC_FAULTn keeps the last cause. A
pair that goes from HELD to FAILED does not leave HELD in the sense of EV410 (DESIGN CHOICE, log 64). -/
def pairTested (p : Nat) (pass : Bool) (s : State) : State :=
  if pass then
    setFld (PRC_STAT_STATE p) 0
      (updUnit p (fun u => { u with arch := {}, ckpt := {}, failed := false })
        (updUnit (p + 8) (fun u => { u with arch := {}, ckpt := {}, failed := false }) s))
  else raise 400 (setFld (PRC_FAULT_CAUSE p) 4 (setFld (PRC_STAT_STATE p) 4 s))

/-- TST_BTST shows the end of the test, and its event is raised. -/
def testEnds (pass : Bool) (s : State) : State :=
  raise (if pass then 626 else 627) (setFld TST_BTST_BUSY 0 (setFld TST_BTST_RESULT (if pass then 1 else 2)
    { s with tst := { s.tst with bt := none } }))

/-- A converter's test goes on by its stage (R464): its checks end, SAX's self-test ends, or the test ends. -/
def converterStep (b : BtRun) (pass ladder : Bool) (t : Time) (s : State) : State :=
  match b.stage with
  | .checking => converterChecked b.inst pass ladder s
  | .differs => testEnds false (saxJudged b.inst pass s)
  | .returned => if t < b.endAt then s else testEnds true s
  | .failed => if t < b.endAt then s else testEnds false s
  | .joining => s
  | .returning => s

/-- BLOCK_TEST_DONE (R464 to R466): a block test ends. Of a converter it is the end of its ladder check, whose
three codes it gives, and logic test, of SAX's self-test, or of the whole. -/
def execBlockTestDone (r : TestResult) (t : Time) (s : State) : Out :=
  let s1 := upto t s
  .next (match s.tst.bt with
  | none => s1
  | some b =>
    if b.cls = 1 then converterStep b r.pass (ladderOk s r.c13.toNat r.c14.toNat r.c15.toNat) t s1
    else if t < b.endAt then s1
    else testEnds r.pass (if b.cls = 2 then pairTested b.inst r.pass s1 else s1))

/-! ### Pads and scan (R468, R469) -/

/-- TST_PAD (R468): a pad has read a level for a time: not the driven level, and for longer than PADT beyond 10 ns
after the edge. -/
def execTstPad (l : Fin 96) (r : PadLevel) (s : State) : Out :=
  let s1 := upto r.span.till s
  let w := l.val / 16
  let i := 2 * (l.val % 16) + (if r.side = .high then 0 else 1)
  let g := if r.side = .high then (leg s l.val).h else (leg s l.val).l
  let differs := g.on != r.level && decide (max r.span.since (g.edgeAt + 10 * ns) + fld s TST_ANA_PADT * ns < r.span.till)
  .next (if flag s TST_ANA_PADEN && hasLeg s l.val && differs then raise 630 (setFldBit (TST_PAD_PAD w) i true s1) else s1)

/-- TST_SCAN_ENTER (R469), in its order. -/
def scanEnter (s : State) : State :=
  if lcState s = 1 ∨ (lcState s = 5 ∧ s.tru.erased = true) then
    let s1 := refresh s.now (forAll (List.range 96) (legLow s.now) { s with tst := { s.tst with scan := true } })
    updTru (fun t => { t with otpBlocked := true }) (endTokens (updTru (fun t => { t with zeroised := true }) s1))
  else s

def execTstScanEnter (s : State) : Out := .next (scanEnter s)

end Sys2Proof.Machine
end

