-- ==== Sys2Proof/Machine/SpineRing.lean ====
section
/-! DEFINITION. The spine's steps that reach other blocks: tick signatures and concord, resynchronisation, joining,
leaving, and management signatures; and what the ring does at a boundary (R378 to R391, R400, R457 to R459). -/

namespace Sys2Proof.Machine
open Sys2Proof

/-! ### Concord (R389) -/

/-- Set the DISC reasons, with the events of entering discord and of returning to concord. TIME discord takes LOCK
away. -/
def setDisc (d : BitVec 4) (s : State) : State :=
  let old := s.spn.disc
  let s1 := updSpn (fun n => { n with disc := d, lock := n.lock && !(d.getLsbD 2) }) s
  let s1 := if d ≠ 0 ∧ s1.spn.handoff.map (·.1) = some (myAddr s1) then updSpn (fun n => { n with handoff := none }) s1 else s1
  if old = 0 ∧ d ≠ 0 then raise 471 s1 else if old ≠ 0 ∧ d = 0 then raise 472 s1 else s1

/-- The DISC reasons CFG, VER and TIME against a tick signature; EPOCH is judged at the boundary. -/
def concord (s : State) (g : TickSig) : BitVec 4 :=
  let cfg := decide (live s SPN_CFGD ≠ g.cfgd)
  let ver := decide (s.spn.verd ≠ g.verd) && !(decide (g.gath ≠ 0) && decide (g.gath = s.spn.gath))
  let bad := decide (16 ≤ s.spn.badRun) || decide (640 < s.spn.phase.natAbs) || decide (g.tick ≠ s.tick.tcnt + 1)
  let time := ticking s && (bad || (s.spn.disc.getLsbD 2 && !s.spn.lock))
  BitVec.ofNat 4 (b2n cfg + 2 * b2n ver + 4 * b2n time + 8 * b2n (s.spn.disc.getLsbD 3))

/-- The phase error of the own boundary against the placed one, in fine steps, and the runs that R380 and R389 count; a
boundary without a tick signature breaks them (followerBoundary). -/
def notePhase (g : TickSig) (s : State) : State :=
  let e : Int := ((s.tick.next : Int) - (g.at_ : Int)) / 5
  updSpn (fun n => { n with
    phase := e
    okRun := if e.natAbs ≤ 32 then min 16 (n.okRun + 1) else 0
    badRun := if 64 < e.natAbs then min 16 (n.badRun + 1) else 0 }) s

/-- An instant moved by a signed time. -/
def moveTime (d : Int) (t : Time) : Time := ((t : Int) + d).toNat

/-- A leg's carrier and the edges that it has placed move with the boundary, so that every carrier and edge keeps its
place in the tick (R378). -/
def moveLeg (d : Int) (x : LegSt) : LegSt := { x with
  epoch := moveTime d x.epoch
  ptAt := x.ptAt.map (moveTime d)
  plan := x.plan.map fun e => { e with at_ := moveTime d e.at_ }
  riseAt := x.riseAt.map (moveTime d)
  fallFix := x.fallFix.map (moveTime d)
  diagAt := x.diagAt.map (moveTime d) }

/-- A signed time within ±`lim`. -/
def within (lim d : Int) : Int := if lim < d then lim else if d < -lim then -lim else d

/-- The timebase is steered after a boundary that has been placed by `d` from where the timebase had it: the carriers
and the edges placed follow, by at most 100 ppm of the tick, and what is left over is made up in the ticks that follow
(R32, R378). DESIGN CHOICE (log 40): it follows as fast as it may, at the placing. -/
def steerBy (d : Int) (s : State) : State :=
  let tick := s.tick.period * tb
  let c := within (tick / 10000 : Nat) (s.spn.lag + d)
  updSpn (fun n => { n with lag := s.spn.lag + d - c, steer := c * 1000000000 / tick })
    (forAll (those 96 fun l => legOn s l) (fun l => updLeg l (moveLeg c)) s)

/-- The member places its coming boundary (R378) and steers its timebase after it; in time discord it only retunes, by
at most 100 ppm of the tick (R391). -/
def placeBoundary (g : TickSig) (s : State) : State :=
  let d : Int := (g.at_ : Int) - (s.tick.next : Int)
  let near := decide (g.tick = s.tick.tcnt + 1) && decide (2 * d.natAbs < s.tick.period * tb)
  let d' : Int := if s.spn.disc.getLsbD 2 then (if near then within (s.tick.period * tb / 10000 : Nat) d else 0) else d
  let n := max s.now ((s.tick.next : Int) + d').toNat
  updTick (fun k => { k with next := n, periodNext := g.period }) (steerBy ((n : Int) - (s.tick.next : Int)) s)

/-! ### Membership from a tick signature (R386, R387) -/

/-- The member that a port leads to: the first on the ring, or on the chain, in the port's direction. -/
def portNext (s : State) (p : Nat) : Option Nat :=
  let g := segOf s p
  let far := fun (a : Nat) => if p = g then ringPos g a else 64 - ringPos g a
  (those 64 fun a => (memb s a).isMember && a != myAddr s && segOfMember s g a == g && !(Config.behind a)).foldl
    (fun b a => match b with
      | none => some a
      | some c => if far a < far c then some a else b) none

/-- The neighbours of the members taken in end their wraps, where the link is up (R387). -/
def endWraps (new : List Nat) (s : State) : State :=
  let ps := those 4 fun p => (link s p).up && (link s p).wrap && (portNext s p).any fun a => new.contains a
  raiseIf (!ps.isEmpty) 466 (forAll ps (fun p => updLink p fun l => { l with wrap := false }) s)

/-- The lead is to pass to an admitted member of lower serial number, 16 boundaries from now (R385). -/
def planHandoff (new : List Nat) (s : State) : State :=
  let lower := new.filter fun a => decide (serialOf s a < serialOf s s.spn.lead)
  match lower with
  | [] => s
  | a :: r =>
    let b := r.foldl (fun m x => if serialOf s x < serialOf s m then x else m) a
    updSpn (fun n => { n with handoff := some (b, s.tick.tcnt + 16) }) s

/-- The membership and EPOCH that a tick signature announced come into force, and credits are reset (R386, R396). -/
def adoptMembers (m : BitVec 64) (epoch : BitVec 16) (s : State) : State :=
  let new := (addrsOf m).filter fun a => !(memb s a).isMember
  let gone := (addrsOf (memberMap s)).filter fun a => !(m.getLsbD a)
  let told := gone.all fun a => s.spn.lostPend.getLsbD a
  let s1 := forAll new (fun a => updMemb a fun x => { x with isMember := true, missed := 0 }) s
  let s2 := forAll gone (fun a => updMemb a fun x => { x with isMember := false, granted := 0 }) s1
  let out := memberMap s &&& ~~~m
  let s3 := updSpn (fun n => { n with epoch := epoch, lostPend := 0, reset := true, gone := (n.gone ||| out) &&& ~~~m }) s2
  let s4 := if new.isEmpty then s3 else raise 468 (planHandoff new (endWraps new s3))
  if gone.isEmpty || told then s4 else raise 470 s4

/-- An EPOCH is ahead of another by less than half of its range. -/
def epochAhead (new old : BitVec 16) : Bool := decide (new ≠ old) && decide ((new - old).toNat < 0x8000)

/-- The joiner takes the ring's tick, EPOCH and members, and is a follower from now on (R387). Its carriers re-base. -/
def adoptRing (g : TickSig) (s : State) : State :=
  let s1 := updSpn (fun n => { n with role := 2, lead := g.lead, joinAt := none, joinCode := 0 }) s
  let s2 := updTick (fun k => { k with tcnt := g.tick }) s1
  let s3 := adoptMembers g.members g.epoch s2
  forAll (those 96 fun l => legOn s3 l) (rebaseLeg s3.now) s3

/-- Another lead's tick signature is heard: it is followed if its serial number is lower (R391). -/
def followLead (g : TickSig) (s : State) : State :=
  if g.lead ≠ s.spn.lead ∧ serialOf s g.lead < serialOf s s.spn.lead then
    raise 467 (updSpn (fun n => { n with role := 2, lead := g.lead }) s)
  else s

/-! ### TICK_SIGNATURE -/

/-- The delay from the lead of a signature that arrived on a port: the delays of the links on its path, this device's
own as measured and the others as their members publish them (R377, R378). -/
def pathDelay (s : State) (lead : Nat) (x : Sig) : Time :=
  let hs := Config.hops lead x.port.val x.hdr.w x.hdr.epoch.toNat
  fineStep * ((link s x.port.val).delay.getD 0 + (hs.map fun h => (memb s h.1).delays.getD h.2 0).sum)

/-- The content of a tick signature that arrived at `t`. -/
def tickSigOf (x : Sig) (t : Time) (s : State) : TickSig where
  at_ := t + slice x.payload 36 2 * tb - pathDelay s (slice x.payload 32 1 % 64) x
  delay := pathDelay s (slice x.payload 32 1 % 64) x
  tick := slice x.payload 0 8
  time := slice x.payload 8 8
  period := slice x.payload 16 2
  cfgd := BitVec.ofNat 32 (slice x.payload 20 4)
  verd := BitVec.ofNat 32 (slice x.payload 24 4)
  gath := BitVec.ofNat 32 (slice x.payload 28 4)
  lead := slice x.payload 32 1 % 64
  tlead := slice x.payload 36 2
  members := BitVec.ofNat 64 (slice x.payload 40 8)
  epoch := x.hdr.epoch

/-- The open gathering against a tick signature: GATH = 0 commits where VERD agrees and aborts where it does not, and
closes a gathering that has been rolled back (R458, R459). -/
def gathSignature (g : TickSig) (s : State) : State :=
  if g.gath ≠ 0 then s
  else if gathOpen s then
    (if g.verd = s.spn.verd then updTru (fun t => { t with closing := true }) s else gathAbort s)
  else if fld s TRU_GSTAT_STATE = 4 then gathClose s
  else s

/-- A follower takes a tick signature of its lead. -/
def followerTakes (g : TickSig) (s : State) : State :=
  let s1 := updSpn (fun n => { n with sig := some g, sigSeen := true, noSig := 0, holdover := false }) s
  let s2 := if ticking s then notePhase g s1 else updTick (fun k => { k with tcnt := g.tick, periodNext := g.period }) s1
  let s3 := setDisc (concord s2 g) s2
  let s4 := if ticking s then placeBoundary g s3
    else if epochAhead g.epoch s3.spn.epoch then creditReset (adoptMembers g.members g.epoch s3) else s3
  gathSignature g s4

/-- A joiner takes a tick signature: the first one shows it the lead, to which the JOIN signature goes unless the tick
counter would have to step; one that names it a member places the boundary of its admission (R387). -/
def joinerTakes (g : TickSig) (s : State) : State :=
  let s1 := updSpn (fun n => { n with sig := some g, sigSeen := true, lead := g.lead, noSig := 0 }) s
  if s.spn.sig.isNone then
    if ticking s && decide (g.tick ≠ s.tick.tcnt + 1) then joinRefused 7 s1
    else sendMgmt g.lead (peerBytes (selfPeer s1)) s1
  else if g.members.getLsbD (myAddr s) then
    if ticking s then updTick (fun k => { k with next := max s.now g.at_, periodNext := g.period }) s1
    else creditReset (adoptRing g s1)
  else s1

/-- TICK_SIGNATURE: a tick signature arrives at `t` (R378, R381, R389). -/
def execTickSignature (x : Sig) (t : Time) (s : State) : Out :=
  .next (receive x t (fun s1 =>
    if x.hdr.kind ≠ 0 ∨ x.payload.length ≠ 48 then s1
    else
      let g := tickSigOf x t s1
      let s2 := spend s1
      if s2.spn.role = 3 then joinerTakes g s2
      else if s2.spn.role = 0 then updSpn (fun n => { n with sig := some g }) s2
      else
        let s3 := followLead g s2
        if isFollower s3 && g.lead == s3.spn.lead then followerTakes g s3 else s3) id s)

/-! ### TIME_RESYNC_STEP (R391) -/

/-- The ring's tick in progress at instant `t`, its start and its end, by the last tick signature. -/
def ringTick (g : TickSig) (t : Time) : Nat × Time × Time :=
  let p := g.period * tb
  if t < g.at_ then (g.tick - 1, g.at_ - p, g.at_)
  else
    let k := (t - g.at_) / p
    (g.tick + k, g.at_ + k * p, g.at_ + (k + 1) * p)

/-- The tick that the ring's boundary nearest to instant `t` opens, by the last tick signature. -/
def ringOpens (g : TickSig) (t : Time) : Int :=
  let p : Int := (g.period * tb : Nat)
  (g.tick : Int) + ((t : Int) - (g.at_ : Int) + p / 2) / p

/-- TIME_RESYNC_STEP: the tick counter and the boundary step to the ring's, and every carrier re-bases. -/
def execTimeResyncStep (s : State) : Out :=
  .next (match s.spn.sig with
  | none => s
  | some g =>
    let far := decide (ringOpens g s.now ≠ s.tick.tcnt) || decide (s.tick.period * tb ≤ 10 * s.spn.phase.natAbs)
    if isFollower s && ticking s && s.spn.disc.getLsbD 2 && groupsHeld s && far && decide (s.now = s.tick.last) then
      let (n, b0, b1) := ringTick g s.now
      let s1 := updTick (fun k => { k with tcnt := n, last := b0, next := b1 }) s
      let s2 := updSpn (fun x => { x with phase := 0, okRun := 0, badRun := 0, lag := 0 }) s1
      setDisc (s2.spn.disc &&& 0b1011#4) (forAll (those 96 fun l => legOn s2 l) (rebaseLeg s2.now) s2)
    else s)

/-! ### Joining and leaving (R387, R388) -/

/-- SPN_JOIN: an applied join command. -/
def execSpnJoin (t : Time) (s : State) : Out :=
  let s1 := upto t s
  .next (if spnOn s && s.spn.role == 0 then askJoin s1 else s1)

/-- JOIN_TIMEOUT: no tick signature has been heard within 100 ms of the request. -/
def execJoinTimeout (t : Time) (s : State) : Out :=
  let s1 := upto t s
  .next (match s.spn.joinAt with
  | some u => if s.spn.role = 3 ∧ s.spn.sig = none ∧ u + 100 * ms ≤ t then joinRefused 1 s1 else s1
  | none => s1)

/-- Bytes that a member originates per tick at most: its periodic slot and its asynchronous budget (R383). -/
def originBytes (p : Peer) : Nat := p.slot.toNat * 8 + 144 + 64 * p.abud.toNat

/-- The third condition of R383 with one more member. -/
def ringFits (s : State) (x : Peer) : Bool :=
  let ps := selfPeer s :: x :: (((addrsOf (memberMap s)).filter fun a => a != myAddr s).map (peerOf s))
  decide (16 * (72 + (ps.map originBytes).sum) ≤ 45 * s.tick.period)

/-- The code with which the lead answers a JOIN signature (R387); 0 admits. -/
def joinAnswer (s : State) (x : Peer) : Nat :=
  let me := selfPeer s
  let known := (memb s x.addr.val).isMember || x.addr.val == myAddr s ||
    (addrsOf (memberMap s)).any fun a => serialOf s a == x.serial.toNat
  if x.ringid ≠ me.ringid then 2
  else if known then 3
  else if x.cfgd ≠ me.cfgd then 4
  else if x.verd ≠ me.verd ∧ ¬ (me.gath ≠ 0 ∧ x.gath = me.gath) then 5
  else if !(ringFits s x) then 6
  else 0

/-- What a JOIN signature with the payload `p` does here: the lead refuses it with a code or schedules the admission for
the first boundary at least two ticks later. -/
def takeJoin (port : Nat) (p : Peer) (t : Time) (s : State) : State :=
  if !(isLead s) || !(peerPort s port) then mgmtDrop s
  else
    let c := joinAnswer s p
    if c ≠ 0 then raise 469 (sendMgmt p.addr.val (Config.refusalBytes c) s)
    else
      let due := s.tick.tcnt + (if t = s.tick.last then 2 else 3)
      updMemb p.addr.val (fun m => { m with peer := some p })
        (updSpn (fun n => { n with admits := n.admits.filter (fun e => e.1 ≠ p.addr.val) ++ [(p.addr.val, due)] }) s)

/-- JOIN_SIGNATURE: a JOIN signature arrives, of any sender (R400). -/
def execJoinSignature (x : Sig) (p : Peer) (t : Time) (s : State) : Out :=
  .next (receive x t (takeJoin x.port.val p t) id s)

/-- The lead makes the changes of membership that are due, resets its credits and plans a hand-off (R385 to R388). -/
def makeChanges (s : State) : State :=
  let n := s.tick.tcnt
  let ins := dueAt n s.spn.admits
  let outs := dueAt n s.spn.leaves
  let late := fun (e : Nat × Nat) => !(decide (e.2 ≤ n))
  let s1 := updSpn (fun x => { x with admits := x.admits.filter late, leaves := x.leaves.filter late }) (changeMembers n s)
  let s2 := creditReset s1
  let s3 := if ins.isEmpty then s2 else raise 468 (planHandoff (ins.map (·.1)) (endWraps (ins.map (·.1)) s2))
  raiseIf (!outs.isEmpty) 470 s3

/-- MEMBER_ADMIT: the lead admits the joiners that are due. -/
def execMemberAdmit (s : State) : Out :=
  .next (if isLead s && !(dueAt s.tick.tcnt s.spn.admits).isEmpty then makeChanges s else s)

/-- LEAVE_EFFECT: two ticks after the command the member becomes standalone, the lead takes it out, and its neighbours
wrap, `ports` being those of this device that lead to a member that has gone. -/
def execLeaveEffect (s : State) (ports : BitVec 4 := 0) : Out :=
  let own := match s.spn.leaveTick with | some n => decide (n ≤ s.tick.tcnt) | none => false
  .next (if own then goStandalone s
  else
    let s1 := if isLead s && !(dueAt s.tick.tcnt s.spn.leaves).isEmpty then makeChanges s else s
    if inRing s1 && s1.spn.gone != 0 then wrapAt ports s1 else s1)

/-! ### MANAGEMENT_SIGNATURE (R400) -/

/-- The sender is a member of the ring, as this device, or a joiner by the last tick signature, knows it. -/
def knownMember (s : State) (a : Nat) : Bool :=
  (memb s a).isMember || (s.spn.role == 3 && match s.spn.sig with | some g => g.members.getLsbD a | none => false)

/-- What an accepted management payload from `src` does. -/
def takeMgmt (src : Nat) (bs : List Byte) (s : State) : State :=
  let fromLead := src == s.spn.lead
  let arg := Config.mgmtArg bs
  match Config.mgmtKind bs, fromLead, isLead s with
  | 1, true, _ => if s.spn.role = 3 then joinRefused (arg % 8) s else s
  | 2, _, true => updSpn (fun n => { n with leaves := n.leaves ++ [(src, arg)] }) s
  | 3, true, _ => updSpn (fun n => { n with mgmt := (src, bs) :: n.mgmt }) s
  | 4, true, _ => gathAbort s
  | 5, _, true => updTru (fun t => { t with succ := t.succ ||| (1#64 <<< src) }) s
  | 8, _, true => updTru (fun t => { t with fails := t.fails ||| (1#64 <<< src), succ := t.succ &&& ~~~(1#64 <<< src) }) s
  | 6, _, true => updTru (fun t => { t with rolled := t.rolled ||| (1#64 <<< src) }) s
  | 7, true, _ => raise 467 (updSpn (fun n => { n with
      lead := arg % 64, role := if arg % 64 = myAddr s then 1 else 2 }) s)
  | _, _, _ => mgmtDrop s

/-- MANAGEMENT_SIGNATURE: a management signature arrives. -/
def execManagementSignature (x : Sig) (t : Time) (s : State) : Out :=
  .next (receive x t (fun s1 =>
    if !(peerPort s1 x.port.val) || !(knownMember s1 x.hdr.src.toNat) then mgmtDrop s1
    else takeMgmt x.hdr.src.toNat x.payload s1) id s)

/-! ### At a boundary -/

/-- What the ring clears as a tick ends: what was sent in it. -/
def ringStart (s : State) : State :=
  updSpn (fun n => { n with sent := [], fwd := [], abytes := 0, statusSent := false }) (settle s.now s)

/-- A member's status signature was heard in the tick, or missed (R386). -/
def countHeard (a : Nat) (s : State) : State :=
  if (memb s a).isMember && a != myAddr s then
    updMemb a (fun m => { m with heard := false, missed := if m.heard then 0 else min 2 (m.missed + 1) }) s
  else s

/-- A follower at a boundary: the announced EPOCH and members come into force, and the EPOCH reason is judged. -/
def followerBoundary (s : State) : State :=
  match s.spn.sigSeen, s.spn.sig with
  | true, some g =>
    let s1 := if epochAhead g.epoch s.spn.epoch then adoptMembers g.members g.epoch s else s
    setDisc ((s1.spn.disc &&& 0b0111#4) ||| (if s1.spn.epoch = g.epoch then 0#4 else 0b1000#4)) s1
  | _, _ => updSpn (fun n => { n with noSig := min 2 (n.noSig + 1), okRun := 0, badRun := 0 }) s

/-- The lead at a boundary: it has no phase error (R380). -/
def leadBoundary (s : State) : State := updSpn (fun n => { n with phase := 0, okRun := min 16 (n.okRun + 1), badRun := 0 }) s

/-- An enabled device that no ring has taken in yet announces itself (R384). -/
def announceBoundary (s : State) : State :=
  match s.spn.annAt with
  | some a => if s.spn.role = 0 ∧ s.now < a + 100 * ms then announceSelf s else s
  | none => s

/-- Ring time at the boundary, in half nanoseconds, `p` being the length of the tick that ends (R376). -/
def ringTimeAt (p : Nat) (s : State) : Nat :=
  match isFollower s && s.spn.sigSeen, s.spn.sig with
  | true, some g => 2 * g.time
  | _, _ => s.spn.ringTime + p * 5

/-- The spine at a boundary that ends a tick of `p` tb. -/
def ringBoundary (p : Nat) (s : State) : State :=
  let s1 := updSpn (fun n => { n with ringTime := ringTimeAt p s }) (forAll (List.range 64) countHeard s)
  let s2 := if isFollower s1 then followerBoundary s1 else if isLead s1 then leadBoundary s1
    else match s1.spn.role, s1.spn.sigSeen, s1.spn.sig with
      | 3, true, some g => if g.members.getLsbD (myAddr s1) then adoptRing g s1 else s1
      | _, _, _ => announceBoundary s1
  grantAll (updSpn (fun n => { n with sigSeen := false, missTaken := false }) s2)

end Sys2Proof.Machine
end

