-- ==== Sys2Proof/Machine/Rebind.lean ====
section
/-! DEFINITION. Live and shadow pages and rebinding: requests, the readiness of every participant, attempts, flips,
refills and the acting page of MOD and GLK (R65 to R75, R82, and the readiness rule of each block). -/

namespace Sys2Proof.Machine
open Sys2Proof

/-! ### Participants (R82) -/

/-- The window of participant `b` (R497). -/
def partWin (b : Nat) : Nat := if b = 0 then 1 else if b = 12 then 15 else b + 2

/-- The participant of window `w`; SYS, PRC, TRU and TST are none. -/
def winPart (w : Nat) : Option Nat :=
  if w = 1 then some 0 else if 3 ≤ w ∧ w ≤ 13 then some (w - 2) else if w = 15 then some 12 else none

/-- The first address of a window. -/
def winBase (w : Nat) : Nat := 0x40000000 + 0x10000 * w

/-- Page `dst` with the registers of window `w` as in page `src`. -/
def copyPage (w : Nat) (src dst : SMap Word) : SMap Word :=
  dst.filter (fun e => decide (e.1 < winBase w)) ++
  src.filter (fun e => decide (winBase w ≤ e.1) && decide (e.1 < winBase (w + 1))) ++
  dst.filter (fun e => decide (winBase (w + 1) ≤ e.1))

/-! ### Readiness (R69) -/

/-- A field of block `b` against which a participant resolves: the shadow page of a participant, and the live page of
any other block. -/
def resFld (s : State) (part : BitVec 13) (b : Nat) (f : Fld) : Nat := if part.getLsbD b then sfld s f else lfld s f

/-- The period by which the participants are judged: that of the TKC page that is live after the flip. -/
def resPeriod (s : State) (part : BitVec 13) : Nat :=
  if isFollower s then s.tick.periodNext else resFld s part 0 TKC_PERIOD_PERIOD

/-- R34. -/
def tkcReady (s : State) : Bool := 4000 ≤ sfld s TKC_PERIOD_PERIOD && sfld s TKC_PERIOD_PERIOD ≤ 50000

/-- An entry of the round table in the shadow page meets R180. -/
def rtOk (s : State) (p k : Nat) : Bool :=
  let n := sfld s (ENG_RT_A_COUNT k)
  let b := sfld s (ENG_RT_B_BUDGET k)
  let l := sfld s (ENG_RT_B_LEN k)
  !(sflag s (ENG_RT_A_EN k)) ||
  (1 ≤ n && n ≤ 32 && sfld s (ENG_RT_A_FIRST k) + n ≤ 128 && 1 ≤ l && sfld s (ENG_RT_A_ENTRY k) + l ≤ 16384 &&
    1 ≤ b && b + 64 ≤ budgetEC p)

/-- A table descriptor in the shadow page meets R180. -/
def tdOk (s : State) (k : Nat) : Bool :=
  let n := sfld s (ENG_TD_A_N k)
  let unif := sflag s (ENG_TD_A_UNIF k)
  !(sflag s (ENG_TD_A_VALID k)) ||
  (2 ≤ n && n ≤ 256 && sfld s (ENG_TD_A_BASE k) + (if unif then n else 2 * n) ≤ 16384 &&
    (!unif || (isFin (shad s (ENG_TD_B k)) &&
      match fval (shad s (ENG_TD_C k)) with | .fin _ q => decide (0 < q) | _ => false)))

/-- R180. -/
def engReady (s : State) (p : Nat) : Bool :=
  let base := 16 * sfld s ENG_CAPBASE_BASE
  let size := sfld s ENG_CAPSIZE_SIZE
  (List.range 64).all (rtOk s p) && (List.range 64).all (tdOk s) &&
  16 ≤ size && size ≤ 32768 && 0x20000000 ≤ base && base + 16 * size ≤ 0x20800000

/-- The enabled legs of the MOD page that `part` resolves to, and those of a group. -/
def resLegs (s : State) (part : BitVec 13) : List Nat :=
  those 96 fun l => hasLeg s l && resFld s part 3 (MOD_LEG_CFG_EN l) == 1
def resGrpLegs (s : State) (part : BitVec 13) (g : Nat) : List Nat :=
  (resLegs s part).filter fun l => resFld s part 3 (MOD_LEG_CFG_GROUP l) == g

/-- The carrier period in fine steps by the shadow page (R207). -/
def shadP (s : State) (p l : Nat) : Nat :=
  match sfld s (MOD_LEG_CFG_DIV l) with
  | 0 => p * 16 * (sfld s (MOD_LEG_CFG_KM1 l) + 1)
  | 1 => p * 8
  | _ => p * 4

/-- An enabled leg of the shadow page meets R205. -/
def modLegOk (s : State) (part : BitVec 13) (p l : Nat) : Bool :=
  let upd := sfld s (MOD_LEG_CFG_UPD l)
  sfld s (MOD_GRP_CFG_TYPE (sfld s (MOD_LEG_CFG_GROUP l))) != 0 &&
  sfld s (MOD_LEG_CFG_DIV l) != 3 && upd != 0 && (!(sflag s (MOD_LEG_CFG_CKIND l)) || upd == 1) &&
  sfld s (MOD_LEG_OFS_OFFSET l) < shadP s p l &&
  sfld s (MOD_LEG_DT_DT l) ≤ 25600 && sfld s (MOD_LEG_DT_MINPW l) ≤ 25600 &&
  (!(sflag s (MOD_LEG_DIAG_DIAGEN l)) ||
    (400 ≤ sfld s (MOD_LEG_DIAG_TDIAG l) && sfld s (MOD_LEG_DIAG_TDIAG l) ≤ 16000 && 1 ≤ sfld s (MOD_LEG_DIAG_N l))) &&
  resFld s part 2 (ENG_RT_A_EN (sfld s (MOD_LEG_CFG_SRC l))) == 1

/-- The legs of a group have one carrier. -/
def uniform (s : State) (ls : List Nat) : Bool :=
  let key := fun l => (sfld s (MOD_LEG_CFG_CKIND l), sfld s (MOD_LEG_CFG_DIV l), sfld s (MOD_LEG_CFG_KM1 l),
    sfld s (MOD_LEG_CFG_UPD l))
  match ls with
  | [] => true
  | l :: r => r.all fun k => key k == key l

/-- A group of the shadow page meets R205. -/
def modGrpOk (s : State) (p g : Nat) : Bool :=
  let ls := those 96 fun l => hasLeg s l && sflag s (MOD_LEG_CFG_EN l) && sfld s (MOD_LEG_CFG_GROUP l) == g
  let n := ls.length
  let r := sfld s (MOD_GRP_CFG_SREF g)
  let lead := sfld s (MOD_GRP_SLEAD_LEAD g)
  (match sfld s (MOD_GRP_CFG_TYPE g) with
  | 0 => n == 0
  | 1 => 3 ≤ n && n ≤ 24
  | 2 => n == 3
  | _ => 1 ≤ n && n ≤ 12) &&
  uniform s ls &&
  (sfld s (MOD_GRP_CFG_SMP g) == 0 || (ls.contains r && lead ≤ 4000 && 32 * lead < shadP s p r))

/-- R205. -/
def modReady (s : State) (part : BitVec 13) (p : Nat) : Bool :=
  (List.range 16).all (modGrpOk s p) &&
  (those 96 fun l => hasLeg s l && sflag s (MOD_LEG_CFG_EN l)).all (modLegOk s part p)

/-- A group of the shadow page of GLK meets R269. -/
def glkGrpOk (s : State) (g : Nat) : Bool :=
  sfld s (GLK_GRP_SAFE_ALLOW g) ≤ 1 && sfld s (GLK_GRP_ASC_ASCMIN g) ≤ sfld s (GLK_GRP_ASC_ASCON g) &&
  1 ≤ sfld s (GLK_GRP_SAFE_ESCN g) && 1 ≤ sfld s (GLK_GRP_SAFE_ESCWIN g) &&
  sfld s (GLK_GRP_BAND_BT1 g) < sfld s (GLK_GRP_BAND_BT2 g) && sfld s (GLK_GRP_BAND_BT2 g) < sfld s (GLK_GRP_BAND_BT3 g) &&
  128 ≤ sfld s (GLK_GRP_ADAPT_TTARGET g) && sfld s (GLK_GRP_ADAPT_TTARGET g) ≤ 3200 &&
  1 ≤ sfld s (GLK_GRP_ADAPT_TWIN g) && 1 ≤ sfld s (GLK_GRP_ADAPT_CONV g)

/-- ADAPT of a leg reads converging in the live page (R264, R265). -/
def converging (s : State) (l : Nat) : Bool := adaptShown s l == 1

/-- A leg of the shadow page of GLK meets R269. -/
def glkLegOk (s : State) (part : BitVec 13) (l : Nat) : Bool :=
  let b := sfld s (GLK_LEG_SC_SCBS l)
  (!(sflag s (GLK_LEG_SC_SCEN l)) ||
    (sfld s (GLK_LEG_SC_SCM l) != 0 && hasBs s b && resFld s part 5 (BSI_CH_CFG_EN b) == 1 &&
      resFld s part 5 (BSI_CH_CFG_FEN b) == 1)) &&
  !(sflag s (GLK_LEG_SC_ACOPY l) && converging s l)

/-- R269. -/
def glkReady (s : State) (part : BitVec 13) : Bool :=
  let conf := sfld s GLK_TIM_CONFIRM
  let stk := sfld s GLK_TIM_STUCK
  ((resLegs s part).all fun l =>
    sflag s (GLK_CL_CFG_PBEN (l / 6)) && sfld s (GLK_CL_CFG_IOV (l / 6)) == b2n ((fld s PWR_BANK_IOV).testBit (l / 6)) &&
    decide (resFld s part 3 (MOD_LEG_DT_DT l) + 16 * conf < 16 * stk)) &&
  (List.range 16).all (glkGrpOk s) &&
  40 ≤ conf && conf ≤ 4000 && 40 ≤ sfld s GLK_HARD_T && sfld s GLK_HARD_T ≤ 4000 && 400 ≤ stk && stk ≤ 40000 &&
  4 ≤ sfld s GLK_PB_RDLY && (those 96 fun l => hasLeg s l).all (glkLegOk s part)

/-- Group `g` issues sampling instants in the MOD page that `part` resolves to. -/
def resSmp (s : State) (part : BitVec 13) (g : Nat) : Bool := resFld s part 3 (MOD_GRP_CFG_SMP g) != 0

/-- An enabled channel of the shadow page meets R291. -/
def bsiChOk (s : State) (part : BitVec 13) (i : Nat) : Bool :=
  let m := sfld s (BSI_CH_CFG_MOSR i)
  let f := sfld s (BSI_CH_CFG_FOSR i)
  let d := sfld s (BSI_CLK_DIV (i / 8))
  !(sflag s (BSI_CH_CFG_EN i)) ||
  (hasBs s i && 16 ≤ m && m ≤ 512 && (!(sflag s (BSI_CH_CFG_FEN i)) || (8 ≤ f && f ≤ 32)) &&
    (!(sflag s (BSI_CLK_DIR (i / 8))) || (16 ≤ d && d ≤ 80)) &&
    (!(sflag s (BSI_CH_CFG_SYNC i)) || resSmp s part (sfld s (BSI_CH_CFG_GRP i))) &&
    (!(sflag s (BSI_CH_CFG_OCEN i)) || sfld s (BSI_CH_CFG_OCLEG i) < 96))

/-- A calibration of the SAR converters, or of the bitstream inputs, runs. -/
def calTargets (s : State) (isSar : Bool) : Bool := match s.cal with | some c => c.sar == isSar | none => false

/-- R291. -/
def bsiReady (s : State) (part : BitVec 13) : Bool :=
  let k := sfld s BSI_DCX_SLOT
  let b := sfld s BSI_DCX_BS
  (List.range 112).all (bsiChOk s part) && !(calTargets s false) &&
  (!(sflag s BSI_DCX_EN) ||
    (hasBs s b && sflag s (BSI_CH_CFG_EN b) && resFld s part 6 (SAR_SEQ_CFG_EN (k / 16)) == 1 &&
      k % 16 ≤ resFld s part 6 (SAR_SEQ_CFG_LENM1 (k / 16)) && 1 ≤ sfld s BSI_DCX_N))

/-- An enabled sequence of the shadow page meets R292. -/
def sarSeqOk (s : State) (part : BitVec 13) (c : Nat) : Bool :=
  let u := sfld s (SAR_SEQ_CFG_URGSRC c)
  !(sflag s (SAR_SEQ_CFG_EN c)) ||
  (sfld s (SAR_SEQ_CFG_TRIG c) != 3 &&
    (!(sfld s (SAR_SEQ_CFG_TRIG c) == 1 || u.testBit 0) || resSmp s part (sfld s (SAR_SEQ_CFG_GRP c))) &&
    (u == 0 || sfld s (SAR_SEQ_CFG_LENM1 c) < 15))

/-- R292. -/
def sarReady (s : State) (part : BitVec 13) : Bool :=
  sfld s SAR_REF_SRC != 3 && 1 ≤ sfld s SAR_REF_SETTLE && sfld s SAR_REF_SETTLE ≤ 1000 &&
  (List.range 8).all (sarSeqOk s part) && !(calTargets s true)

/-- A feedback port of the shadow page is present and enabled. -/
def fbOn (s : State) (f : Nat) : Bool := hasPort s f && sflag s (FBK_P_CFG_EN f)

/-- An enabled port of the shadow page meets R320. -/
def fbPortOk (s : State) (p f : Nat) : Bool :=
  let m := sfld s (FBK_P_CFG_MODE f)
  let tm := sfld s (FBK_P_CFG_TMIN f)
  let bt := sfld s (FBK_P_SER_BITS f)
  let sb := sfld s (FBK_P_SER_STB f)
  let hd := sfld s (FBK_P_SER_HDIV f)
  let sl := sfld s (FBK_P_TIM_SLEAD f)
  !(sflag s (FBK_P_CFG_EN f)) ||
  (hasPort s f && m != 3 && sfld s (FBK_P_CFG_ZQUAL f) != 3 && 4 ≤ tm && tm ≤ 4000 && 1 ≤ sfld s (FBK_P_CFG_PP f) &&
    1 ≤ sfld s (FBK_P_TIM_TSTILL f) && (m != 0 || 4 ≤ sfld s (FBK_P_CPR_CPR f)) &&
    (m != 2 || (8 ≤ bt && bt ≤ 32 && 1 ≤ sb && sb ≤ bt && 20 ≤ hd && hd ≤ 2000 &&
      2 * hd * (bt + sfld s (FBK_P_SER_PAR f) + 2) + 40 ≤ sl && 2 * sl < p)))

/-- R320. -/
def fbkReady (s : State) (p : Nat) : Bool :=
  (List.range 12).all (fbPortOk s p) &&
  ((List.range 4).all fun e =>
    let n := sfld s (FBK_EM_NM_N e)
    let t := sfld s (FBK_EM_CFG_EMIN e)
    !(sflag s (FBK_EM_CFG_EN e)) ||
    (fbOn s (sfld s (FBK_EM_CFG_SRC e)) && 1 ≤ n && n ≤ sfld s (FBK_EM_NM_M e) && 4 ≤ t && t ≤ 4000)) &&
  ((List.range 4).all fun c =>
    let n := sfld s (FBK_CMP_CFG_LEN c)
    !(sflag s (FBK_CMP_CFG_EN c)) ||
    (fbOn s (sfld s (FBK_CMP_CFG_SRC c)) && sfld s (FBK_CMP_CFG_DIRS c) != 0 && 1 ≤ n && n ≤ 64)) &&
  ((List.range 8).all fun k =>
    let t := sfld s (FBK_PLS_CFG_TMIN k)
    let o := sfld s (FBK_PLS_CFG_PTMO k)
    !(sflag s (FBK_PLS_CFG_EN k)) || (sfld s (FBK_PLS_CFG_KIND k) < 2 && 4 ≤ t && t ≤ 4000 && 1 ≤ o && o ≤ 1000))

/-- A word is finite and above 0. -/
def fPositive (w : Word) : Bool := match fval w with | .fin _ q => decide (0 < q) | _ => false

/-- A limit entry of the shadow page meets R367. -/
def safLimOk (s : State) (k : Nat) : Bool :=
  let kd := sfld s (SAF_LIM_CFG_KIND k)
  let lo := fval (shad s (SAF_LIM_LO k))
  let hi := fval (shad s (SAF_LIM_HI k))
  !(sflag s (SAF_LIM_CFG_EN k)) ||
  (1 ≤ kd && kd ≤ 4 && 1 ≤ sfld s (SAF_LIM_CFG_N k) && (fLtIeee lo hi || fEqIeee lo hi) &&
    sfld s (SAF_LIM_CFG_WORD k) ≤ (if sflag s (SAF_LIM_CFG_RB k) then 415 else 578))

/-- The discharge of the shadow page meets R367. -/
def safDisOk (s : State) (part : BitVec 13) : Bool :=
  let g := sfld s SAF_DIS_CFG_GROUP
  !(sflag s SAF_DIS_CFG_EN) ||
  (resFld s part 3 (MOD_GRP_CFG_TYPE g) == 3 && sfld s SAF_DIS_CFG_BSW ≤ 578 && sfld s SAF_DIS_CFG_SARW ≤ 578 &&
    (match fval (shad s SAF_DIS_DUTY) with | .fin _ q => decide (0 < q) && decide (q ≤ 1) | _ => false) &&
    fPositive (shad s SAF_DIS_C) && fPositive (shad s SAF_DIS_R) && fPositive (shad s SAF_DIS_VSAFE) &&
    1 ≤ sfld s SAF_DIS_TMO_TMO && 1 ≤ sfld s SAF_DIS_CFG_NDONE &&
    !(sflag s SAF_DIS_CFG_ONSTO && (sfld s SAF_STO_GROUPS).testBit g))

/-- R367. -/
def safReady (s : State) (part : BitVec 13) : Bool :=
  2 ≤ sfld s SAF_CTRL_HBT && 1 ≤ sfld s SAF_STO_SDISC && sfld s SAF_STO_SDISC ≤ 1000 &&
  ((List.range 8).all fun p =>
    !(sflag s (SAF_SIN_CFG_EN p)) ||
    (sfld s (SAF_SIN_CFG_FUNC p) ≤ 5 && 1 ≤ sfld s (SAF_SIN_CFG_DISC p) && sfld s (SAF_SIN_CFG_DISC p) ≤ 1000)) &&
  ((List.range 4).all fun o =>
    let w := sfld s (SAF_SOUT_CFG_TPW o)
    let p := sfld s (SAF_SOUT_CFG_TPP o)
    !(sflag s (SAF_SOUT_CFG_EN o)) || (1 ≤ w && 1 ≤ p && sfld s (SAF_SOUT_CFG_SBCDLY o) ≤ 1000 && 2 * w < 1000 * p)) &&
  (List.range 16).all (safLimOk s) && ((List.range 16).all fun g => 1 ≤ sfld s (SAF_SS1T_SS1T g)) && safDisOk s part

/-- Participant `b` is isolated for block self-test (R463). -/
def isolated (s : State) (b : Nat) : Bool :=
  match s.tst.bt with
  | none => false
  | some r => if r.cls = 1 then b == 6 else if r.cls = 3 then (ioInstance s r.inst).map (·.2) == some b else false

/-- Participant `b` is ready when the participants `part` resolve together (R69). -/
def blockReady (s : State) (part : BitVec 13) (b : Nat) : Bool :=
  let p := resPeriod s part
  !(isolated s b) &&
  match b with
  | 0 => tkcReady s
  | 1 => true
  | 2 => engReady s p
  | 3 => modReady s part p
  | 4 => glkReady s part
  | 5 => bsiReady s part
  | 6 => sarReady s part
  | 7 => fbkReady s p
  | 8 => safReady s part && s.saf.sstate != 2
  | 9 => spnReady p s
  | 10 => canReady s
  | 11 => qspReady s
  | _ => pwrReady s

/-- The participants among `part` that are not ready (R72). In FROZEN SAF is not ready for any: its live page is the one
in force when the state began (R342). -/
def notReady (s : State) (part : BitVec 13) : Nat :=
  (those 13 fun b => part.getLsbD b && !(blockReady s part b)).foldl setBit 0

/-! ### Requests (R66 to R68) -/

/-- The code with which a request is rejected, 0 if it is accepted (R67, R83). -/
def rbCode (s : State) (n part : Nat) (reserved : Bool) : Nat :=
  if n < s.tick.tcnt + 1 then 1
  else if s.tick.tcnt + 1048575 < n then 2
  else if fld s TKC_RBSTAT_STATE = 1 then 3
  else if part = 0 then 4
  else if reserved then 5
  else if part.testBit 0 ∧ isFollower s then 6
  else 0

/-- REBIND_REQUEST: an applied TKC_RBREQ. Before the tick runs it is ignored (R504), and none is made while SV is
stopped (R127). -/
def rebindRequest (m : Mask) (d : Word) (s : State) : State :=
  let v := clWord s TKC_RBREQ m d
  let s1 := putCl TKC_RBREQ v s
  if !(ticking s) then s
  else if !(m.getLsbD 3) || TKC_RBREQ_GO.of v = 0 || s.prc.svStopped then s1
  else
    let n := (reg s TKC_RBTICK_H).toNat * 2 ^ 32 + (reg s TKC_RBTICK_L).toNat
    let part := TKC_RBREQ_PART.of v
    let c := rbCode s n part (bits v.toNat 13 18 != 0)
    if c ≠ 0 then raiseTkc 393 (setFld TKC_RBSTAT_REJECT c s1)
    else updTick (fun k => { k with rbN := n, rbPart := BitVec.ofNat 13 part })
      (setFld TKC_RBSTAT_STATE 1 (setFld TKC_RBSTAT_ATTEMPT 0 s1))

def execRebindRequest (m : Mask) (d : Word) (s : State) : Out := .next (rebindRequest m d s)

/-- The shadow page of participant `b` is locked (R68). -/
def pageLocked (s : State) (b : Nat) : Bool := fld s TKC_RBSTAT_STATE == 1 && s.tick.rbPart.getLsbD b

/-! ### Flips and refills (R73) -/

/-- The shadow page of participant `b` is filled from its live page; the staged writes of ENG come without VALID
(R182). -/
def refillBlock (b : Nat) (s : State) : State :=
  let s1 := { s with shadow := copyPage (partWin b) s.live s.shadow }
  let s2 := if b = 2 then
      forAll (List.range 128) (fun k x => setShad (ENG_STG_A k) ((ENG_STG_A_VALID k).put 0 (shad x (ENG_STG_A k))) x) s1
    else s1
  let c := s.tick.copying &&& ~~~(1#13 <<< b)
  setFld TKC_RBSTAT_COPYING (b2n (c != 0)) (updTick (fun k => { k with copying := c }) s2)

/-- SHADOW_REFILL_DONE: the refill of a block ends, within 2.0 µs of its flip. -/
def execShadowRefillDone (b : Fin 13) (t : Time) (s : State) : Out :=
  let s1 := upto t s
  .next (if s.tick.copying.getLsbD b.val then refillBlock b.val s1 else s1)

/-- Finish every refill that still runs. -/
def refillAll (s : State) : State := forAll (those 13 fun b => s.tick.copying.getLsbD b) refillBlock s

/-- What the flip of a block changes besides its page; `old` is the state before the flips. -/
def flipHook (run : Bool) (old : State) (b : Nat) (s : State) : State :=
  match b with
  | 4 => glkFlip old s
  | 5 => bsiFlip old s
  | 6 => sarFlip run old s
  | 7 => fbkFlip run old s
  | 8 => if run then s else refresh s.now (sinBegins old s)
  | 9 => spnFlip old run s
  | 10 => canFlip old s
  | _ => s

/-- REBIND_FLIP: the pages of the participants become live at the boundary that opens tick `n`; MOD and GLK act one
boundary later, and the staged state writes of ENG follow the commit. -/
def flipPages (run : Bool) (part : BitVec 13) (n : Nat) (s : State) : State :=
  let bs := those 13 fun b => part.getLsbD b
  let s1 := { s with live := bs.foldl (fun l b => copyPage (partWin b) s.shadow l) s.live }
  let s2 := forAll bs (flipHook run s) s1
  let s3 := updTick (fun k => { k with copying := part, flipped := part }) (setFld TKC_RBSTAT_COPYING 1 s2)
  raiseTkc 391 (setReg TKC_RBDONE_L (BitVec.ofNat 32 n) (setReg TKC_RBDONE_H (upperHalf n) (setFld TKC_RBSTAT_STATE 2 s3)))

/-! ### Attempts (R70 to R72) -/

/-- COMMIT_WINDOW_OPEN (R47): at t_CW every unit that has not finished commits hold-last. -/
def closeWindow (s : State) : State :=
  if ticking s && !s.tick.cw then
    holdLastEngine (holdLastPairs (updTick (fun k => { k with cw := true }) (upto (s.tick.last + tCW s.tick.period * tb) s)))
  else s

def execCommitWindowOpen (s : State) : Out := .next (closeWindow s)

/-- An attempt is due at the coming boundary. -/
def attemptDue (s : State) : Bool :=
  ticking s && fld s TKC_RBSTAT_STATE == 1 && !s.tick.tried && decide (s.tick.rbN ≤ s.tick.tcnt + 1) &&
  decide (fld s TKC_RBSTAT_ATTEMPT < 64)

/-- The attempt of the coming boundary. -/
def rebindAttempt (s : State) : State :=
  if attemptDue s then
    let s0 := capCommit (refillAll (upto s.tick.next (closeWindow s)))
    let part := s.tick.rbPart
    let nr := notReady s0 part
    let s1 := updTick (fun k => { k with tried := true })
      (setFld TKC_RBNRDY_NRDY nr (setFld TKC_RBSTAT_ATTEMPT (fld s TKC_RBSTAT_ATTEMPT + 1) s0))
    if nr = 0 then flipPages false part (s.tick.tcnt + 1) s1 else s1
  else s

/-- REBIND_ATTEMPT: the attempt at the boundary that comes next. -/
def execRebindAttempt (s : State) : Out := .next (rebindAttempt s)

/-- The rebinding is abandoned when its 64th attempt has failed (R71). -/
def rebindAbandon (s : State) : State :=
  if fld s TKC_RBSTAT_STATE = 1 ∧ 64 ≤ fld s TKC_RBSTAT_ATTEMPT then raiseTkc 392 (setFld TKC_RBSTAT_STATE 3 s) else s

/-- REBIND_TIMEOUT. -/
def execRebindTimeout (s : State) : Out := .next (rebindAbandon s)

/-! ### The acting page of MOD and GLK (R74, R203, R218) -/

/-- The carrier fields of a leg differ between two states. -/
def carrierChanged (old s : State) (l : Nat) : Bool :=
  let f := fun (x : State) => (afld x (MOD_LEG_CFG_CKIND l), afld x (MOD_LEG_CFG_DIV l), afld x (MOD_LEG_CFG_KM1 l),
    afld x (MOD_LEG_CFG_UPD l), afld x (MOD_LEG_OFS_OFFSET l))
  f old != f s

/-- The leg stands in a held group. -/
def legHeld (s : State) (l : Nat) : Bool := legOn s l && (grp s (legGrp s l)).hold

/-- A leg that is disabled, enabled, moved between a held and a switching group, or moved into another held group has both
gates low (R29; DEDUCED, log 27). -/
def legMoves (old : State) (t : Time) (l : Nat) (s : State) : State :=
  if legOn old l != legOn s l || legHeld old l != legHeld s l || (legHeld s l && legGrp old l != legGrp s l) then
    legLow t l (updLeg l (fun x => x.unmark.undrive) s)
  else s

/-- The MOD and GLK pages that flipped at the last boundary (bits 3 and 4 of `part`) act from the boundary `t`. -/
def pagesAct (part : BitVec 13) (t : Time) (s : State) : State :=
  let a1 := if part.getLsbD 3 then copyPage 5 s.toAct s.act else s.act
  let a2 := if part.getLsbD 4 then copyPage 6 s.toAct a1 else a1
  let s1 := { s with act := a2 }
  let s2 := if part.getLsbD 3 then forAll (List.range 96) (legMoves s t) s1 else s1
  if part.getLsbD 4 then glkActs s s2 else s2

/-- The legs that re-base: those whose carrier changes or that are enabled, and `all` of them where the period changes
or the tick starts (R218). -/
def rebases (old s : State) (all : Bool) : List Nat :=
  those 96 fun l => legOn s l && (all || !(legOn old l) || carrierChanged old s l)

end Sys2Proof.Machine
end

