-- ==== Sys2Proof/Machine/Stores.lean ====
section
/-! DEFINITION. Stores of the processor units: memories, engine state and result bank, queues and buffers, and the
registers field by field; the application of clear-queue stores and colophon entries to their registers (R20 to R23,
R42, R43, R52, R55 to R64, R93, R94, R101, R103, R126, R393, R506). -/

namespace Sys2Proof.Machine
open Sys2Proof

/-! ### The data of a store -/

/-- The bytes of the word that a store names. -/
def storeMask (a : Nat) (z : Size) : Mask := BitVec.ofNat 4 ((2 ^ z.bytes - 1) <<< (a % 4))
/-- The store's data in its place in the word. -/
def storeWord (a : Nat) (d : Word) : Word := d <<< (8 * (a % 4))
/-- The bytes of a store. -/
def storeBytes (z : Size) (d : Word) : List Byte := leBytes z.bytes d.toNat

/-! ### The journal's room (R94) -/

/-- The unit's journal holds no further record. -/
def jrnFull (s : State) (w : Who) : Bool := ticking s && decide (jrnCap s w ≤ (unit s w.key).jrn.length)

/-- PRC_JOURNAL_OVF: the store does not execute, and the pair stops at it; the run is not recorded in TKC_RUNMAX (DESIGN
CHOICE, log 58). -/
def jrnOverflow (w : Who) (s : State) : State :=
  raise 397 (setFld (PRC_JRN_OVF w.unit.val) 1 (updUnit w.key (fun u => { u with ovf := true, phase := .stopped }) s))

/-- A store with the journal record `r` and the effect `f`. -/
def journaled (w : Who) (r : Undo) (f : State → State) (s : State) : State :=
  if jrnFull s w then jrnOverflow w s else f (journal w r s)

/-! ### Memories -/

/-- A store to bytes of the system map. -/
def memStore (w : Who) (a : Nat) (bs : List Byte) (s : State) : State :=
  journaled w (.bytes a (rdBytes s a bs.length)) (wrBytes a bs) s

/-- A store to system SRAM or the eMRAM software area: into a 64-bit word that holds an uncorrectable error it writes
0 into the bytes that it does not name, and journals 0 for those that it does (R93). -/
def eccStore (w : Who) (a : Nat) (bs : List Byte) (s : State) : State :=
  if SMap.get falseD s.eccBad (a / 8) then
    journaled w (.bytes a (bs.map fun _ => 0#8)) (fun x =>
      wrBytes a bs (wrBytes (8 * (a / 8)) (List.replicate 8 0#8)
        { x with eccBad := SMap.set falseD x.eccBad (a / 8) false })) s
  else memStore w a bs s

/-- A store to the unit's own TCM at a pair-local offset; it waits for the mirror records on their way to that TCM
(R87, R101 to R103, R114). -/
def tcmStore (w : Who) (a : Word) (off : Nat) (bs : List Byte) (s : State) : State :=
  match tcmKey s w off with
  | none => storeFault w a s
  | some k =>
    let o := k % 0x100000
    let p := w.unit.val
    if 0x80000 ≤ o && inMirror s p (o % 0x80000) then storeFault w a s
    else
      let s := mirrorFlush (fun m => m.key / 0x100000 == p) s
      let rs := if ticking s && decide (0x80000 ≤ o) then mirrorRecs s p (o % 0x80000) bs else []
      journaled w (.tcm k (rdTcms s k bs.length)) (fun x =>
        updUnit w.key (fun u => { u with mir := u.mir ++ rs }) (wrTcms k bs x)) s

/-- A live round-table entry refers to program-store word `i` (R181). -/
def progProtected (s : State) (i : Nat) : Bool :=
  (List.range 64).any fun k => lflag s (ENG_RT_A_EN k) && decide (lfld s (ENG_RT_A_ENTRY k) ≤ i) &&
    decide (i < lfld s (ENG_RT_A_ENTRY k) + lfld s (ENG_RT_B_LEN k))

/-- A live table descriptor refers to table word `i` (R181). -/
def tabProtected (s : State) (i : Nat) : Bool :=
  (List.range 64).any fun k =>
    let n := lfld s (ENG_TD_A_N k)
    lflag s (ENG_TD_A_VALID k) && decide (lfld s (ENG_TD_A_BASE k) ≤ i) &&
      decide (i < lfld s (ENG_TD_A_BASE k) + (if lflag s (ENG_TD_A_UNIF k) then n else 2 * n))

/-- A store of SV to the program store or the table memory (R20, R23). -/
def engMemStore (w : Who) (a : Word) (prot : Bool) (bs : List Byte) (s : State) : State :=
  if !(isSv w) then storeFault w a s else if prot then raise 352 s else memStore w a.toNat bs s

/-- A unit's pending write of a twin cell: the bytes that the store does not name come from the unit's own pending
value, or else from the committed copy, and the engine's pending value is discarded (R21, R22, R145). -/
def unitWrite (w : Who) (key : Nat) (m : Mask) (d : Word) (s : State) : State :=
  let c := cell s key
  let old := match c.units.find? fun e => e.1 == w.rank with | some e => e.2 | none => c.com
  let clash := c.eng.isSome || c.units.any fun e => e.1 != w.rank
  raiseIf clash 356 (updCell key (fun x => { x with
    eng := none, units := SMap.insert x.units w.rank (mergeBits old d (maskBits m)) }) s)

/-- The unit is an emulator pair of the running limp mode (R126). -/
def isEmulator (s : State) (w : Who) : Bool :=
  s.prc.limp && (w.unit.val == fld s PRC_LIMP_PA || w.unit.val == fld s PRC_LIMP_PB)

/-- The transmit-queue word at offset `o` of queue `q` still awaits transmission (R393). -/
def txWaits (s : State) (q o : Nat) : Bool :=
  let x := spq s q
  decide (subMod (o / 8) x.txRp 8192 < subMod x.txWp x.txRp 8192)

/-- A store to a queue or buffer that a lease guards. -/
def leasedStore (w : Who) (a : Word) (cls i : Nat) (bs : List Byte) (s : State) : State :=
  if holds s w cls i then memStore w a.toNat bs s else storeFault w a s

/-- A store of its holder to transmit queue `q`: one to a word that still awaits transmission stalls. -/
def txqStore (w : Who) (a : Word) (q : Nat) (z : Size) (d : Word) (s : State) : State :=
  if holds s w 2 q && txWaits s q (a.toNat % 0x10000) then
    updUnit w.key (fun u => { u with stall := some ⟨w, a.toNat, d, BitVec.ofNat 4 z.bytes⟩ }) s
  else leasedStore w a 2 q (storeBytes z d) s

/-- A store to memory outside the register windows. An emulator pair's store to result-bank word 416 or above, an address
error of STR (R153), takes the store-access fault (DESIGN CHOICE, log 58); so does a store to the memory of an instance
that is absent on the HZ9605 (DESIGN CHOICE, log 61). -/
def memoryStore (w : Who) (a : Word) (z : Size) (d : Word) (s : State) : State :=
  let n := a.toNat
  let bs := storeBytes z d
  match target n with
  | .tcm off => tcmStore w a off bs s
  | .sram => eccStore w n bs s
  | .emramSw => eccStore w n bs s
  | .program => engMemStore w a (progProtected s (n % 0x100000 / 8)) bs s
  | .table => engMemStore w a (tabProtected s (n % 0x20000 / 4)) bs s
  | .state k => unitWrite w k (storeMask n z) (storeWord n d) s
  | .result k =>
    if isEmulator s w && decide (k < 416) then unitWrite w (resKey k) (storeMask n z) (storeWord n d) s
    else storeFault w a s
  | .spnTx q => if hasSp s q then txqStore w a q z d s else storeFault w a s
  | .spnRx q => if hasSp s q then leasedStore w a 2 q bs s else storeFault w a s
  | .spnPer _ => leasedStore w a 2 0 bs s
  | .canMem i => if hasCan s i then leasedStore w a 5 i bs s else storeFault w a s
  | .qspMem p => leasedStore w a 1 p bs s
  | _ => storeFault w a s

/-! ### Who may store to a register -/

/-- The unit holds or is SV. -/
def svOrHolds (s : State) (w : Who) (cls i : Nat) : Bool := isSv w || holds s w cls i

/-- The register at `a` holds RO and reserved bits only: it ignores a store (R11). -/
def readOnly (a : Nat) : Bool := (regRow? a).any fun r => r.rw ||| r.rwl ||| r.rws ||| r.cl ||| r.w1c ||| r.w1s ||| r.wo == 0

/-- The unit may store to the register at `a` (R81, R133, R135, R183, R268, R294, R322, R368, R403, R420, R433, R470,
R472, R493, and each register's own line). -/
def mayWrite (s : State) (w : Who) (a : Nat) : Bool :=
  let o := a % 0x10000
  match winOf a with
  | 0 => true
  | 1 => isSv w || a == TKC_CBAR
  | 2 => isSv w || a == PRC_LREQ
  | 3 => if o < 0x1000 then isSv w else decide ((o % 0x800) / 0x100 = w.unit.val)
  | 4 => isSv w || a == ENG_CAPRP ||
    ((a == ENG_CAPCTL || (decide (0xA00 ≤ o) && decide (o < 0xA80))) && fld s ENG_CTRL_TUNEU == w.unit.val)
  | 8 => isSv w || (decide (0x100 ≤ o) && decide (o < 0x200) && (o - 0x100) % 0x20 == 0xC)
  | 9 => isSv w || (decide (o < 0x300) && o % 0x40 == 0x20) || (decide (0x500 ≤ o) && decide (o < 0x540) && o % 0x10 == 4)
  | 11 =>
    if decide (0x100 ≤ o) && decide (o < 0x180) && (o % 0x20 == 0 || o % 0x20 == 0x10) then holds s w 2 ((o - 0x100) / 0x20)
    else isSv w
  | 12 =>
    let n := o / 0x800
    let r := o % 0x800
    if r == 0x0C || r == 0x50 || r == 0x48 || readOnly a then svOrHolds s w 5 n
    else if r == 0x20 || r == 0x24 || r == 0x28 || r == 0x40 then holds s w 5 n
    else isSv w
  | 13 =>
    let p := o / 0x100
    let r := o % 0x100
    if r == 8 || r == 0x14 then holds s w 1 p else if r == 0x18 || readOnly a then svOrHolds s w 1 p else isSv w
  | _ => isSv w

/-- The unit has SV's rights to the window: in BENCH half B of SV has none to SAF (R343). -/
def svOf (s : State) (w : Who) (win : Nat) : Bool :=
  isSv w && !(win == 10 && s.saf.sstate == 3 && w.halfB)

/-! ### Applying clear-queue stores and colophon entries -/

/-- The number of an array's register at `a`. -/
def indexIn (base step n a : Nat) : Option Nat := (List.range n).find? fun i => base + step * i == a

/-- RUN is set: the tick starts at a boundary of the timebase to come (R75); not in a device reset (R481, R489). -/
def runApply (s : State) : State :=
  if s.tick.run = .stopped ∧ s.pwr.inReset = false then
    spend (updTick (fun k => { k with
      run := .starting, runAt := s.now, next := (ceilDiv s.now tb + 1 + Config.freeTime s.free) * tb })
      (setFld TKC_CTRL_RUN 1 s))
  else s

/-- TKC_RUN (R75). -/
def execTkcRun (t : Time) (s : State) : Out := .next (runApply (upto t s))

/-- The bits of W1C, W1S and WO access of a register. -/
def clearMask (r : RegRow) : Nat := r.w1c ||| r.w1s ||| r.wo

/-- The effect of the 1s in `v` on the clear-queue fields of the register at `a`, with `c` its W1C bits. -/
def clearBits (a : Nat) (c : Nat) (v : Word) (s : State) : State :=
  if v = 0 then s
  else if a = TKC_CTRL then runApply s
  else if a = SAF_HB then hbApply s
  else if a = SAF_LATCH then latchClear v s
  else if a = SPN_PLOCK then setFld SPN_PLOCK_LOCK 1 s
  else if a = TST_SCAN then scanEnter s
  else if winOf a = 3 then pendClear a v s
  else match indexIn (PRC_CTL 0) 0x40 7 a with
    | some n => startApply n s
    | none => setReg a (mergeBits (reg s a) 0#32 (v.toNat &&& c)) s

/-- CLEAR_QUEUE_APPLY: one queued store takes effect. -/
def clearApply (e : Entry) (s : State) : State :=
  match regRow? e.addr with
  | some r => clearBits e.addr r.w1c (BitVec.ofNat 32 (e.val.toNat &&& (maskBits e.mask &&& clearMask r))) s
  | none => s

/-- An applied SPN_CMD (R387, R388). -/
def spnCommand (m : Mask) (v : Word) (s : State) : State :=
  if !(m.getLsbD 3) || SPN_CMD_GO.of v == 0 then s
  else match SPN_CMD_OP.of v with
    | 1 => if spnOn s && s.spn.role == 0 then askJoin s else s
    | 2 => spnLeave s
    | _ => s

/-- Entries of TKC. -/
def tkcEntry (a : Nat) (m : Mask) (d : Word) (s : State) : State :=
  match indexIn (TKC_QUOTA 0) 4 7 a with
  | some u => quotaWrite u m d s
  | none => if a = TKC_RBREQ then rebindRequest m d s else putCl a (clWord s a m d) s

/-- Entries of PRC. -/
def prcEntry (w : Who) (a : Nat) (m : Mask) (d : Word) (s : State) : State :=
  if a = PRC_HOREQ then hoRequest m d s
  else if a = PRC_SPLITREQ then splitRequest m d s
  else leaseRequest w (clWord s a m d) (putCl a (clWord s a m d) s)

/-- Entries of ENG. -/
def engEntry (a : Nat) (m : Mask) (d : Word) (s : State) : State :=
  if a = ENG_CTRL then engCtrlApply m d s
  else match indexIn (ENG_IG_CFG 0) (ENG_IG_CFG 1 - ENG_IG_CFG 0) 4 a with
    | some n => igApply n m d s
    | none => putCl a (clWord s a m d) s

/-- Entries of FBK. -/
def fbkEntry (a : Nat) (m : Mask) (d : Word) (s : State) : State :=
  match indexIn (FBK_P_IDXCTL 0) (FBK_P_IDXCTL 1 - FBK_P_IDXCTL 0) 12 a,
      indexIn (FBK_CMP_ARM 0) (FBK_CMP_ARM 1 - FBK_CMP_ARM 0) 4 a with
  | some f, _ => idxctlEntry f m d s
  | none, some c => cmpArmEntry c m d s
  | none, none => s

/-- Entries of SAF. -/
def safEntry (a : Nat) (m : Mask) (d : Word) (s : State) : State :=
  if a = SAF_SOUT_SET then soutApply m d s
  else if a = SAF_GRPREQ then grpRequest m d s
  else if a = SAF_RELEASE then releaseEntry m d s
  else disRequest m d s

/-- Entries of SPN. -/
def spnEntry (a : Nat) (m : Mask) (d : Word) (s : State) : State :=
  match indexIn (SPN_TXQ_WP 0) (SPN_TXQ_WP 1 - SPN_TXQ_WP 0) 4 a, indexIn (SPN_RXQ_RP 0) (SPN_RXQ_RP 1 - SPN_RXQ_RP 0) 4 a with
  | some q, _ => txqWpApply q m d s
  | none, some q => rxqRpApply q m d s
  | none, none => spnCommand m (clWord s a m d) (putCl a (clWord s a m d) s)

/-- Entries of CAN. -/
def canEntry (a : Nat) (m : Mask) (d : Word) (s : State) : State :=
  let n := a % 0x10000 / 0x800
  let r := a % 0x800
  if r = 0x0C then canCtrlApply n m d s
  else if r = 0x40 then canRxrpApply n m d s
  else if r = 0x50 then canDetreqApply n m d s
  else canDoorbell n ((r - 0x20) / 4) m d s

/-- Entries of QSP. -/
def qspEntry (a : Nat) (m : Mask) (d : Word) (s : State) : State :=
  let p := a % 0x10000 / 0x100
  if a % 0x100 = 8 then qspDbwpApply p m d s else qspTrpApply p m d s

/-- Entries of TRU. -/
def truEntry (a : Nat) (m : Mask) (d : Word) (s : State) : State :=
  let v := clWord s a m d
  let s1 := putCl a v s
  if a = TRU_REVOKE then revokeRoots (BitVec.ofNat 2 (TRU_REVOKE_REV.of v)) s1
  else if !(m.getLsbD 3) then s1
  else if a = TRU_LCREQ then (if TRU_LCREQ_GO.of v = 1 then lcRequest (TRU_LCREQ_TARGET.of v) s1 else s1)
  else truCommand v s1

/-- COLOPHON_APPLY: one entry takes effect in its register. -/
def clApply (e : Entry) (s : State) : State :=
  let a := e.addr
  let m := e.mask
  let d := e.val
  match winOf a with
  | 1 => tkcEntry a m d s
  | 2 => prcEntry e.who a m d s
  | 4 => engEntry a m d s
  | 7 => calRequest m d s
  | 8 => seqSw ((a % 0x10000 - 0x10C) / 32) m d s
  | 9 => fbkEntry a m d s
  | 10 => safEntry a m d s
  | 11 => spnEntry a m d s
  | 12 => canEntry a m d s
  | 13 => qspEntry a m d s
  | 14 => truEntry a m d s
  | 16 =>
    let v := clWord s a m d
    let s1 := putCl a v s
    if m.getLsbD 3 then btRequest v s1 else s1
  | _ => putCl a (clWord s a m d) s

/-! ### Recording -/

/-- The last element that meets a test. -/
def lastOf (p : Entry → Bool) (es : List Entry) : Option Entry := (es.filter p).getLast?

/-- The store merges into the unit's most recent entry of the tick (R60). -/
def merges (s : State) (w : Who) (a : Nat) : Bool :=
  match lastOf (fun e => e.who == w) s.col with
  | some e => e.addr == a
  | none => false

/-- Replace the last entry of a unit. -/
def mergeLast (w : Who) (f : Entry → Entry) : List Entry → List Entry
  | [] => []
  | e :: r => if e.who == w && !(r.any fun x => x.who == w) then f e :: r else e :: mergeLast w f r

/-- The colophon takes an entry (R55, R60). -/
def putEntry (w : Who) (a : Nat) (m : Mask) (d : Word) (s : State) : State :=
  if merges s w a then
    { s with col := mergeLast w (fun e => { e with val := mergeBits e.val d (maskBits m), mask := e.mask ||| m }) s.col }
  else
    showUse w.unit.val (updUnit w.key (fun u => { u with used := u.used + 1 })
      { s with col := s.col ++ [⟨w, a, d, m⟩] })

/-- The CL part of a store: an entry, or at once while no tick runs (R64). -/
def storeCl (w : Who) (a : Nat) (m : Mask) (d : Word) (s : State) : State :=
  if ticking s then putEntry w a m d s else clApply ⟨w, a, d, m⟩ s

/-- The W1C, W1S and WO part of a store: into the clear queue, or at once while no tick runs (R64). -/
def storeClear (w : Who) (a : Nat) (m : Mask) (d : Word) (s : State) : State :=
  if ticking s then updUnit w.key (fun u => { u with clrq := u.clrq ++ [⟨w, a, d, m⟩] }) s
  else clearApply ⟨w, a, d, m⟩ s

/-- The intervals of TST_MTIV: a byte of 0 reads as 1 (R472). -/
def mtivOf (v : Word) : Word :=
  BitVec.ofNat 32 (leNat ((leBytes 4 v.toNat).map fun b => if b = 0#8 then 1#8 else b))

/-- What the RW value `v` of the register at `a` brings with it. -/
def rwPut (a : Nat) (v : Word) (s : State) : State :=
  if a = TST_MTIV then setReg a (mtivOf v) s
  else match indexIn (PRC_DUTY_CFG 0) 16 16 a, indexIn (PRC_DUTY_REG 0) 16 16 a, indexIn (PRC_DUTY_SIZE 0) 16 16 a with
    | some d, _, _ => dutyCfgStore d v s
    | _, some d, _ => dutyRegionStore d a v s
    | _, _, some d => dutyRegionStore d a v s
    | _, _, _ => setReg a v s

/-! ### A store to a register (R506) -/

/-- The bits of a register that a store writes at once: RW, and RWL while the lock is not set. -/
def rwBits (s : State) (r : RegRow) : Nat := if flag s SPN_PLOCK_LOCK then r.rw else r.rw ||| r.rwl

/-- What stops a store before it has any effect. -/
inductive Stop where
  /-- Ignored, without error. -/
  | ignored
  /-- A precise store-access fault. -/
  | fault
  /-- The 33rd clear-queue store of the tick. -/
  | queueFull
  /-- Over the colophon quota. -/
  | quota
  /-- The journal is full. -/
  | journal
  deriving DecidableEq, Repr

/-- The store's mask covers bits of the mask `k`. -/
def covers (m : Mask) (k : Nat) : Bool := maskBits m &&& k != 0

/-- Clear-queue stores of the tick that a unit holds, both halves' while it is split (R43, R54). -/
def queued (s : State) (u : Nat) : Nat := (unit s u).clrq.length + (unit s (u + 8)).clrq.length

/-- The register at `a` takes the RW value `v`: not a read pointer beyond the capture ring (R184), nor a duty
configuration that is refused (R105, R115). A store that it does not take writes no journal record (R42). -/
def rwTakes (s : State) (a : Nat) (v : Word) : Bool :=
  if a = ENG_CAPRP then decide (ENG_CAPRP_PTR.of v < lfld s ENG_CAPSIZE_SIZE)
  else match indexIn (PRC_DUTY_CFG 0) 16 16 a with
    | some d => dutyRefusal d v s == 0
    | none => true

/-- What stops the store of `d` by the unit to the register with row `r` at `a`. The colophon refuses a 193rd entry of the
device as it refuses one over the quota (R56, R57; DESIGN CHOICE, log 58). -/
def regStop (s : State) (w : Who) (a : Nat) (m : Mask) (d : Word) (r : RegRow) : Option Stop :=
  let win := winOf a
  let locked := match winPart win with | some b => pageLocked s b | none => false
  if !(mayWrite s w a) || (win == 10 && !(svOf s w 10)) then some .fault
  else if covers m r.rws && locked then some .fault
  else if covers m (clearMask r) && ticking s && decide (32 ≤ queued s w.unit.val) then some .queueFull
  else if covers m r.cl && ticking s && !(merges s w a) &&
    (decide (entryLimit s w ≤ (unit s w.key).used) || decide (192 ≤ s.col.length)) then some .quota
  else if (covers m r.rws || (covers m (rwBits s r) && rwTakes s a (mergeBits (reg s a) d (maskBits m &&& rwBits s r)))) &&
    jrnFull s w then some .journal
  else none

/-- What the spec does with a stopped store. -/
def stopped (w : Who) (a : Word) (k : Stop) (s : State) : State :=
  match k with
  | .ignored => s
  | .fault => storeFault w a s
  | .queueFull => raiseTkc 394 (storeFault w a s)
  | .quota => raiseTkc 389 (incFld (TKC_CREF_REFUSED w.unit.val) (storeFault w a s))
  | .journal => jrnOverflow w s

/-- The RW or RWL part. -/
def storeRw (w : Who) (a : Nat) (k : Nat) (d : Word) (s : State) : State :=
  if k = 0 ∨ a = ENG_CAPRP ∧ rwTakes s a (mergeBits (reg s a) d k) = false then s
  else if rwTakes s a (mergeBits (reg s a) d k) then rwPut a (mergeBits (reg s a) d k) (journal w (.reg a (reg s a) k) s)
  else rwPut a (mergeBits (reg s a) d k) s

/-- The RWS part; a page that is still being refilled takes the store after its refill. -/
def storeRws (w : Who) (a : Nat) (k : Nat) (d : Word) (s : State) : State :=
  if k = 0 then s
  else
    let s1 := match winPart (winOf a) with
      | some b => if s.tick.copying.getLsbD b then refillBlock b s else s
      | none => s
    setShad a (mergeBits (shad s1 a) d k) (journal w (.shadow a (shad s1 a) k) s1)

/-- The lowest byte that a mask names: the store's own address lies there. -/
def maskLow (m : Mask) : Nat :=
  if m.getLsbD 0 then 0 else if m.getLsbD 1 then 1 else if m.getLsbD 2 then 2 else if m.getLsbD 3 then 3 else 0

/-- A store with byte mask `m` and value `d` to the register at the word address `a`. -/
def regStore (w : Who) (a : Word) (m : Mask) (d : Word) (s : State) : State :=
  let n := a.toNat
  let win := winOf n
  if absent s n then s
  else if (win = 5 ∨ win = 6) ∧ isSv w = false then storeFault w (a + BitVec.ofNat 32 (maskLow m)) s
  else match regRow? n with
    | none => s
    | some r =>
      if n = TKC_CBAR then updUnit w.key (fun u => { u with phase := .drain }) s
      else match regStop s w n m d r with
        | some k => stopped w (a + BitVec.ofNat 32 (maskLow m)) k s
        | none =>
          let mm := maskBits m
          let s1 := storeRws w n (mm &&& r.rws) d (storeRw w n (mm &&& rwBits s r) d s)
          let s2 := if covers m (clearMask r) then storeClear w n m d s1 else s1
          if covers m r.cl then storeCl w n m d s2 else s2

/-! ### Stores -/

/-- A store of a unit, wherever it goes. -/
def store (w : Who) (a : Word) (z : Size) (d : Word) (s : State) : State :=
  atWork w (access w .store a z.bytes fun x =>
    match target a.toNat with
    | .block _ => regStore w (a - BitVec.ofNat 32 (a.toNat % 4)) (storeMask a.toNat z) (storeWord a.toNat d) x
    | _ => memoryStore w a z d x) s

/-- PAIR_STORE (R42). -/
def execPairStore (w : Who) (a : Word) (z : Size) (d : Word) (s : State) : Out := .next (store w a z d s)

/-- STATE_MEMORY_STORE (R21): a store to the engine state memory. -/
def execStateMemoryStore (w : Who) (a : Word) (z : Size) (d : Word) (s : State) : Out :=
  .next (match target a.toNat with
  | .state _ => store w a z d s
  | _ => s)

/-- LIMP_RESULT_STORE (R126): a store to the result bank while limp mode runs. -/
def execLimpResultStore (w : Who) (a : Word) (z : Size) (d : Word) (s : State) : Out :=
  .next (match target a.toNat with
  | .result _ => if s.prc.limp then store w a z d s else s
  | _ => s)

/-- The register word of an address has bits of a kind. -/
def hasBits (a : Word) (f : RegRow → Nat) : Bool :=
  match regRow? (a.toNat - a.toNat % 4) with
  | some r => f r != 0
  | none => false

/-- CL_STORE (R55): a store to a register with CL fields. -/
def execClStore (w : Who) (a : Word) (z : Size) (d : Word) (s : State) : Out :=
  .next (if hasBits a RegRow.cl then store w a z d s else s)

/-- CLEAR_QUEUE_STORE (R43): a store to a register with W1C, W1S or WO fields. -/
def execClearQueueStore (w : Who) (a : Word) (z : Size) (d : Word) (s : State) : Out :=
  .next (if hasBits a clearMask then store w a z d s else s)

/-- REGISTER_WRITE (R506): a write with byte mask `m` to the register at `a`. -/
def execRegisterWrite (w : Who) (a : Word) (m : Mask) (d : Word) (s : State) : Out :=
  .next (match target a.toNat with
  | .block _ => if a.toNat % 4 = 0 then atWork w (access w .store a 4 (regStore w a m d)) s else s
  | _ => s)

/-- TXQ_STORE_COMPLETE (R393): a stalled store completes once its word has been sent. -/
def execTxqStoreComplete (w : Who) (t : Time) (s : State) : Out :=
  let s1 := upto t s
  .next (match (unit s w.key).stall with
  | some e =>
    let q := e.addr % 0x40000 / 0x10000
    if txWaits s q (e.addr % 0x10000) then s1
    else leasedStore w (BitVec.ofNat 32 e.addr) 2 q (leBytes e.mask.toNat e.val.toNat)
      (updUnit w.key (fun u => { u with stall := none }) s1)
  | none => s1)

end Sys2Proof.Machine
end

