-- ==== Sys2Proof/Machine/Boundary.lean ====
section
/-! DEFINITION. The tick boundary: the commit of pending words, the latches of the result and sample banks, the
checkpoints, the application of clear queues and colophon entries, and the first boundary after RUN (R24 to R28, R41,
R43, R47 to R56, R62, R75, R206). -/

namespace Sys2Proof.Machine
open Sys2Proof

/-! ### Commit of pending words (R22, R26, R144, R206) -/

/-- The commit: every pending word becomes committed. -/
def commitCells (s : State) : State := auxCommit (mapCells (fun _ c => { com := c.pendVal }) s)

/-- The duty-source check finds that SRC's pass was aborted in the tick. -/
def srcAborted (s : State) (l : Nat) : Bool := s.eng.aborted.getLsbD (afld s (MOD_LEG_CFG_SRC l))

/-- SRC's pass did not run in the tick, or did not write the leg's DUTY word last. -/
def srcMissing (s : State) (l : Nat) : Bool :=
  let p := afld s (MOD_LEG_CFG_SRC l)
  !(s.eng.ran.getLsbD p) || (match (cell s (resKey (4 * l))).eng with | some (_, q) => q != p | none => true)

/-- DUTY_SOURCE_CHECK of one leg, before the commit. -/
def dutyCheck (l : Nat) (s : State) : State :=
  if srcAborted s l then legBit 21 l s
  else if srcMissing s l then
    updLeg l (fun x => { x with srcBad := true }) (if (leg s l).srcBad then legBit 23 l s else legFault 23 l s)
  else updLeg l (fun x => { x with srcBad := false }) s

/-- The legs for which the check is made. -/
def checked (s : State) : List Nat := if s.tick.engHeld || s.prc.limp then [] else those 96 (legOn s)

/-- RESULT_BANK_LATCH: the modulator latches the committed result bank, but for the DUTY words of legs whose SRC pass
was aborted (`keep`). -/
def latchResults (keep : List Nat) (s : State) : State :=
  if s.tick.engHeld then s
  else
    let new := s.eng.cells.filterMap fun (k, c) => if k < 65536 ∨ c.com = 0 then none else some (k - 65536, c.com)
    let l := keep.foldl (fun m l => SMap.set wordD m (4 * l) (latched s (4 * l))) new
    updEng (fun e => { e with latched := l }) s

/-- The duty-source check, the commit and the result latch. -/
def commit (s : State) : State :=
  let ls := checked s
  let keep := ls.filter (srcAborted s)
  updTick (fun k => { k with engHeld := false }) (latchResults keep (commitCells (forAll ls dutyCheck s)))

/-- STAGED_STATE_WRITE (R182): the live staged writes of a flipped ENG page, in ascending order. -/
def stagedWrites (s : State) : State :=
  if s.tick.flipped.getLsbD 2 then
    forAll (those 128 fun k => lflag s (ENG_STG_A_VALID k)) (fun k x =>
      updCell (lfld x (ENG_STG_A_INDEX k)) (fun c => { c with com := live x (ENG_STG_D k) }) x) s
  else s

/-! ### The sample bank (R24, R152) -/

/-- A word of the sample bank as it stands at the boundary `t`. -/
def sampleWord (s : State) (t : Time) (w : Nat) : Word :=
  if w < 224 then bsWord s w
  else if w < 352 then sarWord s (w - 224)
  else if w < 356 then bitWord fun i => decide (32 * (w - 352) + i < 112) && chValid s (32 * (w - 352) + i)
  else if w < 360 then bitWord fun i => slotFlag s (32 * (w - 356) + i)
  else if w < 456 then portWord s ((w - 360) / 8) ((w - 360) % 8) t
  else if w < 464 then (if lflag s (FBK_PLS_CFG_EN (w - 456)) then (pls s (w - 456)).val else 0)
  else if w < 560 then legStatus s (w - 464)
  else if w < 576 then grpWord s (w - 560)
  else if w = 576 then BitVec.ofNat 32 s.tick.tcnt
  else if w = 577 then upperHalf s.tick.tcnt
  else safStat s

/-- SAMPLE_BANK_LATCH. -/
def latchSample (s : State) : State :=
  let bank := (List.range 579).filterMap fun w =>
    let v := sampleWord s s.now w
    if v = 0 then none else some (w, v)
  updEng (fun e => { e with sample := bank }) s

/-- The words of the fabric, as it stands once the limits have been evaluated (R365, R366). -/
def latchFabric (s : State) : State :=
  let put := fun (w : Nat) (v : Word) (m : SMap Word) => SMap.set wordD m w v
  let m := (List.range 16).foldl (fun m g => put (560 + g) (grpWord s g) m) s.eng.sample
  updEng (fun e => { e with sample := put 578 (safStat s) m }) s

/-- HBMISS of the device status word is that of this boundary, whose heartbeat is applied after the latch (R366). -/
def latchHb (s : State) : State :=
  let w := sample s 578
  let v := BitVec.ofNat 32 (if s.saf.hbMissBit then setBit w.toNat 19 else clearBit w.toNat 19)
  updEng (fun e => { e with sample := SMap.set wordD e.sample 578 v }) s

/-- The status bits of legs and ports that describe the tick that has ended go with its latch. -/
def bitsNewTick (s : State) : State :=
  portsNewTick (forAll (those 96 fun l => (leg s l).bits != 0) (fun l => updLeg l fun x => { x with bits := 0 }) s)

/-- The sampler and what is judged on the latched words; a port whose last edge lies TSTILL back stands still at the
latch (R305), and an addressed request that has had no reply by then shows PBERR in the tick's word (R256). -/
def sampling (s : State) : State :=
  let s0 := forAll (those 16 fun c => (cl s c).asked.isSome) (endAsk s.now) s
  let s1 := forAll (List.range 12) (standstill s.now) (calDone s0)
  latchFabric (dischModel (limEvaluate (bitsNewTick (dcxCheck (latchValid (latchSample s1))))))

/-! ### Units at the boundary (R41, R101, R102) -/

/-- The unit runs in the tick that opens. -/
def opens (s : State) (w : Who) : Bool :=
  let st := pairState s w.unit.val
  hasUnit s w.unit.val && !(unit s w.key).failed && !(w.unit.val == 6 && s.prc.svStopped) &&
  (if w.halfB then st == 2 else st == 1 || st == 2 || st == 5)

/-- CHECKPOINT of one unit; one that stays stopped sleeps. -/
def newTick (w : Who) (s : State) : State :=
  let run := opens s w
  updUnit w.key (fun u => { u with
    ckpt := u.arch, jrn := [], clrq := [], mir := [], used := 0, ovf := false, first := true, warned := false, replays := 0
    phase := if run then .work else .asleep
    startAt := if u.held then u.startAt else s.now
    held := false
    snap := []
    mm := if u.mmTick then u.mm else none
    mmTick := false }) s

/-- The counters of a unit that show its tick: PEAK and USE of TKC_CUSE, USED of PRC_JRN. -/
def showTick (u : Nat) (s : State) : State :=
  let n := (unit s u).used + (unit s (u + 8)).used
  setFld (PRC_JRN_USED u) 0 (setFld (TKC_CUSE_USE u) 0 (maxFld (TKC_CUSE_PEAK u) n s))

/-- The committed mirror records go on their way; those of the tick before have arrived (R102). -/
def mirrorCommit (s : State) : State :=
  let rs := (allWho.map fun w => (unit s w.key).mir).flatten
  updPrc (fun r => { r with mirq := rs }) (mirrorFlush (fun _ => true) s)

/-- Checkpoints of every unit, and the counts of consecutive hold-lasts. -/
def checkpoints (s : State) : State :=
  let s1 := forAll allWho countHolds (mirrorCommit s)
  forAll allWho newTick (forAll (tkcUnits s) showTick (setFld TKC_DONE_DONE 0 s1))

/-! ### Clear queues and the colophon (R43, R54, R62) -/

/-- Two entries of different units write overlapping bytes of one register. -/
def clashes (es : List Entry) : Bool :=
  match es with
  | [] => false
  | e :: r => (r.any fun x => x.addr == e.addr && x.who != e.who && (x.mask &&& e.mask != 0)) || clashes r

/-- CLEAR_QUEUE_APPLY, then COLOPHON_APPLY; the heartbeat of the boundary is judged between them. -/
def applyQueues (first : Bool) (qs cs : List Entry) (s : State) : State :=
  let s1 := hbBoundary first (forAll qs clearApply s)
  let s2 := if clashes cs then raiseTkc 390 s1 else s1
  forAll cs clApply s2

/-! ### What a boundary does besides -/

/-- LOWSPD_CHECK, SELF_ENDING_HOLD and the releases that wait, group by group; counted events are of the next tick
from now on. -/
def guardBoundary (s : State) : State :=
  let s1 := releasesDue (forAll (List.range 16) selfEnd (forAll (List.range 16) lowspdCheck s))
  forAll (those 16 fun g => (grp s1 g).news) (fun g => updGrp g fun x => { x with news := false }) s1

/-- Pairs: take-overs, duties lost, limp mode, rejoined pairs and the seeding of mirrors. -/
def pairBoundary (s : State) : State :=
  forAll (List.range 16) seedDuty (rejoinStarts (takeOvers (engLostBoundary s)))

/-- The ring, the ports and the snapshots of their RO registers, after a tick of `p` tb. -/
def portBoundary (p : Nat) (s : State) : State :=
  let s1 := ringBoundary p (truBoundary (ringStart s))
  let s2 := spnSnapshot s.now (remoteLog (mailboxUpdate s1))
  let s3 := forAll (those 6 (hasCan s)) canSnapshot s2
  tstBoundary (forAll (List.range 4) (fun p x => qspSnapshot p (qspStatuses p x)) s3)

/-! ### The boundary -/

/-- Time and the counter at the boundary that ends a tick: the next tick takes the next period (R35, R74). -/
def countTick (s : State) : State :=
  let p := s.tick.periodNext
  let pn := if s.tick.flipped.getLsbD 0 && !(isFollower s) then lfld s TKC_PERIOD_PERIOD else p
  setBudget p (updTick (fun k => { k with
    tcnt := k.tcnt + 1, count := k.count + 1, last := k.next, period := p, periodNext := pn, next := k.next + p * tb,
      cw := false, tried := false }) s)

/-- What follows the commit, on a state with the new counter: the flips' staged writes, the re-bases, the latches, the
units, the ring, the engine's round table and the queues of the closed tick; `first` says that it is boundary 0. -/
def afterCommit (p : Nat) (old : State) (all first : Bool) (s : State) : State :=
  let s1 := forAll (rebases old s all) (rebaseLeg s.now) (stagedWrites s)
  let s2 := sampling s1
  let qs := (allWho.map fun w => (unit s2 w.key).clrq).flatten
  let cs := s2.col
  let s2a := pairBoundary (checkpoints { s2 with col := [] })
  let s3 := leaseTick (if first then s2a else igBoundary s2a)
  let s4 := startTable (clearAborted (portBoundary p s3))
  let s5 := guardBoundary (calCheck (latchHb (applyQueues first qs cs s4)))
  raiseTkc 384 (updTick (fun k => { k with actNext := k.flipped, flipped := 0 }) { s5 with toAct := s5.live })

/-- The boundary that ends a tick. -/
def boundary (s : State) : State :=
  let s0 := refillAll (closeWindow s)
  let s1 := capCommit (rebindAbandon (rebindAttempt (upto s0.tick.next s0)))
  let s2 := pagesAct s1.tick.actNext s1.tick.next s1
  let s3 := commit (countTick s2)
  afterCommit s.tick.period s1 (s3.tick.period != s.tick.period) false s3

/-- RUN_FAIL: the start fails, and nothing else changes (R75). -/
def runFails (nr : Nat) (s : State) : State :=
  updTick (fun k => { k with run := .stopped })
    (setFld TKC_CTRL_RUN 0 (setFld TKC_STAT_RUNFAIL 1 (setFld TKC_RBNRDY_NRDY nr s)))

/-- Time and the counter at boundary 0. -/
def openFirst (s : State) : State :=
  let p := if isFollower s then s.tick.periodNext else lfld s TKC_PERIOD_PERIOD
  setBudget p (updTick (fun k => { k with
    run := .running, tcnt := 0, count := k.count + 1, last := s.now, period := p, periodNext := p, next := s.now + p * tb, cw := false
    tried := false, engHeld := false, actNext := 0 }) s)

/-- The hold in which BOOT has every group becomes that of the start: its sequence is chosen by the live pages (R75,
R340). -/
def startHold (t : Time) (g : Nat) (s : State) : State :=
  enterHold 1 false t g (updGrp g (fun y => { y with hold := false }) s)

/-- Every group is held, from the start (R75), and the clusters are to be polled afresh (R258). -/
def holdAll (s : State) : State :=
  forAll (List.range 16) (startHold s.now)
    (forAll (List.range 16) (fun c => updCl c fun x => { x with clean := false, started := false }) s)

/-- The first boundary: the implicit rebinding of every block (R75). -/
def firstBoundary (s : State) : State :=
  let part : BitVec 13 := BitVec.allOnes 13
  let s0 := upto s.tick.next s
  let nr := notReady s0 part
  if nr ≠ 0 then runFails nr s0
  else
    let s1 := setFld TKC_RBSTAT_ATTEMPT 1 (setFld TKC_RBNRDY_NRDY 0 (flipPages true part 0 s0))
    let s2 := setFld TKC_STAT_RUNFAIL 0 (setFld TKC_STAT_RUNNING 1 (openFirst s1))
    let s3 := updSaf (fun x => { x with sstate := if flag s SYS_CFG_SVSPLIT then 3 else 1 }) s2
    let s4 := sinBegins s (holdAll (pagesAct part s3.now { s3 with toAct := s3.live }))
    let s5 := afterCommit 0 s true true (latchResults [] (commitCells s4))
    updTick (fun k => { k with actNext := 0 }) s5

/-- TICK_BOUNDARY (R54). -/
def execTickBoundary (s : State) : Out :=
  .next (match s.tick.run with
  | .stopped => s
  | .starting => firstBoundary s
  | .running => boundary s)

end Sys2Proof.Machine
end

