-- ==== Sys2Proof/Machine/EngineOps.lean ====
section
/-! DEFINITION. The engine's instructions (R159 to R174): one meaning per instruction over the shared issue. -/

namespace Sys2Proof.Machine
open Sys2Proof

/-! ### Control (R159, R160) -/

/-- The form of a control instruction without operands. -/
def plainForm (e : EngWord) : Form := { ok := mVal e == 0, uniform := true }

/-- NOP. -/
def execNop (e : EngWord) (s : State) : Out :=
  .next (issue 0x00 e (plainForm e) (fun p x => putRun p.advance x) s)

/-- END: the pass ends (R140). -/
def execEnd (e : EngWord) (s : State) : Out :=
  .next (issue 0x01 e (plainForm e) (fun p x => putRun { p.advance with ended := some p.cyc } x) s)

/-- A taken branch goes to the own index plus the signed IMM, inside the pass, and costs 3 cycles. -/
def takeBranch (e : EngWord) (p : PassSt) (s : State) : State :=
  let tgt : Int := (p.pc : Int) + e.imm.toInt
  let entry := lfld s (ENG_RT_A_ENTRY p.pass)
  if tgt < entry ∨ (entry + lfld s (ENG_RT_B_LEN p.pass) : Nat) ≤ tgt then abortPass 2 0 0 p.cyc p s
  else putRun { p with pc := tgt.toNat, cyc := p.cyc + 3 } s

def bruForm (e : EngWord) : Form :=
  { ok := mVal e < 6, va := if mVal e = 1 ∨ mVal e = 2 then .a else .none, vb := if 3 ≤ mVal e then .p else .none
    imm := fullImm, uniform := true }

/-- The condition of BRU. -/
def bruTaken (e : EngWord) (p : PassSt) (s : State) : Bool :=
  let ls := activeLanes s p
  let pb := pr p e.vb.toNat
  match mVal e with
  | 0 => true
  | 1 => ar p e.va.toNat != 0
  | 2 => ar p e.va.toNat == 0
  | 3 => ls.any pb
  | 4 => ls.all pb
  | _ => !(ls.any pb)

/-- BRU. -/
def execBru (e : EngWord) (s : State) : Out :=
  .next (issue 0x02 e (bruForm e) (fun p x => if bruTaken e p x then takeBranch e p x else putRun p.advance x) s)

def loopForm (e : EngWord) : Form :=
  { ok := mVal e < 3, vd := .a, va := if mVal e = 2 then .a else .none, imm := fullImm, uniform := true }

/-- LOOP; mode 0 reads A[VD] too, which the scoreboard knows as a source. -/
def execLoop (e : EngWord) (s : State) : Out :=
  let d := e.vd.toNat
  let fm := loopForm e
  .next (issue 0x03 e fm (fun p x =>
    match mVal e with
    | 0 =>
      let p0 := { p with cyc := issueCycle p [40 + d] }
      if passBudget x p.pass ≤ p0.cyc then putRun p0 x
      else
        let v := ar p0 d - 1
        let p1 := setReady (40 + d) (p0.cyc + (if v = 0 then 1 else 3)) (setA d v p0)
        if v = 0 then putRun p1.advance x else takeBranch e p1 x
    | 1 => putRun (setReady (40 + d) (p.cyc + 1) (setA d e.imm p)).advance x
    | _ => putRun (setReady (40 + d) (p.cyc + 1) (setA d (ar p e.va.toNat + e.imm) p)).advance x) s)

/-- A fence stalls issue until every earlier store of its kind has completed, within 4 cycles of its issue (R174). -/
def fence (op : Nat) (k : StoreKind) (e : EngWord) (s : State) : State :=
  issue op e (plainForm e) (fun p x =>
    let late := (p.flight.filter (·.kind == k)).foldl (fun c f => max c (f.at_ + 1 + Config.freeTime x.free % 4)) (p.cyc + 1)
    putRun { p with pc := p.pc + 1, cyc := late, flight := p.flight.filter (·.kind != k) } (spend x)) s

/-- FENCE.C. -/
def execFenceC (e : EngWord) (s : State) : Out := .next (fence 0x04 .stc e s)
/-- FENCE.R. -/
def execFenceR (e : EngWord) (s : State) : Out := .next (fence 0x05 .str e s)
/-- FENCE.S. -/
def execFenceS (e : EngWord) (s : State) : Out := .next (fence 0x06 .sts e s)

/-- EVT: if any lane writes, ENG_EVTk is raised when the pass completes. -/
def execEvt (e : EngWord) (s : State) : Out :=
  .next (issue 0x07 e { ok := mVal e == 0, imm := 0xF } (fun p x =>
    let q := if (writing x p e).isEmpty then p else { p with evts := p.evts ||| (1#16 <<< immBits e 0 4) }
    putRun q.advance x) s)

/-! ### Memory (R157, R161) -/

/-- A load: every writing lane's index must be inside; `rd` reads a word, and may draw an open choice. -/
def loadOp (op : Nat) (e : EngWord) (pend : Bool) (idx : State → PassSt → Nat → Option Nat)
    (rd : Nat → PassSt → State → (Word × Nat) × State) (s : State) : State :=
  let fm := memForm e true pend
  issue op e fm (fun p x =>
    let ls := writing x p e
    match ls.find? fun l => (idx x p l).isNone with
    | some l => abortPass 2 l 0 p.cyc p x
    | none =>
      let (vals, y) := ls.foldl (fun (acc : SMap (Word × Nat) × State) l =>
        let (v, y) := rd ((idx x p l).getD 0) p acc.2
        (acc.1 ++ [(l, v)], y)) ([], x)
      let get := fun l => let v := SMap.get (fun _ => (0#32, 0)) vals l; ([v.1], v.2)
      putRun (writeLanes e.vd.toNat 1 2 ls get p).advance y) s

/-- Lanes whose word no higher writing lane stores too (R161). -/
def topLanes (idx : Nat → Option Nat) (ls : List Nat) : List Nat :=
  ls.filter fun l => !(ls.any fun k => decide (l < k) && idx k == idx l)

/-- A store: every writing lane's index must be inside; of equal words the highest lane's value is kept. -/
def storeOp (op : Nat) (e : EngWord) (idx : State → PassSt → Nat → Option Nat)
    (st : Nat → Word → PassSt → State → PassSt × State) (s : State) : State :=
  issue op e (memForm e false false) (fun p x =>
    let ls := writing x p e
    match ls.find? fun l => (idx x p l).isNone with
    | some l => abortPass 2 l 0 p.cyc p x
    | none =>
      let (q, y) := (topLanes (idx x p) ls).foldl (fun (acc : PassSt × State) l =>
        st ((idx x p l).getD 0) (vr p e.vc.toNat l) acc.1 acc.2) (p, x)
      putRun q.advance y) s

/-- LDS: the committed copy, or with MOD[1] the pending one (R143). -/
def execLds (e : EngWord) (s : State) : Out :=
  .next (loadOp 0x08 e true (fun x p l => stateIndex x e p l) (fun w p x =>
    if mBit e 1 then let (v, y) := hazard .sts w (cell x w).pendVal p x; ((v.1, 0), y)
    else ((stateWord x w, 0), x)) s)

/-- STS (R144 to R146). -/
def execSts (e : EngWord) (s : State) : Out :=
  .next (storeOp 0x09 e (fun x p l => stateIndex x e p l) (twinStore .sts) s)

/-- LDX: a sample-bank word. -/
def execLdx (e : EngWord) (s : State) : Out :=
  .next (loadOp 0x0A e false (fun _ p l => wordIndex 1024 e p l) (fun w _ x => ((sample x w, 0), x)) s)

/-- STR: a result-bank word below 416 (R153). -/
def execStr (e : EngWord) (s : State) : Out :=
  .next (storeOp 0x0B e (fun _ p l => wordIndex 416 e p l) (fun w => twinStore .str (resKey w)) s)

/-- LDT: a table-memory word. -/
def execLdt (e : EngWord) (s : State) : Out :=
  .next (loadOp 0x0C e false (fun _ p l => wordIndex 16384 e p l)
    (fun w _ x => ((rdWord x (0x441A0000 + 4 * w), 0), x)) s)

/-- LDC: a scratch word; a poisoned one reads as NaN with NV (R148). -/
def execLdc (e : EngWord) (s : State) : Out :=
  .next (loadOp 0x0D e false (fun _ p l => wordIndex 8192 e p l) (fun w p x =>
    if (scr x w).poison then ((qNaN, flNV), x)
    else let (v, y) := hazard .stc w (scr x w).val p x; ((v.1, if v.2 then flNV else 0), y)) s)

/-- STC (R147). -/
def execStc (e : EngWord) (s : State) : Out :=
  .next (storeOp 0x0E e (fun _ p l => wordIndex 8192 e p l) scratchStore s)

/-! ### FP32 (R162 to R164) -/

/-- A two-operand, a one-operand and a three-operand FP32 instruction. -/
def fp2 (op lat : Nat) (e : EngWord) (g : Word → Word → FRes) (s : State) : State :=
  laneOp op e (fp2Form e lat) 1 (fun p l => (g (vr p e.va.toNat l) (vbOrImm e (mBit e 0) p l)).one) s
def fp1 (op lat : Nat) (e : EngWord) (g : Word → FRes) (s : State) : State :=
  laneOp op e (fp1Form e lat) 1 (fun p l => (g (vr p e.va.toNat l)).one) s
def fp3 (op lat : Nat) (e : EngWord) (g : Word → Word → Word → FRes) (s : State) : State :=
  laneOp op e (fp3Form e lat) 1
    (fun p l => (g (vr p e.va.toNat l) (vr p e.vb.toNat l) (vcOrImm e (mBit e 0) p l)).one) s

def execFadd (e : EngWord) (s : State) : Out := .next (fp2 0x10 3 e fAdd s)
def execFsub (e : EngWord) (s : State) : Out := .next (fp2 0x11 3 e fSub s)
def execFmul (e : EngWord) (s : State) : Out := .next (fp2 0x12 3 e fMul s)
def execFma (e : EngWord) (s : State) : Out := .next (fp3 0x13 4 e fFma s)
def execFnma (e : EngWord) (s : State) : Out := .next (fp3 0x14 4 e fFnma s)
def execFmin (e : EngWord) (s : State) : Out := .next (fp2 0x15 2 e fMin s)
def execFmax (e : EngWord) (s : State) : Out := .next (fp2 0x16 2 e fMax s)
def execFabs (e : EngWord) (s : State) : Out := .next (fp1 0x17 2 e fAbs s)
def execFneg (e : EngWord) (s : State) : Out := .next (fp1 0x18 2 e fNeg s)
def execFclamp (e : EngWord) (s : State) : Out := .next (fp3 0x19 2 e fClamp s)
def execFrcp (e : EngWord) (s : State) : Out := .next (fp1 0x1B 8 e fRcp s)
def execFrsq (e : EngWord) (s : State) : Out := .next (fp1 0x1C 8 e fRsq s)

def fcmpForm (e : EngWord) : Form :=
  { vd := .pd, va := .v, vb := if mBit e 0 then .none else .v, imm := if mBit e 0 then fullImm else 0, lat := 2 }

/-- FCMP: the condition in every writing lane of Pd, and 0 in every other lane (R164). -/
def execFcmp (e : EngWord) (s : State) : Out :=
  .next (issue 0x1A e (fcmpForm e) (fun p x =>
    let ls := writing x p e
    let a := fun l => vr p e.va.toNat l
    let b := fun l => vbOrImm e (mBit e 0) p l
    let bitsOf := ls.foldl (fun (w : BitVec 32) l => if fCond (mVal e / 2) (a l) (b l) then w ||| (1#32 <<< l) else w) 0#32
    let nv := if ls.any fun l => isNaN (a l) || isNaN (b l) then flNV else 0
    putRun (setReady (32 + e.vd.toNat) (p.cyc + 2) (addFlags nv (setP e.vd.toNat bitsOf p))).advance x) s)

/-- FCVT. -/
def execFcvt (e : EngWord) (s : State) : Out :=
  .next (laneOp 0x1D e { ok := mVal e < 2, vd := .v, va := .v, lat := 3 } 1 (fun p l =>
    let a := vr p e.va.toNat l
    (if mBit e 0 then fToInt a 0 flNV else fOfInt a).one) s)

/-! ### Q1.31 (R165) -/

/-- The form with VB, or with MOD[1] IMM as a raw value. -/
def qForm (e : EngWord) (ok : Bool) (three : Bool) (lat : Nat) : Form :=
  { ok := ok, vd := .v, va := .v, vb := if mBit e 1 then .none else .v, vc := if three then .v else .none
    imm := if mBit e 1 then fullImm else 0, lat := lat }

/-- The form with a count in IMM[4:0]. -/
def qShiftForm (_ : EngWord) (ok : Bool) (lat : Nat) : Form := { ok := ok, vd := .v, va := .v, imm := 0x1F, lat := lat }

def execQadd (e : EngWord) (s : State) : Out :=
  .next (laneOp 0x20 e (qForm e (mVal e < 4) false 2) 1
    (fun p l => (qAdd (mBit e 0) (vr p e.va.toNat l) (vbOrImm e (mBit e 1) p l)).one) s)
def execQmul (e : EngWord) (s : State) : Out :=
  .next (laneOp 0x21 e (qForm e (mVal e == 0 || mVal e == 2) false 3) 1
    (fun p l => (qMul (vr p e.va.toNat l) (vbOrImm e (mBit e 1) p l)).one) s)
def execQmac (e : EngWord) (s : State) : Out :=
  .next (laneOp 0x22 e (qForm e (mVal e < 4) true 4) 1
    (fun p l => (qMac (mBit e 0) (vr p e.va.toNat l) (vbOrImm e (mBit e 1) p l) (vr p e.vc.toNat l)).one) s)
def execQshr (e : EngWord) (s : State) : Out :=
  .next (laneOp 0x23 e (qShiftForm e (mVal e < 2) 2) 1
    (fun p l => (qShr (mBit e 0) (vr p e.va.toNat l) (immBits e 0 5)).one) s)
def execQsat (e : EngWord) (s : State) : Out :=
  .next (laneOp 0x24 e (qShiftForm e (mVal e == 0 && immBits e 0 5 != 31) 2) 1
    (fun p l => (qSatBits (vr p e.va.toNat l) (immBits e 0 5)).one) s)
def execQcvt (e : EngWord) (s : State) : Out :=
  .next (laneOp 0x25 e (qShiftForm e (mVal e < 2) 3) 1
    (fun p l => (qCvt (mBit e 0) (vr p e.va.toNat l) (immBits e 0 5)).one) s)

/-! ### Function (R166 to R168) -/

/-- SINCOS. -/
def execSincos (e : EngWord) (s : State) : Out :=
  .next (laneOp 0x28 e { ok := mVal e == 0, vd := .dst 2 true, va := .v, lat := 6 } 2 (fun p l =>
    let a := vr p e.va.toNat l
    ([(fSinCos false a).val, (fSinCos true a).val], (fSinCos false a).fl ||| (fSinCos true a).fl)) s)

/-- ATAN2. -/
def execAtan2 (e : EngWord) (s : State) : Out :=
  .next (laneOp 0x29 e { ok := mVal e == 0, vd := .v, va := .v, vb := .v, lat := 10 } 1
    (fun p l => (fAtan2 (vr p e.va.toNat l) (vr p e.vb.toNat l)).one) s)

/-- WRAP. -/
def execWrap (e : EngWord) (s : State) : Out :=
  .next (laneOp 0x2A e { ok := mVal e < 3, vd := .v, va := .v, imm := if mVal e = 2 then fullImm else 0, lat := 3 } 1
    (fun p l => (fWrap (mVal e) (vr p e.va.toNat l) e.imm).one) s)

/-- A table instruction traps on a descriptor that is not valid, when a lane writes (R167). -/
def tableGate (t : Nat) (e : EngWord) (f : PassSt → State → State) (p : PassSt) (s : State) : State :=
  match (writing s p e).head? with
  | some l => if lflag s (ENG_TD_A_VALID t) then f p s else abortPass 1 l 0 p.cyc p s
  | none => f p s

/-- TLU. -/
def execTlu (e : EngWord) (s : State) : Out :=
  let t := immBits e 0 6
  .next (issue 0x2B e { ok := mVal e < 2, vd := .v, va := .v, imm := 0x3F, lat := 5 } (tableGate t e fun p x =>
    putRun (writeLanes e.vd.toNat 1 5 (writing x p e)
      (fun l => ((tableOf x t).lookup (vr p e.va.toNat l) (mBit e 0)).one) p).advance x) s)

/-- Lane results with a bobbin-relative word `w`, read committed and written pending where `f` gives a value (R169). -/
def laneState (e : EngWord) (lat w : Nat) (f : PassSt → Nat → Word → List Word × Nat × Option Word)
    (p : PassSt) (x : State) : State :=
  let ls := writing x p e
  let at_ := fun l => 512 * bobbin x p l + w
  let r := fun l => f p l (stateWord x (at_ l))
  let q := writeLanes e.vd.toNat 1 lat ls (fun l => ((r l).1, (r l).2.1)) p
  let (q', y) := ls.foldl (fun (acc : PassSt × State) l =>
    match (r l).2.2 with
    | some v => twinStore .sts (at_ l) v acc.1 acc.2
    | none => acc) (q, x)
  putRun q'.advance y

/-- HYS. -/
def execHys (e : EngWord) (s : State) : Out :=
  let t := immBits e 0 6
  .next (issue 0x2C e { ok := mVal e == 0, vd := .v, va := .v, vb := .v, vc := .v, imm := 0x01FF003F, lat := 6 }
    (tableGate t e fun p x => laneState e 6 (immBits e 16 9)
      (fun p l old => hysteresis (tableOf x t) (vr p e.va.toNat l) (vr p e.vb.toNat l) (vr p e.vc.toNat l) old) p x) s)

/-! ### Motor primitives (R169, R170, R187 to R190) -/

/-- CLK3. -/
def execClk3 (e : EngWord) (s : State) : Out :=
  .next (laneOp 0x30 e { ok := mVal e < 2, vd := .dst 2 true, va := .v, vb := .v, vc := if mVal e = 0 then .v else .none, lat := 4 } 2
    (fun p l => clk3 (mVal e == 1) (vr p e.va.toNat l) (vr p e.vb.toNat l) (vr p e.vc.toNat l)) s)

/-- The form of PRK and IPRK. -/
def parkForm (e : EngWord) : Form := { ok := mVal e == 0, vd := .dst 2 true, va := .v, vb := .v, vc := .src 2, lat := 5 }

/-- PRK. -/
def execPrk (e : EngWord) (s : State) : Out :=
  .next (laneOp 0x31 e (parkForm e) 2
    (fun p l => park false (vr p e.va.toNat l) (vr p e.vb.toNat l) (vr p e.vc.toNat l) (vr p (e.vc.toNat + 1) l)) s)

/-- IPRK. -/
def execIprk (e : EngWord) (s : State) : Out :=
  .next (laneOp 0x32 e (parkForm e) 2
    (fun p l => park true (vr p e.va.toNat l) (vr p e.vb.toNat l) (vr p e.vc.toNat l) (vr p (e.vc.toNat + 1) l)) s)

/-- SVM. -/
def execSvm (e : EngWord) (s : State) : Out :=
  .next (laneOp 0x33 e { ok := mVal e < 4, vd := .dst 3 false, va := .v, vb := .v, vc := .v, lat := 8 } 3
    (fun p l => svm (mVal e) (vr p e.va.toNat l) (vr p e.vb.toNat l) (vr p e.vc.toNat l)) s)

/-- PIS. -/
def execPis (e : EngWord) (s : State) : Out :=
  .next (issue 0x34 e { ok := mVal e < 2, vd := .v, va := .v, vb := .src 2, vc := .src 2, imm := 0x1FF, lat := 6 }
    (laneState e 6 (immBits e 0 9) fun p l old =>
      pis (mVal e == 0) (vr p e.va.toNat l) (vr p e.vb.toNat l) (vr p (e.vb.toNat + 1) l)
        (vr p e.vc.toNat l) (vr p (e.vc.toNat + 1) l) old) s)

/-- MSEL. -/
def execMsel (e : EngWord) (s : State) : Out :=
  let k := immBits e 0 4
  .next (laneOp 0x35 e { ok := mVal e == 0 && decide (2 ≤ k) && decide (k ≤ 8), vd := .dst 2 false, va := .src k, imm := 0xF, lat := 4 } 2
    (fun p l => msel ((List.range k).map fun i => vr p (e.va.toNat + i) l)) s)

/-- LPF. -/
def execLpf (e : EngWord) (s : State) : Out :=
  .next (issue 0x36 e { ok := mVal e < 2, vd := .v, va := .v, vb := .v, imm := 0x1FF, lat := 4 }
    (laneState e 4 (immBits e 0 9) fun p l old => lpf (mVal e == 0) (vr p e.va.toNat l) (vr p e.vb.toNat l) old) s)

/-! ### Lane and test (R171) -/

def bcastForm (e : EngWord) : Form :=
  { ok := mVal e < 4 && (mVal e != 3 || decide (e.imm.toNat ≤ 4)), vd := if mVal e = 2 then .a else .v
    va := if mVal e = 1 then .a else if mVal e = 3 then .none else .v
    imm := if mVal e = 3 then fullImm else if mVal e = 1 then 0 else 0x1F, uniform := mVal e == 2, lat := 2 }

/-- The specials of BCAST. -/
def special (s : State) (p : PassSt) (l : Nat) (k : Nat) : Word :=
  match k with
  | 0 => BitVec.ofNat 32 l
  | 1 => BitVec.ofNat 32 (bobbin s p l)
  | 2 => BitVec.ofNat 32 s.tick.tcnt
  | 3 => upperHalf s.tick.tcnt
  | _ => BitVec.ofNat 32 p.pass

/-- BCAST. -/
def execBcast (e : EngWord) (s : State) : Out :=
  .next (issue 0x38 e (bcastForm e) (fun p x =>
    if mVal e = 2 then
      putRun (setReady (40 + e.vd.toNat) (p.cyc + 2) (setA e.vd.toNat (vr p e.va.toNat (immBits e 0 5)) p)).advance x
    else
      let val := fun l =>
        match mVal e with
        | 0 => vr p e.va.toNat (immBits e 0 5)
        | 1 => ar p e.va.toNat
        | _ => special x p l e.imm.toNat
      putRun (writeLanes e.vd.toNat 1 2 (writing x p e) (fun l => ([val l], 0)) p).advance x) s)

/-- SHFL. -/
def execShfl (e : EngWord) (s : State) : Out :=
  .next (laneOp 0x39 e { ok := mVal e < 3, vd := .v, va := .v, vb := if mVal e = 0 then .v else .none
                         imm := if mVal e = 0 then 0 else 0x1F, lat := 3 } 1 (fun p l =>
    let j := match mVal e with
      | 0 => (vr p e.vb.toNat l).toNat % 32
      | 1 => (l + immBits e 0 5) % 32
      | _ => l ^^^ immBits e 0 5
    ([vr p e.va.toNat j], 0)) s)

/-- REDUCE. -/
def execReduce (e : EngWord) (s : State) : Out :=
  .next (issue 0x3A e { ok := mVal e < 3, vd := .v, va := .v, lat := 6 } (fun p x =>
    let ls := writing x p e
    let r := reduceWords (mVal e) (ls.map fun l => vr p e.va.toNat l)
    putRun (writeLanes e.vd.toNat 1 6 ls (fun _ => r.one) p).advance x) s)

/-- LANEID. -/
def execLaneid (e : EngWord) (s : State) : Out :=
  .next (laneOp 0x3B e { ok := mVal e < 2, vd := .v, lat := 1 } 1 (fun _ l =>
    let v := BitVec.ofNat 32 l
    ([if mBit e 0 then (fOfInt v).val else v], 0)) s)

/-- INJ: the running generators of the node and the lane's bobbin add to the operand, in ascending order, each addition
rounded (DESIGN CHOICE, log 23). -/
def execInj (e : EngWord) (s : State) : Out :=
  .next (issue 0x3C e { ok := mVal e == 0, vd := .v, va := .v, imm := 0xFF, lat := 3 } (fun p x =>
    let val := fun l => (igsAt x (immBits e 0 8) (bobbin x p l)).foldl
      (fun (r : FRes) n => let y := fAdd r.val (igValue x n); ⟨y.val, r.fl ||| y.fl⟩) ⟨vr p e.va.toNat l, 0⟩
    putRun (writeLanes e.vd.toNat 1 3 (writing x p e) (fun l => (val l).one) p).advance x) s)

/-- CAP: one record per writing lane whose bobbin ENG_CAPCTL matches, while capture is armed (R179). -/
def execCap (e : EngWord) (s : State) : Out :=
  .next (issue 0x3D e { ok := mVal e == 0, va := .v, imm := 0xFFFF } (fun p x =>
    let match_ := fun b => flag x ENG_CAPCTL_ARM && (flag x ENG_CAPCTL_ALLB || fld x ENG_CAPCTL_BOBBIN == b)
    let recs := ((writing x p e).filter fun l => match_ (bobbin x p l)).map fun l =>
      ({ tick := BitVec.ofNat 32 x.tick.tcnt, tag := immBits e 0 16, bobbin := bobbin x p l, lane := l
         val := vr p e.va.toNat l } : Cap)
    putRun { p with caps := p.caps ++ recs }.advance x) s)

/-- TRAP: if any lane writes, the pass aborts. -/
def execTrap (e : EngWord) (s : State) : Out :=
  .next (issue 0x3E e { ok := mVal e == 0, imm := 0xFFFF } (fun p x =>
    match (writing x p e).head? with
    | some l => abortPass 3 l (immBits e 0 16) p.cyc p x
    | none => putRun p.advance x) s)

end Sys2Proof.Machine
end

