-- ==== Sys2Proof/Machine/Loads.lean ====
section
/-! DEFINITION. Loads and fetches of the processor units: what each memory and each register gives them, with the access
rights of a read, and what a read does beside giving a value (R6, R11 to R13, R17, R20, R21, R25, R36, R63, R73, R87, R93,
R95, R129, R148, R303, R395, R426, R495, R496). -/

namespace Sys2Proof.Machine
open Sys2Proof

/-! ### Registers -/

/-- The registers of which the device makes the value at each read (R36, R81, R366, R403, R446, R452, R493, R498, R499).
-/
def madeWord (s : State) (w : Who) (a : Nat) : Option Word :=
  let u := unit s w.key
  if winOf a = 0 then (if a = SYS_ID then some (sysIdWord s.variant) else capWord s.variant a)
  else if a = TKC_TCNT_L then some (BitVec.ofNat 32 s.tick.tcnt)
  else if a = TKC_TCNT_H then some u.tcntH
  else if a = TKC_RBDONE_H then some u.rbH
  else if a = TKC_TPOS then some (BitVec.ofNat 32 (if ticking s then (s.now - s.tick.last) / tb else 0))
  else if a = SAF_STAT then some (safStat s)
  else if a = PWR_STAT then some (pwrStat s)
  else if a = SPN_SERIAL_L then some (Config.serial.extractLsb' 0 32)
  else if a = SPN_SERIAL_H then some (Config.serial.extractLsb' 32 32)
  else if a = TRU_NONCE_L then some ((Config.nonce s.tru.nonceN).extractLsb' 0 32)
  else if a = TRU_NONCE_H then some ((Config.nonce s.tru.nonceN).extractLsb' 32 32)
  else match indexIn (TRU_PART 0) 4 10 a, indexIn (FBK_P_LPOS 0) 64 12 a, indexIn (FBK_P_LWRAP 0) 64 12 a with
    | some k, _, _ => some (partView s k)
    | none, some f, _ => some (port s f).pos
    | none, none, some f => some (SMap.get wordD u.lwrapH f)
    | none, none, none => none

/-- A register as its row gives it: the RWS bits of the shadow page, 0 in WO and reserved bits, and the current value of
every other bit; after a replay the unit's own samples (R11, R12, R17, R95). -/
def rowWord (s : State) (w : Who) (a : Nat) (r : RegRow) : Word :=
  let v := match (unit s w.key).snap.lookup a with | some x => x | none => reg s a
  mergeBits (mergeBits 0#32 v r.keep) (shad s a) r.rws &&& ~~~(BitVec.ofNat 32 r.wo)

/-- What a unit's read of the register word at `a` returns: 0 for an absent instance's or an unassigned word (R6, R13). -/
def regRead (s : State) (w : Who) (a : Nat) : Word :=
  if absent s a then 0#32
  else match madeWord s w a, regRow? a with
    | some v, _ => v
    | none, some r => rowWord s w a r
    | none, none => 0#32

/-- The event controller, the view and the word, if it is a pending word, that a register of EVR belongs to; none for a
route and for an unassigned offset, which anybody reads as 0 (R13, R135). -/
def evrPlace (a : Nat) : Option (Nat × Bool × Option Nat) :=
  let o := a % 0x10000
  if winOf a ≠ 3 ∨ o < 0x1000 ∨ (regRow? a).isNone then none
  else
    let (c, b, i) := pendPlace a
    some (c, b, if 0x40 ≤ o % 0x100 ∧ o % 0x100 < 0x90 then some i else none)

/-- A unit may read the register: of EVR its own controller's only, but for SV (R20, R135). -/
def mayRead (s : State) (w : Who) (a : Nat) : Bool :=
  absent s a || (evrPlace a).all fun p => mayEvr w p.1

/-- A read of a CL field waits for the end of the apply period, one of a page that is being refilled for its refill (R63,
R73). -/
def readWaits (a : Nat) (s : State) : State :=
  match regRow? a with
  | none => s
  | some r =>
    let s1 := if r.cl ≠ 0 ∧ ticking s then upto (s.tick.last + 400 * ns) s else s
    match winPart (winOf a) with
    | some b => if r.rws ≠ 0 ∧ s.tick.copying.getLsbD b then refillBlock b s1 else s1
    | none => s1

/-- What a read does beside giving the value: the holding registers (R36, R303) and the observed marks (R129). -/
def readEffect (w : Who) (a : Nat) (s : State) : State :=
  if absent s a then s
  else if a = TKC_TCNT_L then tcntRead w false s
  else if a = TKC_RBDONE_L then tcntRead w true s
  else match indexIn (FBK_P_LPOS 0) 64 12 a, evrPlace a with
    | some f, _ => updUnit w.key (fun u => { u with rdata := (port s f).pos, lwrapH := SMap.set wordD u.lwrapH f (port s f).wrap }) s
    | none, some (c, b, some i) => pendRead w c b i s
    | none, some (c, b, none) => if a % 0x100 = 4 then topRead w c b s else s
    | none, none => s

/-- The value of a register word and what its read does: EVR's TOP and PEND are those of the view (R129, R132). -/
def regLoad (w : Who) (a : Nat) (s : State) : Word × State :=
  let s1 := readWaits a s
  let s2 := readEffect w a s1
  let v := match evrPlace a with
    | some (c, b, some i) => if absent s a then 0#32 else pendView s1 c b i
    | some (c, b, none) => if a % 0x100 = 4 ∧ absent s a = false then topWord s1 c b else regRead s1 w a
    | none => regRead s1 w a
  (v, s2)

/-! ### Memories -/

/-- The word of four bytes. -/
def leWord (bs : List Byte) : Word := BitVec.ofNat 32 (leNat bs)

/-- What the word at the address `a` of a memory gives a unit, with the rights of R20 and of R495; none is a fault.
DESIGN CHOICE (log 61): R6 names the registers of an absent instance only; on the HZ9605 the memory of an absent spine
queue or CAN controller faults, as a gap of its area does (R496). -/
def memLoad (s : State) (w : Who) (a : Nat) : Option Word :=
  match target a with
  | .bootRom => if isSv w then some (Config.bootWord a) else none
  | .tcm off => (tcmKey s w off).map fun k => leWord (rdTcms s k 4)
  | .sram => some (rdWord s a)
  | .emramTru => if isSv w then some (rdWord s a) else none
  | .emramSw => some (rdWord s a)
  | .program => some (rdWord s a)
  | .table => some (rdWord s a)
  | .state k => some (stateWord s k)
  | .scratch k => if isSv w then some (if (scr s k).poison then 0x7FC00000#32 else (scr s k).val) else none
  | .sample k => some (sample s k)
  | .result k => some (if isEmulator s w then stateWord s (resKey k) else latched s k)
  | .spnTx q => if hasSp s q then some (rdWord s a) else none
  | .spnRx q => if hasSp s q then some (rdWord s a) else none
  | .spnPer _ => some (rdWord s a)
  | .spnMail _ => some (rdWord s a)
  | .canMem i => if hasCan s i then some (rdWord s a) else none
  | .qspMem _ => some (rdWord s a)
  | _ => none

/-- The instant at which the word at offset `o` of receive queue `q` has arrived (R395). -/
def rxDue (s : State) (q o : Nat) : Time :=
  ((spq s q).recs.filter fun r => decide ((o + 65536 - r.start) % 65536 < r.bytes)).foldl
    (fun m r => max m (r.at_ + linkTime ((o + 65536 - r.start) % 65536 + 4))) 0

/-- A load waits for a record word to arrive (R395), and for the mirror records on their way to the unit's TCM (R102). -/
def memWaits (w : Who) (a : Nat) (s : State) : State :=
  match target a with
  | .spnRx q => upto (rxDue s q (a - rxBase q)) s
  | .tcm _ => mirrorFlush (fun m => m.key / 0x100000 == w.unit.val) s
  | _ => s

/-! ### Uncorrectable errors (R93) -/

/-- The effect of a load or fetch of an SRAM or eMRAM word with an uncorrectable error: the fault with the address, the
count, the event, and for an SRAM word a spare word that holds 0, if one is free. -/
def eccHit (w : Who) (a : Word) (fetch : Bool) (s : State) : State :=
  let i := a.toNat / 8
  let s1 := raise 412 (incFld (PRC_ECC_UNC w.unit.val) (except w (if fetch then 1 else 5) a s))
  if target a.toNat = .sram ∧ fld s TST_SPARE_SRAM < 64 then
    useSpare TST_SPARE_SRAM 64 { wrBytes (8 * i) (leBytes 8 0) s1 with eccBad := SMap.set falseD s1.eccBad i false }
  else { s1 with eccBad := SMap.set falseD s1.eccBad i true }

/-- The memory holds words with check bits of their own that can be uncorrectable, and the unit may read it. -/
def eccMem (w : Who) (a : Nat) : Bool :=
  match target a with
  | .sram => true
  | .emramTru => isSv w
  | .emramSw => true
  | _ => false

/-- UNC_ECC_ACCESS (R93): a load, or with `fetch` a fetch, of an SRAM or eMRAM word that holds an uncorrectable error. -/
def execUncEccAccess (w : Who) (a : Word) (fetch : Bool) (s : State) : Out :=
  .next (atWork w (access w (if fetch then .fetch else .load) a (if fetch then 2 else 1) fun x =>
    if eccMem w a.toNat then eccHit w a fetch x else if fetch then except w 1 a x else loadFault w a x) s)

/-! ### Loads -/

/-- The `z` bytes at `a` of a word, as a load returns them before any sign extension. -/
def pick (a z : Nat) (v : Word) : Word := BitVec.ofNat 32 (bits v.toNat (8 * (a % 4)) (8 * z))

/-- A unit's load of `z` bytes at `a` of a memory or a register; the window of QSP0 is that of XIP_READ. -/
def loadAt (w : Who) (a : Word) (z : Size) (s : State) : State :=
  let n := a.toNat
  let i := n - n % 4
  let give (v : Word) (x : State) : State := updUnit w.key (fun u => { u with rdata := pick n z.bytes v }) x
  match target n with
  | .block _ =>
    if mayRead s w i then give (regLoad w i s).1 (regLoad w i s).2 else loadFault w a s
  | .xip => s
  | _ =>
    let s1 := memWaits w i s
    if eccMem w n && SMap.get falseD s.eccBad (n / 8) then eccHit w a false s1
    else match memLoad s1 w i with
      | some v => give v s1
      | none => loadFault w a s1

/-- A load of a unit. -/
def load (w : Who) (a : Word) (z : Size) (s : State) : State := atWork w (access w .load a z.bytes (loadAt w a z)) s

/-- RX_RECORD_LOAD (R395): a load, which completes when the record word that it reads has arrived. The table has no other
row for a load: this one carries the load of any memory or register (log 57). -/
def execRxRecordLoad (w : Who) (a : Place) (t : Time) (s : State) : Out := .next (load w a.addr a.size (upto t s))

/-- TCNT_L_READ: a read of TKC_TCNT_L, or with `rb` of TKC_RBDONE_L, by a unit (R36). -/
def execTcntLRead (w : Who) (rb : Bool) (s : State) : Out :=
  .next (load w (BitVec.ofNat 32 (if rb then TKC_RBDONE_L else TKC_TCNT_L)) .sw s)

/-- EVR_TOP_READ: a unit reads EVR_TOPc, in the B view if `b` (R129). -/
def execEvrTopRead (w : Who) (c : Fin 7) (b : Bool) (s : State) : Out :=
  .next (load w (BitVec.ofNat 32 (if b then EVR_B_TOP c.val else EVR_TOP c.val)) .sw s)

/-- EVR_PEND_READ: a unit reads EVR_PENDc_w; its set bits are marked observed (R129). -/
def execEvrPendRead (w : Who) (c : Fin 7) (b : Bool) (i : Fin 20) (s : State) : Out :=
  .next (load w (BitVec.ofNat 32 (if b then EVR_B_PEND c.val i.val else EVR_PEND c.val i.val)) .sw s)

/-- FBK_LPOS_READ (R303): a unit reads LPOS, which captures WRAP for it. -/
def execFbkLposRead (w : Who) (f : Fin 12) (s : State) : Out := .next (load w (BitVec.ofNat 32 (FBK_P_LPOS f.val)) .sw s)

/-! ### The execute-in-place window (R426) -/

/-- A unit has the bytes `bs` of its block: the data of a load, or the instruction of a fetch, which the core judges where
the block holds all of it (R85). -/
def xipGives (w : Who) (n : Nat) (z : Size) (fetch : Bool) (bs : List Byte) (s : State) : State :=
  if fetch then
    let i := leWord ((bs.drop (n % 32)).take 4)
    if n % 32 ≤ 28 ∨ i.toNat % 4 ≠ 3 then fetched w i s else updUnit w.key (fun u => { u with rdata := i }) s
  else updUnit w.key (fun u => { u with rdata := pick n z.bytes (leWord ((bs.drop (n % 32 / 4 * 4)).take 4)) }) s

/-- A fetch or load in the window: from a buffered block, or by a QSP0 read, which waits for a transaction in progress. -/
def xipAt (w : Who) (a : Word) (z : Size) (fetch : Bool) (blk : List Byte) (t : Time) (s : State) : State :=
  let b := a.toNat / 32
  if !(lflag s QSP_XIP_XEN) then except w (if fetch then 1 else 5) a s
  else match (qsp s 0).xip.find? fun e => e.1 == b with
    | some e => xipGives w a.toNat z fetch e.2 s
    | none =>
      if (qsp s 0).busy.isSome then s
      else
        let r := xipRunOf s b
        let f := max t (qsp s 0).freeAt
        let e := f + selTime r.cycles (qspTh s 0)
        xipGives w a.toNat z fetch blk (updQsp 0 (fun q => { q with
          xip := ((b, blk) :: q.xip).take 4, xipRun := r, xipFrom := f, xipTo := e, xipTh := qspTh s 0
          xipPol := lflag s (QSP_CFG_CPOL 0), freeAt := e + qspTh s 0 }) s)

/-- XIP_READ: a unit's fetch or load in the window; `blk` is the block that the flash gives when it is not buffered. -/
def execXipRead (w : Who) (a : Place) (fetch : Bool) (blk : List Byte) (t : Time) (s : State) : Out :=
  let s1 := upto t s
  .next (if target a.addr.toNat ≠ .xip then s1
  else atWork w (access w (if fetch then .fetch else .load) a.addr (if fetch then 2 else a.size.bytes)
    (xipAt w a.addr a.size fetch blk t)) s1)

end Sys2Proof.Machine
end

