-- ==== Sys2Proof/Machine/Dispatch.lean ====
section
/-! DEFINITION. The dispatch of a command to its meaning: one arm per row of the table. -/

namespace Sys2Proof.Machine
open Sys2Proof

def exec (i : Instr) (s : State) : Host.Outcome State Fault Refusal :=
  match i with
  | .tickBoundary => Sys2Proof.Machine.execTickBoundary s
  | .commitWindowOpen => Sys2Proof.Machine.execCommitWindowOpen s
  | .tkcBudgetWarn u t => Sys2Proof.Machine.execTkcBudgetWarn u t s
  | .tkcCbar w t => Sys2Proof.Machine.execTkcCbar w t s
  | .cbarDrainComplete w t => Sys2Proof.Machine.execCbarDrainComplete w t s
  | .clStore w a z d => Sys2Proof.Machine.execClStore w a z d s
  | .clearQueueStore w a z d => Sys2Proof.Machine.execClearQueueStore w a z d s
  | .tkcRun t => Sys2Proof.Machine.execTkcRun t s
  | .tkcQuotaWrite u m d => Sys2Proof.Machine.execTkcQuotaWrite u m d s
  | .tcntLRead w rb => Sys2Proof.Machine.execTcntLRead w rb s
  | .rebindRequest m d => Sys2Proof.Machine.execRebindRequest m d s
  | .rebindAttempt => Sys2Proof.Machine.execRebindAttempt s
  | .rebindTimeout => Sys2Proof.Machine.execRebindTimeout s
  | .shadowRefillDone b t => Sys2Proof.Machine.execShadowRefillDone b t s
  | .pairStore w a z d => Sys2Proof.Machine.execPairStore w a z d s
  | .stateMemoryStore w a z d => Sys2Proof.Machine.execStateMemoryStore w a z d s
  | .limpResultStore w a z d => Sys2Proof.Machine.execLimpResultStore w a z d s
  | .uncEccAccess w a fetch => Sys2Proof.Machine.execUncEccAccess w a fetch s
  | .pairReplay u k a t => Sys2Proof.Machine.execPairReplay u k a t s
  | .prcPermFault w k t => Sys2Proof.Machine.execPrcPermFault w k t s
  | .mirrorTransferDone d t => Sys2Proof.Machine.execMirrorTransferDone d t s
  | .prcStart n => Sys2Proof.Machine.execPrcStart n s
  | .prcHoreq m d => Sys2Proof.Machine.execPrcHoreq m d s
  | .handoverTakeEffect => Sys2Proof.Machine.execHandoverTakeEffect s
  | .prcSplit n => Sys2Proof.Machine.execPrcSplit n s
  | .prcRejoin n => Sys2Proof.Machine.execPrcRejoin n s
  | .leaseAcquire w d => Sys2Proof.Machine.execLeaseAcquire w d s
  | .leaseRenew w d => Sys2Proof.Machine.execLeaseRenew w d s
  | .leaseRelease w d => Sys2Proof.Machine.execLeaseRelease w d s
  | .leaseRevoke w d => Sys2Proof.Machine.execLeaseRevoke w d s
  | .leaseExpire k => Sys2Proof.Machine.execLeaseExpire k s
  | .engPermFault mem t => Sys2Proof.Machine.execEngPermFault mem t s
  | .evrTopRead w c b => Sys2Proof.Machine.execEvrTopRead w c b s
  | .evrPendRead w c b k => Sys2Proof.Machine.execEvrPendRead w c b k s
  | .passComplete law => Sys2Proof.Machine.execPassComplete s law
  | .passBudgetAbort => Sys2Proof.Machine.execPassBudgetAbort s
  | .engineRerun lane => Sys2Proof.Machine.execEngineRerun lane s
  | .nop e => Sys2Proof.Machine.execNop e s
  | .endP e => Sys2Proof.Machine.execEnd e s
  | .bru e => Sys2Proof.Machine.execBru e s
  | .loop e => Sys2Proof.Machine.execLoop e s
  | .fenceC e => Sys2Proof.Machine.execFenceC e s
  | .fenceR e => Sys2Proof.Machine.execFenceR e s
  | .fenceS e => Sys2Proof.Machine.execFenceS e s
  | .evt e => Sys2Proof.Machine.execEvt e s
  | .lds e => Sys2Proof.Machine.execLds e s
  | .sts e => Sys2Proof.Machine.execSts e s
  | .ldx e => Sys2Proof.Machine.execLdx e s
  | .str e => Sys2Proof.Machine.execStr e s
  | .ldt e => Sys2Proof.Machine.execLdt e s
  | .ldc e => Sys2Proof.Machine.execLdc e s
  | .stc e => Sys2Proof.Machine.execStc e s
  | .fadd e => Sys2Proof.Machine.execFadd e s
  | .fsub e => Sys2Proof.Machine.execFsub e s
  | .fmul e => Sys2Proof.Machine.execFmul e s
  | .fma e => Sys2Proof.Machine.execFma e s
  | .fnma e => Sys2Proof.Machine.execFnma e s
  | .fmin e => Sys2Proof.Machine.execFmin e s
  | .fmax e => Sys2Proof.Machine.execFmax e s
  | .fabs e => Sys2Proof.Machine.execFabs e s
  | .fneg e => Sys2Proof.Machine.execFneg e s
  | .fclamp e => Sys2Proof.Machine.execFclamp e s
  | .fcmp e => Sys2Proof.Machine.execFcmp e s
  | .frcp e => Sys2Proof.Machine.execFrcp e s
  | .frsq e => Sys2Proof.Machine.execFrsq e s
  | .fcvt e => Sys2Proof.Machine.execFcvt e s
  | .qadd e => Sys2Proof.Machine.execQadd e s
  | .qmul e => Sys2Proof.Machine.execQmul e s
  | .qmac e => Sys2Proof.Machine.execQmac e s
  | .qshr e => Sys2Proof.Machine.execQshr e s
  | .qsat e => Sys2Proof.Machine.execQsat e s
  | .qcvt e => Sys2Proof.Machine.execQcvt e s
  | .sincos e => Sys2Proof.Machine.execSincos e s
  | .atan2 e => Sys2Proof.Machine.execAtan2 e s
  | .wrap e => Sys2Proof.Machine.execWrap e s
  | .tlu e => Sys2Proof.Machine.execTlu e s
  | .hys e => Sys2Proof.Machine.execHys e s
  | .clk3 e => Sys2Proof.Machine.execClk3 e s
  | .prk e => Sys2Proof.Machine.execPrk e s
  | .iprk e => Sys2Proof.Machine.execIprk e s
  | .svm e => Sys2Proof.Machine.execSvm e s
  | .pis e => Sys2Proof.Machine.execPis e s
  | .msel e => Sys2Proof.Machine.execMsel e s
  | .lpf e => Sys2Proof.Machine.execLpf e s
  | .bcast e => Sys2Proof.Machine.execBcast e s
  | .shfl e => Sys2Proof.Machine.execShfl e s
  | .reduce e => Sys2Proof.Machine.execReduce e s
  | .laneid e => Sys2Proof.Machine.execLaneid e s
  | .inj e => Sys2Proof.Machine.execInj e s
  | .cap e => Sys2Proof.Machine.execCap e s
  | .trap e => Sys2Proof.Machine.execTrap e s
  | .igStart n m d => Sys2Proof.Machine.execIgStart n m d s
  | .igStop n m d => Sys2Proof.Machine.execIgStop n m d s
  | .igPrbsAdvance n => Sys2Proof.Machine.execIgPrbsAdvance n s
  | .engIgDone n => Sys2Proof.Machine.execEngIgDone n s
  | .carrierUpdatePoint l t => Sys2Proof.Machine.execCarrierUpdatePoint l t s
  | .modEdge l => Sys2Proof.Machine.execModEdge l s
  | .deadTimeExpire l sd t => Sys2Proof.Machine.execDeadTimeExpire l sd t s
  | .statusInputEdge l sd v t => Sys2Proof.Machine.execStatusInputEdge l sd v t s
  | .confirmTimeout l sd t => Sys2Proof.Machine.execConfirmTimeout l sd t s
  | .stuckGate l sd t => Sys2Proof.Machine.execStuckGate l sd t s
  | .samplingInstant g t => Sys2Proof.Machine.execSamplingInstant g t s
  | .modUndiag l => Sys2Proof.Machine.execModUndiag l s
  | .diagPulseInsert l => Sys2Proof.Machine.execDiagPulseInsert l s
  | .debugHalt u t => Sys2Proof.Machine.execDebugHalt u t s
  | .timebaseLoss t => Sys2Proof.Machine.execTimebaseLoss t s
  | .fltFall c t => Sys2Proof.Machine.execFltFall c t s
  | .fltRise c t => Sys2Proof.Machine.execFltRise c t s
  | .fltHard c t => Sys2Proof.Machine.execFltHard c t s
  | .faultPollRepeat c t => Sys2Proof.Machine.execFaultPollRepeat c t s
  | .periodicPoll c => Sys2Proof.Machine.execPeriodicPoll c s
  | .statusRequest c a t => Sys2Proof.Machine.execStatusRequest c a t s
  | .edgeProfile l sd t => Sys2Proof.Machine.execEdgeProfile l sd t s
  | .configurationFrame l t => Sys2Proof.Machine.execConfigurationFrame l t s
  | .pollReply c a r t => Sys2Proof.Machine.execPollReply c a r t s
  | .pollComplete c t => Sys2Proof.Machine.execPollComplete c t s
  | .ascTurnOn g t => Sys2Proof.Machine.execAscTurnOn g t s
  | .ascVerifyTimeout l t => Sys2Proof.Machine.execAscVerifyTimeout l t s
  | .safRelease gs => Sys2Proof.Machine.execSafRelease gs s
  | .holdLeaveComplete g t => Sys2Proof.Machine.execHoldLeaveComplete g t s
  | .holdLeaveTimeout g t => Sys2Proof.Machine.execHoldLeaveTimeout g t s
  | .mainResult ch bs t => Sys2Proof.Machine.execMainResult ch bs t s
  | .fastResult ch bs t => Sys2Proof.Machine.execFastResult ch bs t s
  | .bsckLost k t => Sys2Proof.Machine.execBsckLost k t s
  | .bsckRecover k t => Sys2Proof.Machine.execBsckRecover k t s
  | .calRequest m d => Sys2Proof.Machine.execCalRequest m d s
  | .calTimeout => Sys2Proof.Machine.execCalTimeout s
  | .reliefStart => Sys2Proof.Machine.execReliefStart s
  | .reliefCompare eq t => Sys2Proof.Machine.execReliefCompare eq t s
  | .filterSelftestDone u mean t => Sys2Proof.Machine.execFilterSelftestDone u mean t s
  | .sarSeqStart c k t => Sys2Proof.Machine.execSarSeqStart c k t s
  | .sarSeqGo c t => Sys2Proof.Machine.execSarSeqGo c t s
  | .sarUrgentRequest c sw t => Sys2Proof.Machine.execSarUrgentRequest c sw t s
  | .sarSlotResult c v t => Sys2Proof.Machine.execSarSlotResult c v t s
  | .sarRefSettled t => Sys2Proof.Machine.execSarRefSettled t s
  | .fbPinEdge p v t => Sys2Proof.Machine.execFbPinEdge p v t s
  | .fbEdgeAccept p t => Sys2Proof.Machine.execFbEdgeAccept p t s
  | .cmpPulseEnd c t => Sys2Proof.Machine.execCmpPulseEnd c t s
  | .fbStandstill f t => Sys2Proof.Machine.execFbStandstill f t s
  | .fbkLposRead w f => Sys2Proof.Machine.execFbkLposRead w f s
  | .serialReadStart f t => Sys2Proof.Machine.execSerialReadStart f t s
  | .serialReading f raw t => Sys2Proof.Machine.execSerialReading f raw t s
  | .recap f => Sys2Proof.Machine.execRecap f s
  | .cmpArm c => Sys2Proof.Machine.execCmpArm c s
  | .cmpDisarm c => Sys2Proof.Machine.execCmpDisarm c s
  | .emOutputEdge e t => Sys2Proof.Machine.execEmOutputEdge e t s
  | .fbkPlsTmo p t => Sys2Proof.Machine.execFbkPlsTmo p t s
  | .auxClassify b => Sys2Proof.Machine.execAuxClassify b s
  | .auxBrakeEnd b => Sys2Proof.Machine.execAuxBrakeEnd b s
  | .auxLock b => Sys2Proof.Machine.execAuxLock b s
  | .auxStartFail b k => Sys2Proof.Machine.execAuxStartFail b k s
  | .auxBackoffExpire b => Sys2Proof.Machine.execAuxBackoffExpire b s
  | .stoPinFall pinB t => Sys2Proof.Machine.execStoPinFall pinB t s
  | .stoPinRise pinB t => Sys2Proof.Machine.execStoPinRise pinB t s
  | .safStoDisc t => Sys2Proof.Machine.execSafStoDisc t s
  | .safeInputDemand p a b t => Sys2Proof.Machine.execSafeInputDemand p a b t s
  | .sinDiscrepancy p t => Sys2Proof.Machine.execSinDiscrepancy p t s
  | .soutSet m d => Sys2Proof.Machine.execSoutSet m d s
  | .soutTestPulse o t => Sys2Proof.Machine.execSoutTestPulse o t s
  | .soutFault o r => Sys2Proof.Machine.execSoutFault o r s
  | .sbcDeenergise o t => Sys2Proof.Machine.execSbcDeenergise o t s
  | .ss1Expire g t => Sys2Proof.Machine.execSs1Expire g t s
  | .grpreqClear gs => Sys2Proof.Machine.execGrpreqClear gs s
  | .grpreqHold gs => Sys2Proof.Machine.execGrpreqHold gs s
  | .grpreqAsc gs => Sys2Proof.Machine.execGrpreqAsc gs s
  | .grpreqAllOff gs => Sys2Proof.Machine.execGrpreqAllOff gs s
  | .grpreqSto gs => Sys2Proof.Machine.execGrpreqSto gs s
  | .grpreqSs1Start gs => Sys2Proof.Machine.execGrpreqSs1Start gs s
  | .grpreqSs1Stop gs => Sys2Proof.Machine.execGrpreqSs1Stop gs s
  | .safReqErr d => Sys2Proof.Machine.execSafReqErr d s
  | .safFrozen => Sys2Proof.Machine.execSafFrozen s
  | .safUnfreeze => Sys2Proof.Machine.execSafUnfreeze s
  | .latchClearStodisc => Sys2Proof.Machine.execLatchClearStodisc s
  | .latchClearSind p => Sys2Proof.Machine.execLatchClearSind p s
  | .latchClearSoutf o => Sys2Proof.Machine.execLatchClearSoutf o s
  | .latchClearDisflt => Sys2Proof.Machine.execLatchClearDisflt s
  | .dischargeStart => Sys2Proof.Machine.execDischargeStart s
  | .dischargeStop => Sys2Proof.Machine.execDischargeStop s
  | .dischDone => Sys2Proof.Machine.execDischDone s
  | .dischFault t => Sys2Proof.Machine.execDischFault t s
  | .tickSignatureSend t => Sys2Proof.Machine.execTickSignatureSend t s
  | .tickSignature x t => Sys2Proof.Machine.execTickSignature x t s
  | .spnLock => Sys2Proof.Machine.execSpnLock s
  | .spnHoldover t => Sys2Proof.Machine.execSpnHoldover t s
  | .timeResyncStep => Sys2Proof.Machine.execTimeResyncStep s
  | .statusSignatureSend t => Sys2Proof.Machine.execStatusSignatureSend t s
  | .statusSignature x t => Sys2Proof.Machine.execStatusSignature x t s
  | .periodicSignature x t => Sys2Proof.Machine.execPeriodicSignature x t s
  | .asyncSend q port t => Sys2Proof.Machine.execAsyncSend q port t s
  | .asyncSignature x t => Sys2Proof.Machine.execAsyncSignature x t s
  | .rxRecordLoad w a t => Sys2Proof.Machine.execRxRecordLoad w a t s
  | .txqStoreComplete w t => Sys2Proof.Machine.execTxqStoreComplete w t s
  | .spnTxqWp q m d => Sys2Proof.Machine.execSpnTxqWp q m d s
  | .spnRxqRp q m d => Sys2Proof.Machine.execSpnRxqRp q m d s
  | .linkLoss port t => Sys2Proof.Machine.execLinkLoss port t s
  | .spnLinkUp port delay t => Sys2Proof.Machine.execSpnLinkUp port delay t s
  | .spnMemberLost a => Sys2Proof.Machine.execSpnMemberLost a s
  | .announce x t => Sys2Proof.Machine.execAnnounce x t s
  | .ringForm t => Sys2Proof.Machine.execRingForm t s
  | .leadTakeover => Sys2Proof.Machine.execLeadTakeover s
  | .leadHandoff => Sys2Proof.Machine.execLeadHandoff s
  | .spnJoin t => Sys2Proof.Machine.execSpnJoin t s
  | .joinSignature x p t => Sys2Proof.Machine.execJoinSignature x p t s
  | .memberAdmit => Sys2Proof.Machine.execMemberAdmit s
  | .spnLeave => Sys2Proof.Machine.execSpnLeave s
  | .leaveEffect ports => Sys2Proof.Machine.execLeaveEffect s ports
  | .managementSignature x t => Sys2Proof.Machine.execManagementSignature x t s
  | .spnPlock => Sys2Proof.Machine.execSpnPlock s
  | .canTxDoorbell n f m d => Sys2Proof.Machine.execCanTxDoorbell n f m d s
  | .canTxComplete n t => Sys2Proof.Machine.execCanTxComplete n t s
  | .canTxFail n arb t => Sys2Proof.Machine.execCanTxFail n arb t s
  | .canRxFrame n fr t => Sys2Proof.Machine.execCanRxFrame n fr t s
  | .canBusError n e t => Sys2Proof.Machine.execCanBusError n e t s
  | .canBorec n => Sys2Proof.Machine.execCanBorec n s
  | .canRecovered n t => Sys2Proof.Machine.execCanRecovered n t s
  | .canFlush n fs => Sys2Proof.Machine.execCanFlush n fs s
  | .canRxrp n m d => Sys2Proof.Machine.execCanRxrp n m d s
  | .canDetreq n m d => Sys2Proof.Machine.execCanDetreq n m d s
  | .canDetWindow n err t => Sys2Proof.Machine.execCanDetWindow n err t s
  | .qspDbwp p m d => Sys2Proof.Machine.execQspDbwp p m d s
  | .qspResume p => Sys2Proof.Machine.execQspResume p s
  | .qspTransactionStart p t => Sys2Proof.Machine.execQspTransactionStart p t s
  | .qspTransactionDone p rd rck t => Sys2Proof.Machine.execQspTransactionDone p rd rck t s
  | .qspMmf p t => Sys2Proof.Machine.execQspMmf p t s
  | .xipRead w a fetch blk t => Sys2Proof.Machine.execXipRead w a fetch blk t s
  | .qspTargetSelect p x t => Sys2Proof.Machine.execQspTargetSelect p x t s
  | .qspTargetRelease p t => Sys2Proof.Machine.execQspTargetRelease p t s
  | .qspTrp p m d => Sys2Proof.Machine.execQspTrp p m d s
  | .truInstallKey d => Sys2Proof.Machine.execTruInstallKey d s
  | .truPresentToken d => Sys2Proof.Machine.execTruPresentToken d s
  | .truLeaveService d => Sys2Proof.Machine.execTruLeaveService d s
  | .truStageBytes d => Sys2Proof.Machine.execTruStageBytes d s
  | .truSeal d => Sys2Proof.Machine.execTruSeal d s
  | .truOpenManifest d => Sys2Proof.Machine.execTruOpenManifest d s
  | .truSwitch d => Sys2Proof.Machine.execTruSwitch d s
  | .truReportOk d => Sys2Proof.Machine.execTruReportOk d s
  | .truReportFailed d => Sys2Proof.Machine.execTruReportFailed d s
  | .truCommit d => Sys2Proof.Machine.execTruCommit d s
  | .truAbort d => Sys2Proof.Machine.execTruAbort d s
  | .truRollback d => Sys2Proof.Machine.execTruRollback d s
  | .truWriteCalRecord d => Sys2Proof.Machine.execTruWriteCalRecord d s
  | .truLoadPair d => Sys2Proof.Machine.execTruLoadPair d s
  | .truCmdInvalid d => Sys2Proof.Machine.execTruCmdInvalid d s
  | .truCmdDone t => Sys2Proof.Machine.execTruCmdDone t s
  | .lcreqProvisioned => Sys2Proof.Machine.execLcreqProvisioned s
  | .lcreqField => Sys2Proof.Machine.execLcreqField s
  | .lcreqReturn => Sys2Proof.Machine.execLcreqReturn s
  | .lcreqScrapped => Sys2Proof.Machine.execLcreqScrapped s
  | .returnEraseDone t => Sys2Proof.Machine.execReturnEraseDone t s
  | .truRevoke d => Sys2Proof.Machine.execTruRevoke d s
  | .truTokenEnd t => Sys2Proof.Machine.execTruTokenEnd t s
  | .truProbTimeout => Sys2Proof.Machine.execTruProbTimeout s
  | .gathTimeout t => Sys2Proof.Machine.execGathTimeout t s
  | .memtestVisit k fail t => Sys2Proof.Machine.execMemtestVisit k fail t s
  | .blockTestRequest d t => Sys2Proof.Machine.execBlockTestRequest d t s
  | .blockTestDone r t => Sys2Proof.Machine.execBlockTestDone r t s
  | .tstPad l r => Sys2Proof.Machine.execTstPad l r s
  | .tstScanEnter => Sys2Proof.Machine.execTstScanEnter s
  | .resetAssert k t => Sys2Proof.Machine.execResetAssert k t s
  | .resetRelease t => Sys2Proof.Machine.execResetRelease t s
  | .bootComplete t => Sys2Proof.Machine.execBootComplete t s
  | .pwrBankBor c t => Sys2Proof.Machine.execPwrBankBor c t s
  | .okAccept bkup v t => Sys2Proof.Machine.execOkAccept bkup v t s
  | .hoReturnStart t => Sys2Proof.Machine.execHoReturnStart t s
  | .hoSwitch mainPin t => Sys2Proof.Machine.execHoSwitch mainPin t s
  | .pwrHoDone t => Sys2Proof.Machine.execPwrHoDone t s
  | .thermAssert k deg t => Sys2Proof.Machine.execThermAssert k deg t s
  | .thermRelease t0 t1 t2 t3 t => Sys2Proof.Machine.execThermRelease t0 t1 t2 t3 t s
  | .registerWrite w a m d => Sys2Proof.Machine.execRegisterWrite w a m d s
  | .debugResume u => Sys2Proof.Machine.execDebugResume u s
  | .safeInputDemandEnd p t => Sys2Proof.Machine.execSafeInputDemandEnd p t s
  | .safeStateWaitTimeout l t => Sys2Proof.Machine.execSafeStateWaitTimeout l t s
  | .carrierPeriodStart l t => Sys2Proof.Machine.execCarrierPeriodStart l t s
  | .joinTimeout t => Sys2Proof.Machine.execJoinTimeout t s
  | .gathRollbackTimeout t => Sys2Proof.Machine.execGathRollbackTimeout t s
  | .singleBitEccError k => Sys2Proof.Machine.execSingleBitEccError k s

end Sys2Proof.Machine
end

