-- ==== Sys2Proof/Safety.lean ====
section
/-! DEFINITION. What claims call safe: gates that can never shoot through, memories in their canonical form, commands
that are well formed. -/

namespace Sys2Proof.Machine
open Sys2Proof

/-- The two gates of a leg are not both on (R230). -/
def LegSt.apart (x : LegSt) : Prop := ¬ (x.h.on = true ∧ x.l.on = true)

/-- No leg has both of its gates on. -/
def NoShootThrough (s : State) : Prop := ∀ l : Nat, (leg s l).apart

/-- The byte memories and the engine's twin cells are in their canonical form: keys strictly rising, no entry equal to
what an unlisted one reads as. -/
abbrev MemWf (s : State) : Prop :=
  SMap.wf memD s.mem = true ∧ SMap.wf tcmD s.tcm = true ∧ SMap.wf cellD s.eng.cells = true

/-- An outcome is a next state. -/
def Answers (o : Host.Outcome State Fault Refusal) : Prop := ∃ t : State, o = .next t

/-- A step is safe: it answers a next state in which no leg shoots through. -/
def SafeStep (s : State) : Prop := ∃ t : State, step s = .next t ∧ NoShootThrough t

end Sys2Proof.Machine
end

