-- ==== Sys2Proof/Certificates/Slice0/Obligations.lean ====
section
/-! DEFINITION. The statements for the provers. Each `Obligations.<Name>` formalises the rules of spec/ that its docstring
names. -/

open Sys2Proof Sys2Proof.Machine

/-- Event `e` is pending where its route leads, if it exists and its controller does (R128 to R131). -/
def Sys2Proof.Claim.Pends (e : Nat) (s x : State) : Prop :=
  deadEvent s e = false → evTarget s e < 7 → hasUnit s (evTarget s e) = true →
  (reg x (pendReg (evTarget s e) e)).getLsbD (e % 32) = true

/-- No register has changed but those of the event controllers, the count of dropped events and those of a list. -/
def Sys2Proof.Claim.RegsBut (l : List Nat) (s x : State) : Prop := ∀ a, winOf a ≠ 3 → a ≠ SPN_CNT2 → a ∉ l → reg x a = reg s a

/-- A word access of the unit to the present, writable register with row `r` at `a` goes through, and R16 gives the unit
the right to the window. -/
abbrev Sys2Proof.Claim.Reaches (s : State) (w : Who) (a : Word) (r : RegRow) : Prop :=
  goes s w .store a 4 = true ∧ target a.toNat = .block (winOf a.toNat) ∧
  (winOf a.toNat = 5 ∨ winOf a.toNat = 6 → isSv w = true) ∧ absent s a.toNat = false ∧ regRow? a.toNat = some r ∧
  a.toNat ≠ TKC_CBAR

/-- A TRU command word that no running command and no field of its own refuses (R470, R471). -/
abbrev Sys2Proof.Claim.TruTakes (op : Nat) (d : Word) (s : State) : Prop :=
  TRU_CMD_GO.of d = 1 ∧ TRU_CMD_OP.of d = op ∧ s.tru.run = none ∧ s.tru.auto_ = none ∧ bits d.toNat 20 11 = 0 ∧
    bits d.toNat 4 12 = 0 ∧ (usesPart op = true → TRU_CMD_PART.of d ≤ 8)

/-- TRU runs command `op` on partition or slot `k` with `n` bytes of data: STATE 1, CODE 0. -/
def Sys2Proof.Claim.TruRuns (op k n : Nat) (s t : State) : Prop :=
  (∃ r : TruRun, t.tru.run = some r ∧ r.op = op ∧ r.part = k ∧ r.len = n ∧ r.addr = cmdAddr s ∧ r.startAt = s.now ∧
    s.now ≤ r.endAt) ∧ fld t TRU_CMDST_STATE = 1 ∧ fld t TRU_CMDST_CODE = 0 ∧ t.mem = s.mem

/-- TRU refuses: CODE reads `c` and STATE 3, and nothing of TRU's state, of the memories or of the gates changes. -/
def Sys2Proof.Claim.Refused (c : Nat) (s t : State) : Prop :=
  fld t TRU_CMDST_CODE = c ∧ fld t TRU_CMDST_STATE = 3 ∧ t.tru = s.tru ∧ t.mem = s.mem ∧ t.legs = s.legs

/-- The command of the table that a TRU_CMD word with operation `op` is. -/
def Sys2Proof.Claim.truRow (op : Nat) (d : Word) : Instr :=
  match op with
  | 1 => .truInstallKey d | 2 => .truPresentToken d | 3 => .truLeaveService d | 4 => .truStageBytes d | 5 => .truSeal d
  | 6 => .truOpenManifest d | 7 => .truSwitch d | 8 => .truReportOk d | 9 => .truReportFailed d | 10 => .truCommit d
  | 11 => .truAbort d | 12 => .truRollback d | 13 => .truWriteCalRecord d | 14 => .truLoadPair d
  | _ => .truCmdInvalid d

/-- No message of the controller's transmit FIFOs is a CAN FD one, so none is discarded as unsendable (R407). -/
abbrev Sys2Proof.Claim.NoFd (s : State) (n : Nat) : Prop := ∀ f < 3, ∀ p < 32, bitOf (rdWord s (txSlot n f p)).toNat 29 = false

/-- The journal of unit `k` restores no word of PRC_MM or PRC_MMADDR, which no store reaches. -/
def Sys2Proof.Claim.JrnLeaves (s : State) (k u : Nat) : Prop :=
  ∀ (a : Nat) (o : Word) (m : Nat), Undo.reg a o m ∈ (unit s k).jrn → a ≠ PRC_MM u ∧ a ≠ PRC_MMADDR u

/-- The running attempt `p` issues the word of opcode `op` and fields `e` at its pc: END has not retired, the engine is
not halted, the pc lies in the pass's extent, the word there is this one, the sources are ready before BUDGET, and
the form is legal (R155, R158, R160). -/
abbrev Sys2Proof.Claim.IssuesAt (op : Nat) (e : EngWord) (fm : Form) (s : State) (p : PassSt) : Prop :=
  s.eng.run = some p ∧ p.ended = none ∧ s.engHalt = false ∧ lfld s (ENG_RT_A_ENTRY p.pass) ≤ p.pc ∧
  p.pc < lfld s (ENG_RT_A_ENTRY p.pass) + lfld s (ENG_RT_B_LEN p.pass) ∧ progWord s p.pc = engWord op e ∧
  issueCycle p (fm.reads e) < passBudget s p.pass ∧ fm.legal e = true

/-- After a lane-wise instruction the writing lanes hold the results `f` in V[VD] and the registers after it, V0 and
every other lane and register are as before, the flags are added, and the results may be used `lat` cycles after the
issue. -/
def Sys2Proof.Claim.LaneResults (s : State) (p : PassSt) (e : EngWord) (fm : Form) (n : Nat) (f : Nat → List Word × Nat)
    (q : PassSt) : Prop :=
  (∀ l r, l < 32 → vr q r l = if r ≠ 0 ∧ e.vd.toNat ≤ r ∧ l ∈ writing s p e then
    ((f l).1[r - e.vd.toNat]?).getD (vr p r l) else vr p r l) ∧
  q.flags = (writing s p e).foldl (fun a l => a ||| (f l).2) p.flags ∧
  (∀ i, i < n → SMap.get natD q.ready (e.vd.toNat + i) = issueCycle p (fm.reads e) + fm.lat) ∧
  q.pc = p.pc + 1 ∧ q.cyc = issueCycle p (fm.reads e) + 1 ∧ q.a = p.a ∧ q.p = p.p ∧ q.pass = p.pass ∧
  q.ended = none ∧ q.evts = p.evts ∧ q.caps = p.caps

/-- The instruction `mk` of opcode `op` runs where it issues and `ok` holds, with the lane results `f`; nothing of the
state but the attempt changes. -/
def Sys2Proof.Claim.LaneRunsIf (ok : EngWord → State → PassSt → Prop) (op : Nat) (mk : EngWord → Instr) (fm : EngWord → Form) (n : Nat)
    (f : EngWord → State → PassSt → Nat → List Word × Nat) : Prop :=
  ∀ (e : EngWord) (s : State) (p : PassSt), IssuesAt op e (fm e) s p → ok e s p → ∃ q : PassSt,
    exec (mk e) s = .next (putRun q s) ∧ LaneResults s p e (fm e) n (f e s p) q ∧ q.flight = p.flight

/-- The same under no further condition, for a function of the lane's registers. -/
def Sys2Proof.Claim.LaneRuns (op : Nat) (mk : EngWord → Instr) (fm : EngWord → Form) (n : Nat)
    (f : EngWord → PassSt → Nat → List Word × Nat) : Prop :=
  LaneRunsIf (fun _ _ _ => True) op mk fm n (fun e _ => f e)

/-- The instruction `mk` also keeps a bobbin-relative state word: it reads the committed copy and, where `f` gives a
value, writes it as a pending store of the pass (R144, R169); every other twin cell is as before. -/
def Sys2Proof.Claim.StateRunsIf (ok : EngWord → State → PassSt → Prop) (op : Nat) (mk : EngWord → Instr) (fm : EngWord → Form)
    (word : EngWord → Nat) (f : EngWord → State → PassSt → Nat → Word → List Word × Nat × Option Word) : Prop :=
  ∀ (e : EngWord) (s : State) (p : PassSt) (key : Nat → Nat) (r : Nat → List Word × Nat × Option Word),
    IssuesAt op e (fm e) s p → ok e s p →
    (∀ l, key l = 512 * bobbin s p l + word e) → (∀ l, r l = f e s p l (stateWord s (key l))) → ∃ (q : PassSt) (y : State),
    exec (mk e) s = .next (putRun q y) ∧ LaneResults s p e (fm e) 1 (fun l => ((r l).1, (r l).2.1)) q ∧
    (∀ l ∈ writing s p e, ∀ v, (r l).2.2 = some v → (cell s (key l)).units = [] →
      (cell y (key l)).eng = some (v, p.pass)) ∧
    (∀ k, (∀ l ∈ writing s p e, k = key l → (r l).2.2 = none) → cell y k = cell s k) ∧
    (∀ k, (cell y k).com = (cell s k).com) ∧ y.mem = s.mem ∧ y.legs = s.legs

/-- The opcodes of the table, each with its command and the form of its word (R159 to R171): control and memory. -/
def Sys2Proof.Claim.controlOps : List (Nat × (EngWord → Instr) × (EngWord → Form)) :=
  [(0x00, .nop, plainForm), (0x01, .endP, plainForm), (0x02, .bru, bruForm), (0x03, .loop, loopForm),
   (0x04, .fenceC, plainForm), (0x05, .fenceR, plainForm), (0x06, .fenceS, plainForm),
   (0x07, .evt, fun e => { ok := mVal e == 0, imm := 0xF }), (0x08, .lds, fun e => memForm e true true),
   (0x09, .sts, fun e => memForm e false false), (0x0A, .ldx, fun e => memForm e true false),
   (0x0B, .str, fun e => memForm e false false), (0x0C, .ldt, fun e => memForm e true false),
   (0x0D, .ldc, fun e => memForm e true false), (0x0E, .stc, fun e => memForm e false false)]

/-- The same of FP32 arithmetic. -/
def Sys2Proof.Claim.floatOps : List (Nat × (EngWord → Instr) × (EngWord → Form)) :=
  [(0x10, .fadd, fun e => fp2Form e 3), (0x11, .fsub, fun e => fp2Form e 3), (0x12, .fmul, fun e => fp2Form e 3),
   (0x13, .fma, fun e => fp3Form e 4), (0x14, .fnma, fun e => fp3Form e 4), (0x15, .fmin, fun e => fp2Form e 2),
   (0x16, .fmax, fun e => fp2Form e 2), (0x17, .fabs, fun e => fp1Form e 2), (0x18, .fneg, fun e => fp1Form e 2),
   (0x19, .fclamp, fun e => fp3Form e 2), (0x1A, .fcmp, fcmpForm), (0x1B, .frcp, fun e => fp1Form e 8),
   (0x1C, .frsq, fun e => fp1Form e 8), (0x1D, .fcvt, fun e => { ok := mVal e < 2, vd := .v, va := .v, lat := 3 })]

/-- The same of Q1.31 arithmetic and of the functions. -/
def Sys2Proof.Claim.functionOps : List (Nat × (EngWord → Instr) × (EngWord → Form)) :=
  [(0x20, .qadd, fun e => qForm e (mVal e < 4) false 2), (0x21, .qmul, fun e => qForm e (mVal e == 0 || mVal e == 2) false 3),
   (0x22, .qmac, fun e => qForm e (mVal e < 4) true 4), (0x23, .qshr, fun e => qShiftForm e (mVal e < 2) 2),
   (0x24, .qsat, fun e => qShiftForm e (mVal e == 0 && immBits e 0 5 != 31) 2),
   (0x25, .qcvt, fun e => qShiftForm e (mVal e < 2) 3),
   (0x28, .sincos, fun e => { ok := mVal e == 0, vd := .dst 2 true, va := .v, lat := 6 }),
   (0x29, .atan2, fun e => { ok := mVal e == 0, vd := .v, va := .v, vb := .v, lat := 10 }),
   (0x2A, .wrap, fun e => { ok := mVal e < 3, vd := .v, va := .v, imm := if mVal e = 2 then fullImm else 0, lat := 3 }),
   (0x2B, .tlu, fun e => { ok := mVal e < 2, vd := .v, va := .v, imm := 0x3F, lat := 5 }),
   (0x2C, .hys, fun e => { ok := mVal e == 0, vd := .v, va := .v, vb := .v, vc := .v, imm := 0x01FF003F, lat := 6 })]

/-- The same of the motor primitives and of the lane and test instructions. -/
def Sys2Proof.Claim.primitiveOps : List (Nat × (EngWord → Instr) × (EngWord → Form)) :=
  [(0x30, .clk3, fun e => { ok := mVal e < 2, vd := .dst 2 true, va := .v, vb := .v
                            vc := if mVal e = 0 then .v else .none, lat := 4 }),
   (0x31, .prk, parkForm), (0x32, .iprk, parkForm),
   (0x33, .svm, fun e => { ok := mVal e < 4, vd := .dst 3 false, va := .v, vb := .v, vc := .v, lat := 8 }),
   (0x34, .pis, fun e => { ok := mVal e < 2, vd := .v, va := .v, vb := .src 2, vc := .src 2, imm := 0x1FF, lat := 6 }),
   (0x35, .msel, fun e => { ok := mVal e == 0 && decide (2 ≤ immBits e 0 4) && decide (immBits e 0 4 ≤ 8)
                            vd := .dst 2 false, va := .src (immBits e 0 4), imm := 0xF, lat := 4 }),
   (0x36, .lpf, fun e => { ok := mVal e < 2, vd := .v, va := .v, vb := .v, imm := 0x1FF, lat := 4 }),
   (0x38, .bcast, bcastForm),
   (0x39, .shfl, fun e => { ok := mVal e < 3, vd := .v, va := .v, vb := if mVal e = 0 then .v else .none
                            imm := if mVal e = 0 then 0 else 0x1F, lat := 3 }),
   (0x3A, .reduce, fun e => { ok := mVal e < 3, vd := .v, va := .v, lat := 6 }),
   (0x3B, .laneid, fun e => { ok := mVal e < 2, vd := .v, lat := 1 }),
   (0x3C, .inj, fun e => { ok := mVal e == 0, vd := .v, va := .v, imm := 0xFF, lat := 3 }),
   (0x3D, .cap, fun e => { ok := mVal e == 0, va := .v, imm := 0xFFFF }),
   (0x3E, .trap, fun e => { ok := mVal e == 0, imm := 0xFFFF })]

/-- Every opcode that is not reserved. -/
def Sys2Proof.Claim.engineOps : List (Nat × (EngWord → Instr) × (EngWord → Form)) := controlOps ++ floatOps ++ functionOps ++ primitiveOps

/-- The attempt `p` runs, has not retired END, and reaches its next cycle before BUDGET. -/
abbrev Sys2Proof.Claim.Fetches (s : State) (p : PassSt) : Prop :=
  s.eng.run = some p ∧ p.ended = none ∧ s.engHalt = false ∧ p.pass < 64 ∧ p.cyc < passBudget s p.pass

/-- The pc lies in the pass's extent. -/
abbrev Sys2Proof.Claim.InExtent (s : State) (p : PassSt) : Prop :=
  lfld s (ENG_RT_A_ENTRY p.pass) ≤ p.pc ∧ p.pc < lfld s (ENG_RT_A_ENTRY p.pass) + lfld s (ENG_RT_B_LEN p.pass)

/-- The pass has been aborted at its pc, with a cause and for a lane. -/
def Sys2Proof.Claim.Aborted (s x : State) (p : PassSt) (cause lane : Nat) : Prop :=
  fld x ENG_ABORT_CAUSE = cause ∧ fld x ENG_ABORT_LANE = lane ∧ fld x ENG_ABORT_PASS = p.pass ∧
  fld x ENG_ABORTPC_PC = p.pc % 16384 ∧ fld x (ENG_PSTAT_ABORTED p.pass) = 1 ∧ x.mem = s.mem

/-- The result of a finite value `q` rounded once to nearest even at 24 significant bits (R162): a zero is +0 or −0 by
`neg`; beyond the largest number it is infinite with OF, and below the smallest normal one zero with UF. -/
def Sys2Proof.Claim.Rounds (q : Rat) (neg : Bool) (r : FRes) : Prop :=
  (q = 0 → r = ⟨fZero neg, 0⟩) ∧
  (q ≠ 0 → ∃ (m : Nat) (k : Int), 2 ^ 23 ≤ m ∧ m ≤ 2 ^ 24 ∧ (2 ^ 23 : Nat) * pow2 k ≤ ratAbs q ∧
    ratAbs q < (2 ^ 24 : Nat) * pow2 k ∧ 2 * ratAbs (m * pow2 k - ratAbs q) ≤ pow2 k ∧
    (2 * ratAbs (m * pow2 k - ratAbs q) = pow2 k → m % 2 = 0) ∧
    (pow2 128 ≤ m * pow2 k → r = ⟨fInf (decide (q < 0)), flOF⟩) ∧
    (m * pow2 k < pow2 (-126) → r = ⟨fZero (decide (q < 0)), flUF⟩) ∧
    (pow2 (-126) ≤ m * pow2 k → m * pow2 k < pow2 128 →
      fval r.val = .fin (decide (q < 0)) (if q < 0 then -(m * pow2 k) else m * pow2 k) ∧ r.fl = 0))

/-- The word is a finite number within `err` of `q`. -/
abbrev Sys2Proof.Claim.Near (w : Word) (q err : Rat) : Prop := ∃ (s : Bool) (v : Rat), fval w = .fin s v ∧ ratAbs (v - q) ≤ err

/-- `i` saturated to the signed 32-bit range, with QS where it lies outside (R165). -/
def Sys2Proof.Claim.Saturates (i : Int) (r : FRes) : Prop :=
  r.val.toInt = max (-(2 ^ 31)) (min i (2 ^ 31 - 1)) ∧ r.fl = (if i < -(2 ^ 31) ∨ 2 ^ 31 - 1 < i then flQS else 0)

/-- The memory instructions: opcode, command, whether they load and may name the pending copy, and the word of a lane,
none if its index lies outside (R157, R161). -/
def Sys2Proof.Claim.memoryOps : List (Nat × (EngWord → Instr) × Bool × Bool × (State → EngWord → PassSt → Nat → Option Nat)) :=
  [(0x08, .lds, true, true, stateIndex), (0x09, .sts, false, false, stateIndex),
   (0x0A, .ldx, true, false, fun _ e p l => wordIndex 1024 e p l), (0x0B, .str, false, false, fun _ e p l => wordIndex 416 e p l),
   (0x0C, .ldt, true, false, fun _ e p l => wordIndex 16384 e p l),
   (0x0D, .ldc, true, false, fun _ e p l => wordIndex 8192 e p l), (0x0E, .stc, false, false, fun _ e p l => wordIndex 8192 e p l)]

/-- Both gates of a leg are off. -/
abbrev Sys2Proof.Claim.GatesOff (s : State) (l : Nat) : Prop := (leg s l).h.on = false ∧ (leg s l).l.on = false

/-- The group is held in `x`; from `s`, one that was not held has taken the cause, and every gate of its legs is low, as
in one that was leaving its hold. -/
def Sys2Proof.Claim.HeldBy (cause g : Nat) (s x : State) : Prop :=
  (grp x g).hold = true ∧ ((grp s g).hold = false → (grp x g).cause = cause) ∧
  (((grp s g).hold = false ∨ (grp s g).step = 6) → ∀ l ∈ grpLegs s g, GatesOff x l)

/-- No unit holds a word of the auxiliary lane of bobbin `b` pending. -/
abbrev Sys2Proof.Claim.AuxOwn (s : State) (b : Nat) : Prop := ∀ k < 40, (cell s (512 * b + k)).units = []

/-- Only events, the words of the engine and what the lane keeps may have changed. -/
def Sys2Proof.Claim.AuxOnly (s x : State) : Prop :=
  (∀ a, winOf a ≠ 3 → a ≠ SPN_CNT2 → reg x a = reg s a) ∧ x.mem = s.mem ∧ (∀ k, (cell x k).com = (cell s k).com)

/-- The word that limit entry `k` reads of the latched banks, without its sign where ABS = 1. -/
abbrev Sys2Proof.Claim.LimitWord (s : State) (k : Nat) : Word :=
  let x := if lflag s (SAF_LIM_CFG_RB k) then latched s (lfld s (SAF_LIM_CFG_WORD k)) else sample s (lfld s (SAF_LIM_CFG_WORD k))
  if lflag s (SAF_LIM_CFG_ABS k) then x &&& 0x7FFFFFFF#32 else x

/-- A whole signature for this device arrives on an enabled port that is up, in a direction that is in use, with a good
header and a good trailer. -/
abbrev Sys2Proof.Claim.Arrives (s : State) (x : Sig) : Prop :=
  portOn s x.port.val = true ∧ (link s x.port.val).up = true ∧ inward s x = true ∧ hdrBad x.hdr = false ∧
  delivers s x = true ∧ trailerOk x = true

/-- A signature of KIND `k` with the payload `pay` goes out on every port of a list, under a header of this device. -/
def Sys2Proof.Claim.Leaves (k : BitVec 2) (pay : List Byte) (ps : List (Nat × Bool)) (s : State) : Prop :=
  ∀ p ∈ ps, ∃ e ∈ s.spn.sent, e.port = p.1 ∧ e.hdr.kind = k ∧ e.hdr.src = BitVec.ofNat 6 (myAddr s) ∧ e.hdr.w = p.2 ∧
    e.hdr.hcrc = hcrcOf e.hdr ∧ e.bytes = sigBytes e.hdr pay

/-- A signature of KIND `k` with the payload `pay` and a header of this device has gone out on every port of a list, or
waits for its output there. -/
def Sys2Proof.Claim.Goes (k : BitVec 2) (pay : List Byte) (ps : List (Nat × Bool)) (s : State) : Prop :=
  ∀ p ∈ ps, Leaves k pay [p] s ∨ ∃ w ∈ (link s p.1).waits, w.hdr.kind = k ∧ w.hdr.src = BitVec.ofNat 6 (myAddr s) ∧
    w.hdr.w = p.2 ∧ w.pay = pay

open Sys2Proof.Claim

/-- A step runs the command at the front of the queue on the rest of the queue; on an empty queue the block idles (the
model's choice, log 6). The table gives its commands no bits, so no word spells one and none can be put in front (the
model's choice, log 7).
No command ends in a fault or in a refusal (the model's choice, log 8). -/
def Obligations.StepRunsFrontCommand : Prop :=
  ((∀ (c : Instr) (r : List Instr) (s : State), s.pending = c :: r → step s = exec c { s with pending := r }) ∧
  (∀ s : State, s.pending = [] → step s = .next s) ∧
  (∀ (s : State) (nbits w : Nat), decodeTableWord nbits w = none ∧ s.withFetchWord nbits w = s)) ∧
  (∀ (c : Instr) (s : State), Answers (exec c s))

/-- After reset every register, on every page, holds its reset value, every byte and engine cell its unlisted value,
every gate is off and the tick does not run. -/
def Obligations.ResetLeavesResetValues : Prop :=
  (∀ a : Nat, reg State.reset a = regReset a ∧ shad State.reset a = regReset a ∧ live State.reset a = regReset a ∧
    act State.reset a = regReset a) ∧
  (∀ a : Nat, rdByte State.reset a = memD a ∧ rdTcm State.reset a = 0#8) ∧
  (∀ k : Nat, cell State.reset k = {} ∧ scr State.reset k = {} ∧ unit State.reset k = {} ∧ grp State.reset k = {}) ∧
  (∀ l : Nat, (leg State.reset l).h.on = false ∧ (leg State.reset l).l.on = false) ∧
  State.reset.pending = [] ∧ State.reset.tick.run = .stopped ∧ State.reset.tick.tcnt = 0 ∧
  fld State.reset TKC_PERIOD_PERIOD = 10000 ∧ fld State.reset TKC_QPOOL_FREE = 32

/-- The reset state has its memories in canonical form and no leg that shoots through. -/
def Obligations.ResetIsSafe : Prop :=
  MemWf State.reset ∧ NoShootThrough State.reset

/-- Every step keeps the byte memories and the twin cells in their canonical form. -/
def Obligations.StepKeepsMemoriesCanonical : Prop :=
  ∀ s t : State, MemWf s → step s = .next t → MemWf t

/-- No step lets a leg shoot through: from a state in which no leg has both gates on, it leads to one. -/
def Obligations.StepNeverShootsThrough : Prop :=
  ∀ s t : State, NoShootThrough s → step s = .next t → NoShootThrough t

/-- The leg guard lets a gate rise only while the opposite gate has been low for at least the leg's dead time and its
status input is high, in every step, whatever turns the gate on (R230). -/
def Obligations.GatesRiseOnlyUnderTheInterlock : Prop :=
  ∀ (s t : State) (l : Nat) (sd : Side), step s = .next t → ((leg s l).gate sd).on = false →
    ((leg t l).gate sd).on = true → ((leg t l).gate sd.other).on = false ∧ ((leg t l).gate sd.other).cfm = true ∧
    ((leg t l).gate sd.other).edgeAt + deadTime t l ≤ ((leg t l).gate sd).edgeAt

/-- Only a tick boundary, and a reset, change a committed copy of the state memory and the result bank; every other
command leaves it. -/
def Obligations.OnlyBoundariesCommit : Prop :=
  ∀ (c : Instr) (s t : State) (k : Nat), MemWf s → exec c s = .next t → c ≠ .tickBoundary →
    (∀ (r : RstCause) (u : Time), c ≠ .resetAssert r u) → (cell t k).com = (cell s k).com

/-- A step takes one command and no other, time never goes back, the variant stays, and nothing takes back a revocation
of a root key or changes the root-key hashes. -/
def Obligations.StepKeepsQueueTimeAndRoots : Prop :=
  ∀ (c : Instr) (r : List Instr) (s t : State), s.pending = c :: r → step s = .next t →
    t.pending = r ∧ t.variant = s.variant ∧ s.now ≤ t.now ∧ t.tru.rootHash = s.tru.rootHash ∧
    t.tru.prog = s.tru.prog ∧ t.tru.devKey = s.tru.devKey ∧ t.tru.rev &&& s.tru.rev = s.tru.rev

/-- A boundary of the running tick: the counter rises by 1 (of a joiner, role 3, it may step to the ring's), the tick
that opens has the announced period and begins at the announced instant, its commit window is open no more, the colophon
and the clear queues of the closed tick are spent, and the live page is the one to act (R35, R54, R74). What the count
itself does: the budgets shown are those of the period (R37), and no other register, byte or leg changes.
Boundary 0: a block that is not ready makes the start fail, with RUN_FAIL, NRDY and RUN and nothing else
changed (R75). -/
def Obligations.BoundariesStartAndCountTheTick : Prop :=
  ((∀ s : State, s.tick.run = .running → s.spn.role ≠ 3 → ∃ x : State, exec .tickBoundary s = .next x ∧
    x.tick.tcnt = s.tick.tcnt + 1 ∧ x.tick.last = s.tick.next ∧ x.tick.period = s.tick.periodNext ∧ x.tick.cw = false ∧
    x.tick.run = .running ∧ x.tick.flipped = 0#13 ∧ x.toAct = x.live ∧ x.col = [] ∧
    (∀ w : Who, (unit x w.key).clrq = [] ∧ (unit x w.key).jrn = [])) ∧
  (∀ s : State, (countTick s).tick.tcnt = s.tick.tcnt + 1 ∧ (countTick s).tick.last = s.tick.next ∧
    (countTick s).tick.next = s.tick.next + s.tick.periodNext * tb ∧ (countTick s).tick.period = s.tick.periodNext ∧
    fld (countTick s) TKC_BUDGET_ENGBUD = s.tick.periodNext * 9 / 20 % 65536 ∧
    fld (countTick s) TKC_BUDGET_CWIN = s.tick.periodNext * 9 / 10 % 65536 ∧
    (∀ a, a ≠ TKC_BUDGET → reg (countTick s) a = reg s a) ∧ (countTick s).mem = s.mem ∧ (countTick s).legs = s.legs)) ∧
  (∀ s : State, s.tick.run = .starting →
    notReady (upto s.tick.next s) (BitVec.allOnes 13) ≠ 0 →
    ∃ t : State, exec .tickBoundary s = .next t ∧ t.tick.run = .stopped ∧ fld t TKC_STAT_RUNFAIL = 1 ∧
      fld t TKC_CTRL_RUN = 0 ∧
      fld t TKC_RBNRDY_NRDY = notReady (upto s.tick.next s) (BitVec.allOnes 13) % 8192 ∧
      (∀ a, a ≠ TKC_STAT → a ≠ TKC_CTRL → a ≠ TKC_RBNRDY → reg t a = reg s a) ∧
      t.live = s.live ∧ t.shadow = s.shadow ∧ t.act = s.act ∧ t.mem = s.mem ∧ t.legs = s.legs ∧ t.grps = s.grps ∧
      t.eng = s.eng ∧ t.col = s.col ∧ t.units = s.units)

/-- At a tick boundary whose commit window has closed and at which no page of the engine flips, every twin cell takes
its pending copy, and nothing is pending any more (R26, R41). The pending copy is the word of the unit of highest rank
that wrote the cell, whatever the engine wrote; where no unit wrote it, the engine's; and where nobody did, the
committed one (R22). -/
def Obligations.CommitTakesThePendingCopy : Prop :=
  (∀ (s : State) (k : Nat), SMap.wf cellD s.eng.cells = true → s.tick.run = .running → s.tick.cw = true →
    attemptDue s = false → s.tick.flipped.getLsbD 2 = false → ∃ x : State, exec .tickBoundary s = .next x ∧
    cell x k = { com := (cell s k).pendVal }) ∧
  (∀ (c : Cell) (r : Nat) (v : Word), (r, v) ∈ c.units → (∀ q ∈ c.units, q.1 < r ∨ q = (r, v)) → c.pendVal = v) ∧
  (∀ (c : Cell) (v : Word) (p : Nat), c.units = [] → c.eng = some (v, p) → c.pendVal = v) ∧
  (∀ c : Cell, c.units = [] → c.eng = none → c.pendVal = c.com)

/-- A hold-last of a pair: it stops for the rest of the tick with its architectural state back at the checkpoint and
its clear queue, journal, mirror records and colophon entries gone, and no other unit changes (R49).  The commit window
does this with every unit and half that has not finished and with no other, and closes an unfinished round table (R47).
The budget of a first run of a pair, of a half of it, or of the engine (unit 7) has passed: TKC_RUNMAX takes the run's
length, it is marked as warned, and TKC_BUDGET_WARN sets its flag where BWARN_EN is set (R40).  A unit that wrote TKC_CBAR
waits for the drain of its stores, and then sleeps to the boundary with its DONE bit set, while split that of both halves'
end; no other unit changes (R52).  The model's choices: each half of a split pair records and warns for itself (log 13,
DEDUCED), and a drain that ends while no tick runs sets the DONE bit too (log 58). -/
def Obligations.TheCommitWindowHoldsTheLast : Prop :=
  ((∀ (w : Who) (s : State), (unit (holdLastPair w s) w.key).arch = (unit s w.key).ckpt ∧
    (unit (holdLastPair w s) w.key).phase = .stopped ∧ (unit (holdLastPair w s) w.key).held = true ∧
    (unit (holdLastPair w s) w.key).jrn = [] ∧ (unit (holdLastPair w s) w.key).clrq = [] ∧
    (unit (holdLastPair w s) w.key).mir = [] ∧
    (holdLastPair w s).col = s.col.filter (fun e => e.who != w) ∧
    (∀ j, j ≠ w.key → unit (holdLastPair w s) j = unit s j)) ∧
  (∀ s : State, ticking s = true → s.tick.cw = false → ∃ x : State, exec .commitWindowOpen s = .next x ∧
    x.tick.cw = true ∧ x.now = max s.now (s.tick.last + s.tick.period * 9 / 10 * tb) ∧ x.eng.done = true ∧
    (s.eng.done = false → x.tick.engHeld = true ∧ x.eng.run = none) ∧
    (∀ w : Who, unfinished s w = true → (unit x w.key).held = true ∧ (unit x w.key).phase = .stopped ∧
      (unit x w.key).arch = (unit s w.key).ckpt ∧ (unit x w.key).jrn = [] ∧ (unit x w.key).clrq = []) ∧
    (∀ w : Who, unfinished s w = false → unit x w.key = unit s w.key) ∧
    x.col = s.col.filter (fun e => !(unfinished s e.who)) ∧ x.live = s.live ∧ x.act = s.act ∧ x.legs = s.legs)) ∧
  ((∀ (u : Fin 8) (k : Nat) (t : Time) (s : State), ticking s = true → hasUnit s u.val = true →
    pastBudget s u.val t = true → k ∈ runKeys s u.val → inFirstRun s k = true →
    ∃ x : State, exec (.tkcBudgetWarn u t) s = .next x ∧
      fld x (TKC_RUNMAX_MAX u.val) = max (fld s (TKC_RUNMAX_MAX u.val)) (min (ranTb s t) 65535) ∧
      (k ≠ 7 → (unit x k).warned = true) ∧ (k = 7 → x.eng.warned = true) ∧
      (flag s TKC_CTRL_BWARNEN = true → (fld x TKC_EVT_FLAG).testBit 3 = true) ∧ x.now = max s.now t ∧
      (∀ a, winOf a ≠ 1 → winOf a ≠ 3 → a ≠ SPN_CNT2 → reg x a = reg s a) ∧
      (∀ j, (unit x j).arch = (unit s j).arch ∧ (unit x j).phase = (unit s j).phase) ∧ x.mem = s.mem ∧ x.legs = s.legs) ∧
  (∀ (w : Who) (t : Time) (s : State), working s w = true → ∃ x : State, exec (.tkcCbar w t) s = .next x ∧
    (unit x w.key).phase = .drain ∧ (unit x w.key).arch = (unit s w.key).arch ∧ (∀ j, j ≠ w.key → unit x j = unit s j) ∧
    x.now = max s.now t ∧ x.regs = s.regs ∧ x.mem = s.mem) ∧
  (∀ (w : Who) (t : Time) (s : State), (unit s w.key).phase = .drain → ∃ x : State,
    exec (.cbarDrainComplete w t) s = .next x ∧ (unit x w.key).phase = .asleep ∧
    (fld x TKC_DONE_DONE).testBit w.unit.val = doneBoth x w.unit.val ∧
    (unit x w.key).arch = (unit s w.key).arch ∧ (∀ j, j ≠ w.key → unit x j = unit s j) ∧
    (∀ a, winOf a ≠ 1 → winOf a ≠ 3 → a ≠ SPN_CNT2 → reg x a = reg s a) ∧ x.mem = s.mem ∧ x.col = s.col))

/-- A read of TKC_TCNT_L or TKC_RBDONE_L that goes through returns the lower half and captures the upper half in the
reading unit's own holding register, and changes nothing else; one of TKC_TCNT_H or TKC_RBDONE_H, by the load's row,
returns the holding register (R36).
A read of a register that goes through gives each bit by its code: 0 in WO and reserved bits, the shadow page in RWS
bits and the current value in the others (R11, R12, R17); it gives 0 for a register of an absent instance and for an
unassigned word (R6, R13), and SYS_ID the word of the variant (R498).
RUN starts the tick at a coming timebase instant (R75), and a quota entry that would let the sum of the quotas
exceed 192, or SV's fall below 32, is ignored with QERR (R58); one that would fall below the sum of the unit's duties'
QD is refused with PRC_HOSTAT.CODE 6 (R105); any other is applied, and TKC_QPOOL shows what is left. -/
def Obligations.TickRegistersFollowTheirRules : Prop :=
  ((∀ (w : Who) (s : State), goes s w .load (BitVec.ofNat 32 TKC_TCNT_L) 4 = true →
    ∃ t : State, exec (.tcntLRead w false) s = .next t ∧ (unit t w.key).rdata = BitVec.ofNat 32 s.tick.tcnt ∧
      (unit t w.key).tcntH = BitVec.ofNat 32 (s.tick.tcnt / 2 ^ 32) ∧ (unit t w.key).rbH = (unit s w.key).rbH ∧
      (unit t w.key).arch = (unit s w.key).arch ∧
      (∀ j, j ≠ w.key → unit t j = unit s j) ∧ { t with units := s.units } = s) ∧
  (∀ (w : Who) (s : State), goes s w .load (BitVec.ofNat 32 TKC_RBDONE_L) 4 = true → (unit s w.key).snap = [] →
    ∃ t : State, exec (.tcntLRead w true) s = .next t ∧ (unit t w.key).rdata = reg s TKC_RBDONE_L ∧
      (unit t w.key).rbH = reg s TKC_RBDONE_H ∧ (unit t w.key).tcntH = (unit s w.key).tcntH ∧
      (unit t w.key).arch = (unit s w.key).arch ∧
      (∀ j, j ≠ w.key → unit t j = unit s j) ∧ { t with units := s.units } = s) ∧
  (∀ (w : Who) (t : Time) (s : State), goes (upto t s) w .load (BitVec.ofNat 32 TKC_TCNT_H) 4 = true →
    ∃ x : State, exec (.rxRecordLoad w ⟨BitVec.ofNat 32 TKC_TCNT_H, .sw⟩ t) s = .next x ∧
      (unit x w.key).rdata = (unit s w.key).tcntH ∧ x.regs = s.regs ∧ x.mem = s.mem) ∧
  (∀ (w : Who) (t : Time) (s : State), goes (upto t s) w .load (BitVec.ofNat 32 TKC_RBDONE_H) 4 = true →
    ∃ x : State, exec (.rxRecordLoad w ⟨BitVec.ofNat 32 TKC_RBDONE_H, .sw⟩ t) s = .next x ∧
      (unit x w.key).rdata = (unit s w.key).rbH ∧ x.regs = s.regs ∧ x.mem = s.mem)) ∧
  ((∀ (w : Who) (a : Word) (t : Time) (s : State) (r : RegRow), goes (upto t s) w .load a 4 = true →
    target a.toNat = .block (winOf a.toNat) → absent s a.toNat = false → regRow? a.toNat = some r →
    evrPlace a.toNat = none → madeWord (upto t s) w a.toNat = none → (unit s w.key).snap = [] →
    a.toNat ≠ TKC_RBDONE_L → (∀ p, winPart (winOf a.toNat) = some p → s.tick.copying.getLsbD p = false) → ∃ x : State,
    exec (.rxRecordLoad w ⟨a, .sw⟩ t) s = .next x ∧
    (∀ b, b < 32 → (unit x w.key).rdata.getLsbD b = (if r.wo.testBit b then false
      else if r.rws.testBit b then (shad s a.toNat).getLsbD b
      else if r.keep.testBit b then (reg s a.toNat).getLsbD b else false)) ∧
    (∀ j, j ≠ w.key → unit x j = unit s j) ∧ x.regs = s.regs ∧ x.shadow = s.shadow ∧ x.mem = s.mem) ∧
  (∀ (w : Who) (a : Word) (z : Size) (t : Time) (s : State) (k : Nat), goes (upto t s) w .load a z.bytes = true →
    target a.toNat = .block k → (absent s (a.toNat - a.toNat % 4) = true ∨
      regRow? (a.toNat - a.toNat % 4) = none ∧ evrPlace (a.toNat - a.toNat % 4) = none ∧
      madeWord (upto t s) w (a.toNat - a.toNat % 4) = none) → a.toNat - a.toNat % 4 ≠ TKC_RBDONE_L →
    (∀ p, winPart k = some p → s.tick.copying.getLsbD p = false) → ∃ x : State,
      exec (.rxRecordLoad w ⟨a, z⟩ t) s = .next x ∧ (unit x w.key).rdata = 0#32 ∧
    (∀ j, j ≠ w.key → unit x j = unit s j) ∧ x.regs = s.regs ∧ x.mem = s.mem) ∧
  (∀ (w : Who) (t : Time) (s : State), goes (upto t s) w .load (BitVec.ofNat 32 SYS_ID) 4 = true → ∃ x : State,
    exec (.rxRecordLoad w ⟨BitVec.ofNat 32 SYS_ID, .sw⟩ t) s = .next x ∧
    (unit x w.key).rdata = sysIdWord s.variant ∧ x.regs = s.regs ∧ x.mem = s.mem)) ∧
  ((∀ (t : Time) (s : State), s.tick.run = .stopped → s.pwr.inReset = false → ∃ x : State, exec (.tkcRun t) s = .next x ∧
    x.tick.run = .starting ∧ fld x TKC_CTRL_RUN = 1 ∧ x.tick.runAt = max s.now t ∧ max s.now t < x.tick.next ∧
    x.tick.next % tb = 0 ∧ (∀ a, a ≠ TKC_CTRL → reg x a = reg s a) ∧ x.mem = s.mem ∧ x.units = s.units) ∧
  (∀ (u : Fin 7) (m : Mask) (d : Word) (s : State), hasUnit s u.val = true →
    (192 < quotaSum (putCl (TKC_QUOTA u.val) (clWord s (TKC_QUOTA u.val) m d) s) ∨
      (u.val = 6 ∧ (TKC_QUOTA_QUOTA 6).of (clWord s (TKC_QUOTA 6) m d) < 32)) →
    exec (.tkcQuotaWrite u m d) s = .next (setFld TKC_STAT_QERR 1 s)) ∧
  (∀ (u : Fin 7) (m : Mask) (d : Word) (s : State), hasUnit s u.val = true →
    quotaSum (putCl (TKC_QUOTA u.val) (clWord s (TKC_QUOTA u.val) m d) s) ≤ 192 →
    (u.val = 6 → 32 ≤ (TKC_QUOTA_QUOTA 6).of (clWord s (TKC_QUOTA 6) m d)) →
    (TKC_QUOTA_QUOTA u.val).of (clWord s (TKC_QUOTA u.val) m d) < dutyQuota s u.val 16 →
    exec (.tkcQuotaWrite u m d) s = .next (setFld PRC_HOSTAT_CODE 6 s)) ∧
  (∀ (u : Fin 7) (m : Mask) (d : Word) (s : State), hasUnit s u.val = true →
    quotaSum (putCl (TKC_QUOTA u.val) (clWord s (TKC_QUOTA u.val) m d) s) ≤ 192 →
    (u.val = 6 → 32 ≤ (TKC_QUOTA_QUOTA 6).of (clWord s (TKC_QUOTA 6) m d)) →
    dutyQuota s u.val 16 ≤ (TKC_QUOTA_QUOTA u.val).of (clWord s (TKC_QUOTA u.val) m d) → ∃ x : State,
    exec (.tkcQuotaWrite u m d) s = .next x ∧
    reg x (TKC_QUOTA u.val) = BitVec.ofNat 32 ((clWord s (TKC_QUOTA u.val) m d).toNat &&& keepMask (TKC_QUOTA u.val)) ∧
    fld x TKC_QPOOL_FREE = 192 - quotaSum (putCl (TKC_QUOTA u.val) (clWord s (TKC_QUOTA u.val) m d) s) ∧
    (∀ a, a ≠ TKC_QUOTA u.val → a ≠ TKC_QPOOL → reg x a = reg s a) ∧ x.mem = s.mem))

/-- An applied request with GO = 1 is accepted and waits (STATE 1, ATTEMPT 0) or is rejected with its code and
TKC_REBIND_REJECT (R66, R67).
An attempt whose participants are all ready flips every one of them: each page that goes live is the block's shadow
page (that of GLK but for the drive codes that R263 copies), every other page stays, STATE reads 2, and TKC_RBDONE names
the boundary. Where one is not ready none flips, and TKC_RBNRDY names those that were not ready (R70, R72, R73).
The 64th failed attempt abandons the rebinding: STATE reads 3, REBIND_TIMEOUT is raised, and the pages keep what
they hold (R71); a refill makes the shadow page of its block, of ENG but for VALID of its staged writes, equal to its live
page (R73). -/
def Obligations.RebindingFlipsAllOrNone : Prop :=
  (∀ (m : Mask) (d : Word) (s : State) (v : Word) (n : Nat),
    v = clWord s TKC_RBREQ m d → n = (reg s TKC_RBTICK_H).toNat * 2 ^ 32 + (reg s TKC_RBTICK_L).toNat →
    ticking s = true → m.getLsbD 3 = true → TKC_RBREQ_GO.of v = 1 → s.prc.svStopped = false →
    (rbCode s n (TKC_RBREQ_PART.of v) (bits v.toNat 13 18 != 0) = 0 → ∃ t : State,
      exec (.rebindRequest m d) s = .next t ∧ fld t TKC_RBSTAT_STATE = 1 ∧ fld t TKC_RBSTAT_ATTEMPT = 0 ∧
      t.tick.rbN = n ∧ t.tick.rbPart = BitVec.ofNat 13 (TKC_RBREQ_PART.of v) ∧ t.live = s.live ∧ t.shadow = s.shadow ∧
      (∀ a, a ≠ TKC_RBREQ → a ≠ TKC_RBSTAT → reg t a = reg s a)) ∧
    (rbCode s n (TKC_RBREQ_PART.of v) (bits v.toNat 13 18 != 0) ≠ 0 → ∃ t : State,
      exec (.rebindRequest m d) s = .next t ∧ Pends 393 s t ∧
      fld t TKC_RBSTAT_REJECT = rbCode s n (TKC_RBREQ_PART.of v) (bits v.toNat 13 18 != 0) ∧
      fld t TKC_RBSTAT_STATE = fld s TKC_RBSTAT_STATE ∧ t.tick = s.tick ∧ t.live = s.live ∧ t.shadow = s.shadow ∧
      RegsBut [TKC_RBREQ, TKC_RBSTAT, TKC_EVT] s t)) ∧
  (∀ (s x : State), attemptDue s = true → x = capCommit (refillAll (upto s.tick.next (closeWindow s))) →
    (notReady x s.tick.rbPart ≠ 0 → ∃ t : State, exec .rebindAttempt s = .next t ∧ t.live = x.live ∧
      t.shadow = x.shadow ∧ fld t TKC_RBNRDY_NRDY = notReady x s.tick.rbPart % 8192 ∧ t.tick.tried = true ∧
      fld t TKC_RBSTAT_ATTEMPT = (fld s TKC_RBSTAT_ATTEMPT + 1) % 128) ∧
    (notReady x s.tick.rbPart = 0 → ∃ t : State, exec .rebindAttempt s = .next t ∧
      (∀ (b : Fin 13) (a : Nat), s.tick.rbPart.getLsbD b.val = true → b.val ≠ 4 → winBase (partWin b.val) ≤ a →
        a < winBase (partWin b.val + 1) → live t a = shad x a) ∧
      (∀ a : Nat, (∀ b : Fin 13, s.tick.rbPart.getLsbD b.val = true →
        ¬ (winBase (partWin b.val) ≤ a ∧ a < winBase (partWin b.val + 1))) → live t a = live x a) ∧
      fld t TKC_RBSTAT_STATE = 2 ∧ reg t TKC_RBDONE_L = BitVec.ofNat 32 (s.tick.tcnt + 1) ∧
      t.tick.flipped = s.tick.rbPart ∧ t.tick.copying = s.tick.rbPart ∧ t.tick.tried = true)) ∧
  ((∀ s : State, fld s TKC_RBSTAT_STATE = 1 → 64 ≤ fld s TKC_RBSTAT_ATTEMPT → ∃ x : State,
    exec .rebindTimeout s = .next x ∧ fld x TKC_RBSTAT_STATE = 3 ∧ Pends 392 s x ∧ x.live = s.live ∧
    x.shadow = s.shadow ∧ RegsBut [TKC_RBSTAT, TKC_EVT] s x) ∧
  (∀ (b : Fin 13) (t : Time) (s : State), b.val ≠ 2 → s.tick.copying.getLsbD b.val = true → ∃ x : State,
    exec (.shadowRefillDone b t) s = .next x ∧ x.shadow = copyPage (partWin b.val) s.live s.shadow ∧
    x.tick.copying = s.tick.copying &&& ~~~(1#13 <<< b.val) ∧ x.live = s.live ∧
    (∀ a, a ≠ TKC_RBSTAT → reg x a = reg s a)) ∧
  (∀ (t : Time) (s : State), s.tick.copying.getLsbD 2 = true → ∃ x : State,
    exec (.shadowRefillDone 2 t) s = .next x ∧ x.tick.copying = s.tick.copying &&& ~~~(1#13 <<< 2) ∧ x.live = s.live ∧
    (∀ k : Nat, k < 128 → sfld x (ENG_STG_A_VALID k) = 0)))

/-- A store that goes through to system SRAM or to the pair's own TCM writes its bytes, journals what was there (R42),
and leaves every other byte of both memories alone. In an SRAM word with an uncorrectable error the bytes that it does
not name become 0 (R93); one into the pair's own mirror faults (R103), and one to data TCM adds its mirror records
(R101); with a full journal the store does not execute, and the pair stops with OVF (R94).
A word store that goes through to the state memory, or of an emulator pair to the result bank while limp mode runs,
is a pending write under the unit's rank that discards the engine's pending value; the committed copy stays (R21, R22,
R126).
A stalled transmit-queue store completes once its word has been sent: the bytes of its holder are written and the
stall ends (R393). -/
def Obligations.StoresReachTheirMemories : Prop :=
  ((∀ (w : Who) (a : Word) (z : Size) (d : Word) (s : State), goes s w .store a z.bytes = true →
    target a.toNat = .sram → SMap.get falseD s.eccBad (a.toNat / 8) = false → jrnFull s w = false → ∃ t : State,
    exec (.pairStore w a z d) s = .next t ∧
    (∀ b, rdByte t b = if a.toNat ≤ b ∧ b < a.toNat + z.bytes then (leBytes z.bytes d.toNat).getD (b - a.toNat) 0#8
      else rdByte s b) ∧ t.tcm = s.tcm ∧
    (ticking s = true → (unit t w.key).jrn = .bytes a.toNat (rdBytes s a.toNat z.bytes) :: (unit s w.key).jrn)) ∧
  (∀ (w : Who) (a : Word) (z : Size) (d : Word) (s : State), goes s w .store a z.bytes = true →
    target a.toNat = .sram → SMap.get falseD s.eccBad (a.toNat / 8) = true → jrnFull s w = false → ∃ t : State,
    exec (.pairStore w a z d) s = .next t ∧
    (∀ b, rdByte t b = if a.toNat ≤ b ∧ b < a.toNat + z.bytes then (leBytes z.bytes d.toNat).getD (b - a.toNat) 0#8
      else if b / 8 = a.toNat / 8 then 0#8 else rdByte s b) ∧ SMap.get falseD t.eccBad (a.toNat / 8) = false ∧
    t.tcm = s.tcm) ∧
  (∀ (w : Who) (a : Word) (z : Size) (d : Word) (s : State) (k : Nat), goes s w .store a z.bytes = true →
    target a.toNat = .tcm (a.toNat % 0x10000000) → tcmKey s w (a.toNat % 0x10000000) = some k → k % 0x100000 < 0x80000 →
    s.prc.mirq = [] → jrnFull s w = false → ∃ t : State,
    exec (.pairStore w a z d) s = .next t ∧
    (∀ b, rdTcm t b = if k ≤ b ∧ b < k + z.bytes then (leBytes z.bytes d.toNat).getD (b - k) 0#8 else rdTcm s b) ∧
    (unit t w.key).mir = (unit s w.key).mir ∧ t.mem = s.mem) ∧
  (∀ (w : Who) (a : Word) (z : Size) (d : Word) (s : State) (k : Nat), goes s w .store a z.bytes = true →
    target a.toNat = .tcm (a.toNat % 0x10000000) → tcmKey s w (a.toNat % 0x10000000) = some k → 0x80000 ≤ k % 0x100000 →
    inMirror s w.unit.val (k % 0x80000) = false → s.prc.mirq = [] → jrnFull s w = false → ∃ t : State,
    exec (.pairStore w a z d) s = .next t ∧
    (∀ b, rdTcm t b = if k ≤ b ∧ b < k + z.bytes then (leBytes z.bytes d.toNat).getD (b - k) 0#8 else rdTcm s b) ∧
    (unit t w.key).mir = (unit s w.key).mir ++
      (if ticking s then mirrorRecs s w.unit.val (k % 0x80000) (leBytes z.bytes d.toNat) else []) ∧ t.mem = s.mem) ∧
  (∀ (w : Who) (a : Word) (z : Size) (d : Word) (s : State) (k : Nat), goes s w .store a z.bytes = true →
    target a.toNat = .tcm (a.toNat % 0x10000000) → tcmKey s w (a.toNat % 0x10000000) = some k → 0x80000 ≤ k % 0x100000 →
    inMirror s w.unit.val (k % 0x80000) = true →
    exec (.pairStore w a z d) s = .next (storeFault w a s)) ∧
  (∀ (w : Who) (a : Word) (z : Size) (d : Word) (s : State), goes s w .store a z.bytes = true →
    target a.toNat = .sram → jrnFull s w = true → ∃ t : State, exec (.pairStore w a z d) s = .next t ∧
    (unit t w.key).phase = .stopped ∧ (unit t w.key).ovf = true ∧ fld t (PRC_JRN_OVF w.unit.val) = 1 ∧ t.mem = s.mem ∧
    t.tcm = s.tcm ∧ t.col = s.col)) ∧
  ((∀ (w : Who) (a : Word) (d : Word) (s : State) (k : Nat), goes s w .store a 4 = true →
    target a.toNat = .state k → ∃ t : State, exec (.stateMemoryStore w a .sw d) s = .next t ∧
    (cell t k).com = (cell s k).com ∧ (cell t k).eng = none ∧
    (cell t k).units = SMap.insert (cell s k).units w.rank d ∧ (∀ j, j ≠ k → cell t j = cell s j) ∧ t.mem = s.mem ∧
    t.tcm = s.tcm) ∧
  (∀ (w : Who) (a : Word) (d : Word) (s : State) (k : Nat), goes s w .store a 4 = true →
    target a.toNat = .result k → k < 416 → s.prc.limp = true →
    (w.unit.val = fld s PRC_LIMP_PA ∨ w.unit.val = fld s PRC_LIMP_PB) → ∃ t : State,
    exec (.limpResultStore w a .sw d) s = .next t ∧
    (cell t (65536 + k)).com = (cell s (65536 + k)).com ∧
    (cell t (65536 + k)).units = SMap.insert (cell s (65536 + k)).units w.rank d ∧
    (∀ j, j ≠ 65536 + k → cell t j = cell s j) ∧ t.mem = s.mem)) ∧
  (∀ (w : Who) (t : Time) (s : State) (e : Entry), (unit s w.key).stall = some e → e.addr < 4294967296 →
    txWaits s (e.addr % 0x40000 / 0x10000) (e.addr % 0x10000) = false →
    holds s w 2 (e.addr % 0x40000 / 0x10000) = true → jrnFull s w = false → ∃ x : State,
    exec (.txqStoreComplete w t) s = .next x ∧ (unit x w.key).stall = none ∧
    (∀ b, rdByte x b = if e.addr ≤ b ∧ b < e.addr + e.mask.toNat then
      (leBytes e.mask.toNat e.val.toNat).getD (b - e.addr) 0#8 else rdByte s b))

/-- A store that goes through and that nothing stops acts by the access codes of the fields: to CL fields it becomes a
colophon entry with its address, value and byte mask and does not reach the register (R55); to W1C, W1S or WO fields it
goes to the end of the unit's clear queue (R43); to RWS fields it reaches the shadow page alone; a write of RW fields
takes effect at once on the bits it names (R506), in TST_MTIV with 1 for a byte of 0 (R472). -/
def Obligations.RegisterStoreGoesWhereItsFieldsSay : Prop :=
  (∀ (w : Who) (a : Word) (d : Word) (s : State) (r : RegRow), Reaches s w a r → ticking s = true →
    covers 0xF#4 r.cl = true → r.rw = 0 → r.rwl = 0 → r.rws = 0 → clearMask r = 0 →
    regStop s w a.toNat 0xF#4 d r = none → merges s w a.toNat = false →
    ∃ t : State, exec (.clStore w a .sw d) s = .next t ∧ t.col = s.col ++ [⟨w, a.toNat, d, 0xF#4⟩] ∧
      (unit t w.key).used = (unit s w.key).used + 1 ∧ (∀ b, b ≠ TKC_CUSE w.unit.val → reg t b = reg s b) ∧
      t.shadow = s.shadow ∧ t.mem = s.mem) ∧
  (∀ (w : Who) (a : Word) (d : Word) (s : State) (r : RegRow), Reaches s w a r → ticking s = true →
    covers 0xF#4 (clearMask r) = true → r.rw = 0 → r.rwl = 0 → r.rws = 0 → r.cl = 0 →
    regStop s w a.toNat 0xF#4 d r = none →
    ∃ t : State, exec (.clearQueueStore w a .sw d) s = .next t ∧
      (unit t w.key).clrq = (unit s w.key).clrq ++ [⟨w, a.toNat, d, 0xF#4⟩] ∧ t.regs = s.regs ∧ t.mem = s.mem) ∧
  (∀ (w : Who) (a : Word) (m : Mask) (d : Word) (s : State) (r : RegRow), Reaches s w a r → ticking s = false →
    winOf a.toNat ≠ 2 → a.toNat ≠ ENG_CAPRP → r.rwl = 0 → r.rws = 0 → clearMask r = 0 → r.cl = 0 →
    maskBits m &&& r.rw ≠ 0 → regStop s w a.toNat m d r = none →
    ∃ t : State, exec (.registerWrite w a m d) s = .next t ∧
      (∀ b, b ≠ a.toNat → reg t b = reg s b) ∧
      reg t a.toNat = (if a.toNat = TST_MTIV then mtivOf (mergeBits (reg s a.toNat) d (maskBits m &&& r.rw))
        else mergeBits (reg s a.toNat) d (maskBits m &&& r.rw)) ∧ t.mem = s.mem) ∧
  (∀ (w : Who) (a : Word) (m : Mask) (d : Word) (s : State) (r : RegRow), Reaches s w a r →
    (∀ b, winPart (winOf a.toNat) = some b → s.tick.copying.getLsbD b = false) →
    r.rw = 0 → r.rwl = 0 → clearMask r = 0 → r.cl = 0 → maskBits m &&& r.rws ≠ 0 → regStop s w a.toNat m d r = none →
    ∃ t : State, exec (.registerWrite w a m d) s = .next t ∧
      (∀ b, shad t b = if b = a.toNat then mergeBits (shad s b) d (maskBits m &&& r.rws) else shad s b) ∧
      t.live = s.live ∧ t.act = s.act ∧ t.mem = s.mem)

/-- A register write that the spec stops has no effect on its register: one over the clear queue's 32 takes a store-access
fault and raises its event (R43), one over the quota takes the fault, counts in TKC_CREF.REFUSED and raises TKC_COL_REFUSE
(R57), one of a unit without the right takes the fault alone, and one that a full journal stops leaves the pair stopped
(R94). The fault has code 7 in mcause and the store's address in mtval.
A trap saves its cause and value, leaves the interrupt enable and the mode in mstatus, and goes to mtvec in machine
mode (the layout is the architecture's, PRESUMED in log 57). A misaligned load or store takes code 4 or 6 (R84), one
that the protection refuses code 5 or 7, a fetched instruction of no extension code 2 (R85), and a due interrupt is
taken first (R86). With no entry of the protection that matches, machine mode may access and user mode may not. -/
def Obligations.StoppedStoreLeavesTheRegister : Prop :=
  (∀ (w : Who) (a : Word) (m : Mask) (d : Word) (s : State) (r : RegRow) (k : Stop), Reaches s w a r →
    regStop s w a.toNat m d r = some k → ∃ u : State,
    exec (.registerWrite w a m d) s = .next u ∧ u.shadow = s.shadow ∧ u.live = s.live ∧ u.mem = s.mem ∧ u.col = s.col ∧
    (∀ j, j ≠ w.key → unit u j = unit s j) ∧
    (winOf a.toNat ≠ 1 → winOf a.toNat ≠ 2 → winOf a.toNat ≠ 3 → a.toNat ≠ SPN_CNT2 → reg u a.toNat = reg s a.toNat) ∧
    (k = .fault ∨ k = .queueFull ∨ k = .quota → (unit u w.key).arch.csrOf 0x342 = 7#32 ∧
      (unit u w.key).arch.csrOf 0x343 = a + BitVec.ofNat 32 (maskLow m) ∧ (unit u w.key).arch.priv = .machine ∧
      (unit u w.key).clrq = (unit s w.key).clrq) ∧
    (k = .fault → u.regs = s.regs) ∧
    (k = .queueFull → (fld u TKC_EVT_FLAG).testBit 10 = true) ∧
    (k = .quota → (fld u TKC_EVT_FLAG).testBit 5 = true ∧
      fld u (TKC_CREF_REFUSED w.unit.val) = min (fld s (TKC_CREF_REFUSED w.unit.val) + 1) 65535) ∧
    (k = .journal → (unit u w.key).phase = .stopped ∧ fld u (PRC_JRN_OVF w.unit.val) = 1)) ∧
  ((∀ (w : Who) (c v : Word) (s : State) (y z : Arch), y = (unit s w.key).arch → z = (unit (trap w c v s) w.key).arch →
    z.csrOf 0x342 = c ∧ z.csrOf 0x343 = v ∧ z.priv = .machine ∧ (z.csrOf 0x300).getLsbD 3 = false ∧
    (z.csrOf 0x300).getLsbD 7 = (y.csrOf 0x300).getLsbD 3 ∧ bits (z.csrOf 0x300).toNat 11 2 = y.priv.code ∧
    (z.csrOf 0x341).getLsbD 0 = false ∧ (c.getLsbD 31 = false → z.pc = y.csrOf 0x305 &&& ~~~3#32) ∧
    (∀ j, j ≠ w.key → unit (trap w c v s) j = unit s j) ∧ (trap w c v s).regs = s.regs ∧
    (trap w c v s).mem = s.mem) ∧
  (∀ (w : Who) (a : Word) (z : Size) (t : Time) (s : State), working (upto t s) w = true →
    (unit s w.key).startAt ≤ max s.now t → interruptDue (upto t s) w = none →
    (a.toNat % z.bytes ≠ 0 ∨ (unit s w.key).arch.pmpOk .load a.toNat = false) → ∃ x : State,
    exec (.rxRecordLoad w ⟨a, z⟩ t) s = .next x ∧
    (unit x w.key).arch.csrOf 0x342 = (if a.toNat % z.bytes = 0 then 5#32 else 4#32) ∧
    (unit x w.key).arch.csrOf 0x343 = a ∧ (unit x w.key).rdata = (unit s w.key).rdata ∧ x.regs = s.regs ∧
    x.mem = s.mem) ∧
  (∀ (w : Who) (a : Word) (z : Size) (d : Word) (s : State), working s w = true → (unit s w.key).startAt ≤ s.now →
    interruptDue s w = none → (a.toNat % z.bytes ≠ 0 ∨ (unit s w.key).arch.pmpOk .store a.toNat = false) → ∃ x : State,
    exec (.pairStore w a z d) s = .next x ∧
    (unit x w.key).arch.csrOf 0x342 = (if a.toNat % z.bytes = 0 then 7#32 else 6#32) ∧
    (unit x w.key).arch.csrOf 0x343 = a ∧ x.regs = s.regs ∧ x.mem = s.mem ∧ x.tcm = s.tcm ∧ x.eng = s.eng) ∧
  (∀ (w : Who) (i : Word) (s : State), legalInstr i = false →
    (unit (fetched w i s) w.key).arch.csrOf 0x342 = 2#32 ∧
    (unit (fetched w i s) w.key).arch.csrOf 0x343 = (if i.toNat % 4 = 3 then i else i &&& 0xFFFF#32)) ∧
  (∀ (w : Who) (s : State) (c : Word), interruptDue s w = some c →
    (unit (deliver w s) w.key).arch.csrOf 0x342 = c ∧ (unit (deliver w s) w.key).arch.priv = .machine) ∧
  (∀ (w : Who) (s : State), (unit s w.key).arch.priv = .user ∨ ((unit s w.key).arch.csrOf 0x300).getLsbD 3 = true →
    interrupts s w.unit.val w.halfB = true → ((unit s w.key).arch.csrOf 0x304).getLsbD 11 = true →
    interruptDue s w = some 0x8000000B#32) ∧
  (∀ (y : Arch) (k : Access) (n : Nat), k = .fetch ∨ y.dataPriv = y.priv → (∀ i < 16, y.pmpMatch n i = false) →
    y.pmpOk k n = decide (y.priv = .machine)))

/-- A parity error or a mismatch of a lockstep pair with fewer than two replays of the tick: the pair goes back to its
checkpoint, with its journal undone and its clear queue, mirror records and colophon entries gone, and starts again (R44);
PRC_MM takes the kind, and of a mismatch the address of the load and the count (R96, R134).
The third failing run of a tick is a permanent fault with cause 1, and a second mismatch in a row on one live
asynchronous register is one with cause 5 after which the pair is HELD (R90, R97).
A permanent fault of a lockstep application pair: it is FAILED, or after ASYNC_DIVERGE HELD, with its cause, its
colophon entries are gone, it loses its readiness as a standby and its duties are due for take-over (R91, R106, R109); a
half of a split pair is marked failed; SV stops and its leases end (R127). That a half of a split SV fails alone, and
counts as a fault of SV for TRU only, is the model's choice (log 64). -/
def Obligations.MismatchesAndPermanentFaults : Prop :=
  (∀ (u : Fin 7) (k : Mismatch) (a : Word) (t : Time) (s : State), canFault s ⟨u, false⟩ = true → pairState s u.val ≠ 2 →
    ((unit s u.val).phase = .work ∨ (unit s u.val).phase = .drain) → (unit s u.val).replays < 2 →
    (k = .parity ∨ liveAsync s a.toNat = false ∨ (unit s u.val).mm ≠ some (a, true)) → JrnLeaves s u.val u.val →
    ∃ x : State, exec (.pairReplay u k a t) s = .next x ∧
    (unit x u.val).arch = (unit s u.val).ckpt ∧ (unit x u.val).replays = (unit s u.val).replays + 1 ∧
    (unit x u.val).phase = .work ∧ (unit x u.val).first = false ∧ (unit x u.val).jrn = [] ∧ (unit x u.val).clrq = [] ∧
    (unit x u.val).mir = [] ∧ x.col = s.col.filter (fun e => e.who != ⟨u, false⟩) ∧
    (∀ j, j ≠ u.val → unit x j = unit s j) ∧ x.now = max s.now t ∧
    fld x (PRC_MM_KIND u.val) = (match k with | .bus => 1 | .signature => 2 | .parity => 3) ∧
    (k ≠ .parity → reg x (PRC_MMADDR u.val) = a ∧ fld x (PRC_MM_ASYNC u.val) = b2n (liveAsync s a.toNat) ∧
      fld x (PRC_MM_COUNT u.val) = min (fld s (PRC_MM_COUNT u.val) + 1) 65535 ∧
      (unit x u.val).mm = some (a, liveAsync s a.toNat))) ∧
  ((∀ (u : Fin 7) (k : Mismatch) (a : Word) (t : Time) (s : State), u.val < 6 → canFault s ⟨u, false⟩ = true →
    pairState s u.val ≠ 2 → ((unit s u.val).phase = .work ∨ (unit s u.val).phase = .drain) → 2 ≤ (unit s u.val).replays →
    (k = .parity ∨ liveAsync s a.toNat = false ∨ (unit s u.val).mm ≠ some (a, true)) →
    ∃ x : State, exec (.pairReplay u k a t) s = .next x ∧ pairState x u.val = 4 ∧ fld x (PRC_FAULT_CAUSE u.val) = 1 ∧
    (unit x u.val).phase = .stopped ∧ x.prc.lost.getLsbD u.val = true ∧
    (∀ j, j ≠ u.val → unit x j = unit s j) ∧ x.mem = s.mem ∧ x.legs = s.legs) ∧
  (∀ (u : Fin 7) (k : Mismatch) (a : Word) (t : Time) (s : State), u.val < 6 → canFault s ⟨u, false⟩ = true →
    pairState s u.val ≠ 2 → ((unit s u.val).phase = .work ∨ (unit s u.val).phase = .drain) → k ≠ .parity →
    liveAsync s a.toNat = true → (unit s u.val).mm = some (a, true) →
    ∃ x : State, exec (.pairReplay u k a t) s = .next x ∧ pairState x u.val = 0 ∧ fld x (PRC_FAULT_CAUSE u.val) = 5 ∧
    (unit x u.val).phase = .stopped ∧ x.prc.lost.getLsbD u.val = true ∧
    (∀ j, j ≠ u.val → unit x j = unit s j) ∧ x.mem = s.mem ∧ x.legs = s.legs)) ∧
  ((∀ (u : Fin 7) (k : PermCause) (t : Time) (s : State), u.val < 6 → canFault s ⟨u, false⟩ = true →
    pairState s u.val ≠ 2 → ∃ x : State, exec (.prcPermFault ⟨u, false⟩ k t) s = .next x ∧
    pairState x u.val = (if k = .asyncDiverge then 0 else 4) ∧ fld x (PRC_FAULT_CAUSE u.val) = permCode k ∧
    x.prc.lost.getLsbD u.val = true ∧
    ((unit s u.val).phase ≠ .asleep → (unit x u.val).phase = .stopped ∧ (unit x u.val).clrq = [] ∧
      x.col = s.col.filter (fun e => e.who != ⟨u, false⟩)) ∧
    (∀ d ∈ standbyOf s u.val, flag x (PRC_DUTY_CFG_SREADY d) = false) ∧ x.mem = s.mem ∧ x.legs = s.legs) ∧
  (∀ (u : Fin 7) (k : PermCause) (t : Time) (s : State), u.val < 6 → canFault s ⟨u, true⟩ = true → pairState s u.val = 2 →
    ∃ x : State, exec (.prcPermFault ⟨u, true⟩ k t) s = .next x ∧ pairState x u.val = 2 ∧
    fld x (PRC_FAULT_CAUSEB u.val) = permCode k ∧ fld x (PRC_FAULT_CAUSE u.val) = fld s (PRC_FAULT_CAUSE u.val) ∧
    (unit x (u.val + 8)).failed = true ∧ x.prc.lost.getLsbD u.val = true ∧ x.mem = s.mem ∧ x.legs = s.legs) ∧
  (∀ (k : PermCause) (t : Time) (s : State), canFault s ⟨6, false⟩ = true → pairState s 6 ≠ 2 → ∃ x : State,
    exec (.prcPermFault ⟨6, false⟩ k t) s = .next x ∧ x.prc.svStopped = true ∧ x.prc.svFaulted = true ∧
    (∀ l, l < 64 → flag s (PRC_LSLOT_VALID l) = true → fld s (PRC_LSLOT_HOLDER l) = 6 → reg x (PRC_LSLOT l) = 0#32) ∧
    x.mem = s.mem ∧ x.legs = s.legs) ∧
  (∀ (b : Bool) (k : PermCause) (t : Time) (s : State), canFault s ⟨6, b⟩ = true → pairState s 6 = 2 → ∃ x : State,
    exec (.prcPermFault ⟨6, b⟩ k t) s = .next x ∧ x.prc.svStopped = s.prc.svStopped ∧ x.prc.svFaulted = true ∧
    (unit x (Who.key ⟨6, b⟩)).failed = true ∧ pairState x 6 = 2 ∧ x.mem = s.mem ∧ x.legs = s.legs))

/-- A HELD application pair whose START is set starts in lockstep at PRC_VECn, and START reads 0 from then on (R88).
The records of a duty go into the standby's mirror in order, and no others (R102).
A hand-over request is accepted for the boundary after the next, or rejected with the lowest code that applies and
nothing else changed (R110, R112).
At its boundary a pending hand-over that still passes its checks makes the named standby the primary and the old
primary the standby, with the quota moved, the tagged leases held by the new primary, the bases swapped and SREADY set
(R111); one that fails them changes nothing but PRC_HOSTAT (R110, R112).
A split starts half A at PRC_VECn and half B at PRC_VECBn (R114); a rejoin resets both halves and leaves the pair
asleep, its TCMs kept, and at the next boundary it starts in lockstep at PRC_VECn (R116). -/
def Obligations.DutiesStartMirrorAndMove : Prop :=
  (∀ (n : Fin 7) (s : State), n.val < 6 → hasUnit s n.val = true → flag s (PRC_CTL_START n.val) = true →
    pairState s n.val = 0 → ∃ x : State, exec (.prcStart n) s = .next x ∧ pairState x n.val = 1 ∧
    fld x (PRC_CTL_START n.val) = 0 ∧ (unit x n.val).arch = { pc := reg s (PRC_VEC n.val) } ∧
    (unit x n.val).ckpt = { pc := reg s (PRC_VEC n.val) } ∧ (unit x n.val).phase = .work ∧
    (∀ a, winOf a ≠ 3 → a ≠ SPN_CNT2 → a ≠ PRC_CTL n.val → a ≠ PRC_STAT n.val → reg x a = reg s a) ∧
    (∀ j, j ≠ n.val → unit x j = unit s j) ∧ x.mem = s.mem ∧ x.tcm = s.tcm) ∧
  (∀ (d : Fin 16) (t : Time) (s : State), ∃ x : State, exec (.mirrorTransferDone d t) s = .next x ∧
    x.prc.mirq = s.prc.mirq.filter (fun m => !(m.duty == d.val)) ∧
    (∀ m b, s.prc.mirq.filter (fun m => m.duty == d.val) = [m] →
      rdTcm x b = if m.key ≤ b ∧ b < m.key + m.val.length then m.val.getD (b - m.key) 0#8 else rdTcm s b) ∧
    x.tcm = (forAll (s.prc.mirq.filter (fun m => m.duty == d.val)) (fun m => wrTcms m.key m.val) s).tcm ∧
    x.regs = s.regs ∧ x.mem = s.mem ∧ x.units = s.units ∧ x.now = max s.now t) ∧
  (∀ (m : Mask) (d : Word) (s : State) (w : Word) (c : Nat), m.getLsbD 3 = true → w = clWord s PRC_HOREQ m d →
    PRC_HOREQ_GO.of w = 1 → c = hoCode (putCl PRC_HOREQ w s) (PRC_HOREQ_DUTY.of w) (PRC_HOREQ_PAIR.of w)
      (s.prc.ho.isSome || (bits w.toNat 12 19 != 0 || bits w.toNat 3 5 != 0)) → ∃ x : State,
    exec (.prcHoreq m d) s = .next x ∧ fld x PRC_HOSTAT_CODE = c ∧
    (c = 0 → x.prc.ho =
      some ⟨0, PRC_HOREQ_DUTY.of w, PRC_HOREQ_PAIR.of w, if ticking s then s.tick.count + 1 else 0⟩) ∧
    (c ≠ 0 → x.prc = s.prc) ∧
    (∀ a, winOf a ≠ 3 → a ≠ SPN_CNT2 → a ≠ PRC_HOREQ → a ≠ PRC_HOSTAT → reg x a = reg s a) ∧ x.mem = s.mem ∧
    x.units = s.units) ∧
  ((∀ (s : State) (h : HoPend), hoDue s 0 = some h → h.duty < 16 → h.pair < 6 →
    hoCode s h.duty h.pair false = 0 → h.pair ≠ fld s (PRC_DUTY_CFG_PRIM h.duty) → ∃ x : State,
    exec .handoverTakeEffect s = .next x ∧ fld x (PRC_DUTY_CFG_PRIM h.duty) = h.pair ∧
    fld x (PRC_DUTY_CFG_STBY h.duty) = fld s (PRC_DUTY_CFG_PRIM h.duty) ∧
    fld x (PRC_DUTY_REG_RBASE h.duty) = fld s (PRC_DUTY_REG_SBASE h.duty) ∧
    fld x (PRC_DUTY_REG_SBASE h.duty) = fld s (PRC_DUTY_REG_RBASE h.duty) ∧
    fld x (PRC_DUTY_CFG_SREADY h.duty) = 1 ∧
    (fld s (PRC_DUTY_CFG_PRIM h.duty) < 6 →
      fld x (TKC_QUOTA_QUOTA h.pair) = (fld s (TKC_QUOTA_QUOTA h.pair) + fld s (PRC_DUTY_CFG_QUOTA h.duty)) % 256 ∧
      fld x (TKC_QUOTA_QUOTA (fld s (PRC_DUTY_CFG_PRIM h.duty))) =
        fld s (TKC_QUOTA_QUOTA (fld s (PRC_DUTY_CFG_PRIM h.duty))) - fld s (PRC_DUTY_CFG_QUOTA h.duty)) ∧
    (∀ k, k < 64 → flag s (PRC_LSLOT_VALID k) = true → flag s (PRC_LSLOT_DTAG k) = true →
      fld s (PRC_LSLOT_DUTY k) = h.duty → fld x (PRC_LSLOT_HOLDER k) = h.pair ∧ fld x (PRC_LSLOT_HALF k) = 0) ∧
    x.prc.ho = none ∧ x.mem = s.mem ∧ x.units = s.units) ∧
  (∀ (s : State) (h : HoPend), hoDue s 0 = some h → hoCode s h.duty h.pair false ≠ 0 → ∃ x : State,
    exec .handoverTakeEffect s = .next x ∧ fld x PRC_HOSTAT_CODE = hoCode s h.duty h.pair false ∧
    x.prc = { s.prc with ho := none } ∧ (∀ a, winOf a ≠ 3 → a ≠ SPN_CNT2 → a ≠ PRC_HOSTAT → reg x a = reg s a) ∧
    x.mem = s.mem)) ∧
  ((∀ (n : Fin 6) (s : State) (h : HoPend), hoDue s 1 = some h → h.pair = n.val → splitCode s 1 n.val false = 0 →
    ∃ x : State, exec (.prcSplit n) s = .next x ∧ pairState x n.val = 2 ∧
    (unit x n.val).arch = { pc := reg s (PRC_VEC n.val) } ∧ (unit x n.val).phase = .work ∧
    (unit x (n.val + 8)).arch = { pc := reg s (PRC_VECB n.val) } ∧ (unit x (n.val + 8)).phase = .work ∧ x.prc.ho = none ∧
    (∀ a, winOf a ≠ 3 → a ≠ SPN_CNT2 → a ≠ PRC_STAT n.val → reg x a = reg s a) ∧ x.mem = s.mem ∧ x.tcm = s.tcm) ∧
  (∀ (n : Fin 6) (s : State) (h : HoPend), hoDue s 2 = some h → h.pair = n.val → splitCode s 2 n.val false = 0 →
    ∃ x : State, exec (.prcRejoin n) s = .next x ∧ pairState x n.val = 3 ∧
    (unit x n.val).arch = {} ∧ (unit x n.val).phase = .asleep ∧ (unit x (n.val + 8)).arch = {} ∧
    (unit x (n.val + 8)).phase = .asleep ∧ x.prc.ho = none ∧
    (∀ a, winOf a ≠ 3 → a ≠ SPN_CNT2 → a ≠ PRC_STAT n.val → reg x a = reg s a) ∧ x.mem = s.mem ∧ x.tcm = s.tcm) ∧
  (∀ (n : Nat) (s : State), n < 6 → pairState s n = 3 → pairState (rejoinStarts s) n = 1 ∧
    (unit (rejoinStarts s) n).arch = { pc := reg s (PRC_VEC n) } ∧ (rejoinStarts s).tcm = s.tcm))

/-- An acquire is granted in a free slot, of the extension of a quota where the pool holds it, and denied while a unit
holds the resource, the requester itself included (the model's choice, log 19, DEDUCED); a renew sets the count to its
TERM; a lease ends by release, by SV's revocation or at count 0; PRC_LRESu shows the result (R118 to R122). -/
def Obligations.LeasesAreGrantedAndEnd : Prop :=
  (∀ (w : Who) (d : Word) (s : State) (k : Nat), lqOp d = 0 → lqValid s d = true → lqTerm d ≠ 0 → lqClass d ≠ 4 →
    leaseOf s (lqClass d) (lqInst d) = none → freeSlot s = some k → ∃ x : State,
    exec (.leaseAcquire w d) s = .next x ∧ reg x (PRC_LRES w.unit.val) = BitVec.ofNat 32 (k * 256 + 1) ∧
    reg x (PRC_LSLOT k) = slotWord w d ∧
    (∀ a, a ≠ PRC_LRES w.unit.val → a ≠ PRC_LSLOT k → reg x a = reg s a) ∧ x.mem = s.mem ∧ x.units = s.units) ∧
  (∀ (w : Who) (d : Word) (s : State) (k : Nat), lqOp d = 0 → lqValid s d = true → lqTerm d ≠ 0 → lqClass d = 4 →
    fld s TKC_QPOOL_LEASED + lqInst d ≤ fld s TKC_QPOOL_FREE → freeSlot s = some k → ∃ x : State,
    exec (.leaseAcquire w d) s = .next x ∧ reg x (PRC_LRES w.unit.val) = BitVec.ofNat 32 (k * 256 + 1) ∧
    reg x (PRC_LSLOT k) = slotWord w d ∧ fld x TKC_QPOOL_LEASED = fld s TKC_QPOOL_LEASED + lqInst d ∧ x.mem = s.mem) ∧
  (∀ (w : Who) (d : Word) (s : State) (k : Nat), lqOp d = 0 → lqValid s d = true → lqTerm d ≠ 0 → lqClass d ≠ 4 →
    leaseOf s (lqClass d) (lqInst d) = some k → ∃ x : State,
    exec (.leaseAcquire w d) s = .next x ∧ reg x (PRC_LRES w.unit.val) = 2#32 ∧
    (∀ a, winOf a ≠ 3 → a ≠ SPN_CNT2 → a ≠ PRC_LRES w.unit.val → reg x a = reg s a) ∧ x.mem = s.mem ∧
    x.units = s.units) ∧
  (∀ (w : Who) (d : Word) (s : State) (k : Nat), lqOp d = 1 → lqValid s d = true → lqTerm d ≠ 0 →
    leaseMine s w d = some k → ∃ x : State, exec (.leaseRenew w d) s = .next x ∧
    fld x (PRC_LSLOT_REMAIN k) = lqTerm d ∧ reg x (PRC_LRES w.unit.val) = BitVec.ofNat 32 (k * 256 + 1) ∧
    (∀ a, a ≠ PRC_LRES w.unit.val → a ≠ PRC_LSLOT k → reg x a = reg s a) ∧ x.mem = s.mem) ∧
  (∀ (w : Who) (d : Word) (s : State) (k : Nat), lqOp d = 2 → lqValid s d = true → leaseMine s w d = some k →
    ∃ x : State, exec (.leaseRelease w d) s = .next x ∧ reg x (PRC_LSLOT k) = 0#32 ∧
    reg x (PRC_LRES w.unit.val) = 1#32 ∧ x.mem = s.mem ∧ x.units = s.units) ∧
  (∀ (w : Who) (d : Word) (s : State) (k : Nat), lqOp d = 3 → isSv w = true → lqValid s d = true →
    leaseOf s (lqClass d) (lqInst d) = some k → ∃ x : State, exec (.leaseRevoke w d) s = .next x ∧
    reg x (PRC_LSLOT k) = 0#32 ∧ reg x (PRC_LRES w.unit.val) = 1#32 ∧ x.mem = s.mem ∧ x.units = s.units) ∧
  (∀ (k : Fin 64) (s : State), flag s (PRC_LSLOT_VALID k.val) = true → fld s (PRC_LSLOT_REMAIN k.val) = 0 →
    ∃ x : State, exec (.leaseExpire k) s = .next x ∧ reg x (PRC_LSLOT k.val) = 0#32 ∧ x.mem = s.mem ∧ x.units = s.units)

/-- A read of EVR_TOPc that goes through returns the pending event of highest priority above the threshold and marks it
observed, and 0 where there is none; a read of a pending word returns its view and marks the set bits observed; no
register changes (R128, R129, R132).
A load that goes through gives the unit the bytes at its address (the command that carries loads is the model's
choice, log 57): of SRAM and of its TCM those stored (R87), of the state memory the committed copy (R21, R25), of the
result bank the word as last latched (R20), of the sample bank the latched word (R24), and of scratch SV alone, a
poisoned word as a quiet NaN (R148). -/
def Obligations.EventReadsMarkObserved : Prop :=
  ((∀ (w : Who) (c : Fin 7) (b : Bool) (s : State), hasUnit s c.val = true → mayEvr w c.val = true →
    goes s w .load (BitVec.ofNat 32 (if b then EVR_B_TOP c.val else EVR_TOP c.val)) 4 = true →
    ∃ x : State, exec (.evrTopRead w c b) s = .next x ∧ x.regs = s.regs ∧ x.mem = s.mem ∧
    (∀ e, topEvent s c.val b = some e →
      (unit x w.key).rdata = BitVec.ofNat 32 (2 ^ 31 + lfld s (EVR_ROUTE_PRIO e) * 2 ^ 16 + e) ∧
      (SMap.get wordD x.observed (pendReg c.val e)).getLsbD (e % 32) = true) ∧
    (topEvent s c.val b = none → (unit x w.key).rdata = 0#32 ∧ x.observed = s.observed)) ∧
  (∀ (s : State) (c e : Nat) (b : Bool), topEvent s c b = some e → pendEvent s c b e = true ∧
    (if b then fld s (EVR_B_THR_THR c) else fld s (EVR_THR_THR c)) < lfld s (EVR_ROUTE_PRIO e) ∧
    (∀ f, f < 640 → pendEvent s c b f = true → lfld s (EVR_ROUTE_PRIO f) ≤ lfld s (EVR_ROUTE_PRIO e) ∨
      lfld s (EVR_ROUTE_PRIO f) ≤ (if b then fld s (EVR_B_THR_THR c) else fld s (EVR_THR_THR c)))) ∧
  (∀ (w : Who) (c : Fin 7) (b : Bool) (i : Fin 20) (s : State), hasUnit s c.val = true → mayEvr w c.val = true →
    goes s w .load (BitVec.ofNat 32 (if b then EVR_B_PEND c.val i.val else EVR_PEND c.val i.val)) 4 = true →
    ∃ x : State, exec (.evrPendRead w c b i) s = .next x ∧ (unit x w.key).rdata = pendView s c.val b i.val ∧
    SMap.get wordD x.observed (EVR_PEND c.val i.val) =
      SMap.get wordD s.observed (EVR_PEND c.val i.val) ||| pendView s c.val b i.val ∧
    x.regs = s.regs ∧ x.mem = s.mem)) ∧
  ((∀ (w : Who) (a : Word) (z : Size) (t : Time) (s : State), goes (upto t s) w .load a z.bytes = true →
    target a.toNat = .sram → SMap.get falseD s.eccBad (a.toNat / 8) = false → ∃ x : State,
    exec (.rxRecordLoad w ⟨a, z⟩ t) s = .next x ∧
    (unit x w.key).rdata = pick a.toNat z.bytes (rdWord s (a.toNat - a.toNat % 4)) ∧
    (∀ j, j ≠ w.key → unit x j = unit s j) ∧ x.regs = s.regs ∧ x.mem = s.mem ∧ x.tcm = s.tcm) ∧
  (∀ (w : Who) (a : Word) (z : Size) (t : Time) (s : State) (off k : Nat), goes (upto t s) w .load a z.bytes = true →
    target (a.toNat - a.toNat % 4) = .tcm off → tcmKey s w off = some k → s.prc.mirq = [] → ∃ x : State,
    exec (.rxRecordLoad w ⟨a, z⟩ t) s = .next x ∧ (unit x w.key).rdata = pick a.toNat z.bytes (leWord (rdTcms s k 4)) ∧
    (∀ j, j ≠ w.key → unit x j = unit s j) ∧ x.regs = s.regs ∧ x.mem = s.mem ∧ x.tcm = s.tcm) ∧
  (∀ (w : Who) (a : Word) (z : Size) (t : Time) (s : State) (k : Nat), goes (upto t s) w .load a z.bytes = true →
    target a.toNat = .state k → ∃ x : State, exec (.rxRecordLoad w ⟨a, z⟩ t) s = .next x ∧
    (unit x w.key).rdata = pick a.toNat z.bytes (cell s k).com ∧ x.eng = s.eng ∧ x.regs = s.regs ∧ x.mem = s.mem) ∧
  (∀ (w : Who) (a : Word) (z : Size) (t : Time) (s : State) (k : Nat), goes (upto t s) w .load a z.bytes = true →
    target a.toNat = .result k → isEmulator s w = false → ∃ x : State, exec (.rxRecordLoad w ⟨a, z⟩ t) s = .next x ∧
    (unit x w.key).rdata = pick a.toNat z.bytes (latched s k) ∧ x.eng = s.eng ∧ x.regs = s.regs ∧ x.mem = s.mem) ∧
  (∀ (w : Who) (a : Word) (z : Size) (t : Time) (s : State) (k : Nat), goes (upto t s) w .load a z.bytes = true →
    target a.toNat = .sample k → ∃ x : State, exec (.rxRecordLoad w ⟨a, z⟩ t) s = .next x ∧
    (unit x w.key).rdata = pick a.toNat z.bytes (sample s k) ∧ x.eng = s.eng ∧ x.regs = s.regs ∧ x.mem = s.mem) ∧
  (∀ (w : Who) (a : Word) (z : Size) (t : Time) (s : State) (k : Nat), goes (upto t s) w .load a z.bytes = true →
    target a.toNat = .scratch k → isSv w = true → ∃ x : State, exec (.rxRecordLoad w ⟨a, z⟩ t) s = .next x ∧
    (unit x w.key).rdata = pick a.toNat z.bytes (if (scr s k).poison then 0x7FC00000#32 else (scr s k).val) ∧
    x.eng = s.eng ∧ x.regs = s.regs ∧ x.mem = s.mem) ∧
  (∀ (w : Who) (a : Word) (z : Size) (t : Time) (s : State) (k : Nat), goes (upto t s) w .load a z.bytes = true →
    (target a.toNat = .scratch k ∧ isSv w = false ∨ target a.toNat = .none) → ∃ x : State,
    exec (.rxRecordLoad w ⟨a, z⟩ t) s = .next x ∧ (unit x w.key).arch.csrOf 0x342 = 5#32 ∧
    (unit x w.key).arch.csrOf 0x343 = a ∧ (unit x w.key).rdata = (unit s w.key).rdata ∧
    (∀ j, j ≠ w.key → unit x j = unit s j) ∧ x.eng = s.eng ∧ x.regs = s.regs ∧ x.mem = s.mem))

/-- The passes run in the order of the round table: a completed pass shows its cycles and flags and hands over to the
next enabled entry, an aborted one and a re-run record their cause, and a third failure or a permanent fault makes the
engine FAILED (R137 to R141, R175 to R177). -/
def Obligations.EngineSequencesThePasses : Prop :=
  (∀ (law : PassLaw) (s : State) (p : PassSt) (c : Nat), s.eng.run = some p → p.ended = some c → p.pass < 64 →
    endCount s p c < passBudget s p.pass → ∃ x : State, exec (.passComplete law) s = .next x ∧
    fld x (ENG_PSTAT_CYC p.pass) = min (endCount s p c) 65535 ∧ fld x (ENG_PSTAT_ABORTED p.pass) = 0 ∧
    fld x (ENG_PSTAT_FLAGS p.pass) = p.flags % 128 ∧ x.eng.rtCyc = s.eng.rtCyc + endCount s p c ∧
    x.eng.run = (nextPass s.eng.next s).eng.run ∧ x.eng.done = (nextPass s.eng.next s).eng.done ∧
    (law = .own → x.eng.cells = s.eng.cells) ∧ x.mem = s.mem ∧ x.legs = s.legs) ∧
  (∀ (s : State) (p : PassSt), s.eng.run = some p → overBudget s p = true → p.pass < 64 → ∃ x : State,
    exec .passBudgetAbort s = .next x ∧ fld x ENG_ABORT_CAUSE = 4 ∧ fld x ENG_ABORT_PASS = p.pass ∧
    fld x ENG_ABORTPC_PC = p.pc % 16384 ∧ fld x (ENG_PSTAT_ABORTED p.pass) = 1 ∧ x.mem = s.mem ∧ x.legs = s.legs) ∧
  (∀ (lane : Fin 32) (s : State) (p : PassSt), s.eng.run = some p → s.eng.fails < 2 → p.pass < 64 → ∃ x : State,
    exec (.engineRerun lane) s = .next x ∧
    x.eng.run = some { pass := p.pass, pc := lfld s (ENG_RT_A_ENTRY p.pass) } ∧ x.eng.fails = s.eng.fails + 1 ∧
    fld x ENG_ABORT_CAUSE = 5 ∧ fld x ENG_ABORT_LANE = lane.val ∧ fld x ENG_ABORT_PASS = p.pass ∧
    fld x (TKC_RPCNT_REPLAY 7) = min (fld s (TKC_RPCNT_REPLAY 7) + 1) (2 ^ (TKC_RPCNT_REPLAY 7).width - 1) ∧
    x.mem = s.mem) ∧
  (∀ (lane : Fin 32) (s : State) (p : PassSt), s.eng.run = some p → s.eng.fails = 2 → ∃ x : State,
    exec (.engineRerun lane) s = .next x ∧ fld x ENG_STAT_STATE = 2 ∧ x.eng.run = none ∧
    x.prc.engLost = true ∧ x.mem = s.mem) ∧
  (∀ (k : EngMem) (t : Time) (s : State), s.pwr.inReset = false → ∃ x : State,
    exec (.engPermFault k t) s = .next x ∧ fld x ENG_STAT_STATE = 2 ∧
    (fld s ENG_STAT_STATE ≠ 2 → x.eng.run = none ∧ x.prc.engLost = true ∧ x.prc.limp = false) ∧
    (k ≠ .checker → fld x ENG_ECC_UMEM = umemCode k) ∧ (k = .state → x.prc.twinLost = true) ∧ x.mem = s.mem ∧
    x.now = max s.now t) ∧
  (∀ (k p : Nat) (s : State), k ≤ p → p < 64 → lflag s (ENG_RT_A_EN p) = true →
    (∀ j, k ≤ j → j < p → lflag s (ENG_RT_A_EN j) = false) →
    (nextPass k s).eng.run = some { pass := p, pc := lfld s (ENG_RT_A_ENTRY p) } ∧ (nextPass k s).eng.next = p + 1 ∧
    fld (nextPass k s) ENG_STAT_PASS = p) ∧
  (∀ (k : Nat) (s : State), (∀ j, k ≤ j → j < 64 → lflag s (ENG_RT_A_EN j) = false) →
    (nextPass k s).eng.run = none ∧ (nextPass k s).eng.done = true ∧ fld (nextPass k s) ENG_STAT_PASS = 127)

/-- The control instructions: NOP, END, BRU, LOOP, the fences, EVT, CAP and TRAP (R160, R171, R174, R179). -/
def Obligations.EngineControlInstructionsRun : Prop :=
  (∀ (e : EngWord) (s : State) (p : PassSt), IssuesAt 0x00 e (plainForm e) s p → exec (.nop e) s =
    .next (putRun { p with pc := p.pc + 1, cyc := issueCycle p [] + 1 } s)) ∧
  (∀ (e : EngWord) (s : State) (p : PassSt), IssuesAt 0x01 e (plainForm e) s p → exec (.endP e) s =
    .next (putRun { p with pc := p.pc + 1, cyc := issueCycle p [] + 1, ended := some (issueCycle p []) } s)) ∧
  (∀ (e : EngWord) (s : State) (p : PassSt), IssuesAt 0x02 e (bruForm e) s p → bruTaken e p s = false → exec (.bru e) s =
    .next (putRun { p with pc := p.pc + 1, cyc := issueCycle p ((bruForm e).reads e) + 1 } s)) ∧
  (∀ (e : EngWord) (s : State) (p : PassSt) (tgt : Nat), IssuesAt 0x02 e (bruForm e) s p → bruTaken e p s = true →
    (p.pc : Int) + e.imm.toInt = tgt → lfld s (ENG_RT_A_ENTRY p.pass) ≤ tgt →
    tgt < lfld s (ENG_RT_A_ENTRY p.pass) + lfld s (ENG_RT_B_LEN p.pass) → exec (.bru e) s =
    .next (putRun { p with pc := tgt, cyc := issueCycle p ((bruForm e).reads e) + 3 } s)) ∧
  (∀ (e : EngWord) (s : State) (p : PassSt) (c : Nat), IssuesAt 0x03 e (loopForm e) s p → mVal e = 0 →
    c = issueCycle p [40 + e.vd.toNat] → c < passBudget s p.pass → ar p e.vd.toNat = 1 → ∃ q : PassSt,
    exec (.loop e) s = .next (putRun q s) ∧ ar q e.vd.toNat = 0 ∧ q.pc = p.pc + 1 ∧ q.cyc = c + 1 ∧ q.v = p.v) ∧
  (∀ (e : EngWord) (s : State) (p : PassSt) (c tgt : Nat), IssuesAt 0x03 e (loopForm e) s p → mVal e = 0 →
    c = issueCycle p [40 + e.vd.toNat] → c < passBudget s p.pass → ar p e.vd.toNat ≠ 1 →
    (p.pc : Int) + e.imm.toInt = tgt → lfld s (ENG_RT_A_ENTRY p.pass) ≤ tgt →
    tgt < lfld s (ENG_RT_A_ENTRY p.pass) + lfld s (ENG_RT_B_LEN p.pass) → ∃ q : PassSt,
    exec (.loop e) s = .next (putRun q s) ∧ ar q e.vd.toNat = ar p e.vd.toNat - 1 ∧ q.pc = tgt ∧ q.cyc = c + 3 ∧
    q.v = p.v) ∧
  (∀ (e : EngWord) (s : State) (p : PassSt), IssuesAt 0x03 e (loopForm e) s p → mVal e ≠ 0 → ∃ q : PassSt,
    exec (.loop e) s = .next (putRun q s) ∧ q.pc = p.pc + 1 ∧ q.v = p.v ∧
    ar q e.vd.toNat = (if mVal e = 1 then e.imm else ar p e.va.toNat + e.imm) ∧
    (∀ k, k ≠ e.vd.toNat → ar q k = ar p k)) ∧
  (∀ (op : Nat) (k : StoreKind) (mk : EngWord → Instr), (op, k, mk) ∈ [(0x04, StoreKind.stc, Instr.fenceC),
    (0x05, StoreKind.str, Instr.fenceR), (0x06, StoreKind.sts, Instr.fenceS)] →
    ∀ (e : EngWord) (s : State) (p : PassSt), IssuesAt op e (plainForm e) s p → ∃ q : PassSt,
    exec (mk e) s = .next (putRun q (spend s)) ∧ q.pc = p.pc + 1 ∧ q.flight = p.flight.filter (·.kind != k) ∧
    p.cyc + 1 ≤ q.cyc ∧ (∀ f ∈ p.flight, f.kind = k → f.at_ + 1 ≤ q.cyc) ∧
    ((∀ f ∈ p.flight, f.at_ ≤ p.cyc) → q.cyc ≤ p.cyc + 4) ∧ q.v = p.v ∧ q.a = p.a ∧ q.p = p.p) ∧
  (∀ (e : EngWord) (s : State) (p : PassSt), IssuesAt 0x07 e { ok := mVal e == 0, imm := 0xF } s p → ∃ q : PassSt,
    exec (.evt e) s = .next (putRun q s) ∧ q.pc = p.pc + 1 ∧ q.v = p.v ∧
    (writing s p e ≠ [] → q.evts = p.evts ||| (1#16 <<< immBits e 0 4)) ∧ (writing s p e = [] → q.evts = p.evts)) ∧
  (∀ (e : EngWord) (s : State) (p : PassSt), IssuesAt 0x3D e { ok := mVal e == 0, va := .v, imm := 0xFFFF } s p →
    ∃ q : PassSt, exec (.cap e) s = .next (putRun q s) ∧ q.pc = p.pc + 1 ∧ q.v = p.v ∧
    (flag s ENG_CAPCTL_ARM = false → q.caps = p.caps) ∧
    (flag s ENG_CAPCTL_ARM = true → q.caps = p.caps ++ ((writing s p e).filter fun l =>
      flag s ENG_CAPCTL_ALLB || fld s ENG_CAPCTL_BOBBIN == bobbin s p l).map fun l =>
      { tick := BitVec.ofNat 32 s.tick.tcnt, tag := immBits e 0 16, bobbin := bobbin s p l, lane := l
        val := vr p e.va.toNat l })) ∧
  (∀ (e : EngWord) (s : State) (p : PassSt), IssuesAt 0x3E e { ok := mVal e == 0, imm := 0xFFFF } s p →
    writing s p e = [] → ∃ q : PassSt, exec (.trap e) s = .next (putRun q s) ∧ q.pc = p.pc + 1 ∧ q.v = p.v) ∧
  (∀ (e : EngWord) (s : State) (p : PassSt) (l : Nat), IssuesAt 0x3E e { ok := mVal e == 0, imm := 0xFFFF } s p →
    (writing s p e).head? = some l → p.pass < 64 → ∃ x : State, exec (.trap e) s = .next x ∧
    fld x ENG_ABORT_CAUSE = 3 ∧ fld x ENG_ABORT_CODE = immBits e 0 16 ∧ fld x ENG_ABORT_LANE = l ∧
    fld x ENG_ABORT_PASS = p.pass ∧ fld x (ENG_PSTAT_ABORTED p.pass) = 1 ∧ x.mem = s.mem)

/-- For every instruction of the engine, an illegal form of it and a reserved opcode at the pc abort the pass with cause
1, and a pc outside the pass's extent, and a branch that leaves it, with cause 2 (R155, R159, R160, R175). An aborted
pass stores nothing: no twin cell keeps a pending value of it. -/
def Obligations.EngineTrapsAbortThePass : Prop :=
  (∀ (op : Nat) (mk : EngWord → Instr) (fm : EngWord → Form), (op, mk, fm) ∈ engineOps →
    ∀ (e : EngWord) (s : State) (p : PassSt), Fetches s p →
    (InExtent s p → progWord s p.pc = engWord op e → issueCycle p ((fm e).reads e) < passBudget s p.pass →
      (fm e).legal e = false → ∃ x : State, exec (mk e) s = .next x ∧ Aborted s x p 1 0) ∧
    (InExtent s p → opReserved (progWord s p.pc >>> 58) = true → ∃ x : State, exec (mk e) s = .next x ∧
      Aborted s x p 1 0) ∧
    (¬ InExtent s p → ∃ x : State, exec (mk e) s = .next x ∧ Aborted s x p 2 0)) ∧
  (∀ (e : EngWord) (s : State) (p : PassSt), IssuesAt 0x02 e (bruForm e) s p → p.pass < 64 → bruTaken e p s = true →
    ((p.pc : Int) + e.imm.toInt < (lfld s (ENG_RT_A_ENTRY p.pass) : Nat) ∨
      ((lfld s (ENG_RT_A_ENTRY p.pass) + lfld s (ENG_RT_B_LEN p.pass) : Nat) : Int) ≤ (p.pc : Int) + e.imm.toInt) →
    ∃ x : State, exec (.bru e) s = .next x ∧ Aborted s x p 2 0) ∧
  (∀ (cause lane code c k : Nat) (p : PassSt) (s : State), SMap.wf cellD s.eng.cells = true →
    (∀ v q, (cell s k).eng = some (v, q) → q = p.pass → (cell (abortPass cause lane code c p s) k).eng = none) ∧
    (∀ v q, (cell s k).eng = some (v, q) → q ≠ p.pass → cell (abortPass cause lane code c p s) k = cell s k) ∧
    ((cell s k).eng = none → cell (abortPass cause lane code c p s) k = cell s k))

/-- The FP32 instructions give each writing lane the result of R163 and R164 and its flags. The result of FADD, FSUB,
FMUL, FMA and FNMA of finite operands is the exact value, rounded once; of a NaN it is the canonical NaN with NV, and so
is the sum of opposite infinities. FRCP lies within one unit in the last place of 1/a where that is a normal number, and
of zero is infinite with DZ (R162, R163). -/
def Obligations.EngineFloatingPointRuns : Prop :=
  (∀ (a b : Word) (s t : Bool) (p q : Rat), fval a = .fin s p → fval b = .fin t q →
    Rounds (p + q) (s && t) (fAdd a b) ∧ Rounds (p - q) (s && !t) (fSub a b) ∧ Rounds (p * q) (xor s t) (fMul a b) ∧
    ∀ (c : Word) (u : Bool) (r : Rat), fval c = .fin u r → Rounds (p * q + r) (xor s t && u) (fFma a b c) ∧
      Rounds (r - p * q) (!(xor s t) && u) (fFnma a b c)) ∧
  (∀ a b c : Word, isNaN a || isNaN b = true → fAdd a b = fInvalid ∧ fSub a b = fInvalid ∧ fMul a b = fInvalid ∧
    fFma a b c = fInvalid ∧ fFnma a b c = fInvalid) ∧
  (∀ s : Bool, fAdd (fInf s) (fInf (!s)) = fInvalid ∧ fAdd (fInf s) (fInf s) = ⟨fInf s, 0⟩) ∧
  (∀ (a : Word) (s : Bool) (q : Rat), fval a = .fin s q →
    (q = 0 → fRcp a = ⟨fInf s, flDZ⟩) ∧
    (q ≠ 0 → ratAbs q ≤ pow2 126 → Near (fRcp a).val (1 / q) (ulp (1 / q)))) ∧
  (∀ (op lat : Nat) (mk : EngWord → Instr) (g : Word → Word → FRes), (op, lat, mk, g) ∈
    [(0x10, 3, Instr.fadd, fAdd), (0x11, 3, Instr.fsub, fSub), (0x12, 3, Instr.fmul, fMul), (0x15, 2, Instr.fmin, fMin),
     (0x16, 2, Instr.fmax, fMax)] →
    LaneRuns op mk (fun e => fp2Form e lat) 1
      (fun e p l => (g (vr p e.va.toNat l) (if mBit e 0 then e.imm else vr p e.vb.toNat l)).one)) ∧
  (∀ (op lat : Nat) (mk : EngWord → Instr) (g : Word → Word → Word → FRes), (op, lat, mk, g) ∈
    [(0x13, 4, Instr.fma, fFma), (0x14, 4, Instr.fnma, fFnma), (0x19, 2, Instr.fclamp, fClamp)] →
    LaneRuns op mk (fun e => fp3Form e lat) 1 (fun e p l =>
      (g (vr p e.va.toNat l) (vr p e.vb.toNat l) (if mBit e 0 then e.imm else vr p e.vc.toNat l)).one)) ∧
  (∀ (op lat : Nat) (mk : EngWord → Instr) (g : Word → FRes), (op, lat, mk, g) ∈
    [(0x17, 2, Instr.fabs, fAbs), (0x18, 2, Instr.fneg, fNeg), (0x1B, 8, Instr.frcp, fRcp),
     (0x1C, 8, Instr.frsq, fRsq)] →
    LaneRuns op mk (fun e => fp1Form e lat) 1 (fun e p l => (g (vr p e.va.toNat l)).one)) ∧
  LaneRuns 0x1D .fcvt (fun e => { ok := mVal e < 2, vd := .v, va := .v, lat := 3 }) 1
    (fun e p l => (if mBit e 0 then fToInt (vr p e.va.toNat l) 0 flNV else fOfInt (vr p e.va.toNat l)).one) ∧
  (∀ (e : EngWord) (s : State) (p : PassSt), IssuesAt 0x1A e (fcmpForm e) s p → ∃ q : PassSt,
    exec (.fcmp e) s = .next (putRun q s) ∧
    (∀ l, l < 32 → pr q e.vd.toNat l = (decide (l ∈ writing s p e) && fCond (mVal e / 2) (vr p e.va.toNat l)
      (if mBit e 0 then e.imm else vr p e.vb.toNat l))) ∧
    (∀ k l, k ≠ e.vd.toNat → pr q k l = pr p k l) ∧
    q.flags = p.flags ||| (if (writing s p e).any (fun l => isNaN (vr p e.va.toNat l) ||
      isNaN (if mBit e 0 then e.imm else vr p e.vb.toNat l)) then flNV else 0) ∧ q.v = p.v ∧ q.a = p.a ∧ q.pc = p.pc + 1 ∧
    q.cyc = issueCycle p ((fcmpForm e).reads e) + 1)

/-- The Q1.31 instructions, SINCOS, ATAN2, WRAP, TLU and the lane instructions (R165 to R168, R171, R178): QADD, QMUL
and QMAC saturate the exact sums and rounded products; SINCOS gives NaN with NV beyond 2²⁰ and else lies within the
error of R166 of the fixed-point sine and cosine; TLU with a descriptor that is not valid aborts the pass (R167). That
INJ adds the generators in ascending order and rounds each sum is the model's choice (log 23). -/
def Obligations.EngineFixedFunctionAndLaneRuns : Prop :=
  (∀ (a b c : Word) (pr : Int), pr = (a.toInt * b.toInt + 2 ^ 30) / 2 ^ 31 → Saturates (a.toInt + b.toInt) (qAdd false a b) ∧
    Saturates (a.toInt - b.toInt) (qAdd true a b) ∧ Saturates pr (qMul a b) ∧ Saturates (c.toInt + pr) (qMac false a b c) ∧
    Saturates (c.toInt - pr) (qMac true a b c)) ∧
  (∀ (cosine : Bool) (a : Word) (s : Bool) (q : Rat), fval a = .fin s q →
    (pow2 20 < ratAbs q → fSinCos cosine a = fInvalid) ∧
    (ratAbs q ≤ pow2 20 → Near (fSinCos cosine a).val (ofFx ((if cosine then fxCos else fxSin) (toFx q)))
      (if ratAbs q ≤ pow2 10 then pow2 (-22) else pow2 (-14)))) ∧
  (∀ (e : EngWord) (s : State) (p : PassSt) (l : Nat),
    IssuesAt 0x2B e { ok := mVal e < 2, vd := .v, va := .v, imm := 0x3F, lat := 5 } s p → p.pass < 64 →
    (writing s p e).head? = some l → lflag s (ENG_TD_A_VALID (immBits e 0 6)) = false → ∃ x : State,
    exec (.tlu e) s = .next x ∧ Aborted s x p 1 l) ∧
  LaneRuns 0x20 .qadd (fun e => qForm e (mVal e < 4) false 2) 1 (fun e p l =>
    (qAdd (mBit e 0) (vr p e.va.toNat l) (if mBit e 1 then e.imm else vr p e.vb.toNat l)).one) ∧
  LaneRuns 0x21 .qmul (fun e => qForm e (mVal e == 0 || mVal e == 2) false 3) 1 (fun e p l =>
    (qMul (vr p e.va.toNat l) (if mBit e 1 then e.imm else vr p e.vb.toNat l)).one) ∧
  LaneRuns 0x22 .qmac (fun e => qForm e (mVal e < 4) true 4) 1 (fun e p l =>
    (qMac (mBit e 0) (vr p e.va.toNat l) (if mBit e 1 then e.imm else vr p e.vb.toNat l) (vr p e.vc.toNat l)).one) ∧
  LaneRuns 0x23 .qshr (fun e => qShiftForm e (mVal e < 2) 2) 1 (fun e p l =>
    (qShr (mBit e 0) (vr p e.va.toNat l) (immBits e 0 5)).one) ∧
  LaneRuns 0x24 .qsat (fun e => qShiftForm e (mVal e == 0 && immBits e 0 5 != 31) 2) 1 (fun e p l =>
    (qSatBits (vr p e.va.toNat l) (immBits e 0 5)).one) ∧
  LaneRuns 0x25 .qcvt (fun e => qShiftForm e (mVal e < 2) 3) 1 (fun e p l =>
    (qCvt (mBit e 0) (vr p e.va.toNat l) (immBits e 0 5)).one) ∧
  LaneRuns 0x28 .sincos (fun e => { ok := mVal e == 0, vd := .dst 2 true, va := .v, lat := 6 }) 2 (fun e p l =>
    ([(fSinCos false (vr p e.va.toNat l)).val, (fSinCos true (vr p e.va.toNat l)).val],
      (fSinCos false (vr p e.va.toNat l)).fl ||| (fSinCos true (vr p e.va.toNat l)).fl)) ∧
  LaneRuns 0x29 .atan2 (fun e => { ok := mVal e == 0, vd := .v, va := .v, vb := .v, lat := 10 }) 1 (fun e p l =>
    (fAtan2 (vr p e.va.toNat l) (vr p e.vb.toNat l)).one) ∧
  LaneRuns 0x2A .wrap (fun e => { ok := mVal e < 3, vd := .v, va := .v, imm := if mVal e = 2 then fullImm else 0, lat := 3 }) 1
    (fun e p l => (fWrap (mVal e) (vr p e.va.toNat l) e.imm).one) ∧
  LaneRunsIf (fun e s p => writing s p e = [] ∨ lflag s (ENG_TD_A_VALID (immBits e 0 6)) = true) 0x2B .tlu
    (fun e => { ok := mVal e < 2, vd := .v, va := .v, imm := 0x3F, lat := 5 }) 1
    (fun e s p l => ((tableOf s (immBits e 0 6)).lookup (vr p e.va.toNat l) (mBit e 0)).one) ∧
  LaneRunsIf (fun e _ _ => mVal e ≠ 2) 0x38 .bcast bcastForm 1 (fun e s p l =>
    ([if mVal e = 0 then vr p e.va.toNat (immBits e 0 5) else if mVal e = 1 then ar p e.va.toNat
      else special s p l e.imm.toNat], 0)) ∧
  (∀ (e : EngWord) (s : State) (p : PassSt), IssuesAt 0x38 e (bcastForm e) s p → mVal e = 2 → ∃ q : PassSt,
    exec (.bcast e) s = .next (putRun q s) ∧ ar q e.vd.toNat = vr p e.va.toNat (immBits e 0 5) ∧
    (∀ k, k ≠ e.vd.toNat → ar q k = ar p k) ∧ q.v = p.v ∧ q.p = p.p ∧ q.pc = p.pc + 1) ∧
  LaneRuns 0x39 .shfl (fun e => { ok := mVal e < 3, vd := .v, va := .v, vb := if mVal e = 0 then .v else .none
                                  imm := if mVal e = 0 then 0 else 0x1F, lat := 3 }) 1 (fun e p l =>
    ([vr p e.va.toNat (if mVal e = 0 then (vr p e.vb.toNat l).toNat % 32
      else if mVal e = 1 then (l + immBits e 0 5) % 32 else l ^^^ immBits e 0 5)], 0)) ∧
  LaneRunsIf (fun _ _ _ => True) 0x3A .reduce (fun e => { ok := mVal e < 3, vd := .v, va := .v, lat := 6 }) 1
    (fun e s p _ => (reduceWords (mVal e) ((writing s p e).map fun l => vr p e.va.toNat l)).one) ∧
  LaneRuns 0x3B .laneid (fun e => { ok := mVal e < 2, vd := .v, lat := 1 }) 1 (fun e _ l =>
    ([if mBit e 0 then (fOfInt (BitVec.ofNat 32 l)).val else BitVec.ofNat 32 l], 0)) ∧
  LaneRunsIf (fun _ _ _ => True) 0x3C .inj (fun e => { ok := mVal e == 0, vd := .v, va := .v, imm := 0xFF, lat := 3 }) 1
    (fun e s p l => ((igsAt s (immBits e 0 8) (bobbin s p l)).foldl (fun (r : FRes) n =>
      ⟨(fAdd r.val (igValue s n)).val, r.fl ||| (fAdd r.val (igValue s n)).fl⟩) ⟨vr p e.va.toNat l, 0⟩).one)

/-- The motor primitives CLK3, PRK, IPRK, SVM, MSEL, PIS and LPF, and HYS with its state word (R168 to R170). Their
outputs lie within 2⁻²² of the sum of their terms' magnitudes of the exact value of R188, where that is a normal number
(R187); each duty of SVM lies in 0 to 1, and is ½ with NV where Vdc is not above 0 (R189); PIS keeps its output between
its limits (R190); HYS with a descriptor that is not valid aborts the pass (R167). -/
def Obligations.EnginePrimitivesRun : Prop :=
  (∀ (a b c : Word) (s t u : Bool) (x y z q : Rat), fval a = .fin s x → fval b = .fin t y → fval c = .fin u z →
    q = x * mkRat 2 3 + y * mkRat (-1) 3 + z * mkRat (-1) 3 → pow2 (-126) ≤ ratAbs q → ratAbs q < pow2 127 →
    Near ((clk3 false a b c).1.getD 0 0#32) q
      (primErr * (ratAbs (x * mkRat 2 3) + ratAbs (y * mkRat (-1) 3) + ratAbs (z * mkRat (-1) 3)))) ∧
  (∀ (a b sn cs : Word) (s t u w : Bool) (x y g h q r : Rat), fval a = .fin s x → fval b = .fin t y → fval sn = .fin u g →
    fval cs = .fin w h → q = x * h + y * g → r = y * h - x * g →
    (pow2 (-126) ≤ ratAbs q → ratAbs q < pow2 127 →
      Near ((park false a b sn cs).1.getD 0 0#32) q (primErr * (ratAbs (x * h) + ratAbs (y * g)))) ∧
    (pow2 (-126) ≤ ratAbs r → ratAbs r < pow2 127 →
      Near ((park false a b sn cs).1.getD 1 0#32) r (primErr * (ratAbs (y * h) + ratAbs (x * g))))) ∧
  (∀ (m : Nat) (a b vdc : Word), (fval vdc = .nan ∨ fval vdc = .inf true ∨ ∃ (s : Bool) (v : Rat), fval vdc = .fin s v ∧ v ≤ 0) →
    svm m a b vdc = ([fHalf, fHalf, fHalf], flNV)) ∧
  (∀ (m : Nat) (a b vdc : Word) (s : Bool) (v : Rat), isFin a = true → isFin b = true → fval vdc = .fin s v → 0 < v →
    (svm m a b vdc).1.length = 3 ∧ ∀ d ∈ (svm m a b vdc).1, Near d (mkRat 1 2) (mkRat 1 2)) ∧
  (∀ (c : Bool) (e kp kit lo hi st : Word), (∀ w ∈ [e, kp, kit, lo, hi, st], isFin w = true) →
    fLe (fval lo) (fval hi) = true →
    fLe (fval lo) (fval ((pis c e kp kit lo hi st).1.headD 0#32)) = true ∧
    fLe (fval ((pis c e kp kit lo hi st).1.headD 0#32)) (fval hi) = true) ∧
  (∀ (c : Bool) (a b st : Word) (s t u : Bool) (x k z q : Rat), fval a = .fin s x → fval b = .fin t k → fval st = .fin u z →
    0 ≤ k → k ≤ 1 → q = z + k * (x - z) → pow2 (-126) ≤ ratAbs q → ratAbs q < pow2 127 →
    Near ((lpf c a b st).1.headD 0#32) q (primErr * (ratAbs z + ratAbs (k * (x - z))))) ∧
  (∀ (e : EngWord) (s : State) (p : PassSt) (l : Nat),
    IssuesAt 0x2C e { ok := mVal e == 0, vd := .v, va := .v, vb := .v, vc := .v, imm := 0x01FF003F, lat := 6 } s p →
    p.pass < 64 → (writing s p e).head? = some l → lflag s (ENG_TD_A_VALID (immBits e 0 6)) = false → ∃ x : State,
    exec (.hys e) s = .next x ∧ Aborted s x p 1 l) ∧
  LaneRuns 0x30 .clk3 (fun e => { ok := mVal e < 2, vd := .dst 2 true, va := .v, vb := .v
                                  vc := if mVal e = 0 then .v else .none, lat := 4 }) 2 (fun e p l =>
    clk3 (mVal e == 1) (vr p e.va.toNat l) (vr p e.vb.toNat l) (vr p e.vc.toNat l)) ∧
  LaneRuns 0x31 .prk parkForm 2 (fun e p l =>
    park false (vr p e.va.toNat l) (vr p e.vb.toNat l) (vr p e.vc.toNat l) (vr p (e.vc.toNat + 1) l)) ∧
  LaneRuns 0x32 .iprk parkForm 2 (fun e p l =>
    park true (vr p e.va.toNat l) (vr p e.vb.toNat l) (vr p e.vc.toNat l) (vr p (e.vc.toNat + 1) l)) ∧
  LaneRuns 0x33 .svm (fun e => { ok := mVal e < 4, vd := .dst 3 false, va := .v, vb := .v, vc := .v, lat := 8 }) 3
    (fun e p l => svm (mVal e) (vr p e.va.toNat l) (vr p e.vb.toNat l) (vr p e.vc.toNat l)) ∧
  LaneRuns 0x35 .msel (fun e => { ok := mVal e == 0 && decide (2 ≤ immBits e 0 4) && decide (immBits e 0 4 ≤ 8)
                                  vd := .dst 2 false, va := .src (immBits e 0 4), imm := 0xF, lat := 4 }) 2 (fun e p l =>
    msel ((List.range (immBits e 0 4)).map fun i => vr p (e.va.toNat + i) l)) ∧
  StateRunsIf (fun e s p => writing s p e = [] ∨ lflag s (ENG_TD_A_VALID (immBits e 0 6)) = true) 0x2C .hys
    (fun e => { ok := mVal e == 0, vd := .v, va := .v, vb := .v, vc := .v, imm := 0x01FF003F, lat := 6 })
    (fun e => immBits e 16 9) (fun e s p l old =>
      hysteresis (tableOf s (immBits e 0 6)) (vr p e.va.toNat l) (vr p e.vb.toNat l) (vr p e.vc.toNat l) old) ∧
  StateRunsIf (fun _ _ _ => True) 0x34 .pis
    (fun e => { ok := mVal e < 2, vd := .v, va := .v, vb := .src 2, vc := .src 2, imm := 0x1FF, lat := 6 })
    (fun e => immBits e 0 9) (fun e _ p l old => pis (mVal e == 0) (vr p e.va.toNat l) (vr p e.vb.toNat l)
      (vr p (e.vb.toNat + 1) l) (vr p e.vc.toNat l) (vr p (e.vc.toNat + 1) l) old) ∧
  StateRunsIf (fun _ _ _ => True) 0x36 .lpf
    (fun e => { ok := mVal e < 2, vd := .v, va := .v, vb := .v, imm := 0x1FF, lat := 4 })
    (fun e => immBits e 0 9) (fun e _ p l old => lpf (mVal e == 0) (vr p e.va.toNat l) (vr p e.vb.toNat l) old)

/-- The loads: LDS reads the committed copy or with MOD[1] the pending one, LDX the latched sample bank, LDT table
memory, and LDC scratch, where a poisoned word reads as NaN with NV (R143, R148, R157, R161). A writing lane's index
outside its memory aborts the pass, in every load and store (R153, R161). No store of the attempt may be on its way to
the word, where R173 leaves the value open.
The stores: STS and STR write pending twin cells tagged with the pass, the highest lane of equal words last, and
STC writes scratch; no other word changes and no committed copy does (R144, R147, R153, R161). -/
def Obligations.EngineLoadsAndStores : Prop :=
  (LaneRunsIf (fun e s p => mBit e 1 = false ∧ ∀ l ∈ writing s p e, (stateIndex s e p l).isSome = true) 0x08 .lds
    (fun e => memForm e true true) 1 (fun e s p l => ([stateWord s ((stateIndex s e p l).getD 0)], 0)) ∧
  LaneRunsIf (fun e s p => mBit e 1 = true ∧ p.flight = [] ∧ ∀ l ∈ writing s p e, (stateIndex s e p l).isSome = true)
    0x08 .lds (fun e => memForm e true true) 1
    (fun e s p l => ([(cell s ((stateIndex s e p l).getD 0)).pendVal], 0)) ∧
  LaneRunsIf (fun e s p => ∀ l ∈ writing s p e, memIndex e p l < 1024) 0x0A .ldx (fun e => memForm e true false) 1
    (fun e s p l => ([sample s (memIndex e p l)], 0)) ∧
  LaneRunsIf (fun e s p => ∀ l ∈ writing s p e, memIndex e p l < 16384) 0x0C .ldt (fun e => memForm e true false) 1
    (fun e s p l => ([rdWord s (0x441A0000 + 4 * memIndex e p l)], 0)) ∧
  LaneRunsIf (fun e s p => p.flight = [] ∧ ∀ l ∈ writing s p e, memIndex e p l < 8192) 0x0D .ldc
    (fun e => memForm e true false) 1 (fun e s p l =>
      if (scr s (memIndex e p l)).poison then ([qNaN], flNV) else ([(scr s (memIndex e p l)).val], 0)) ∧
  (∀ (op : Nat) (mk : EngWord → Instr) (ld pd : Bool) (idx : State → EngWord → PassSt → Nat → Option Nat),
    (op, mk, ld, pd, idx) ∈ memoryOps → ∀ (e : EngWord) (s : State) (p : PassSt) (l : Nat),
    IssuesAt op e (memForm e ld pd) s p → p.pass < 64 →
    (writing s p e).find? (fun l => (idx s e p l).isNone) = some l → ∃ x : State,
    exec (mk e) s = .next x ∧ Aborted s x p 2 l)) ∧
  ((∀ (e : EngWord) (s : State) (p : PassSt), IssuesAt 0x09 e (memForm e false false) s p →
    (∀ l ∈ writing s p e, (stateIndex s e p l).isSome = true) → ∃ (q : PassSt) (y : State),
    exec (.sts e) s = .next (putRun q y) ∧ q.pc = p.pc + 1 ∧ q.v = p.v ∧ q.a = p.a ∧
    (∀ l ∈ topLanes (fun l => stateIndex s e p l) (writing s p e), ∀ k, stateIndex s e p l = some k →
      (cell s k).units = [] → (cell y k).eng = some (vr p e.vc.toNat l, p.pass)) ∧
    (∀ k, (∀ l ∈ writing s p e, stateIndex s e p l ≠ some k) → cell y k = cell s k) ∧
    (∀ k, (cell y k).com = (cell s k).com) ∧ (∀ k, (cell s k).units ≠ [] → cell y k = cell s k) ∧ y.mem = s.mem ∧
    (∀ k, scr y k = scr s k)) ∧
  (∀ (e : EngWord) (s : State) (p : PassSt), IssuesAt 0x0B e (memForm e false false) s p → p.flight = [] →
    (∀ l ∈ writing s p e, memIndex e p l < 416) → ∃ (q : PassSt) (y : State),
    exec (.str e) s = .next (putRun q y) ∧ q.pc = p.pc + 1 ∧ q.v = p.v ∧ q.a = p.a ∧
    (∀ l ∈ topLanes (fun l => wordIndex 416 e p l) (writing s p e), (cell s (resKey (memIndex e p l))).units = [] →
      (cell y (resKey (memIndex e p l))).eng = some (vr p e.vc.toNat l, p.pass)) ∧
    (∀ k, (∀ l ∈ writing s p e, resKey (memIndex e p l) ≠ k) → cell y k = cell s k) ∧
    (∀ k, (cell y k).com = (cell s k).com) ∧ y.mem = s.mem ∧ (∀ k, scr y k = scr s k)) ∧
  (∀ (e : EngWord) (s : State) (p : PassSt), IssuesAt 0x0E e (memForm e false false) s p → p.flight = [] →
    (∀ l ∈ writing s p e, memIndex e p l < 8192) → ∃ (q : PassSt) (y : State),
    exec (.stc e) s = .next (putRun q y) ∧ q.pc = p.pc + 1 ∧ q.v = p.v ∧ q.a = p.a ∧
    (∀ l ∈ topLanes (fun l => wordIndex 8192 e p l) (writing s p e),
      scr y (memIndex e p l) = { val := vr p e.vc.toNat l, written := true, poison := false }) ∧
    (∀ k, (∀ l ∈ writing s p e, memIndex e p l ≠ k) → scr y k = scr s k) ∧ y.eng.cells = s.eng.cells ∧
    y.mem = s.mem ∧ y.regs = s.regs))

/-- The injection generators start at tick 0 with the LFSR at 1, stop, advance their LFSR of x¹⁵ + x¹⁴ + 1, and end at
LEN (R178).  R178 gives the polynomial only: that the register shifts left and takes b14 xor b13 as bit 0 is the model's
choice (log 23). -/
def Obligations.InjectionGenerators : Prop :=
  (∀ (n : Fin 4) (m : Mask) (d v : Word) (s : State), v = clWord s (ENG_IG_CFG n.val) m d → m.getLsbD 3 = true →
    (ENG_IG_CFG_RUN n.val).of d = 1 → (ENG_IG_CFG_RUN n.val).of v = 1 → (ENG_IG_CFG_KIND n.val).of v ≠ 3 →
    fld s (ENG_IG_LEN_TICKS n.val) ≠ 0 → ∃ x : State, exec (.igStart n m d) s = .next x ∧
    ig x n.val = { running := true, k := 0, lfsr := 1, advDue := false } ∧ fld x (ENG_IG_POS_RUNNING n.val) = 1 ∧
    fld x (ENG_IG_POS_TICKS n.val) = 0 ∧
    (∀ a, a ≠ ENG_IG_CFG n.val → a ≠ ENG_IG_POS n.val → reg x a = reg s a) ∧ x.mem = s.mem) ∧
  (∀ (n : Fin 4) (m : Mask) (d v : Word) (s : State), v = clWord s (ENG_IG_CFG n.val) m d → m.getLsbD 3 = true →
    (ENG_IG_CFG_RUN n.val).of d = 0 → (ENG_IG_CFG_RUN n.val).of v = 0 → ∃ x : State,
    exec (.igStop n m d) s = .next x ∧ (ig x n.val).running = false ∧ fld x (ENG_IG_POS_RUNNING n.val) = 0 ∧
    (∀ a, a ≠ ENG_IG_CFG n.val → a ≠ ENG_IG_POS n.val → reg x a = reg s a) ∧ x.mem = s.mem) ∧
  (∀ (n : Fin 4) (s : State), (ig s n.val).running = true → (ig s n.val).advDue = true → ∃ x : State,
    exec (.igPrbsAdvance n) s = .next x ∧ (ig x n.val).advDue = false ∧ (ig x n.val).running = true ∧
    (∀ i, i < 14 → (ig x n.val).lfsr.getLsbD (i + 1) = (ig s n.val).lfsr.getLsbD i) ∧
    (ig x n.val).lfsr.getLsbD 0 = ((ig s n.val).lfsr.getLsbD 14 != (ig s n.val).lfsr.getLsbD 13) ∧
    x.regs = s.regs ∧ x.mem = s.mem) ∧
  (∀ (n : Fin 4) (s : State), (ig s n.val).running = true → fld s (ENG_IG_LEN_TICKS n.val) ≤ (ig s n.val).k →
    ∃ x : State, exec (.engIgDone n) s = .next x ∧ (ig x n.val).running = false ∧
    fld x (ENG_IG_POS_RUNNING n.val) = 0 ∧
    (∀ a, winOf a ≠ 3 → a ≠ SPN_CNT2 → a ≠ ENG_IG_POS n.val → reg x a = reg s a) ∧ x.mem = s.mem)

/-- At an update point a driven leg takes the duty of the latest commit (R209); where the check of its source has failed
it is withheld and both gates go low, but for the duty of a discharge (R206); other carrier points keep the duty; a leg
that is not driven keeps its plan and its gates. Other legs and every register keep their values, and an edge is never
placed sooner than T_min after the last one (R217).
Sampling instants, MOD_UNDIAG and the diagnostic pulse (R219, R223 to R225): an instant of the diagnosis alone is not
taken for one of R219, and the pulse that replaces a narrow one is not NARROW. -/
def Obligations.CarrierPointsAndSampling : Prop :=
  ((∀ (l : Fin 96) (t : Time) (s : State), pointDue s l.val t = true → isUpdate s l.val (pointAt s l.val t) = true →
    driven s l.val = true → disWaits s l.val t = false →
    ((leg s l.val).srcBad = false ∨ (grp s (legGrp s l.val)).kind = 4) → ∃ x : State,
    exec (.carrierUpdatePoint l t) s = .next x ∧
    (leg x l.val).duty = some (dutyFor s l.val) ∧ (leg x l.val).withheld = false ∧ (leg x l.val).ptAt = some t ∧
    (∀ j, j ≠ l.val → leg x j = leg s j) ∧ x.regs = s.regs ∧ x.mem = s.mem ∧ x.grps = s.grps) ∧
  (∀ (l : Fin 96) (t : Time) (s : State), pointDue s l.val t = true → isUpdate s l.val (pointAt s l.val t) = true →
    driven s l.val = true → (leg s l.val).srcBad = true → (grp s (legGrp s l.val)).kind ≠ 4 → ∃ x : State,
    exec (.carrierUpdatePoint l t) s = .next x ∧
    (leg x l.val).withheld = true ∧ (leg x l.val).plan = [] ∧ GatesOff x l.val ∧
    (∀ j, j ≠ l.val → leg x j = leg s j) ∧ x.regs = s.regs ∧ x.mem = s.mem ∧ x.grps = s.grps) ∧
  (∀ (l : Fin 96) (t : Time) (s : State), pointDue s l.val t = true → isUpdate s l.val (pointAt s l.val t) = false →
    driven s l.val = true → disWaits s l.val t = false → ∃ x : State, exec (.carrierPeriodStart l t) s = .next x ∧
    (leg x l.val).ptAt = some t ∧ (pointAt s l.val t = .start → (leg x l.val).periodAt = t) ∧
    ((leg s l.val).withheld = false → (leg x l.val).duty = (leg s l.val).duty) ∧
    ((leg s l.val).withheld = true → (leg x l.val).plan = [] ∧ GatesOff x l.val) ∧
    (∀ j, j ≠ l.val → leg x j = leg s j) ∧ x.regs = s.regs ∧ x.mem = s.mem ∧ x.grps = s.grps) ∧
  (∀ (l : Fin 96) (t : Time) (s : State), pointDue s l.val t = true → isUpdate s l.val (pointAt s l.val t) = true →
    driven s l.val = false → ∃ x : State, exec (.carrierUpdatePoint l t) s = .next x ∧ (leg x l.val).ptAt = some t ∧
    (leg x l.val).plan = (leg s l.val).plan ∧ (leg x l.val).duty = (leg s l.val).duty ∧
    (leg x l.val).h = (leg s l.val).h ∧ (leg x l.val).l = (leg s l.val).l ∧ x.regs = s.regs) ∧
  (∀ (m : Mp) (rise : Bool) (d : Time) (x : LegSt) (b : Bool) (a : Time), x.lastEdge = some (b, a) → b ≠ rise →
    ∃ e : Time, (place m rise d x).plan = x.plan ++ [⟨e, rise⟩] ∧ d ≤ e ∧ plusFine a m.tmin ≤ e ∧
      (e = d ∨ e = plusFine a m.tmin))) ∧
  ((∀ (g : Fin 16) (t : Time) (s : State), ticking s = true → s.tbLost = false →
    ∃ x : State, exec (.samplingInstant g t) s = .next x ∧
    (isInstant s g.val t = true → (grp x g.val).sampledAt = some t) ∧
    (isInstant s g.val t = false → (grp x g.val).sampledAt = (grp s g.val).sampledAt) ∧
    (∀ l ∈ grpLegs s g.val, (leg s l).diagAt = some t → (leg x l).diagAt = none ∧ (grp x g.val).diagSeen = some t) ∧
    (∀ h, h ≠ g.val → grp x h = grp s h) ∧
    (∀ l, (leg x l).h = (leg s l).h ∧ (leg x l).l = (leg s l).l) ∧ x.regs = s.regs ∧ x.mem = s.mem) ∧
  (∀ (l : Fin 96) (s : State), legOn s l.val = true → aflag s (MOD_LEG_DIAG_DIAGEN l.val) = true →
    aflag s (MOD_GRP_CFG_DINS (legGrp s l.val)) = false → afld s (MOD_LEG_DIAG_N l.val) ≤ (leg s l.val).undiag →
    (leg s l.val).undiagSet = false → ∃ x : State, exec (.modUndiag l) s = .next x ∧
    (leg x l.val).undiagSet = true ∧ (leg x l.val).bits = (leg s l.val).bits ||| (1#32 <<< 18) ∧
    (leg x l.val).h = (leg s l.val).h ∧ (leg x l.val).l = (leg s l.val).l ∧ (∀ j, j ≠ l.val → leg x j = leg s j) ∧
    (∀ a, winOf a ≠ 3 → a ≠ SPN_CNT2 → reg x a = reg s a) ∧ x.mem = s.mem) ∧
  (∀ (l : Fin 96) (s : State), driven s l.val = true → (grp s (legGrp s l.val)).hold = false →
    aflag s (MOD_LEG_DIAG_DIAGEN l.val) = true → aflag s (MOD_GRP_CFG_DINS (legGrp s l.val)) = true →
    afld s (MOD_LEG_DIAG_N l.val) ≤ (leg s l.val).undiag → (leg s l.val).diagOn = false →
    (leg s l.val).withheld = false → (leg s l.val).duty.isSome = true →
    (leg s l.val).idealAt ≤ (leg s l.val).periodAt → ∃ x : State, exec (.diagPulseInsert l) s = .next x ∧
    (leg x l.val).diagOn = true ∧ (leg x l.val).carry = 0 ∧ (leg x l.val).diagAt.isSome = true ∧
    (leg x l.val).h = (leg s l.val).h ∧ (leg x l.val).l = (leg s l.val).l ∧
    (leg x l.val).bits.getLsbD 19 = true ∧ ((leg s l.val).narrowWas = false → (leg x l.val).bits.getLsbD 17 = false) ∧
      (∀ j, j ≠ l.val → leg x j = leg s j) ∧ x.regs = s.regs ∧ x.mem = s.mem))

/-- An ideal edge turns the opposite gate off at once and asks for the other gate a dead time later (R210 to R212).  At a
rising edge the leg's fault latch clears where its conditions hold; while it stays set no gate follows (R244), nor while
FLTc is low (R235).
A gate rises only when the opposite gate is off, off-confirmed and has been low for the dead time, not after its
deadline, and not while its bank is out of its range (R230 to R232, R482; that a bank is back once software has cleared
its BOR bit is the model's choice, log 62). -/
def Obligations.EdgesMoveTheGates : Prop :=
  ((∀ (l : Fin 96) (s : State) (e : Edge) (r : List Edge) (sd : Side), (leg s l.val).plan = e :: r → driven s l.val = true →
    ((leg s l.val).latch = false ∨ e.rise = true ∧ latchMayClear s l.val = true) → (cl s (l.val / 6)).low = false →
    sd = (if e.rise then .high else .low) → ∃ x : State,
    exec (.modEdge l) s = .next x ∧ (leg x l.val).ideal = some e.rise ∧ (leg x l.val).idealAt = e.at_ ∧
    (leg x l.val).plan = r ∧ (leg x l.val).latch = false ∧ ((leg x l.val).gate sd.other).on = false ∧
    ((leg x l.val).gate sd.other).want = none ∧
    (((leg x l.val).gate sd).want = some (e.at_ + deadTime s l.val) ∨ ((leg x l.val).gate sd).on = true) ∧
    (∀ j, j ≠ l.val → leg x j = leg s j) ∧ x.now = max s.now e.at_ ∧ x.mem = s.mem) ∧
  (∀ (l : Fin 96) (s : State) (e : Edge) (r : List Edge), (leg s l.val).plan = e :: r → driven s l.val = true →
    (leg s l.val).latch = true → (e.rise = false ∨ latchMayClear s l.val = false) → ∃ x : State,
    exec (.modEdge l) s = .next x ∧ (leg x l.val).ideal = some e.rise ∧ (leg x l.val).plan = r ∧
    (leg x l.val).h = (leg s l.val).h ∧ (leg x l.val).l = (leg s l.val).l ∧ (leg x l.val).latch = true ∧ x.regs = s.regs) ∧
  (∀ (l : Fin 96) (s : State) (e : Edge) (r : List Edge), (leg s l.val).plan = e :: r → driven s l.val = true →
    (cl s (l.val / 6)).low = true → ∃ x : State, exec (.modEdge l) s = .next x ∧ (leg x l.val).plan = r ∧
    (leg x l.val).h = (leg s l.val).h ∧ (leg x l.val).l = (leg s l.val).l ∧ x.regs = s.regs)) ∧
  ((∀ (l : Fin 96) (sd : Side) (t w : Time) (s : State), ((leg s l.val).gate sd).want = some w → w ≤ t →
    interlockOk s l.val sd t = true → t ≤ deadline s l.val sd w → bankUp s (l.val / 6) = true → ∃ x : State,
    exec (.deadTimeExpire l sd t) s = .next x ∧ ((leg x l.val).gate sd).on = true ∧
    ((leg x l.val).gate sd).edgeAt = t ∧ ((leg x l.val).gate sd).want = none ∧
    (leg x l.val).gate sd.other = (leg s l.val).gate sd.other ∧ (∀ j, j ≠ l.val → leg x j = leg s j) ∧
    x.regs = s.regs ∧ x.mem = s.mem) ∧
  (∀ (l : Nat) (sd sd' : Side) (t : Time) (s : State), ((leg s l).gate sd').on = false →
    ((leg (turnOnIfReady l sd t s) l).gate sd').on = true → sd' = sd ∧ ((leg s l).gate sd.other).on = false ∧
    ((leg s l).gate sd.other).cfm = true ∧ ((leg s l).gate sd.other).edgeAt + deadTime s l ≤ t ∧
    bankUp s (l / 6) = true) ∧
  (∀ (l : Fin 96) (sd : Side) (t : Time) (s : State), (interlockOk s l.val sd t = false ∨ bankUp s (l.val / 6) = false) →
    exec (.deadTimeExpire l sd t) s = .next (upto t s)))

/-- A status edge is taken over (R230); a turn-on that meets its deadline unconfirmed latches the leg with both gates
low (R232), and a gate whose status disagrees for longer than STUCK_T is marked, but for a lost timebase, and makes its
group HARD and held (R233, R243, R245). -/
def Obligations.StatusFaultsLowerTheLeg : Prop :=
  (∀ (l : Fin 96) (sd : Side) (v : Bool) (t : Time) (s : State), hasLeg s l.val = true →
    ((leg s l.val).gate sd).cfm ≠ v → ∃ x : State, exec (.statusInputEdge l sd v t) s = .next x ∧
    ((leg x l.val).gate sd).cfm = v ∧ ((leg x l.val).gate sd).cfmAt = t ∧
    ((leg x l.val).gate sd).on = ((leg s l.val).gate sd).on ∧ (∀ j, j ≠ l.val → leg x j = leg s j) ∧
    x.regs = s.regs ∧ x.mem = s.mem) ∧
  (∀ (l : Fin 96) (sd : Side) (t w : Time) (s : State), ((leg s l.val).gate sd).want = some w → legOn s l.val = true →
    ((leg s l.val).gate sd.other).on = false → deadline s l.val sd w ≤ t → interlockOk s l.val sd t = false →
    ∃ x : State, exec (.confirmTimeout l sd t) s = .next x ∧ GatesOff x l.val ∧ (leg x l.val).latch = true ∧
    (leg x l.val).bits.getLsbD 2 = true ∧ x.mem = s.mem) ∧
  (∀ (l : Fin 96) (sd : Side) (t : Time) (s : State) (g : Gate), g = (leg s l.val).gate sd → legOn s l.val = true →
    ticking s = true → g.disagrees = true → g.stuckSeen = false → max g.edgeAt g.cfmAt + stuckT s < t → ∃ x : State,
    exec (.stuckGate l sd t) s = .next x ∧ GatesOff x l.val ∧ (leg x l.val).latch = true ∧
    (grp x (legGrp s l.val)).hold = true ∧ (grp x (legGrp s l.val)).hard = true ∧
    (s.tbLost = false → (g.on = true → ((leg x l.val).gate sd).unus = true) ∧
      (g.on = false → ((leg x l.val).gate sd).stuckOn = true)) ∧ x.mem = s.mem)

/-- A debug halt of a unit or of the engine, through a debug port that acts and while the tick runs, puts the groups that
depend on it into a hold: one that was not held takes cause 7, and every gate of it goes low; before the first tick it
halts alone, and through a port that does not act it has no effect.  The loss of the timebase puts every group with a leg
into a hold of cause 8, with every gate low that a modulator or a discharge drove, and ends every poll.  A resume leaves
the groups as they are (R220, R221, R243, R436). -/
def Obligations.DebugHaltAndTimebaseLoss : Prop :=
  (∀ (u : Fin 8) (t : Time) (s : State), hasUnit s u.val = true → u.val ≠ 7 → ticking s = true →
    dbgActs (upto t s) = true → ∃ x : State,
    exec (.debugHalt u t) s = .next x ∧ (unit x u.val).halted = true ∧
    (∀ g ∈ depGroups s u.val, HeldBy 7 g s x) ∧ (∀ g, g ∉ depGroups s u.val → grp x g = grp s g) ∧
    (∀ l, (∀ g ∈ depGroups s u.val, l ∉ grpLegs s g) → leg x l = leg s l) ∧ x.engHalt = s.engHalt ∧ x.mem = s.mem) ∧
  (∀ (t : Time) (s : State), ticking s = true → hasUnit s 7 = true → dbgActs (upto t s) = true → ∃ x : State,
    exec (.debugHalt 7 t) s = .next x ∧ x.engHalt = true ∧
    (∀ g, g < 16 → HeldBy 7 g s x) ∧ x.units = s.units ∧ x.mem = s.mem) ∧
  (∀ (u : Fin 8) (t : Time) (s : State), hasUnit s u.val = true → ticking s = false → dbgActs (upto t s) = true →
    ∃ x : State, exec (.debugHalt u t) s = .next x ∧ (u.val = 7 → x.engHalt = true) ∧
    (u.val ≠ 7 → (unit x u.val).halted = true) ∧ x.grps = s.grps ∧ x.legs = s.legs ∧ x.regs = s.regs ∧ x.mem = s.mem) ∧
  (∀ (u : Fin 8) (t : Time) (s : State), (hasUnit s u.val = false ∨ dbgActs (upto t s) = false) →
    exec (.debugHalt u t) s = .next (upto t s)) ∧
  (∀ (u : Fin 8) (s : State), u.val ≠ 7 → ∃ x : State, exec (.debugResume u) s = .next x ∧
    (unit x u.val).halted = false ∧ (unit x (u.val + 8)).halted = false ∧ x.grps = s.grps ∧ x.legs = s.legs ∧
    x.regs = s.regs ∧ x.mem = s.mem) ∧
  (∀ s : State, exec (.debugResume 7) s = .next { s with engHalt := false }) ∧
  (∀ (t : Time) (s : State), s.tbLost = false → ∃ x : State, exec (.timebaseLoss t) s = .next x ∧ x.tbLost = true ∧
    (∀ g, g < 16 → grpLegs s g ≠ [] → HeldBy 8 g s x) ∧
    (∀ l, l < 96 → legOn s l = true → ((grp s (legGrp s l)).hold = false ∨ disDrives s (legGrp s l) = true) →
      GatesOff x l) ∧ (∀ c, c < 16 → (cl x c).poll = none ∧ (cl x c).asked = none) ∧ x.mem = s.mem)

/-- A fall of FLTc turns every gate of the cluster off and latches its enabled legs, and lasting FLT_HARD_T makes its
groups HARD; a rise asks for a further poll (R234, R241, R245). -/
def Obligations.FaultLineLowersTheCluster : Prop :=
  (∀ (c : Fin 16) (t : Time) (s : State), hasCluster s c.val = true → (cl s c.val).low = false → ∃ x : State,
    exec (.fltFall c t) s = .next x ∧ (cl x c.val).low = true ∧ (cl x c.val).lowAt = t ∧
    (cl x c.val).clean = false ∧ (∀ l, l < 96 → l / 6 = c.val → GatesOff x l) ∧
    (∀ l ∈ clLegs s c.val, (leg x l).latch = true) ∧ x.mem = s.mem) ∧
  (∀ (c : Fin 16) (t : Time) (s : State), (cl s c.val).low = true → ∃ x : State, exec (.fltRise c t) s = .next x ∧
    (cl x c.val).low = false ∧ (cl x c.val).clean = false ∧ (busUp s c.val = true → (cl x c.val).poll.isSome = true) ∧
    (∀ d, d ≠ c.val → cl x d = cl s d) ∧ (∀ l, (leg x l).h = (leg s l).h ∧ (leg x l).l = (leg s l).l) ∧
    (∀ a, winOf a ≠ 3 → a ≠ SPN_CNT2 → reg x a = reg s a) ∧ x.mem = s.mem) ∧
  (∀ (c : Fin 16) (t : Time) (s : State), (cl s c.val).low = true → (cl s c.val).hardDone = false →
    (cl s c.val).lowAt + hardT s ≤ t → ∃ x : State, exec (.fltHard c t) s = .next x ∧
    (cl x c.val).hardDone = true ∧ (∀ g ∈ clGrps s c.val, (grp x g).hard = true ∧ (grp x g).hold = true) ∧
    x.mem = s.mem)

/-- The profile bus sends: a fault poll repeats 10 µs after the last while FLTc is low, a periodic poll falls at its
ticks, a request asks one driver or with address 6 all, and the edge-profile and configuration frames carry their codes
and their CRC; each waits for a free bus, and the poll after the start frames follows them (R241, R252 to R258).
The replies on the profile bus: a clean one is noted and no gate, latch or mark changes; one with FH sets FSRC and,
in a fault poll, latches the leg and marks its high side unusable; an invalid one counts as absent, and so does the
reply to an addressed request that is over without one (its end is seen at the next use of the bus: the model's choice,
log 63); and a poll ends after its 134 cycles, clean where every enabled leg gave a clean reply with FLTc high (R238,
R241, R244, R255, R256). -/
def Obligations.ProfileBusFramesAndPolls : Prop :=
  ((∀ (c : Fin 16) (t : Time) (s : State), (cl s c.val).low = true → (cl s c.val).pollAt + 10 * us ≤ t →
    busUp s c.val = true → (cl s c.val).poll = none → ∃ x : State, exec (.faultPollRepeat c t) s = .next x ∧
    (cl x c.val).poll = some (max t (cl s c.val).busyTo) ∧ (cl x c.val).fault = true ∧
    (cl x c.val).frame = reqFrame 6 2 0 ∧ (∀ d, d ≠ c.val → cl x d = cl s d) ∧
    (∀ l, (leg x l).h = (leg s l).h ∧ (leg x l).l = (leg s l).l) ∧ (∀ a, winOf a ≠ 3 → a ≠ SPN_CNT2 → reg x a = reg s a)) ∧
  (∀ (c : Fin 16) (s : State), busUp s c.val = true → afld s (GLK_CL_CFG_POLL c.val) ≠ 0 →
    s.tick.tcnt % afld s (GLK_CL_CFG_POLL c.val) = 0 → (cl s c.val).perTick ≠ some s.tick.count →
    (s.tick.tcnt ≠ 0 ∨ (cl s c.val).started = true) → (cl s c.val).poll = none → ∃ x : State,
    exec (.periodicPoll c) s = .next x ∧ (cl x c.val).poll = some (max s.now (cl s c.val).busyTo) ∧
    (cl x c.val).fault = false ∧ (cl x c.val).perTick = some s.tick.count ∧ (cl x c.val).frame = reqFrame 6 2 0 ∧
    (∀ l, (leg x l).h = (leg s l).h ∧ (leg x l).l = (leg s l).l) ∧ (∀ a, winOf a ≠ 3 → a ≠ SPN_CNT2 → reg x a = reg s a)) ∧
  (∀ (c : Fin 16) (a : Fin 7) (t : Time) (s : State), busUp s c.val = true → busFree s c.val t = true → ∃ x : State,
    exec (.statusRequest c a t) s = .next x ∧ (cl x c.val).frame = reqFrame a.val 2 0 ∧
    (a.val ≠ 6 → (cl x c.val).asked = some a.val ∧ (cl x c.val).askAt = t) ∧
    (a.val = 6 → (cl x c.val).poll = some t ∧ (cl x c.val).fault = false) ∧
    (∀ l, (leg x l).h = (leg s l).h ∧ (leg x l).l = (leg s l).l) ∧ (∀ a, winOf a ≠ 3 → a ≠ SPN_CNT2 → reg x a = reg s a)) ∧
  (∀ (l : Fin 96) (sd : Side) (t : Time) (s : State), legOn s l.val = true → busUp s (l.val / 6) = true →
    busFree s (l.val / 6) t = true → ((leg s l.val).gate sd).sent ≠ some (sideCodes s l.val sd) → ∃ x : State,
    exec (.edgeProfile l sd t) s = .next x ∧ ((leg x l.val).gate sd).sent = some (sideCodes s l.val sd) ∧
    ((cl s (l.val / 6)).started = true → (cl x (l.val / 6)).frame = reqFrame (l.val % 6) 0 ((if sd = .low then 2 ^ 13 else 0) +
      (sideCodes s l.val sd).1 * 2 ^ 9 + (sideCodes s l.val sd).2 * 2 ^ 5)) ∧
    ((cl s (l.val / 6)).started = false → framesSent s (l.val / 6) = false → framesSent x (l.val / 6) = true →
      (cl x (l.val / 6)).poll = some (t + frameTime)) ∧
    (∀ k : Side, ((leg x l.val).gate k).on = ((leg s l.val).gate k).on) ∧ (∀ a, winOf a ≠ 3 → a ≠ SPN_CNT2 →
      reg x a = reg s a) ∧ x.mem = s.mem) ∧
  (∀ (l : Fin 96) (t : Time) (s : State), legOn s l.val = true → busUp s (l.val / 6) = true →
    busFree s (l.val / 6) t = true → (leg s l.val).cfgSent = false → ∃ x : State,
    exec (.configurationFrame l t) s = .next x ∧ (leg x l.val).cfgSent = true ∧
    ((cl s (l.val / 6)).started = true → (cl x (l.val / 6)).frame = reqFrame (l.val % 6) 1
      (afld s (GLK_LEG_SC_SLOPE l.val) * 2 ^ 9 + afld s (GLK_LEG_SC_FSNK l.val) * 2 ^ 5)) ∧
    (∀ k, (leg x k).h = (leg s k).h ∧ (leg x k).l = (leg s k).l) ∧ (∀ a, winOf a ≠ 3 → a ≠ SPN_CNT2 → reg x a = reg s a))) ∧
  ((∀ (c : Fin 16) (a : Fin 6) (r : BitVec 16) (t : Time) (s : State) (l : Nat), l = 6 * c.val + a.val →
    slotDue (cl s c.val) a.val t = true → askDue (cl s c.val) a.val t = false → legOn s l = true →
    replyOk a.val r = true → r.getLsbD 14 = false → r.getLsbD 13 = false → r.getLsbD 12 = false → r.getLsbD 10 = false →
    ((cl s c.val).asked.isSome = true → t < (cl s c.val).askAt + askTime) → ∃ x : State,
      exec (.pollReply c a r t) s = .next x ∧ (cl x c.val).seen.getLsbD a.val = true ∧
    (∀ k, (leg x k).h = (leg s k).h ∧ (leg x k).l = (leg s k).l ∧ (leg x k).latch = (leg s k).latch) ∧
    x.grps = s.grps ∧ x.regs = s.regs) ∧
  (∀ (c : Fin 16) (a : Fin 6) (r : BitVec 16) (t : Time) (s : State) (l : Nat), l = 6 * c.val + a.val →
    slotDue (cl s c.val) a.val t = true → askDue (cl s c.val) a.val t = false → legOn s l = true →
    replyOk a.val r = true → r.getLsbD 14 = true → s.tbLost = false → ∃ x : State,
    exec (.pollReply c a r t) s = .next x ∧ (leg x l).bits.getLsbD 1 = true ∧ (cl x c.val).dirty = true ∧
    ((cl s c.val).fault = true → (leg x l).latch = true ∧ (leg x l).h.unus = true) ∧
    ((cl s c.val).fault = false → (leg x l).latch = (leg s l).latch ∧ (leg x l).h = (leg s l).h)) ∧
  (∀ (c : Fin 16) (a : Fin 6) (r : BitVec 16) (t : Time) (s : State) (l : Nat), l = 6 * c.val + a.val →
    slotDue (cl s c.val) a.val t = true → askDue (cl s c.val) a.val t = false → legOn s l = true →
    replyOk a.val r = false → ∃ x : State, exec (.pollReply c a r t) s = .next x ∧
    (leg x l).bits.getLsbD 8 = true ∧ (cl x c.val).dirty = true ∧
    ((cl s c.val).fault = true → (grp s (legGrp s l)).hold = true → (leg x l).excl = true)) ∧
  (∀ (c : Fin 16) (t p : Time) (s : State), (cl s c.val).poll = some p → p + pollTime ≤ t →
    (cl s c.val).again = false → (∀ l ∈ clLegs s c.val, (cl s c.val).seen.getLsbD (l % 6) = true) →
    ((cl s c.val).asked.isSome = true → t < (cl s c.val).askAt + askTime) → ∃ x : State,
    exec (.pollComplete c t) s = .next x ∧ (cl x c.val).poll = none ∧
    (cl x c.val).clean = ((cl s c.val).clean || (!(cl s c.val).dirty && !(cl s c.val).low)) ∧
    (cl x c.val).started = ((cl s c.val).started || (cl s c.val).pollNew) ∧ x.legs = s.legs ∧ x.regs = s.regs) ∧
  (∀ (c : Fin 16) (t p : Time) (s : State) (l : Nat), (cl s c.val).poll = some p → p + pollTime ≤ t →
    (cl s c.val).again = false → l ∈ clLegs s c.val → (cl s c.val).seen.getLsbD (l % 6) = false → ∃ x : State,
    exec (.pollComplete c t) s = .next x ∧ (cl x c.val).poll = none ∧ (leg x l).bits.getLsbD 8 = true ∧
    (cl x c.val).clean = (cl s c.val).clean) ∧
  (∀ (c : Fin 16) (a : Nat) (t : Time) (s : State), (cl s c.val).asked = some a → (cl s c.val).askAt + askTime ≤ t →
    legOn s (6 * c.val + a) = true → (cl s c.val).poll = none → ∃ x : State, exec (.pollComplete c t) s = .next x ∧
    (cl x c.val).asked = none ∧ (leg x (6 * c.val + a)).bits.getLsbD 8 = true ∧
    (∀ l, (leg x l).h = (leg s l).h ∧ (leg x l).l = (leg s l).l ∧ (leg x l).latch = (leg s l).latch) ∧ x.grps = s.grps))

/-- The safe-state sequence: entering a hold turns every gate of the group off (R236, R237); ASC turns the chosen side
of every leg on once the opposite side is quiet; a leg that fails its verification or its wait is marked (R238), while
the timebase runs (R243). -/
def Obligations.SafeStateSequence : Prop :=
  (∀ (cause : Nat) (soft : Bool) (t : Time) (g : Nat) (s : State), (grp s g).hold = false →
    (grp (enterHold cause soft t g s) g).hold = true ∧ (grp (enterHold cause soft t g s) g).cause = cause ∧
    (grp (enterHold cause soft t g s) g).soft = soft ∧ (grp (enterHold cause soft t g s) g).stepAt = t ∧
    (∀ l ∈ grpLegs s g, GatesOff (enterHold cause soft t g s) l ∧ (leg (enterHold cause soft t g s) l).duty = none) ∧
    (∀ h, h ≠ g → grp (enterHold cause soft t g s) h = grp s h) ∧
    (∀ l, l ∉ grpLegs s g → leg (enterHold cause soft t g s) l = leg s l)) ∧
  (∀ (g : Fin 16) (t : Time) (s : State) (sd : Side), (grp s g.val).hold = true → (grp s g.val).step = 2 →
    pollsDone s g.val = true → (grp s g.val).side = some sd → (grp s g.val).rechoose = false →
    (∀ l ∈ grpLegs s g.val, waited s sd t l = true) → ∃ x : State, exec (.ascTurnOn g t) s = .next x ∧
    (grp x g.val).step = 4 ∧ (grp x g.val).onAt = t ∧ (grp x g.val).side = some sd ∧
    (∀ l ∈ grpLegs s g.val, (leg s l).excl = false → ((leg x l).gate sd.other).on = false ∧
      (bankUp s (l / 6) = true → ((leg x l).gate sd).on = true)) ∧
    (∀ l, l ∉ grpLegs s g.val → leg x l = leg s l) ∧ x.regs = s.regs ∧ x.mem = s.mem) ∧
  (∀ (l : Fin 96) (t : Time) (s : State) (sd : Side) (x : GrpSt), x = grp s (legGrp s l.val) → x.side = some sd →
    legOn s l.val = true → s.tbLost = false → x.hold = true → x.step = 4 → ((leg s l.val).gate sd).on = true →
    ((leg s l.val).gate sd).cfm = true → x.onAt + confirmTmo s ≤ t → ∃ y : State,
    exec (.ascVerifyTimeout l t) s = .next y ∧ ((leg y l.val).gate sd).unus = true ∧ y.mem = s.mem) ∧
  (∀ (l : Fin 96) (t : Time) (s : State) (sd : Side) (x : GrpSt), x = grp s (legGrp s l.val) → x.side = some sd →
    legOn s l.val = true → s.tbLost = false → x.hold = true → x.step = 2 → (leg s l.val).excl = false →
    ((leg s l.val).gate sd.other).cfm = false → ((leg s l.val).gate sd.other).stuckOn = false →
    x.stepAt + deadTime s l.val + confirmTmo s ≤ t → ∃ y : State,
    exec (.safeStateWaitTimeout l t) s = .next y ∧ ((leg y l.val).gate sd.other).stuckOn = true ∧ y.mem = s.mem)

/-- A release that meets its conditions makes the group leave its hold, and one that does not sets RELREF (R248), as
does one that is applied while no tick runs, which the model takes for refused (log 59, read from R340); the hold ends
when every gate is quiet, and a leaving that takes too long ends in HARD (R249). -/
def Obligations.ReleaseAndLeaving : Prop :=
  (∀ (g : Fin 16) (gs : BitVec 16) (s : State), gs.getLsbD g.val = true → ticking s = true →
    (grp s g.val).hold = true → (grp s g.val).step ≠ 6 → grpStarted s g.val = true → releaseOk s g.val = true → ∃ x : State,
    exec (.safRelease gs) s = .next x ∧ (grp x g.val).step = 6 ∧ (grp x g.val).hold = true ∧
    (grp x g.val).cause = 0 ∧ (grp x g.val).hard = false ∧ (grp x g.val).stepAt = s.now ∧ x.mem = s.mem) ∧
  (∀ (g : Fin 16) (gs : BitVec 16) (s : State), gs.getLsbD g.val = true → ticking s = true →
    (grp s g.val).hold = true → (grp s g.val).step ≠ 6 → grpStarted s g.val = true → releaseOk s g.val = false → ∃ x : State,
    exec (.safRelease gs) s = .next x ∧ (grp x g.val).relref = true ∧ (grp x g.val).step = (grp s g.val).step ∧
    (grp x g.val).hold = true ∧ x.mem = s.mem) ∧
  (∀ (g : Fin 16) (gs : BitVec 16) (s : State), gs.getLsbD g.val = true → ticking s = false → ∃ x : State,
    exec (.safRelease gs) s = .next x ∧ (grp x g.val).relref = true ∧ (grp x g.val).step = (grp s g.val).step ∧
    (grp x g.val).hold = (grp s g.val).hold ∧ x.legs = s.legs ∧ x.mem = s.mem) ∧
  (∀ (g : Fin 16) (t : Time) (s : State), (grp s g.val).hold = true → (grp s g.val).step = 6 →
    (∀ l ∈ grpLegs s g.val, (leg s l).excl = true ∨ gateQuiet s l .high t = true ∧ gateQuiet s l .low t = true) →
    ∃ x : State, exec (.holdLeaveComplete g t) s = .next x ∧ (grp x g.val).hold = false ∧
    (grp x g.val).step = 0 ∧ (grp x g.val).cause = 0 ∧ (∀ h, h ≠ g.val → grp x h = grp s h) ∧
    (∀ l, (leg x l).h.on = (leg s l).h.on ∧ (leg x l).l.on = (leg s l).l.on) ∧
    (∀ l ∈ grpLegs s g.val, (leg x l).excl = false) ∧ (∀ a, winOf a ≠ 3 → a ≠ SPN_CNT2 → reg x a = reg s a) ∧
    x.mem = s.mem) ∧
  (∀ (g : Fin 16) (t : Time) (s : State), (grp s g.val).hold = true → (grp s g.val).step = 6 →
    unquiet s g.val t ≠ [] → ∃ x : State, exec (.holdLeaveTimeout g t) s = .next x ∧ (grp x g.val).hold = true ∧
    (grp x g.val).hard = true ∧ (∀ l ∈ grpLegs s g.val, GatesOff x l) ∧ x.mem = s.mem)

/-- A main filter that is due keeps its result, its instant and whether its window is good (R273, R275), and so does a
fast filter its result; a fast result of a good window outside the limits of its channel sets the TRIP bit and, where
OCEN names an enabled leg, latches that leg with both gates low (R277). A filter that is not due, or a channel that is
disabled, keeps what it has. In the slope detection of a leg the result at which SCM consecutive slopes exceed THR
latches the leg with both gates low, and the count starts anew (R250).
The loss of an input clock clears its CLKOK bit; its recovery, after 64 periods within range since then and not
before, sets it again and restarts the enabled channels of the clock (R272, R275). -/
def Obligations.FiltersAndInputClocks : Prop :=
  ((∀ (i : Fin 112) (bs : List Bool) (t : Time) (s : State) (o osr : Nat), chOn s i.val = true → mainDue s i.val t = true →
    o = mainOrder s i.val → osr = lfld s (BSI_CH_CFG_MOSR i.val) → ∃ x : State,
    exec (.mainResult i bs t) s = .next x ∧ (chan x i.val).raw = some (sincRaw o osr bs) ∧ (chan x i.val).mainAt = t ∧
    (chan x i.val).mainOk = (windowOk s i.val (window o osr) bs t &&
      decide (longestRun (bs.drop (bs.length - window o osr)) none 0 0 < 256)) ∧
    (∀ j, j ≠ i.val → chan x j = chan s j) ∧ x.regs = s.regs ∧ x.legs = s.legs ∧ x.mem = s.mem) ∧
  (∀ (i : Fin 112) (bs : List Bool) (t : Time) (s : State), chOn s i.val = true → mainDue s i.val t = false →
    exec (.mainResult i bs t) s = .next (upto t s)) ∧
  (∀ (i : Fin 112) (bs : List Bool) (t : Time) (s : State) (osr : Nat) (r : Word), chOn s i.val = true →
    lflag s (BSI_CH_CFG_FEN i.val) = true → osr = lfld s (BSI_CH_CFG_FOSR i.val) →
    clocked s i.val osr (chan s i.val).fastAt t = true → r = sincRaw 2 osr bs → ∃ x : State,
    exec (.fastResult i bs t) s = .next x ∧ (chan x i.val).fastRaw = some r ∧ (chan x i.val).fastAt = t ∧
    (windowOk s i.val (window 2 osr) bs t = true →
      (mkRat (toSigned (lfld s (BSI_CH_OC_OCHI i.val)) 16) 32768 < ratOf r ∨
        ratOf r < mkRat (toSigned (lfld s (BSI_CH_OC_OCLO i.val)) 16) 32768) →
      (fld x (BSI_OCSTAT_TRIP (i.val / 32))).testBit (i.val % 32) = true ∧
      (lflag s (BSI_CH_CFG_OCEN i.val) = true → legOn s (lfld s (BSI_CH_CFG_OCLEG i.val)) = true →
        lfld s (BSI_CH_CFG_OCLEG i.val) < 96 → GatesOff x (lfld s (BSI_CH_CFG_OCLEG i.val)) ∧
        (leg x (lfld s (BSI_CH_CFG_OCLEG i.val))).latch = true)) ∧
    (∀ j, j ≠ i.val → chan x j = chan s j) ∧ x.mem = s.mem) ∧
  (∀ (i : Fin 112) (bs : List Bool) (t : Time) (s : State), chOn s i.val = false ∨ lflag s (BSI_CH_CFG_FEN i.val) = false →
    exec (.fastResult i bs t) s = .next (upto t s)) ∧
  (∀ (r w : Word) (d t : Time) (l : Nat) (s : State), legOn s l = true → (leg s l).scLast = some w →
    slopeOver r w d (afld s (GLK_LEG_SCT_THR l)) = true → afld s (GLK_LEG_SC_SCM l) ≤ (leg s l).scN + 1 →
    GatesOff (slopeStep r true d t l s) l ∧ (leg (slopeStep r true d t l s) l).latch = true ∧
    (leg (slopeStep r true d t l s) l).scN = 0)) ∧
  ((∀ (k : Fin 14) (t : Time) (s : State), hasClk s k.val = true → lflag s (BSI_CLK_DIR k.val) = false →
    (fld s BSI_CLKST_CLKOK).testBit k.val = true → ∃ x : State, exec (.bsckLost k t) s = .next x ∧
    (fld x BSI_CLKST_CLKOK).testBit k.val = false ∧ SMap.get natD x.clkLost k.val = t ∧
    (∀ j, j ≠ k.val → (fld x BSI_CLKST_CLKOK).testBit j = (fld s BSI_CLKST_CLKOK).testBit j) ∧
    (∀ a, winOf a ≠ 3 → a ≠ SPN_CNT2 → a ≠ BSI_CLKST → reg x a = reg s a) ∧ x.chans = s.chans ∧ x.mem = s.mem) ∧
  (∀ (k : Fin 14) (p : Span) (s : State), hasClk s k.val = true → lflag s (BSI_CLK_DIR k.val) = false →
    (fld s BSI_CLKST_CLKOK).testBit k.val = false → SMap.get natD s.clkLost k.val ≤ p.since →
    p.since + 64 * clkMin ≤ p.till → p.till ≤ p.since + 64 * clkMax → ∃ x : State,
    exec (.bsckRecover k p) s = .next x ∧ (fld x BSI_CLKST_CLKOK).testBit k.val = true ∧
    (∀ i, i < 112 → i / 8 = k.val → chOn s i = true → (chan x i).startAt = p.till ∧ (chan x i).mainOk = false) ∧
    (∀ i, i / 8 ≠ k.val → chan x i = chan s i) ∧ (∀ a, a ≠ BSI_CLKST → reg x a = reg s a) ∧ x.mem = s.mem) ∧
  (∀ (k : Fin 14) (p : Span) (s : State), (p.since < SMap.get natD s.clkLost k.val ∨ p.till < p.since + 64 * clkMin) →
    exec (.bsckRecover k p) s = .next (upto p.till s)))

/-- A calibration request is accepted under the conditions of R284, refused with CODE 5 while one runs or a rebinding of
its block is pending, and with CODE 6 where its fields are out of range; one that has not collected its results within
65,536 ticks is refused with CODE 7 and the first channel that lacks some (R285).
A calibration that has collected all its results, none of them bad, is judged at a boundary: where every channel
passes, the offsets of both pages become the means (R287; that a mean is rounded once to FP32 is the model's reading,
log 34); else it is refused with the code of the first channel that fails, and no offset changes (R285). While it runs,
a boundary refuses it where its group is not held, or not slow (R285).
The sample bank as latched: a channel's word is GAIN × (raw − OFFSET), a slot's GAIN × (code − OFFSET), 0 before the
first result (R276, R282; that these are two FP32 operations, the difference and the product, is the model's reading,
log 33).
A relief gives the next channel's work to a spare; after the comparison of all results one that agrees makes the spare
the serving unit and one that differs makes it a suspect, not before; and a self-test gives a spare back or marks a unit
failed, the serving one where the suspect passes (R289, R290). -/
def Obligations.CalibrationAndRelief : Prop :=
  ((∀ (m : Mask) (d v : Word) (s : State), m.getLsbD 3 = true → v = clWord s BSI_CALREQ m d → BSI_CALREQ_GO.of v = 1 →
    s.cal = none → (fld s TKC_RBSTAT_STATE = 1 → s.tick.rbPart.getLsbD (if BSI_CALREQ_SRC.of v = 1 then 6 else 5) = false) →
    BSI_CALREQ_FIRST.of v ≤ BSI_CALREQ_LAST.of v → (BSI_CALREQ_SRC.of v = 1 → BSI_CALREQ_LAST.of v < 128) →
    (BSI_CALREQ_SRC.of v = 0 → hasBs s (BSI_CALREQ_LAST.of v) = true) → 6 ≤ BSI_CALREQ_NLOG2.of v →
    BSI_CALREQ_NLOG2.of v ≤ 14 → bits v.toNat 28 2 = 0 → bits v.toNat 16 4 = 0 → ∃ x : State,
    exec (.calRequest m d) s = .next x ∧ x.cal = some { sar := BSI_CALREQ_SRC.of v == 1, grp := BSI_CALREQ_GRP.of v
                                                        first := BSI_CALREQ_FIRST.of v, last := BSI_CALREQ_LAST.of v
                                                        count := 2 ^ BSI_CALREQ_NLOG2.of v
                                                        startTick := s.tick.count } ∧
    fld x BSI_CALST_STATE = 1 ∧ (∀ a, a ≠ BSI_CALREQ → a ≠ BSI_CALST → reg x a = reg s a) ∧ x.live = s.live ∧
    x.mem = s.mem) ∧
  (∀ (m : Mask) (d v : Word) (s : State), m.getLsbD 3 = true → v = clWord s BSI_CALREQ m d → BSI_CALREQ_GO.of v = 1 →
    (s.cal.isSome = true ∨ fld s TKC_RBSTAT_STATE = 1 ∧
      s.tick.rbPart.getLsbD (if BSI_CALREQ_SRC.of v = 1 then 6 else 5) = true) → ∃ x : State,
    exec (.calRequest m d) s = .next x ∧ fld x BSI_CALST_CODE = 5 ∧ x.cal = s.cal ∧ x.live = s.live ∧
    (∀ a, winOf a ≠ 3 → a ≠ SPN_CNT2 → a ≠ BSI_CALREQ → a ≠ BSI_CALST → reg x a = reg s a)) ∧
  (∀ (m : Mask) (d v : Word) (s : State), m.getLsbD 3 = true → v = clWord s BSI_CALREQ m d → BSI_CALREQ_GO.of v = 1 →
    s.cal = none → fld s TKC_RBSTAT_STATE ≠ 1 →
    (BSI_CALREQ_LAST.of v < BSI_CALREQ_FIRST.of v ∨ BSI_CALREQ_NLOG2.of v < 6 ∨ 14 < BSI_CALREQ_NLOG2.of v) → ∃ x : State,
    exec (.calRequest m d) s = .next x ∧ fld x BSI_CALST_CODE = 6 ∧ fld x BSI_CALST_STATE = 3 ∧ x.cal = none ∧
    x.live = s.live ∧ (∀ a, winOf a ≠ 3 → a ≠ SPN_CNT2 → a ≠ BSI_CALREQ → a ≠ BSI_CALST → reg x a = reg s a)) ∧
  (∀ (s : State) (c : CalSt) (ch : Nat), s.cal = some c → c.startTick + 65536 ≤ s.tick.count → ch < 128 →
    (calChans c).find? (fun i => (SMap.get calD c.sums i).1 < c.count) = some ch → ∃ x : State,
    exec .calTimeout s = .next x ∧ x.cal = none ∧ fld x BSI_CALST_CODE = 7 ∧ fld x BSI_CALST_STATE = 3 ∧
    fld x BSI_CALST_CH = ch ∧ (∀ a, winOf a ≠ 3 → a ≠ SPN_CNT2 → a ≠ BSI_CALST → reg x a = reg s a) ∧ x.live = s.live)) ∧
  ((∀ (s : State) (c : CalSt), s.cal = some c → c.last < 128 →
    (∀ ch ∈ calChans c, c.count ≤ (SMap.get calD c.sums ch).1 ∧ calJudge s c ch = 0) → c.bad = none →
    (calDone s).cal = none ∧ fld (calDone s) BSI_CALST_STATE = 2 ∧ fld (calDone s) BSI_CALST_CODE = 0 ∧
    (∀ ch ∈ calChans c, live (calDone s) (ofsReg c.sar ch) = (fRound false (calStat c ch).1).val ∧
      shad (calDone s) (ofsReg c.sar ch) = (fRound false (calStat c ch).1).val) ∧
    (∀ a, (∀ ch ∈ calChans c, a ≠ ofsReg c.sar ch) → live (calDone s) a = live s a)) ∧
  (∀ (s : State) (c : CalSt) (ch : Nat), s.cal = some c → c.last < 128 →
    (∀ i ∈ calChans c, c.count ≤ (SMap.get calD c.sums i).1) → c.bad = none →
    (calChans c).find? (fun i => calJudge s c i != 0) = some ch →
    (calDone s).cal = none ∧ fld (calDone s) BSI_CALST_STATE = 3 ∧ fld (calDone s) BSI_CALST_CODE = calJudge s c ch ∧
    fld (calDone s) BSI_CALST_CH = ch ∧ reg (calDone s) BSI_CALMEAN = (fRound false (calStat c ch).1).val ∧
    (calDone s).live = s.live ∧ (calDone s).shadow = s.shadow) ∧
  (∀ (s : State) (c : CalSt), s.cal = some c → c.first < 128 → grpState (grp s c.grp) ≠ 1 →
    (calCheck s).cal = none ∧ fld (calCheck s) BSI_CALST_CODE = 1 ∧ (calCheck s).live = s.live) ∧
  (∀ (s : State) (c : CalSt), s.cal = some c → c.first < 128 → grpState (grp s c.grp) = 1 → calSlow s c.grp = false →
    (calCheck s).cal = none ∧ fld (calCheck s) BSI_CALST_CODE = 2 ∧ (calCheck s).live = s.live)) ∧
  ((∀ (s : State) (w : Nat), w < 579 → sample (latchSample s) w = sampleWord s s.now w) ∧
  (∀ (s : State) (i : Nat) (r : Word), i < 112 → hasBs s i = true → (chan s i).raw = some r →
    sample (latchSample s) i = (fMul (live s (BSI_CH_GAIN i)) (fSub r (live s (BSI_CH_OFS i))).val).val) ∧
  (∀ (s : State) (i : Nat) (r : Word), i < 112 → hasBs s i = true → (chan s i).fastRaw = some r →
    sample (latchSample s) (112 + i) = (fMul (live s (BSI_CH_GAIN i)) (fSub r (live s (BSI_CH_OFS i))).val).val) ∧
  (∀ (s : State) (j c : Nat), j < 128 → (slot s j).code = some c → sample (latchSample s) (224 + j) =
    (fMul (live s (SAR_SLOT_GAIN j)) (fSub (fOfInt (BitVec.ofNat 32 c)).val (live s (SAR_SLOT_OFS j))).val).val) ∧
  (∀ (s : State) (i : Nat), i < 112 → (chan s i).raw = none → sample (latchSample s) i = 0#32) ∧
  (∀ (s : State) (j : Nat), j < 128 → (slot s j).code = none → sample (latchSample s) (224 + j) = 0#32)) ∧
  ((∀ (s : State) (ch sp : Nat) (rest : List Nat), nextRelief s = some ch → s.rel.spares = sp :: rest → ticking s = true →
    lfld s BSI_SPARE_ROT ≠ 0 → s.rel.run = none → s.rel.tick + lfld s BSI_SPARE_ROT ≤ s.tick.count → ∃ x : State,
    exec .reliefStart s = .next x ∧ x.rel.run = some (ch, sp) ∧ x.rel.spares = rest ∧ x.rel.tick = s.tick.count ∧
    x.rel.mains = 0 ∧ x.rel.fasts = 0 ∧
    fld x BSI_SPARE_CUR = ch ∧ (∀ a, a ≠ BSI_SPARE → reg x a = reg s a) ∧ x.chans = s.chans) ∧
  (∀ (t : Time) (s : State) (ch sp : Nat), s.rel.run = some (ch, sp) → comparedAll s ch t = true → ∃ x : State,
    exec (.reliefCompare true t) s = .next x ∧ x.rel.run = none ∧ unitOf x ch = sp ∧
    x.rel.testing = s.rel.testing ++ [unitOf s ch] ∧ fld x BSI_SPARE_CUR = 127 ∧
    (∀ a, a ≠ BSI_SPARE → reg x a = reg s a) ∧ x.chans = s.chans) ∧
  (∀ (t : Time) (s : State) (ch sp : Nat), s.rel.run = some (ch, sp) → comparedAll s ch t = true → ∃ x : State,
    exec (.reliefCompare false t) s = .next x ∧ x.rel.run = none ∧ x.rel.unitOf = s.rel.unitOf ∧
    x.rel.testing = s.rel.testing ++ [sp] ∧ x.rel.suspects = s.rel.suspects ++ [(sp, ch)] ∧
    fld x BSI_SPARE_CUR = 127 ∧ (∀ a, a ≠ BSI_SPARE → reg x a = reg s a)) ∧
  (∀ (eq : Bool) (t : Time) (s : State) (ch sp : Nat), s.rel.run = some (ch, sp) → s.rel.mains < 4 →
    exec (.reliefCompare eq t) s = .next (upto t s)) ∧
  (∀ (u : Fin 116) (mean : Int) (t : Time) (s : State), s.rel.testing.contains u.val = true →
    s.rel.suspects.find? (fun x => x.1 == u.val) = none → mean - tmodLevel s ≤ 2000 → tmodLevel s - mean ≤ 2000 →
    ∃ x : State, exec (.filterSelftestDone u mean t) s = .next x ∧ x.rel.spares = s.rel.spares ++ [u.val] ∧
    x.rel.testing = s.rel.testing.filter (fun y => y != u.val) ∧ x.rel.failed = s.rel.failed ∧ x.regs = s.regs) ∧
  (∀ (u : Fin 116) (mean : Int) (t : Time) (s : State), s.rel.testing.contains u.val = true →
    (2000 < mean - tmodLevel s ∨ 2000 < tmodLevel s - mean) → ∃ x : State,
    exec (.filterSelftestDone u mean t) s = .next x ∧ x.rel.failed = s.rel.failed ++ [u.val] ∧
    x.rel.spares = s.rel.spares ∧ fld x BSI_SPARE_FAILU = min (fld s BSI_SPARE_FAILU + 1) 15 ∧
    (∀ a, winOf a ≠ 3 → a ≠ SPN_CNT2 → a ≠ BSI_SPARE → reg x a = reg s a)) ∧
  (∀ (u : Fin 116) (mean : Int) (t : Time) (s : State) (v ch : Nat), s.rel.testing.contains u.val = true →
    s.rel.suspects.find? (fun x => x.1 == u.val) = some (v, ch) → mean - tmodLevel s ≤ 2000 →
    tmodLevel s - mean ≤ 2000 → ∃ x : State, exec (.filterSelftestDone u mean t) s = .next x ∧
    unitOf x ch = u.val ∧ x.rel.failed = s.rel.failed ++ [unitOf s ch] ∧ x.rel.spares = s.rel.spares ∧
    fld x BSI_SPARE_FAILU = min (fld s BSI_SPARE_FAILU + 1) 15))

/-- A trigger starts a free SAR sequence with the channel codes of its list (R279), waits for an urgent conversion
(R280), and is dropped and counted while one runs.
An urgent request of an allowed source converts its channel or is dropped and counted (R281); a conversion of the
selected input that has run its time gives its code and flags to its slot, and the sequence goes on (R278, R279, R282);
the reference settles once (R283). -/
def Obligations.SarSequences : Prop :=
  ((∀ (c : Fin 8) (k : SarTrig) (t : Time) (s : State), ticking s = true →
    (k = .instant → lfld s (SAR_SEQ_CFG_TRIG c.val) = 1 ∧
      (grp s (lfld s (SAR_SEQ_CFG_GRP c.val))).sampledAt = some t) →
    (k = .boundary → lfld s (SAR_SEQ_CFG_TRIG c.val) = 2 ∧ s.tick.last = t) →
    lflag s (SAR_SEQ_CFG_EN c.val) = true → (∀ u, (sar s c.val).trigAt = some u → tbOf u ≠ tbOf t) →
    (sar s c.val).slot = none → (sar s c.val).urgent = false → ∃ x : State, exec (.sarSeqStart c k t) s = .next x ∧
    (sar x c.val).slot = some 0 ∧ (sar x c.val).chs = slotCodes s c.val ∧
    (sar x c.val).startAt = t ∧ (fld x SAR_STAT_BUSY).testBit c.val = true ∧
    (∀ j, j ≠ c.val → sar x j = sar s j) ∧ (∀ a, a ≠ SAR_STAT → reg x a = reg s a) ∧ x.slots = s.slots) ∧
  (∀ (c : Fin 8) (t : Time) (s : State), lflag s (SAR_SEQ_CFG_EN c.val) = true →
    (∀ u, (sar s c.val).trigAt = some u → tbOf u ≠ tbOf t) →
    (sar s c.val).slot = none → (sar s c.val).urgent = false → ∃ x : State, exec (.sarSeqGo c t) s = .next x ∧
    (sar x c.val).slot = some 0 ∧ (sar x c.val).chs = slotCodes s c.val ∧
    (fld x SAR_STAT_BUSY).testBit c.val = true ∧ x.slots = s.slots) ∧
  (∀ (c : Fin 8) (t : Time) (s : State) (k : Nat), lflag s (SAR_SEQ_CFG_EN c.val) = true →
    (∀ u, (sar s c.val).trigAt = some u → tbOf u ≠ tbOf t) → (sar s c.val).slot = some k → ∃ x : State,
    exec (.sarSeqGo c t) s = .next x ∧ (sar x c.val).slot = some k ∧
    fld x (SAR_SEQ_CNT_TRGDROP c.val) = min (fld s (SAR_SEQ_CNT_TRGDROP c.val) + 1) 65535 ∧ x.slots = s.slots ∧
    (∀ a, winOf a ≠ 3 → a ≠ SPN_CNT2 → a ≠ SAR_SEQ_CNT c.val → reg x a = reg s a)) ∧
  (∀ (c : Fin 8) (t : Time) (s : State), lflag s (SAR_SEQ_CFG_EN c.val) = true →
    (∀ u, (sar s c.val).trigAt = some u → tbOf u ≠ tbOf t) → (sar s c.val).slot = none →
    (sar s c.val).urgent = true → ∃ x : State, exec (.sarSeqGo c t) s = .next x ∧ (sar x c.val).slot = none ∧
    (sar x c.val).deferred = true ∧ x.regs = s.regs ∧ x.slots = s.slots)) ∧
  ((∀ (c : Fin 8) (sw : Bool) (t : Time) (s : State), urgentAllowed s c.val sw = true →
    (sw = true ∨ (grp s (lfld s (SAR_SEQ_CFG_GRP c.val))).diagSeen = some t) → sarBusy s c.val = false →
    (∀ u, (sar s c.val).urgAt = some u → tbOf u ≠ tbOf t) → ∃ x : State, exec (.sarUrgentRequest c sw t) s = .next x ∧
    (sar x c.val).urgent = true ∧ (sar x c.val).urgCh = lfld s (SAR_SEQ_CFG_URGCH c.val) ∧ (sar x c.val).startAt = t ∧
    (fld x SAR_STAT_BUSY).testBit c.val = true ∧ (∀ a, a ≠ SAR_STAT → reg x a = reg s a) ∧ x.slots = s.slots) ∧
  (∀ (c : Fin 8) (sw : Bool) (t : Time) (s : State), urgentAllowed s c.val sw = true →
    (sw = true ∨ (grp s (lfld s (SAR_SEQ_CFG_GRP c.val))).diagSeen = some t) → sarBusy s c.val = true → ∃ x : State,
    exec (.sarUrgentRequest c sw t) s = .next x ∧ x.sars = s.sars ∧ x.slots = s.slots ∧
    fld x (SAR_SEQ_CNT_URGDROP c.val) = min (fld s (SAR_SEQ_CNT_URGDROP c.val) + 1) 65535 ∧
    (∀ a, winOf a ≠ 3 → a ≠ SPN_CNT2 → a ≠ SAR_SEQ_CNT c.val → reg x a = reg s a)) ∧
  (∀ (c : Fin 8) (code par : BitVec 14) (t acq : Time) (s : State) (k : Nat), (sar s c.val).urgent = false →
    (sar s c.val).slot = some k → acq = (sar s c.val).startAt + 200 * ns * k → acq + 200 * ns ≤ t → t ≤ acq + 210 * ns →
    ∃ x : State, exec (.sarSlotResult c ⟨sarInput c.val ((sar s c.val).chs.getD k 0), code, par⟩ t) s = .next x ∧
    (slot x (16 * c.val + k)).code = some code.toNat ∧ (slot x (16 * c.val + k)).none_ = false ∧
    (slot x (16 * c.val + k)).clip = (code.toNat == 0 || code.toNat == 16383) ∧
    (slot x (16 * c.val + k)).refBad = (decide (acq < s.refAt) && decide (s.refFrom < acq + 70 * ns)) ∧
    (sar x c.val).slot = (if k + 1 < (sar s c.val).chs.length then some (k + 1) else none) ∧
    (∀ j, j ≠ 16 * c.val + k → slot x j = slot s j) ∧ (∀ j, j ≠ c.val → sar x j = sar s j) ∧
    (∀ a, a ≠ SAR_SEQ_ST c.val → a ≠ SAR_STAT → reg x a = reg s a) ∧ x.mem = s.mem) ∧
  (∀ (c : Fin 8) (code par : BitVec 14) (t acq : Time) (s : State), (sar s c.val).urgent = true →
    acq = (sar s c.val).startAt → acq + 200 * ns ≤ t → t ≤ acq + 210 * ns → ∃ x : State,
    exec (.sarSlotResult c ⟨sarInput c.val (sar s c.val).urgCh, code, par⟩ t) s = .next x ∧
    (slot x (16 * c.val + 15)).code = some code.toNat ∧ (sar x c.val).urgent = false ∧
    ((sar s c.val).deferred = true → (sar x c.val).slot = some 0 ∧ (sar x c.val).startAt = t) ∧
    (∀ j, j ≠ 16 * c.val + 15 → slot x j = slot s j) ∧ x.mem = s.mem) ∧
  (∀ c < 8, ∀ k < 16, sarInput c k = (if k < 8 then .ain (8 * c + k) else if k = 8 then .sensor (c / 2)
    else if k = 9 then .vdd else if k = 10 then .vddm else if k = 11 then .vdda18Half else if k = 12 then .vdda33Half
    else if k = 13 then .tapQuarter else if k = 14 then .tapThreeQuarters else .vssa)) ∧
  (∀ (t : Time) (s : State), ticking s = true → flag s SAR_STAT_REFSETTLED = false → s.refAt ≤ t → ∃ x : State,
    exec (.sarRefSettled t) s = .next x ∧ fld x SAR_STAT_REFSETTLED = 1 ∧
    fld x SAR_STAT_BUSY = fld s SAR_STAT_BUSY ∧
    (∀ a, winOf a ≠ 3 → a ≠ SPN_CNT2 → a ≠ SAR_STAT → reg x a = reg s a) ∧ x.slots = s.slots))

/-- A pin edge waits for TMIN, a second edge within TMIN rejects both and counts twice, and an accepted edge of an
incremental port counts POS by one in its direction (that A before B counts up is the model's convention, log 55), while
edges of both lines at once are a fault; the next sector of a magnetic port counts up (R299 to R301, R306, R309). -/
def Obligations.PinEdgesCount : Prop :=
  (∀ (q : FbPin) (v : Bool) (t : Time) (s : State), hasPin s q = true → pinOn s q = true → (pinSt s q).edge = none →
    (pinSt s q).pin ≠ v → ∃ x : State, exec (.fbPinEdge q v t) s = .next x ∧ (pinSt x q).pin = v ∧
    (pinSt x q).edge = some t ∧ (pinSt x q).level = (pinSt s q).level ∧ x.regs = s.regs ∧ x.mem = s.mem) ∧
  (∀ (q : FbPin) (v : Bool) (t : Time) (s : State), hasPin s q = true → pinOn s q = false → (pinSt s q).edge = none →
    (pinSt s q).pin ≠ v → ∃ x : State, exec (.fbPinEdge q v t) s = .next x ∧
    pinSt x q = { level := v, pin := v, edge := none } ∧ x.regs = s.regs ∧ x.mem = s.mem) ∧
  (∀ (f : Fin 12) (k : FbLine) (v : Bool) (t e : Time) (s : State), hasPort s f.val = true →
    pinOn s (.port f k) = true → ((port s f.val).pin k).edge = some e → t < e + pinTmin s (.port f k) →
    ((port s f.val).pin k).pin ≠ v → ∃ x : State, exec (.fbPinEdge (.port f k) v t) s = .next x ∧
    ((port x f.val).pin k).pin = v ∧ ((port x f.val).pin k).edge = none ∧
    ((port x f.val).pin k).level = ((port s f.val).pin k).level ∧ (port x f.val).pos = (port s f.val).pos ∧
    fld x (FBK_P_FCNT_EFLT f.val) = min (fld s (FBK_P_FCNT_EFLT f.val) + 2) 65535 ∧
    (∀ a, a ≠ FBK_P_FCNT f.val → reg x a = reg s a)) ∧
  (∀ (f : Fin 12) (t e : Time) (s : State) (y : PortSt), y = port s f.val → pinOn s (.port f .a) = true →
    portMode s f.val = 0 → y.a.edge = some e → y.b.edge = none → y.z.edge = none → e + pinTmin s (.port f .a) ≤ t →
    y.a.pin ≠ y.a.level → ∃ x : State, exec (.fbEdgeAccept (.port f .a) t) s = .next x ∧
    (port x f.val).a.level = y.a.pin ∧ (port x f.val).a.edge = none ∧
    (port x f.val).pos = (if y.a.pin = y.b.level then y.pos - 1 else y.pos + 1) ∧
    (port x f.val).still = false ∧ (port x f.val).lastEdge = some (stamp e) ∧ x.mem = s.mem) ∧
  (∀ (f : Fin 12) (t e u : Time) (s : State) (y : PortSt), y = port s f.val → pinOn s (.port f .a) = true →
    portMode s f.val = 0 → y.a.edge = some e → y.b.edge = some u → stamp u = stamp e →
    e + pinTmin s (.port f .a) ≤ t → y.a.pin ≠ y.a.level → y.b.pin ≠ y.b.level → ∃ x : State,
    exec (.fbEdgeAccept (.port f .a) t) s = .next x ∧ (port x f.val).pos = y.pos ∧
    (port x f.val).bits.getLsbD 8 = true ∧
    fld x (FBK_P_FCNT_FAULT f.val) = min (fld s (FBK_P_FCNT_FAULT f.val) + 1) 65535 ∧ x.mem = s.mem) ∧
  (∀ (f : Fin 12) (t e : Time) (s : State) (y : PortSt) (n o : Nat), y = port s f.val →
    pinOn s (.port f .b) = true → portMode s f.val = 1 → y.b.edge = some e → y.a.edge = none → y.z.edge = none →
    e + pinTmin s (.port f .b) ≤ t → sectorOf y.a.level y.b.pin y.z.level = some n → y.sector = some o →
    n = (o + 1) % 6 → n ≠ o → ∃ x : State, exec (.fbEdgeAccept (.port f .b) t) s = .next x ∧
    (port x f.val).sector = some n ∧ (port x f.val).pos = y.pos + 1 ∧ x.mem = s.mem) ∧
  (∀ (f : Nat) (d : Int) (s : State) (n w : Int), d = 1 ∨ d = -1 → n = (port s f).pos.toInt + d →
    w = (if 2 ^ 31 ≤ n then 1 else if n < -(2 ^ 31) then -1 else 0) →
    (port (addPos f d s) f).pos = (port s f).pos + BitVec.ofInt 32 d ∧
    (port (addPos f d s) f).wrap = (port s f).wrap + BitVec.ofInt 32 w ∧
    (w ≠ 0 → (port (addPos f d s) f).bits.getLsbD 6 = true))

/-- Compare outputs are armed and disarmed, fire a pulse of WIDTH and end it (R313 to R315), emulated counts come out
one by one on EA and EB in quadrature (R316), and a pulse input times out with the value of R318. That arming clears
DONE is the model's choice (log 35), and the direction of EA against EB its convention (log 55).
Standstill, the paired read of LPOS and LWRAP, RECAP, and the serial read: the first valid reading becomes POS, a
later one moves POS by its difference, and a bad frame is rejected with the values kept (R303, R305, R308, R310 to
R312). -/
def Obligations.ReadingsComparesAndPulses : Prop :=
  ((∀ (c : Fin 4) (s : State), ∃ x : State, exec (.cmpArm c) s = .next x ∧ fld x (FBK_CMP_ST_ARMED c.val) = 1 ∧
    fld x (FBK_CMP_ST_DONE c.val) = 0 ∧ fld x (FBK_CMP_ST_PTR c.val) = 0 ∧
    (∀ a, a ≠ FBK_CMP_ST c.val → reg x a = reg s a) ∧ { x with regs := s.regs } = s) ∧
  (∀ (c : Fin 4) (s : State), ∃ x : State, exec (.cmpDisarm c) s = .next x ∧ fld x (FBK_CMP_ST_ARMED c.val) = 0 ∧
    fld x (FBK_CMP_ST_PTR c.val) = fld s (FBK_CMP_ST_PTR c.val) ∧
    (∀ a, a ≠ FBK_CMP_ST c.val → reg x a = reg s a) ∧ { x with regs := s.regs } = s) ∧
  (∀ (c : Fin 4) (t : Time) (s : State), (cmpo s c.val).out = true → (cmpo s c.val).endAt ≤ t → ∃ x : State,
    exec (.cmpPulseEnd c t) s = .next x ∧ (cmpo x c.val).out = false ∧ (∀ d, d ≠ c.val → cmpo x d = cmpo s d) ∧
    x.regs = s.regs ∧ x.mem = s.mem) ∧
  (∀ (c : Nat) (t : Time) (s : State), c < 4 → (cmpo (cmpFire c t s) c).out = true ∧
    (cmpo (cmpFire c t s) c).endAt = t + lfld s (FBK_CMP_CFG_WIDTH c) * tb ∧
    (fld s (FBK_CMP_ST_PTR c) + 1 < lfld s (FBK_CMP_CFG_LEN c) →
      fld (cmpFire c t s) (FBK_CMP_ST_PTR c) = fld s (FBK_CMP_ST_PTR c) + 1) ∧
    (lfld s (FBK_CMP_CFG_LEN c) ≤ fld s (FBK_CMP_ST_PTR c) + 1 → lflag s (FBK_CMP_CFG_CYC c) = true →
      fld (cmpFire c t s) (FBK_CMP_ST_PTR c) = 0) ∧
    (lfld s (FBK_CMP_CFG_LEN c) ≤ fld s (FBK_CMP_ST_PTR c) + 1 → lflag s (FBK_CMP_CFG_CYC c) = false →
      fld (cmpFire c t s) (FBK_CMP_ST_ARMED c) = 0 ∧ fld (cmpFire c t s) (FBK_CMP_ST_DONE c) = 1)) ∧
  (∀ (e : Fin 4) (t : Time) (s : State) (up : Bool) (r : List Bool), (em s e.val).waiting = up :: r → r.length < 16 →
    lflag s (FBK_EM_CFG_EN e.val) = true →
    (∀ u, (em s e.val).edgeAt = some u → u + lfld s (FBK_EM_CFG_EMIN e.val) * tb ≤ t) → ∃ x : State,
    exec (.emOutputEdge e t) s = .next x ∧ (em x e.val).waiting = r ∧ (em x e.val).edgeAt = some t ∧
    (em x e.val).ea = (if up then !(em s e.val).eb else (em s e.val).eb) ∧
    (em x e.val).eb = (if up then (em s e.val).ea else !(em s e.val).ea) ∧
    fld x (FBK_EM_ST_PEND e.val) = r.length ∧ (∀ a, a ≠ FBK_EM_ST e.val → reg x a = reg s a) ∧ x.mem = s.mem) ∧
  (∀ (p : Fin 8) (t : Time) (s : State), lflag s (FBK_PLS_CFG_EN p.val) = true →
    (fld s FBK_PLSST_TMO).testBit p.val = false →
    (pls s p.val).armAt + lfld s (FBK_PLS_CFG_PTMO p.val) * ms ≤ t → ∃ x : State,
    exec (.fbkPlsTmo p t) s = .next x ∧ (fld x FBK_PLSST_TMO).testBit p.val = true ∧
    (pls x p.val).last = none ∧ (pls x p.val).val =
      (if lfld s (FBK_PLS_CFG_KIND p.val) = 1 ∧ (pls s p.val).p.level = true then fOne else 0#32) ∧
    (∀ a, winOf a ≠ 3 → a ≠ SPN_CNT2 → a ≠ FBK_PLSST → reg x a = reg s a) ∧ x.mem = s.mem)) ∧
  ((∀ (f : Fin 12) (t : Time) (s : State), fbPortOn s f.val = true → portMode s f.val < 2 →
    (port s f.val).still = false →
    (∀ u, (port s f.val).lastEdge = some u → u * tb + lfld s (FBK_P_TIM_TSTILL f.val) * us < t) → ∃ x : State,
    exec (.fbStandstill f t) s = .next x ∧ (port x f.val).still = true ∧ (port x f.val).hist = [] ∧
    (port x f.val).pos = (port s f.val).pos ∧ x.regs = s.regs ∧ x.mem = s.mem) ∧
  (∀ (w : Who) (f : Fin 12) (s : State), hasPort s f.val = true →
    goes s w .load (BitVec.ofNat 32 (FBK_P_LPOS f.val)) 4 = true → ∃ x : State,
    exec (.fbkLposRead w f) s = .next x ∧ (unit x w.key).rdata = (port s f.val).pos ∧
    SMap.get wordD (unit x w.key).lwrapH f.val = (port s f.val).wrap ∧ (∀ j, j ≠ w.key → unit x j = unit s j) ∧
    { x with units := s.units } = s) ∧
  (∀ (f : Fin 12) (s : State), hasPort s f.val = true → ∃ x : State, exec (.recap f) s = .next x ∧
    (port x f.val).recap = true ∧ (∀ g, g ≠ f.val → port x g = port s g) ∧ { x with ports := s.ports } = s) ∧
  (∀ (f : Fin 12) (t : Time) (s : State), fbPortOn s f.val = true → portMode s f.val = 2 → ticking s = true →
    (port s f.val).reading = none → (port s f.val).readTick ≠ some s.tick.count →
    s.tick.next ≤ t + lfld s (FBK_P_TIM_SLEAD f.val) * tb → t + lfld s (FBK_P_TIM_SLEAD f.val) * tb < s.tick.next + tb →
    ∃ x : State,
    exec (.serialReadStart f t) s = .next x ∧ (port x f.val).reading = some (t, (port s f.val).a.pin) ∧
    (port x f.val).readTick = some s.tick.count ∧ (port x f.val).clk = some (t, lfld s (FBK_P_SER_HDIV f.val) * tb,
      serBits s f.val + b2n (serPar s f.val) + 1) ∧ x.regs = s.regs ∧ x.mem = s.mem) ∧
  (∀ (f : Fin 12) (raw : BitVec 33) (t u : Time) (s : State), (port s f.val).reading = some (u, true) →
    u + 2 * lfld s (FBK_P_SER_HDIV f.val) * serBits s f.val * tb ≤ t → serPar s f.val = false →
    lflag s (FBK_P_SER_GRAY f.val) = false → (port s f.val).fresh = true → (port s f.val).lastRd = none → ∃ x : State,
    exec (.serialReading f raw t) s = .next x ∧ (port x f.val).reading = none ∧ (port x f.val).hold = false ∧
    (port x f.val).pos = BitVec.ofNat 32 (bits raw.toNat 0 (serBits s f.val)) ∧ (port x f.val).fresh = false ∧
    x.regs = s.regs ∧ x.mem = s.mem) ∧
  (∀ (f : Fin 12) (raw : BitVec 33) (t u : Time) (s : State) (o v : Nat) (d : Int),
    (port s f.val).reading = some (u, true) →
    u + 2 * lfld s (FBK_P_SER_HDIV f.val) * serBits s f.val * tb ≤ t → serPar s f.val = false →
    (port s f.val).fresh = false → (port s f.val).lastRd = some o →
    v = (if lflag s (FBK_P_SER_GRAY f.val) then fromGray (serBits s f.val) (bits raw.toNat 0 (serBits s f.val))
      else bits raw.toNat 0 (serBits s f.val)) → d = foldMod ((v : Int) - o) (2 ^ serBits s f.val : Nat) →
    8 * d.natAbs ≤ 2 ^ lfld s (FBK_P_SER_STB f.val) → ∃ x : State,
    exec (.serialReading f raw t) s = .next x ∧ (port x f.val).reading = none ∧ (port x f.val).hold = false ∧
    (port x f.val).pos = (port s f.val).pos + BitVec.ofInt 32 d ∧ (port x f.val).lastRd = some v ∧ x.mem = s.mem) ∧
  (∀ (f : Fin 12) (raw : BitVec 33) (t u : Time) (s : State), (port s f.val).reading = some (u, false) →
    u + 2 * lfld s (FBK_P_SER_HDIV f.val) * (serBits s f.val + b2n (serPar s f.val)) * tb ≤ t → ∃ x : State,
    exec (.serialReading f raw t) s = .next x ∧ (port x f.val).reading = none ∧
    (port x f.val).hold = true ∧ (port x f.val).pos = (port s f.val).pos ∧ (port x f.val).bits.getLsbD 10 = true ∧
    fld x (FBK_P_FCNT_FAULT f.val) = min (fld s (FBK_P_FCNT_FAULT f.val) + 1) 65535 ∧
    (∀ a, winOf a ≠ 3 → a ≠ SPN_CNT2 → a ≠ FBK_P_FCNT f.val → reg x a = reg s a) ∧ x.mem = s.mem))

/-- The changes of phase of auxsl in the tick of a lane: the machine is classified by the first row of the table that
holds and becomes READY, or waits with TOOFAST (R331); braking ends in the open-loop start (R333); a locked observer
runs, with the speed-loop integrator preset (R334); a failure counts the attempt and names its cause (R336); and the
back-off ends in MEASURE or in LOCKOUT (R337). The preset of word 37 after the outputs of RUN, quantities rounded once
and LOCKOUT judged at the end of a back-off are the model's choices (log 36).
The law of a tick of auxsl: while the group is held E, ω̂ and θ̂ come from the line voltages (R330), and in BRAKE,
its first tick among them, ω̂ from the currents, with the slow ticks and those of little current counted (R333); CMD 1.0
in a hold leads from IDLE to MEASURE and CMD 0.0 from most phases to IDLE (R331, R332); READY begins its planned action
once the group switches (R336); GSPD is ω̂ in every phase, and the duties are 0.0 in all phases but READY, START and RUN
(R329). Each quantity is rounded once (log 36). -/
def Obligations.AuxiliaryPhaseChanges : Prop :=
  ((∀ (b : Fin 128) (s : State) (k : Nat) (th w : Word), AuxOwn s b.val → auxRan s b.val = true →
    classifyDue b.val s = true → auxPlan s b.val = (k, th, w) → k ≠ 0 → ∃ x : State,
    exec (.auxClassify b) s = .next x ∧ auxNow x b.val 10 = 2#32 ∧ auxNow x b.val 13 = 0#32 ∧
    (auxNow x b.val 11).getLsbD 0 = true ∧ (auxVars x b.val).plan = k ∧ (auxVars x b.val).thOl = th ∧
    (auxVars x b.val).wOl = w ∧ AuxOnly s x) ∧
  (∀ (b : Fin 128) (s : State) (th w : Word), AuxOwn s b.val → auxRan s b.val = true →
    classifyDue b.val s = true → auxPlan s b.val = (0, th, w) → ∃ x : State,
    exec (.auxClassify b) s = .next x ∧ auxNow x b.val 10 = 8#32 ∧ (auxNow x b.val 11).getLsbD 2 = true ∧
    (auxNow x b.val 11).getLsbD 0 = false ∧ AuxOnly s x) ∧
  (∀ (s : State) (b : Nat) (th w : Word), th = auxNow s b 14 → w = auxNow s b 15 → auxPlan s b =
    (if fLess (auxNow s b 16) (auxWord s b 21) = true then (1, 0, 0)
    else if fLess 0 w = true ∧ fGreq w (auxWord s b 26) = true then (2, 0, 0)
    else if fLess 0 w = true then (1, th, w)
    else if fGreq (auxWord s b 22) (fAbs w).val = true then (1, th, 0)
    else if fGreq (auxWord s b 23) (fAbs w).val = true then (3, 0, 0)
    else (0, 0, 0))) ∧
  (∀ (b : Fin 128) (s : State), AuxOwn s b.val → auxRan s b.val = true → auxPhaseNow s b.val = 3 →
    auxHeld s b.val = false → (40 ≤ (auxVars s b.val).slowN ∨ 40 ≤ (auxVars s b.val).lowN) → ∃ x : State,
    exec (.auxBrakeEnd b) s = .next x ∧ auxNow x b.val 10 = 4#32 ∧ auxNow x b.val 13 = 0#32 ∧
    (auxVars x b.val).thOl = lin [(1, angleOf (auxCurrent s b.val)), (-1, halfPi)] ∧ (auxVars x b.val).wOl = 0#32 ∧
    AuxOnly s x) ∧
  (∀ (b : Fin 128) (s : State), AuxOwn s b.val → auxRan s b.val = true → auxPhaseNow s b.val = 4 →
    auxHeld s b.val = false → (auxVars s b.val).lockDue = true → ∃ x : State, exec (.auxLock b) s = .next x ∧
    auxNow x b.val 10 = 5#32 ∧ (auxNow x b.val 11).getLsbD 3 = true ∧ (auxVars x b.val).locked = true ∧
    auxNow x b.val 37 = (fMul (auxWord s b.val 24)
      (fSinCos true (fWrap 0 (fSub (auxVars s b.val).thOl (auxNow s b.val 14)).val 0).val).val).val ∧ AuxOnly s x) ∧
  (∀ (b : Fin 128) (s : State), AuxOwn s b.val → auxRan s b.val = true → auxPhaseNow s b.val = 5 →
    (auxVars s b.val).locked = false → auxHeld s b.val = false → (auxVars s b.val).lockDue = true → ∃ x : State,
    exec (.auxLock b) s = .next x ∧ auxNow x b.val 10 = 5#32 ∧ (auxNow x b.val 11).getLsbD 3 = true ∧
    (auxVars x b.val).locked = true ∧ AuxOnly s x) ∧
  (∀ (b : Fin 128) (k : AuxFail) (s : State), AuxOwn s b.val → auxRan s b.val = true → (auxFails s b.val k).1 = true →
    ∃ x : State, exec (.auxStartFail b k) s = .next x ∧ auxNow x b.val 10 = 6#32 ∧
    bits (auxNow x b.val 11).toNat 8 4 = (auxFails s b.val k).2 ∧
    (auxNow x b.val 11).getLsbD 1 = !(auxHeld s b.val) ∧
    auxNow x b.val 12 = (fAdd (auxNow s b.val 12) fOne).val ∧ AuxOnly s x) ∧
  (∀ (b : Fin 128) (s : State), AuxOwn s b.val → auxRan s b.val = true → backoffDue b.val s = true →
    (fGreq (auxNow s b.val 12) (fAdd (auxWord s b.val 31) fOne).val = false → ∃ x : State,
      exec (.auxBackoffExpire b) s = .next x ∧ auxNow x b.val 10 = 1#32 ∧ AuxOnly s x) ∧
    (fGreq (auxNow s b.val 12) (fAdd (auxWord s b.val 31) fOne).val = true → ∃ x : State,
      exec (.auxBackoffExpire b) s = .next x ∧ auxNow x b.val 10 = 7#32 ∧ AuxOnly s x))) ∧
  ((∀ (p b : Nat) (s x : State) (e : Word × Word) (w : Word), b < 128 → AuxOwn s b → (auxSt s b).new = none →
    auxHeld s b = true → x = auxTick p b s → e = auxEmf s b → w = auxRate s b (auxVars s b).ang (angleOf e) →
    auxNow x b 16 = norm2 e.1 e.2 ∧ auxNow x b 15 = w ∧
    (fLess 0 w = true → auxNow x b 14 = lin [(1, angleOf e), (-1, halfPi)]) ∧
    (fLess w 0 = true → auxNow x b 14 = lin [(1, angleOf e), (1, halfPi)]) ∧
    e = (lin [(mkRat 2 3, auxIn s b 3), (mkRat 1 3, auxIn s b 4)], lin [(1 / sqrt3, auxIn s b 4)]) ∧ AuxOnly s x) ∧
  (∀ (p b : Nat) (s x : State) (w : Word), b < 128 → AuxOwn s b → (auxSt s b).new = none → x = auxTick p b s →
    (auxPhase s b = 3 ∨ auxPhase s b = 2 ∧ (auxVars s b).plan = 3) → auxHeld s b = false → auxStop s b = false →
    w = auxRate s b (auxVars s b).angI (angleOf (auxCurrent s b)) →
    auxNow x b 10 = 3#32 ∧ auxNow x b 15 = w ∧
    (auxVars x b).slowN = (if fLess (fAbs w).val (auxWord s b 22) = true then
      (if auxPhase s b = 3 then (auxVars s b).slowN else 0) + 1 else 0) ∧
    (auxVars x b).lowN = (if fLess (norm2 (auxCurrent s b).1 (auxCurrent s b).2) 0x40A00000#32 = true then
      (if auxPhase s b = 3 then (auxVars s b).lowN else 0) + 1 else 0) ∧ AuxOnly s x) ∧
  (∀ (p b : Nat) (s x : State), b < 128 → AuxOwn s b → x = auxTick p b s → auxPhase s b = 0 → auxRun s b = true →
    auxHeld s b = true → auxNow x b 10 = 1#32 ∧ auxNow x b 13 = 0#32) ∧
  (∀ (p b : Nat) (s x : State), b < 128 → AuxOwn s b → x = auxTick p b s → auxStop s b = true →
    auxPhase s b ≠ 5 → auxPhase s b ≠ 7 → auxNow x b 10 = 0#32) ∧
  (∀ (p b : Nat) (s x : State), b < 128 → AuxOwn s b → (auxSt s b).new = none → x = auxTick p b s → auxPhase s b = 2 →
    auxStop s b = false → auxHeld s b = false → auxNow x b 13 = 0#32 ∧
    ((auxVars s b).plan = 1 → auxNow x b 10 = 4#32) ∧ ((auxVars s b).plan = 2 → auxNow x b 10 = 5#32) ∧
    ((auxVars s b).plan = 3 → auxNow x b 10 = 3#32)) ∧
  (∀ (p b g d : Nat) (s x : State), b < 128 → AuxOwn s b → x = auxTick p b s → g = (auxWord s b 8).toNat → g < 416 →
    (cell s (resKey g)).units = [] → d = (auxWord s b 7).toNat → d + 2 < 8192 →
    (cell x (resKey g)).eng = some (auxNow x b 15, p) ∧
    (auxPhaseNow x b ≠ 2 → auxPhaseNow x b ≠ 4 → auxPhaseNow x b ≠ 5 → ∀ k < 3, (scr x (d + k)).val = 0#32)))

/-- While the tick runs every group's acting kind is the strongest kind that demands it (R345); a kind that newly acts
holds the group, and a newly acting STO or ALL-OFF has every gate of the group low (R344, R346). No gate rises and no
hold ends with it.
The STO pins: a fall demands with SAF_STO (416) and its groups are held with every gate low, a rise ends the demand
and keeps the holds (R347).  Pins that differ for longer than SDISC ms, from 1 to 1,000 as the readiness of the fabric
demands, set the latch with SAF_STO_DISC (417), and pins that do not, do not; a clear of the latch acts only while neither
pin demands (R348). -/
def Obligations.DemandsAndStoPins : Prop :=
  (∀ (t : Time) (s : State) (g : Nat), ticking s = true → g < 16 →
    (grp (refresh t s) g).kind = demandKind s g ∧
    (demandKind s g ≠ 0 → (grp s g).kind ≠ demandKind s g → (grp (refresh t s) g).hold = true) ∧
    (demandKind s g = 5 ∨ demandKind s g = 2 → (grp s g).kind ≠ demandKind s g →
      ∀ l ∈ grpLegs s g, GatesOff (refresh t s) l) ∧
    ((grp s g).hold = true → (grp (refresh t s) g).hold = true) ∧ (refresh t s).mem = s.mem ∧ RegsBut [] s (refresh t s) ∧
    (∀ l, (leg (refresh t s) l).h.on = true → (leg s l).h.on = true) ∧
    (∀ l, (leg (refresh t s) l).l.on = true → (leg s l).l.on = true)) ∧
  ((∀ (pinB : Bool) (t : Time) (s : State), (if pinB then s.saf.stoB else s.saf.stoA) = false → ∃ x : State,
    exec (.stoPinFall pinB t) s = .next x ∧ (if pinB then x.saf.stoB else x.saf.stoA) = true ∧ Pends 416 s x ∧
    (if pinB then x.saf.stoA = s.saf.stoA else x.saf.stoB = s.saf.stoB) ∧ x.mem = s.mem ∧
    x.saf.stoDifAt = (if x.saf.stoA = x.saf.stoB then none else some (s.saf.stoDifAt.getD t)) ∧
    (∀ g, g < 16 → ticking s = true → inGroups s SAF_STO_GROUPS g = true → (grp s g).kind ≠ 5 →
      (grp x g).kind = 5 ∧ (grp x g).hold = true ∧ ∀ l ∈ grpLegs s g, GatesOff x l)) ∧
  (∀ (pinB : Bool) (t : Time) (s : State), (if pinB then s.saf.stoB else s.saf.stoA) = true → ∃ x : State,
    exec (.stoPinRise pinB t) s = .next x ∧ (if pinB then x.saf.stoB else x.saf.stoA) = false ∧
    (if pinB then x.saf.stoA = s.saf.stoA else x.saf.stoB = s.saf.stoB) ∧ x.mem = s.mem ∧
    x.saf.stoDifAt = (if x.saf.stoA = x.saf.stoB then none else some (s.saf.stoDifAt.getD t)) ∧
    (∀ g, (grp s g).hold = true → (grp x g).hold = true) ∧ RegsBut [] s x) ∧
  (∀ (t u : Time) (s : State), s.saf.stoDifAt = some u → u + lfld s SAF_STO_SDISC * ms < t →
    flag s SAF_LATCH_STODISC = false → ∃ x : State, exec (.safStoDisc t) s = .next x ∧
    fld x SAF_LATCH_STODISC = 1 ∧ fld x SAF_LATCH_SIND = fld s SAF_LATCH_SIND ∧ Pends 417 s x ∧
    RegsBut [SAF_LATCH] s x ∧ x.mem = s.mem) ∧
  (∀ (t : Time) (s : State), (∀ u, s.saf.stoDifAt = some u → t ≤ u + lfld s SAF_STO_SDISC * ms) →
    exec (.safStoDisc t) s = .next (upto t s)) ∧
  (∀ (s : State) (part : BitVec 13), safReady s part = true → 1 ≤ sfld s SAF_STO_SDISC ∧ sfld s SAF_STO_SDISC ≤ 1000) ∧
  (∀ s : State, s.saf.stoA = false → s.saf.stoB = false → ∃ x : State,
    exec .latchClearStodisc s = .next x ∧ fld x SAF_LATCH_STODISC = 0 ∧
    fld x SAF_LATCH_SIND = fld s SAF_LATCH_SIND ∧ RegsBut [SAF_LATCH] s x) ∧
  (∀ s : State, s.saf.stoA = true ∨ s.saf.stoB = true → exec .latchClearStodisc s = .next s))

/-- Safe inputs: pins that have passed the filter are taken over; an input that begins to demand raises its event and its
FUNC acts on its groups, starts their SS1 timers or the discharge, and the demand ends with both channels (R349, R351).
Channels that disagree for longer than DISC ms, from 1 to 1,000 as the readiness demands, set the input's latch with its
event, and not before; SINDp clears it only while neither channel demands (R350).
Safe outputs: SAF_SOUT_SET energises an enabled output and takes its bit away to switch it off, a brake output falls
SBCDLY after an STO demand (R352), a test pulse takes the other pin, and a read-back that is not low within 50 µs of a
test pulse, or is low for more than 10 µs on the other pin, switches the output off with its latch and event until it is
cleared and set again (R353). -/
def Obligations.SafeInputsAndOutputs : Prop :=
  ((∀ (p : Fin 8) (a b : Bool) (h t : Time) (s : State), sinOn s p.val = true → sinPassed s p.val h t = true →
    (a = false ∨ b = lflag s (SAF_SIN_CFG_ANTI p.val)) → anyDemand s p.val = false →
    lfld s (SAF_SIN_CFG_FUNC p.val) ≠ 2 → lfld s (SAF_SIN_CFG_FUNC p.val) ≠ 5 → ∃ x : State,
    exec (.safeInputDemand p a b ⟨h, t⟩) s = .next x ∧ Pends (418 + p.val) s x ∧ (sin x p.val).a = a ∧ (sin x p.val).b = b ∧
    ((sin x p.val).disAt = none ↔ (!a) = (b == lflag s (SAF_SIN_CFG_ANTI p.val))) ∧ RegsBut [] s x ∧
    (∀ g, g < 16 → ticking s = true → inGroups s (SAF_SIN_GRP_GROUPS p.val) g = true →
      funcKind (lfld s (SAF_SIN_CFG_FUNC p.val)) ≤ (grp x g).kind ∧
      (lfld s (SAF_SIN_CFG_FUNC p.val) = 1 → (grp s g).kind ≠ 5 → ∀ l ∈ grpLegs s g, GatesOff x l))) ∧
  (∀ (p : Fin 8) (a b : Bool) (h t : Time) (s : State) (g : Nat), sinOn s p.val = true → sinPassed s p.val h t = true →
    (a = false ∨ b = lflag s (SAF_SIN_CFG_ANTI p.val)) → anyDemand s p.val = false →
    lfld s (SAF_SIN_CFG_FUNC p.val) = 2 → g < 16 → inGroups s (SAF_SIN_GRP_GROUPS p.val) g = true →
    (grp s g).ss1 = none → ∃ x : State,
    exec (.safeInputDemand p a b ⟨h, t⟩) s = .next x ∧ (grp x g).ss1 = some (t + lfld s (SAF_SS1T_SS1T g) * ms) ∧
    Pends (418 + p.val) s x ∧ x.mem = s.mem) ∧
  (∀ (p : Fin 8) (a b : Bool) (h t : Time) (s : State), sinOn s p.val = true → sinPassed s p.val h t = true →
    (a = false ∨ b = lflag s (SAF_SIN_CFG_ANTI p.val)) → anyDemand s p.val = false →
    lfld s (SAF_SIN_CFG_FUNC p.val) = 5 → inGroups s (SAF_SIN_GRP_GROUPS p.val) (disGroup s) = true →
    lflag s SAF_DIS_CFG_EN = true → disRuns s = false → ∃ x : State,
    exec (.safeInputDemand p a b ⟨h, t⟩) s = .next x ∧ disRuns x = true ∧ x.saf.disAt = t ∧ Pends (418 + p.val) s x ∧
    x.mem = s.mem) ∧
  (∀ (p : Fin 8) (h t : Time) (s : State), sinPassed s p.val h t = true → ∃ x : State,
    exec (.safeInputDemandEnd p ⟨h, t⟩) s = .next x ∧ anyDemand x p.val = false ∧ (sin x p.val).a = true ∧
    (sin x p.val).disAt = none ∧ (∀ g, (grp s g).hold = true → (grp x g).hold = true) ∧ RegsBut [] s x) ∧
  (∀ (p : Fin 8) (t u : Time) (s : State), (sin s p.val).disAt = some u → sinOn s p.val = true →
    u + lfld s (SAF_SIN_CFG_DISC p.val) * ms < t → sinLatch s p.val = false → ∃ x : State,
    exec (.sinDiscrepancy p t) s = .next x ∧ sinLatch x p.val = true ∧ Pends (418 + p.val) s x ∧
    (∀ q, q < 8 → q ≠ p.val → sinLatch x q = sinLatch s q) ∧ RegsBut [SAF_LATCH] s x) ∧
  (∀ (p : Fin 8) (t : Time) (s : State),
    (∀ u, (sin s p.val).disAt = some u → t ≤ u + lfld s (SAF_SIN_CFG_DISC p.val) * ms) →
    exec (.sinDiscrepancy p t) s = .next (upto t s)) ∧
  (∀ (s : State) (part : BitVec 13) (p : Nat), p < 8 → safReady s part = true → sflag s (SAF_SIN_CFG_EN p) = true →
    1 ≤ sfld s (SAF_SIN_CFG_DISC p) ∧ sfld s (SAF_SIN_CFG_DISC p) ≤ 1000) ∧
  (∀ (p : Fin 8) (s : State), anyDemand s p.val = false → ∃ x : State,
    exec (.latchClearSind p) s = .next x ∧ sinLatch x p.val = false ∧
    (∀ q, q < 8 → q ≠ p.val → sinLatch x q = sinLatch s q) ∧ RegsBut [SAF_LATCH] s x) ∧
  (∀ (p : Fin 8) (s : State), anyDemand s p.val = true → exec (.latchClearSind p) s = .next s)) ∧
  ((∀ (m : Mask) (d : Word) (s : State) (o : Nat), o < 4 → m.getLsbD 0 = true → d.getLsbD o = true →
    s.saf.sstate ≠ 0 → lflag s (SAF_SOUT_CFG_EN o) = true → lflag s (SAF_SOUT_CFG_SBC o) = false →
    (fld s SAF_LATCH_SOUTF).testBit o = false → (SAF_SOUT_SET_ON.of (clWord s SAF_SOUT_SET m d)).testBit o = true →
    ∃ x : State, exec (.soutSet m d) s = .next x ∧ (sout x o).on = true ∧ (sout x o).armed = true ∧
    (∀ a, a ≠ SAF_SOUT_SET → reg x a = reg s a) ∧ x.legs = s.legs ∧ x.grps = s.grps) ∧
  (∀ (m : Mask) (d : Word) (s : State) (o : Nat), o < 4 →
    (SAF_SOUT_SET_ON.of (clWord s SAF_SOUT_SET m d)).testBit o = false → ∃ x : State,
    exec (.soutSet m d) s = .next x ∧ (sout x o).on = false ∧ x.legs = s.legs ∧ x.grps = s.grps) ∧
  (∀ (o : Fin 4) (t : Time) (s : State), (sout s o.val).on = true →
    (sout s o.val).testAt + lfld s (SAF_SOUT_CFG_TPP o.val) * ms ≤ t → ∃ x : State,
    exec (.soutTestPulse o t) s = .next x ∧ (sout x o.val).testAt = t ∧
    (sout x o.val).testB = !(sout s o.val).testB ∧
    (sout x o.val).testEnd = t + lfld s (SAF_SOUT_CFG_TPW o.val) * us ∧ (sout x o.val).on = true ∧
    (∀ k, k ≠ o.val → sout x k = sout s k) ∧ x.regs = s.regs) ∧
  (∀ (o : Fin 4) (pinB rb : Bool) (h t : Time) (s : State) (y : SoutSt), s.saf.sstate ≠ 0 →
    lflag s (SAF_SOUT_CFG_EN o.val) = true → (fld s SAF_LATCH_SOUTF).testBit o.val = false → y = sout s o.val →
    y.on = true → (y.testB = pinB ∧ y.testAt < y.testEnd ∧ rb = true ∧ h ≤ y.testAt ∧ y.testAt + 50 * us ≤ t ∨
      y.testB ≠ pinB ∧ rb = false ∧ max h y.onAt + 10 * us < t) → ∃ x : State,
    exec (.soutFault o ⟨pinB, rb, h, t⟩) s = .next x ∧ (sout x o.val).on = false ∧ Pends (426 + o.val) s x ∧
    (sout x o.val).armed = false ∧ (fld x SAF_LATCH_SOUTF).testBit o.val = true ∧
    (∀ k, k ≠ o.val → sout x k = sout s k) ∧ RegsBut [SAF_LATCH] s x) ∧
  (∀ (o : Fin 4) (pinB rb : Bool) (h t : Time) (s : State), (sout s o.val).on = false →
    exec (.soutFault o ⟨pinB, rb, h, t⟩) s = .next (upto t s)) ∧
  (∀ (o : Fin 4) (t : Time) (s : State), (sout s o.val).on = true → brakeDue s o.val t = true → ∃ x : State,
    exec (.sbcDeenergise o t) s = .next x ∧ (sout x o.val).on = false ∧ (∀ k, k ≠ o.val → sout x k = sout s k) ∧
    x.regs = s.regs ∧ x.legs = s.legs) ∧
  (∀ (o : Fin 4) (s : State), ∃ x : State, exec (.latchClearSoutf o) s = .next x ∧
    (fld x SAF_LATCH_SOUTF).testBit o.val = false ∧ (∀ k, sout x k = sout s k) ∧
    (∀ a, a ≠ SAF_LATCH → reg x a = reg s a)))

/-- The fabric freezes when SV is gone or the heartbeats are missed and unfreezes after HBT boundaries with one (R341);
SS1 timers and manager demands act on their groups (R355, R369), but in BOOT, where the STO pins act and nothing else,
they have no effect (R340, R505); a request in error is ignored with its event.
The limit entries on the banks that the boundary has latched (R354): a NaN and a value outside LO to HI are out of
bounds; an enabled entry is evaluated in NORMAL with FRZ = 0 only, and in FROZEN and BENCH always; it trips at the Nth
boundary in a row that is out of bounds, with SAF_LIM_TRIP, and demands its KIND of its groups; and it untrips at the
first boundary that is within bounds, or at which it is not evaluated, which is the model's reading (log 37). -/
def Obligations.FabricStatesAndManagerDemands : Prop :=
  ((∀ s : State, s.saf.sstate = 1 → svRuns s = false ∨ lfld s SAF_CTRL_HBT ≤ s.saf.hbMiss → ∃ x : State,
    exec .safFrozen s = .next x ∧ x.saf.sstate = 2 ∧ x.saf.hbOk = 0 ∧ Pends 431 s x ∧ RegsBut [] s x ∧
    (∀ g, (grp s g).hold = true → (grp x g).hold = true)) ∧
  (∀ s : State, s.saf.sstate = 2 → svRuns s = true → lfld s SAF_CTRL_HBT ≤ s.saf.hbPrev → ∃ x : State,
    exec .safUnfreeze s = .next x ∧ x.saf.sstate = 1 ∧ x.saf.hbMiss = 0 ∧ x.regs = s.regs ∧ x.grps = s.grps ∧
    x.legs = s.legs) ∧
  (∀ (g : Fin 16) (t e : Time) (s : State), (grp s g.val).ss1 = some e → e ≤ t → s.saf.sstate ≠ 0 → ∃ x : State,
    exec (.ss1Expire g t) s = .next x ∧ (grp x g.val).ss1 = none ∧ (grp x g.val).ss1Exp = true ∧ Pends 433 s x ∧
    RegsBut [] s x ∧ (∀ h, h ≠ g.val → (grp x h).ss1 = (grp s h).ss1 ∧ (grp x h).man = (grp s h).man) ∧
    (ticking s = true → (grp x g.val).kind = 5 ∧
      ((grp s g.val).kind ≠ 5 → ∀ l ∈ grpLegs s g.val, GatesOff x l))) ∧
  (∀ (g : Fin 16) (t : Time) (s : State), s.saf.sstate = 0 → exec (.ss1Expire g t) s = .next (upto t s)) ∧
  (∀ (mk : BitVec 16 → Instr), mk ∈ [Instr.grpreqClear, Instr.grpreqHold, Instr.grpreqAsc, Instr.grpreqAllOff,
    Instr.grpreqSto, Instr.grpreqSs1Start, Instr.grpreqSs1Stop] → ∀ (gs : BitVec 16) (s : State), s.saf.sstate = 0 →
      exec (mk gs) s = .next s) ∧
  (∀ (gs : BitVec 16) (s : State), s.saf.sstate ≠ 0 → ∃ x : State, exec (.grpreqClear gs) s = .next x ∧
    (∀ g, gs.getLsbD g = true → (grp x g).man = 0 ∧ (grp x g).ss1Exp = false) ∧
    (∀ g, gs.getLsbD g = false → (grp x g).man = (grp s g).man ∧ (grp x g).ss1Exp = (grp s g).ss1Exp) ∧ RegsBut [] s x ∧
    (∀ g, (grp s g).hold = true → (grp x g).hold = true)) ∧
  (∀ (k : Nat) (mk : BitVec 16 → Instr), (k, mk) ∈ [(1, Instr.grpreqHold), (2, Instr.grpreqAsc),
    (3, Instr.grpreqAllOff), (4, Instr.grpreqSto)] → ∀ (gs : BitVec 16) (s : State), s.saf.sstate ≠ 0 → ∃ x : State,
    exec (mk gs) s = .next x ∧
    (∀ g, gs.getLsbD g = true → (grp x g).man = (if opKind (grp s g).man < opKind k then k else (grp s g).man) ∧
      (ticking s = true → opKind k ≤ (grp x g).kind)) ∧
    (∀ g, gs.getLsbD g = false → (grp x g).man = (grp s g).man) ∧ RegsBut [] s x) ∧
  (∀ (gs : BitVec 16) (s : State), s.saf.sstate ≠ 0 → ∃ x : State, exec (.grpreqSs1Start gs) s = .next x ∧
    (∀ g, gs.getLsbD g = true → (grp x g).ss1 = some ((grp s g).ss1.getD (s.now + lfld s (SAF_SS1T_SS1T g) * ms))) ∧
    (∀ g, gs.getLsbD g = false → (grp x g).ss1 = (grp s g).ss1) ∧ RegsBut [] s x) ∧
  (∀ (gs : BitVec 16) (s : State), s.saf.sstate ≠ 0 → ∃ x : State, exec (.grpreqSs1Stop gs) s = .next x ∧
    (∀ g, gs.getLsbD g = true → (grp x g).ss1 = none) ∧
    (∀ g, gs.getLsbD g = false → (grp x g).ss1 = (grp s g).ss1) ∧ RegsBut [] s x) ∧
  (∀ (d : Word) (s : State), SAF_GRPREQ_GO.of d = 1 → (SAF_GRPREQ_OP.of d = 7 ∨ bits d.toNat 19 12 ≠ 0) → ∃ x : State,
    exec (.safReqErr d) s = .next x ∧ Pends 437 s x ∧ RegsBut [] s x ∧ x.grps = s.grps ∧ x.legs = s.legs)) ∧
  ((∀ (k : Nat) (s : State), fval (LimitWord s k) = .nan → limOut s k = true) ∧
  (∀ (k : Nat) (s : State) (a b c : Bool) (x lo hi : Rat), fval (LimitWord s k) = .fin a x →
    fval (live s (SAF_LIM_LO k)) = .fin b lo → fval (live s (SAF_LIM_HI k)) = .fin c hi →
    (limOut s k = true ↔ x < lo ∨ hi < x)) ∧
  (∀ (k : Nat) (s : State), (lflag s (SAF_LIM_CFG_EN k) = false → limOn s k = false) ∧
    (s.saf.sstate = 0 → limOn s k = false) ∧
    (lflag s (SAF_LIM_CFG_EN k) = true → s.saf.sstate = 1 → limOn s k = !(lflag s (SAF_LIM_CFG_FRZ k))) ∧
    (lflag s (SAF_LIM_CFG_EN k) = true → s.saf.sstate = 2 ∨ s.saf.sstate = 3 → limOn s k = true)) ∧
  (∀ (k n : Nat) (s x : State), k < 16 → n = SMap.get natD s.saf.limN k → x = limStep k s →
    limOn s k = true → limOut s k = true → SMap.get natD x.saf.limN k = min (n + 1) 15 ∧
    ((fld x SAF_LIMST_TRIP).testBit k = true ↔ lfld s (SAF_LIM_CFG_N k) ≤ n + 1) ∧
    (lfld s (SAF_LIM_CFG_N k) ≤ n + 1 → (fld s SAF_LIMST_TRIP).testBit k = false → Pends 430 s x) ∧
    (∀ j, j ≠ k → (fld x SAF_LIMST_TRIP).testBit j = (fld s SAF_LIMST_TRIP).testBit j) ∧ RegsBut [SAF_LIMST] s x) ∧
  (∀ (k : Nat) (s x : State), k < 16 → x = limStep k s → (limOn s k = false ∨ limOut s k = false) →
    SMap.get natD x.saf.limN k = 0 ∧ (fld x SAF_LIMST_TRIP).testBit k = false ∧ x.grps = s.grps ∧ x.legs = s.legs ∧
    (∀ j, j ≠ k → (fld x SAF_LIMST_TRIP).testBit j = (fld s SAF_LIMST_TRIP).testBit j) ∧ RegsBut [SAF_LIMST] s x) ∧
  (∀ (k g : Nat) (s : State), k < 16 → g < 16 → ticking s = true → limOn s k = true → limOut s k = true →
    lfld s (SAF_LIM_CFG_N k) ≤ SMap.get natD s.saf.limN k + 1 → inGroups s (SAF_LIM_GRP_GROUPS k) g = true →
    opKind (lfld s (SAF_LIM_CFG_KIND k)) ≤ (grp (limEvaluate s) g).kind))

/-- The discharge starts with its charge C × V, stops, is done after NDONE boundaries at or below VSAFE, or faults at
its timeout with a latch that clears once no discharge runs (R358 to R362). At each later boundary the charge falls by
DUTY × V × TICK / R, and the first at which it is at or below C × VSAFE while V is above VSAFE sets IMPL with
DISCH_IMPLAUS; the boundaries in a row at or below VSAFE are counted (R359 to R361). -/
def Obligations.DischargeRuns : Prop :=
  (∀ s : State, s.saf.sstate ≠ 0 → lflag s SAF_DIS_CFG_EN = true → disRuns s = false → ∃ x : State,
    exec .dischargeStart s = .next x ∧ fld x SAF_DIS_ST_STATE = 1 ∧ fld x SAF_DIS_ST_IMPL = 0 ∧
    reg x SAF_DIS_Q = (fOfVal (mulV (fval (live s SAF_DIS_C)) (disMax s))).val ∧ x.saf.disAt = s.now ∧ x.saf.disN = 0 ∧
    RegsBut [SAF_DIS_ST, SAF_DIS_Q] s x ∧ (ticking s = true → disGroup s < 16 → 4 ≤ (grp x (disGroup s)).kind)) ∧
  (∀ s : State, disRuns s = true → ∃ x : State, exec .dischargeStop s = .next x ∧
    fld x SAF_DIS_ST_STATE = 0 ∧ RegsBut [SAF_DIS_ST] s x ∧ (∀ g, (grp s g).hold = true → (grp x g).hold = true)) ∧
  (∀ s : State, disRuns s = true → lfld s SAF_DIS_CFG_NDONE ≤ s.saf.disN → ∃ x : State,
    exec .dischDone s = .next x ∧ fld x SAF_DIS_ST_STATE = 2 ∧ Pends 434 s x ∧ RegsBut [SAF_DIS_ST] s x) ∧
  (∀ (t : Time) (s : State), disRuns s = true → s.saf.disAt + lfld s SAF_DIS_TMO_TMO * ms ≤ t → ∃ x : State,
    exec (.dischFault t) s = .next x ∧ fld x SAF_DIS_ST_STATE = 3 ∧ fld x SAF_LATCH_DISFLT = 1 ∧ Pends 436 s x ∧
    RegsBut [SAF_DIS_ST, SAF_LATCH] s x ∧ (ticking s = true → disGroup s < 16 → 1 ≤ (grp x (disGroup s)).kind)) ∧
  (∀ s : State, disRuns s = false → ∃ x : State, exec .latchClearDisflt s = .next x ∧
    fld x SAF_LATCH_DISFLT = 0 ∧ RegsBut [SAF_LATCH] s x) ∧
  (∀ s : State, disRuns s = true → exec .latchClearDisflt s = .next s) ∧
  (∀ (s x : State) (a b c d : Bool) (q du r v sec : Rat), disRuns s = true → s.saf.disFresh = false → s.saf.disQ = .fin a q →
    fval (live s SAF_DIS_DUTY) = .fin b du → disMax s = .fin c v → fval (live s SAF_DIS_R) = .fin d r → r ≠ 0 →
    sec = mkRat (s.tick.period * 25) 10000000000 → x = dischModel s →
    (∃ e : Bool, x.saf.disQ = .fin e (q - du * v * (sec / r))) ∧ reg x SAF_DIS_Q = (fOfVal x.saf.disQ).val ∧
    fld x SAF_DIS_ST_STATE = 1 ∧ RegsBut [SAF_DIS_ST, SAF_DIS_Q] s x) ∧
  (∀ (s x : State) (a b c d : Bool) (q k vs v : Rat), disRuns s = true → s.saf.disFresh = false → x = dischModel s →
    x.saf.disQ = .fin a q → fval (live s SAF_DIS_C) = .fin b k → fval (live s SAF_DIS_VSAFE) = .fin c vs → disMax s = .fin d v →
    (fld s SAF_DIS_ST_IMPL = 0 → q ≤ k * vs → vs < v → fld x SAF_DIS_ST_IMPL = 1 ∧ Pends 435 s x) ∧
    ((k * vs < q ∨ v ≤ vs ∨ fld s SAF_DIS_ST_IMPL = 1) → fld x SAF_DIS_ST_IMPL = fld s SAF_DIS_ST_IMPL)) ∧
  (∀ (s x : State) (a b c : Bool) (vb vr vs : Rat), disRuns s = true → x = dischModel s →
    disV s (lfld s SAF_DIS_CFG_BSW) = .fin a vb → disV s (lfld s SAF_DIS_CFG_SARW) = .fin b vr →
    fval (live s SAF_DIS_VSAFE) = .fin c vs →
    x.saf.disN = (if vb ≤ vs ∧ vr ≤ vs then s.saf.disN + 1 else 0)) ∧
  (∀ s : State, disRuns s = false → dischModel s = s)

/-- A signature with a bad header is counted and dropped (R375); a tick signature of the lead sets the follower's next
period, and without TIME discord its next boundary, which TIME discord moves by 100 ppm at most (R378, R381, R391),
while the carriers follow by 100 ppm of the tick at most (R32); a joiner answers the first one it hears (R387), and a
standalone device keeps it. That JOIN follows the first tick signature, and that a standalone device keeps it, is the
model's reading (log 42), and that the carriers follow as fast as they may its choice (log 40).
Status and periodic signatures update what is known of their source (R377, R394); an asynchronous one becomes a
record of its receive queue, its trailer's check in the completion word, or is dropped and counted out of concord (R390,
R395).
A management signature that comes in by a port of no SPN-PEER class or from no member is dropped and counted; of
another, the payload acts for the senders and roles that R400 allows: a refusal ends a join (R387), a leave is planned
(R388), a gathering part goes to SV, reports are noted (R459), and the lead passes (R385). Which payloads are the kinds
1 to 8, and what their argument is, is the model's choice (logs 40 and 54). -/
def Obligations.SignaturesArrive : Prop :=
  ((∀ (q : Peer) (mk : Sig → Time → Instr), mk ∈ [Instr.tickSignature, Instr.statusSignature, Instr.periodicSignature,
    Instr.asyncSignature, Instr.managementSignature, fun x t => Instr.announce ⟨x, q⟩ t,
    fun x t => Instr.joinSignature x q t] → ∀ (x : Sig) (t : Time) (s : State), portOn s x.port.val = true →
    (link s x.port.val).up = true → inward s x = true → hdrBad x.hdr = true → ∃ y : State, exec (mk x t) s = .next y ∧
    fld y SPN_CNT_HDRERR = min (fld s SPN_CNT_HDRERR + 1) 255 ∧ Pends 478 s y ∧ RegsBut [SPN_CNT] s y ∧
    y.spn.fwd = s.spn.fwd ∧ y.spn.membs = s.spn.membs ∧ y.mem = s.mem ∧ y.tick = s.tick) ∧
  (∀ (x : Sig) (t : Time) (s : State), Arrives s x → x.hdr.kind = 0 → x.payload.length = 48 → s.spn.role = 2 →
    slice x.payload 32 1 % 64 = s.spn.lead → ∃ y : State, exec (.tickSignature x t) s = .next y ∧
    y.spn.sigSeen = true ∧ y.spn.noSig = 0 ∧ y.spn.holdover = false ∧ y.tick.periodNext = slice x.payload 16 2 ∧
    (∀ l, (leg y l).h = (leg s l).h ∧ (leg y l).l = (leg s l).l)) ∧
  (∀ (g : TickSig) (s : State), s.spn.disc.getLsbD 2 = false → (placeBoundary g s).tick.next = max s.now g.at_ ∧
    (placeBoundary g s).tick.periodNext = g.period ∧ (placeBoundary g s).regs = s.regs) ∧
  (∀ (g : TickSig) (s : State) (d : Time), s.spn.disc.getLsbD 2 = true → d = s.tick.period * tb / 10000 →
    s.now + d ≤ s.tick.next → (placeBoundary g s).tick.next ≤ s.tick.next + d ∧
    s.tick.next ≤ (placeBoundary g s).tick.next + d) ∧
  (∀ (g : TickSig) (s : State) (l : Nat) (d : Time), d = s.tick.period * tb / 10000 →
    (leg (placeBoundary g s) l).epoch ≤ (leg s l).epoch + d ∧ (leg s l).epoch ≤ (leg (placeBoundary g s) l).epoch + d ∧
    (leg (placeBoundary g s) l).h = (leg s l).h ∧ (leg (placeBoundary g s) l).l = (leg s l).l) ∧
  (∀ (x : Sig) (t : Time) (s : State), Arrives s x → x.hdr.kind = 0 → x.payload.length = 48 → s.spn.role = 3 →
    s.spn.sig = none → ticking s = false → ∃ y : State,
    exec (.tickSignature x t) s = .next y ∧ y.spn.lead = slice x.payload 32 1 % 64 ∧ y.spn.sig.isSome = true ∧
    Goes 3 (peerBytes (selfPeer y)) (uniPorts y y.spn.lead) y ∧ y.tick = s.tick ∧ y.legs = s.legs) ∧
  (∀ (x : Sig) (t : Time) (s : State), Arrives s x → x.hdr.kind = 0 → x.payload.length = 48 → s.spn.role = 0 →
    ∃ y : State, exec (.tickSignature x t) s = .next y ∧ y.spn.sig.isSome = true ∧ y.tick = s.tick ∧ y.mem = s.mem)) ∧
  ((∀ (x : Sig) (t : Time) (s : State) (a : Nat), Arrives s x → a = x.hdr.src.toNat → (memb s a).isMember = true →
    ∃ y : State, exec (.statusSignature x t) s = .next y ∧ (memb y a).heard = true ∧
    (memb y a).disc = BitVec.ofNat 4 (slice x.payload 14 2 / 4) ∧ (memb y a).lock = bitOf (slice x.payload 14 2) 0 ∧
    (memb y a).delays = (List.range 4).map (fun p => slice x.payload (16 + 2 * p) 2) ∧
    y.mem = s.mem ∧ y.tick = s.tick ∧ y.legs = s.legs) ∧
  (∀ (x : Sig) (t : Time) (s : State), Arrives s x → ∃ y : State, exec (.periodicSignature x t) s = .next y ∧
    (memb y x.hdr.src.toNat).periodic = some x.payload ∧ y.mem = s.mem ∧ y.tick = s.tick) ∧
  (∀ (x : Sig) (t : Time) (s : State) (q a o n : Nat), Arrives s x → q = x.hdr.dq.toNat → a = x.hdr.src.toNat →
    o = 8 * (spq s q).rxWp → n = x.hdr.len.toNat → hasQ s q = true → concordant s a = true →
    lfld s (SPN_RXQ_CFG_SHARE q) ≠ 0 → (memb s a).granted.getLsbD q = true → rxHeld s q + (24 + n) ≤ 65528 → ∃ y : State,
    exec (.asyncSignature x t) s = .next y ∧ (spq y q).rxWp = ((spq s q).rxWp + (24 + n) / 8) % 8192 ∧
    (spq y q).recs = (spq s q).recs ++ [{ src := a, start := o, bytes := 24 + n, at_ := t }] ∧
    (∀ i, i < 16 → rdByte y (rxBase q + (o + i) % 65536) = (headerBytes x.hdr).getD i 0#8) ∧
    (∀ i, i < n → rdByte y (rxBase q + (o + 16 + i) % 65536) = x.payload.getD i 0#8) ∧
    rdByte y (rxBase q + (o + 16 + n) % 65536) = 3#8 ∧
    (∀ b, b < rxBase q ∨ rxBase q + 65536 ≤ b → rdByte y b = rdByte s b) ∧ y.tick = s.tick) ∧
  (∀ (x : Sig) (t : Time) (s : State) (q a o n : Nat), portOn s x.port.val = true → (link s x.port.val).up = true →
    inward s x = true → hdrBad x.hdr = false → delivers s x = true → trailerOk x = false → q = x.hdr.dq.toNat →
    a = x.hdr.src.toNat → o = 8 * (spq s q).rxWp → n = x.hdr.len.toNat → hasQ s q = true → concordant s a = true →
    lfld s (SPN_RXQ_CFG_SHARE q) ≠ 0 → (memb s a).granted.getLsbD q = true → rxHeld s q + (24 + n) ≤ 65528 → ∃ y : State,
    exec (.asyncSignature x t) s = .next y ∧ (spq y q).rxWp = ((spq s q).rxWp + (24 + n) / 8) % 8192 ∧
    rdByte y (rxBase q + (o + 16 + n) % 65536) = 1#8 ∧ Pends 478 s y) ∧
  (∀ (x : Sig) (t : Time) (s : State), Arrives s x → concordant s x.hdr.src.toNat = false → ∃ y : State,
    exec (.asyncSignature x t) s = .next y ∧ fld y SPN_CNT_RXDROP = min (fld s SPN_CNT_RXDROP + 1) 255 ∧ Pends 476 s y ∧
    RegsBut [SPN_CNT] s y ∧ y.spn.qs = s.spn.qs ∧ y.mem = s.mem)) ∧
  ((∀ (x : Sig) (t : Time) (s : State), Arrives s x →
    (peerPort s x.port.val = false ∨ knownMember s x.hdr.src.toNat = false) → ∃ y : State,
    exec (.managementSignature x t) s = .next y ∧ fld y SPN_CNT_MGDROP = min (fld s SPN_CNT_MGDROP + 1) 255 ∧
    Pends 477 s y ∧ RegsBut [SPN_CNT] s y ∧ y.spn.role = s.spn.role ∧ y.spn.lead = s.spn.lead ∧ y.tru = s.tru ∧
    y.mem = s.mem) ∧
  (∀ (x : Sig) (t : Time) (s : State) (a k n : Nat), Arrives s x → peerPort s x.port.val = true → a = x.hdr.src.toNat →
    knownMember s a = true → k = Config.mgmtKind x.payload → n = Config.mgmtArg x.payload → ∃ y : State,
    exec (.managementSignature x t) s = .next y ∧
    (k = 1 → a = s.spn.lead → s.spn.role = 3 → y.spn.role = 0 ∧ y.spn.joinAt = none ∧ y.spn.joinCode = n % 8 ∧
      Pends 469 s y) ∧
    (k = 2 → isLead s = true → y.spn.leaves = s.spn.leaves ++ [(a, n)]) ∧
    (k = 3 → a = s.spn.lead → y.spn.mgmt = (a, x.payload) :: s.spn.mgmt) ∧
    (k = 5 → isLead s = true → y.tru.succ = s.tru.succ ||| (1#64 <<< a)) ∧
    (k = 6 → isLead s = true → y.tru.rolled = s.tru.rolled ||| (1#64 <<< a)) ∧
    (k = 8 → isLead s = true → y.tru.fails = s.tru.fails ||| (1#64 <<< a) ∧ (a < 64 → y.tru.succ.getLsbD a = false)) ∧
    (k = 7 → a = s.spn.lead → y.spn.lead = n % 64 ∧ y.spn.role = (if n % 64 = myAddr s then 1 else 2) ∧ Pends 467 s y) ∧
    (k ≠ 1 → k ≠ 4 → k ≠ 7 → y.spn.role = s.spn.role ∧ y.spn.lead = s.spn.lead) ∧ y.mem = s.mem))

/-- What this device sends, under a good header and trailer (R374): the lead's tick signature once a tick, TLEAD ahead;
the status signature with its periodic payload from the start of the slot on; and the head of a transmit queue that its
credit and budget cover (R376, R377, R393, R394, R396 to R398); what meets a busy output waits for it. A queued
signature of another KIND is discarded and counted.
The pointers of the queues and the load of a receive-queue word, which waits for its arrival (R393, R395, R396). -/
def Obligations.SignaturesAreSent : Prop :=
  ((∀ (t : Time) (s : State), isLead s = true → ticking s = true → s.spn.sigSeen = false →
    t + lfld s SPN_TIM_TLEAD * tb ≤ s.tick.next → ∃ (y : State) (pay : List Byte),
    exec (.tickSignatureSend t) s = .next y ∧ y.spn.sigSeen = true ∧ Goes 0 pay (bcPorts s) y ∧
    (idle s (bcPorts s) t = true → Leaves 0 pay (bcPorts s) y) ∧ pay.length = 48 ∧
    slice pay 0 8 = (s.tick.tcnt + 1) % 2 ^ 64 ∧ slice pay 16 4 = s.tick.periodNext % 2 ^ 32 ∧
    y.spn.seqBc = s.spn.seqBc + 1 ∧ y.tick = s.tick ∧ y.mem = s.mem ∧ y.regs = s.regs) ∧
  (∀ (t : Time) (s : State), inRing s = true → ticking s = true → s.spn.statusSent = false → sigQuiet s t = false →
    slotStart s ≤ t → idle s (bcPorts s) t = true → ∃ y : State, exec (.statusSignatureSend t) s = .next y ∧
    y.spn.statusSent = true ∧ Leaves 1 (statusPayload s) (bcPorts s) y ∧
    (lfld s SPN_BUD_PSLOT ≠ 0 → Goes 1 (rdBytes s (perBuf s) (8 * lfld s SPN_BUD_PSLOT)) (bcPorts s) y) ∧
    y.spn.evq = s.spn.evq.drop 4 ∧ y.mem = s.mem ∧ y.regs = s.regs) ∧
  (∀ (t : Time) (s : State), t < slotStart s ∨ s.spn.statusSent = true →
    exec (.statusSignatureSend t) s = .next (settle t (upto t s))) ∧
  (∀ (q port : Fin 4) (t : Time) (s : State), s.now ≤ t → txReady s q.val = true → sigQuiet s t = false → ownDue s t = false →
    (txPorts s q.val).any (fun p => p.1 == port.val) = true → idle s (txPorts s q.val) t = true →
    (lflag s (SPN_TXQ_CFG_CAP q.val) = true → ∀ k, k < 4 → lflag s (SPN_TXQ_CFG_CAP k) = false → txReady s k = true →
      sharePort s k q.val = false) → ∃ y : State, exec (.asyncSend q port t) s = .next y ∧
    Leaves 2 (qBytes s (txBase q.val) (8 * (spq s q.val).txRp + 16) (txLen s q.val - 24)) (txPorts s q.val) y ∧
    y.spn.abytes = s.spn.abytes + txCost s q.val ∧ (spq y q.val).txRp =
      ((spq s q.val).txRp + min (txLen s q.val / 8) (subMod (spq s q.val).txWp (spq s q.val).txRp 8192)) % 8192 ∧
    y.mem = s.mem ∧ y.regs = s.regs) ∧
  (∀ (q port : Fin 4) (t : Time) (s : State), hasQ s q.val = true → txWait s q.val ≠ 0 → inRing s = true →
    bits (txHead s q.val) 30 2 ≠ 2 → ∃ y : State, exec (.asyncSend q port t) s = .next y ∧
    fld y SPN_CNT_HDRERR = min (fld s SPN_CNT_HDRERR + 1) 255 ∧ (∀ a, a ≠ SPN_CNT → reg y a = reg s a) ∧
    y.spn.sent = (settle t (upto t s)).spn.sent ∧ y.mem = s.mem)) ∧
  ((∀ (q : Fin 4) (m : Mask) (d : Word) (s : State), hasQ s q.val = true → ∃ x : State,
    exec (.spnTxqWp q m d) s = .next x ∧
    (spq x q.val).txWp = (SPN_TXQ_WP_PTR q.val).of (clWord s (SPN_TXQ_WP q.val) m d) ∧
    (∀ a, a ≠ SPN_TXQ_WP q.val → reg x a = reg s a) ∧ x.mem = s.mem) ∧
  (∀ (q : Fin 4) (m : Mask) (d : Word) (s : State) (p : Nat), hasQ s q.val = true →
    p = (SPN_RXQ_RP_PTR q.val).of (clWord s (SPN_RXQ_RP q.val) m d) →
    subMod p (spq s q.val).rxRp 8192 ≤ subMod (spq s q.val).rxWp (spq s q.val).rxRp 8192 → ∃ x : State,
    exec (.spnRxqRp q m d) s = .next x ∧ (spq x q.val).rxRp = p ∧
    (spq x q.val).recs = (spq s q.val).recs.filter (fun r => !(decide (subMod (r.start / 8) (spq s q.val).rxRp 8192 +
      r.bytes / 8 ≤ subMod p (spq s q.val).rxRp 8192))) ∧
    (∀ a, a ≠ SPN_RXQ_RP q.val → reg x a = reg s a) ∧ x.mem = s.mem) ∧
  (∀ (w : Who) (a : Word) (z : Size) (t : Time) (s : State) (q i : Nat), target a.toNat = .spnRx q → hasSp s q = true →
    goes (upto t s) w .load a z.bytes = true → i = a.toNat - a.toNat % 4 → ∃ x : State,
    exec (.rxRecordLoad w ⟨a, z⟩ t) s = .next x ∧ (unit x w.key).rdata = pick a.toNat z.bytes (rdWord s i) ∧
    (∀ j, j ≠ w.key → unit x j = unit s j) ∧ x.regs = s.regs ∧ x.mem = s.mem ∧ x.spn = s.spn ∧ t ≤ x.now ∧
    rxDue s q (i - rxBase q) ≤ x.now))

/-- Lock of the lead and of a follower after 16 good boundaries (R380), hold-over when the tick signature is 1 µs late
(R382), and the resynchronisation that steps the tick to the ring's while every group is held (R391). -/
def Obligations.LockHoldoverAndResync : Prop :=
  (∀ s : State, inRing s = true → 16 ≤ s.spn.okRun →
    exec .spnLock s = .next { s with spn := { s.spn with lock := true } }) ∧
  (∀ (t : Time) (s : State), isFollower s = true → ticking s = true → s.spn.sigSeen = false →
    s.spn.missTaken = false → sigDue s + us ≤ t → ∃ x : State,
    exec (.spnHoldover t) s = .next x ∧ x.spn.holdover = true ∧ x.spn.missTaken = true ∧ Pends 473 s x ∧
    RegsBut [] s x ∧ x.tick = s.tick ∧ x.mem = s.mem) ∧
  (∀ (s : State) (g : TickSig), s.spn.sig = some g → isFollower s = true → ticking s = true →
    s.spn.disc.getLsbD 2 = true → groupsHeld s = true → s.now = s.tick.last →
    (ringOpens g s.now ≠ s.tick.tcnt ∨ s.tick.period * tb ≤ 10 * s.spn.phase.natAbs) → ∃ x : State,
    exec .timeResyncStep s = .next x ∧ x.tick.tcnt = (ringTick g s.now).1 ∧ x.tick.last = (ringTick g s.now).2.1 ∧
    x.tick.next = (ringTick g s.now).2.2 ∧ x.spn.disc = s.spn.disc &&& 0b1011#4 ∧ x.spn.phase = 0 ∧
    (∀ l, (leg x l).h = (leg s l).h ∧ (leg x l).l = (leg s l).l) ∧ x.mem = s.mem)

/-- Links come and go, a silent member is lost and its neighbours wrap, the ring forms under the lowest serial number of
the concordant set, the others admitted in discord, and the lead passes on (R384 to R386). The model's choices and
readings: when announcements go out, and that concord and LOCK at the end decide a hand-off (log 40), what is taken from
non-members and which reasons a device outside the concordant set has (log 42), and the ports of a lost member as
operands (log 56). -/
def Obligations.RingMembershipEvents : Prop :=
  (∀ (port : Fin 4) (t : Time) (s : State), portOn s port.val = true → (link s port.val).up = true → ∃ x : State,
    exec (.linkLoss port t) s = .next x ∧ (link x port.val).up = false ∧ (link x port.val).delay = none ∧
    Pends 464 s x ∧ (inRing s = true → (link x port.val).wrap = true ∧ Pends 466 s x) ∧
    (isLead s = true → x.spn.epochPend = true) ∧ (∀ j, j ≠ port.val → link x j = link s j) ∧ RegsBut [] s x ∧
    x.mem = s.mem) ∧
  (∀ (port : Fin 4) (delay : Nat) (t : Time) (s : State), portOn s port.val = true → (link s port.val).up = false →
    ∃ x : State, exec (.spnLinkUp port delay t) s = .next x ∧ (link x port.val).up = true ∧
    (link x port.val).delay = some delay ∧ (s.spn.role = 0 → x.spn.annAt = some (s.spn.annAt.getD (max s.now t)) ∧
      Goes 3 (peerBytes (selfPeer x)) (bcPorts x) x) ∧ Pends 465 s x ∧ RegsBut [] s x ∧
    (∀ j, j ≠ port.val → (link x j).up = (link s j).up ∧ (link x j).wrap = (link s j).wrap) ∧ x.mem = s.mem) ∧
  (∀ (a : Fin 64) (ports : BitVec 4) (s : State), inRing s = true → (memb s a.val).isMember = true →
    a.val ≠ myAddr s → 2 ≤ (memb s a.val).missed → s.spn.lostPend.getLsbD a.val = false → ∃ x : State,
    exec (.spnMemberLost ⟨a, ports⟩) s = .next x ∧ x.spn.lostPend = s.spn.lostPend ||| (1#64 <<< a.val) ∧
    (∀ p, p < 4 → ports.getLsbD p = true → portOn s p = true → (link x p).wrap = true ∧ Pends 464 s x) ∧ Pends 470 s x ∧
    RegsBut [] s x ∧ x.mem = s.mem) ∧
  (∀ (x : Sig) (p : Peer) (t : Time) (s : State), Arrives s x → peerPort s x.port.val = true →
    s.spn.annAt.isSome = true → p.addr.val ≠ myAddr s → ∃ y : State, exec (.announce ⟨x, p⟩ t) s = .next y ∧
    (memb y p.addr.val).peer = some p ∧ RegsBut [SPN_CNT] s y ∧ y.mem = s.mem) ∧
  (∀ (x : Sig) (p : Peer) (t : Time) (s : State), Arrives s x →
    (peerPort s x.port.val = false ∨ s.spn.annAt = none ∨ p.addr.val = myAddr s) → ∃ y : State,
    exec (.announce ⟨x, p⟩ t) s = .next y ∧ fld y SPN_CNT_MGDROP = min (fld s SPN_CNT_MGDROP + 1) 255 ∧ Pends 477 s y ∧
    (∀ a, (memb y a).peer = (memb s a).peer) ∧ RegsBut [SPN_CNT] s y ∧ y.mem = s.mem) ∧
  (∀ (t u : Time) (s : State) (l : Peer), s.spn.annAt = some u → u + 100 * ms ≤ t → spnOn s = true → s.spn.role = 0 →
    s.spn.sig = none →
    lowestSerial (concordantSet (selfPeer s :: (List.range 64).filterMap fun k => (memb s k).peer)) = some l →
    ∃ x : State, exec (.ringForm t) s = .next x ∧ x.spn.role = (if l.addr.val = myAddr s then 1 else 2) ∧
    x.spn.lead = l.addr.val ∧ x.spn.annAt = none ∧ x.spn.reset = true ∧
    (∀ a, a < 64 → ∀ p, (memb s a).peer = some p → (memb x p.addr.val).isMember = true) ∧
    x.spn.disc = outsideSet l (selfPeer s) ∧ (x.spn.disc ≠ 0 → Pends 471 s x) ∧
    ((∀ a p, (memb s a).peer = some p → p.addr.val = a) →
      ∀ a, a < 64 → ∀ p, (memb s a).peer = some p → (memb x a).disc = outsideSet l p) ∧ RegsBut [] s x ∧
    x.mem = s.mem) ∧
  (∀ (s : State) (a : Nat), isFollower s = true → 2 ≤ s.spn.noSig → nextLead s = some a → ∃ x : State,
    exec .leadTakeover s = .next x ∧ x.spn.role = (if a = myAddr s then 1 else 2) ∧ x.spn.lead = a ∧ x.spn.noSig = 0 ∧
    Pends 467 s x ∧ RegsBut [] s x ∧ x.mem = s.mem) ∧
  (∀ (s : State) (n : Nat), s.spn.handoff = some (myAddr s, n) → n ≤ s.tick.tcnt → inRing s = true →
    s.spn.disc = 0 → s.spn.lock = true → ∃ x : State, exec .leadHandoff s = .next x ∧ x.spn.role = 1 ∧
    x.spn.lead = myAddr s ∧ x.spn.handoff = none ∧ Pends 467 s x ∧ RegsBut [] s x) ∧
  (∀ (s : State) (a n : Nat), s.spn.handoff = some (a, n) → a ≠ myAddr s → n ≤ s.tick.tcnt → inRing s = true →
    ((memb s a).disc ≠ 0 ∨ (memb s a).lock = false) →
    exec .leadHandoff s = .next { s with spn := { s.spn with handoff := none } }) ∧
  (∀ (s : State) (a n : Nat), s.spn.handoff = some (a, n) → a ≠ myAddr s → n ≤ s.tick.tcnt → inRing s = true →
    (memb s a).disc = 0 → (memb s a).lock = true → ∃ x : State, exec .leadHandoff s = .next x ∧ x.spn.role = 2 ∧
    x.spn.lead = a ∧ x.spn.handoff = none ∧ Pends 467 s x ∧ RegsBut [] s x)

/-- Joining and leaving: the request is made only with every group held, times out after 100 ms, is admitted or refused
by the lead, and a leave takes effect two ticks later (R387, R388); the port classes lock (R399). That code 7 is judged
at the request, and that the lead takes the notice of a leave, is the model's reading (log 42). -/
def Obligations.JoiningAndLeaving : Prop :=
  (∀ (t : Time) (s : State), spnOn s = true → s.spn.role = 0 → groupsHeld s = true → ∃ x : State,
    exec (.spnJoin t) s = .next x ∧ x.spn.role = 3 ∧ x.spn.joinAt = some (max s.now t) ∧ x.spn.joinCode = 0 ∧
    x.regs = s.regs ∧ x.mem = s.mem) ∧
  (∀ (t : Time) (s : State), spnOn s = true → s.spn.role = 0 → groupsHeld s = false → ∃ x : State,
    exec (.spnJoin t) s = .next x ∧ x.spn.role = 0 ∧ x.spn.joinCode = 7 ∧ Pends 469 s x ∧ RegsBut [] s x) ∧
  (∀ (t u : Time) (s : State), s.spn.joinAt = some u → s.spn.role = 3 → s.spn.sig = none → u + 100 * ms ≤ t →
    ∃ x : State, exec (.joinTimeout t) s = .next x ∧ x.spn.role = 0 ∧ x.spn.joinAt = none ∧
    x.spn.joinCode = 1 ∧ Pends 469 s x ∧ RegsBut [] s x ∧ x.mem = s.mem) ∧
  (∀ (x : Sig) (p : Peer) (t : Time) (s : State), Arrives s x → isLead s = true → peerPort s x.port.val = true →
    joinAnswer s p = 0 → ∃ y : State, exec (.joinSignature x p t) s = .next y ∧
    (memb y p.addr.val).peer = some p ∧ y.spn.admits = s.spn.admits.filter (fun e => e.1 ≠ p.addr.val) ++
      [(p.addr.val, s.tick.tcnt + (if t = s.tick.last then 2 else 3))] ∧ RegsBut [SPN_CNT] s y ∧ y.mem = s.mem) ∧
  (∀ (x : Sig) (p : Peer) (t : Time) (s : State), Arrives s x → isLead s = true → peerPort s x.port.val = true →
    joinAnswer s p ≠ 0 → ∃ y : State, exec (.joinSignature x p t) s = .next y ∧
    Goes 3 (Config.refusalBytes (joinAnswer s p)) (uniPorts y p.addr.val) y ∧ y.spn.admits = s.spn.admits ∧
    Pends 469 s y ∧ RegsBut [SPN_CNT] s y) ∧
  (∀ (s : State) (a n : Nat), isLead s = true → (a, n) ∈ s.spn.admits → n ≤ s.tick.tcnt →
    (∀ e ∈ dueAt s.tick.tcnt s.spn.leaves, e.1 ≠ a) → ∃ x : State, exec .memberAdmit s = .next x ∧
    (memb x a).isMember = true ∧ x.spn.epoch = s.spn.epoch + 1 ∧ (∀ e ∈ x.spn.admits, s.tick.tcnt < e.2) ∧
    Pends 468 s x ∧ x.mem = s.mem) ∧
  (∀ s : State, inRing s = true → s.spn.leaveTick = none → ∃ x : State, exec .spnLeave s = .next x ∧
    x.spn.leaveTick = some (s.tick.tcnt + 2) ∧ x.spn.role = s.spn.role ∧ x.regs = s.regs ∧ x.mem = s.mem) ∧
  (∀ (ports : BitVec 4) (s : State) (n : Nat), s.spn.leaveTick = some n → n ≤ s.tick.tcnt → ∃ x : State,
    exec (.leaveEffect ports) s = .next x ∧ x.spn.role = 0 ∧ x.spn.leaveTick = none ∧ x.spn.lock = false ∧
    (∀ a, a < 64 → (memb x a).isMember = false) ∧ Pends 470 s x ∧ RegsBut [] s x ∧ x.mem = s.mem) ∧
  (∀ (ports : BitVec 4) (s : State) (a n : Nat), isLead s = true → s.spn.leaveTick = none → (a, n) ∈ s.spn.leaves →
    n ≤ s.tick.tcnt → ∃ x : State, exec (.leaveEffect ports) s = .next x ∧ (memb x a).isMember = false ∧
    x.spn.epoch = s.spn.epoch + 1 ∧ Pends 470 s x ∧ x.mem = s.mem) ∧
  (∀ s : State, ∃ x : State, exec .spnPlock s = .next x ∧ fld x SPN_PLOCK_LOCK = 1 ∧
    (∀ a, a ≠ SPN_PLOCK → reg x a = reg s a) ∧ { x with regs := s.regs } = s)

/-- The CAN registers of entries: a doorbell publishes messages unless it would overrun the 16 slots, when it counts in
TXFAIL; RXRP consumes received messages; FLUSH discards a FIFO, but for a message in transmission, whose start, of which
the bus alone decides, is free (log 44); DETREQ starts detection at the first candidate; BOREC starts the recovery
(R408, R412, R415 to R417).
What happens on a CAN bus: a message that has been sent, as the frame of its slot, leaves its FIFO and lowers TEC by
1; one that fails leaves it and counts when NART is 1 and stays otherwise; a frame that a filter keeps goes into the
next receive slot and is acknowledged, but by a listen-only controller; an error takes its steps of TEC and REC (ISO
11898-1's, PRESUMED in log 44), above 255 to bus-off, from which 128 sequences of 11 recessive bits lead back, and an
own frame that it ends stays chosen (R405 to R415); a detection window ends with the next candidate (R417). The next
head is then chosen, so the FIFOs are those without unsendable heads. -/
def Obligations.CanEntriesAndBus : Prop :=
  ((∀ (n : Fin 6) (f : Fin 3) (m : Mask) (d : Word) (s : State) (wp : Nat), hasCan s n.val = true →
    wp = (CAN_TXF_WP_PTR n.val f.val).of (clWord s (CAN_TXF_WP n.val f.val) m d) →
    (subMod wp (canTxRp s n.val f.val) 32 ≤ 16 → ∃ x, exec (.canTxDoorbell n f m d) s = .next x ∧
      canTxWp x n.val f.val = wp ∧ ((can s n.val).sending.isSome = true → (can x n.val).sending = (can s n.val).sending) ∧
      x.mem = s.mem ∧ (∀ j, j ≠ n.val → can x j = can s j)) ∧
    (16 < subMod wp (canTxRp s n.val f.val) 32 → ∃ x, exec (.canTxDoorbell n f m d) s = .next x ∧
      fld x (CAN_CNT_TXFAIL n.val) = min (fld s (CAN_CNT_TXFAIL n.val) + 1) (2 ^ (CAN_CNT_TXFAIL n.val).width - 1) ∧
      x.cans = s.cans ∧ x.mem = s.mem)) ∧
  (∀ (n : Fin 6) (m : Mask) (d : Word) (s : State) (p : Nat), hasCan s n.val = true →
    p = (CAN_RXRP_PTR n.val).of (clWord s (CAN_RXRP n.val) m d) →
    subMod p (can s n.val).rxRp 128 ≤ subMod (can s n.val).rxWp (can s n.val).rxRp 128 → ∃ t,
    exec (.canRxrp n m d) s = .next t ∧ (can t n.val).rxRp = p ∧ (can t n.val).rxWp = (can s n.val).rxWp ∧
    t.mem = s.mem) ∧
  (∀ (n : Fin 6) (f : Fin 3) (s : State), ∃ t, exec (.canFlush n (1#3 <<< f.val)) s = .next t ∧
    ((can s n.val).sending ≠ some f.val → canTxRp t n.val f.val = canTxWp s n.val f.val % 32 ∧ t.regs = s.regs) ∧
    ((can s n.val).sending = some f.val → (can s n.val).txOn = true → canTxRp t n.val f.val = canTxRp s n.val f.val ∧
      SMap.get natD (can t n.val).flushTo f.val = canTxWp s n.val f.val + 1 ∧ t.regs = s.regs) ∧
    ((can s n.val).sending = some f.val → (can s n.val).txOn = false → s.now ≤ (can s n.val).chosenAt →
      canTxRp t n.val f.val = canTxWp s n.val f.val % 32) ∧
    ((can s n.val).sending = some f.val → (can s n.val).txOn = false → (can s n.val).chosenAt < s.now →
      canTxRp t n.val f.val = canTxWp s n.val f.val % 32 ∨ canTxRp t n.val f.val = canTxRp s n.val f.val ∧
        (can t n.val).txOn = true ∧ SMap.get natD (can t n.val).flushTo f.val = canTxWp s n.val f.val + 1) ∧
    canTxWp t n.val f.val = canTxWp s n.val f.val ∧ t.mem = s.mem) ∧
  (∀ (n : Fin 6) (m : Mask) (d : Word) (s : State) (i : Nat), hasCan s n.val = true → m.getLsbD 3 = true →
    (CAN_DETREQ_GO n.val).of (clWord s (CAN_DETREQ n.val) m d) = 1 →
    candFrom (putCl (CAN_DETREQ n.val) (clWord s (CAN_DETREQ n.val) m d) s) n.val 0 = some i → ∃ t,
    exec (.canDetreq n m d) s = .next t ∧ (can t n.val).det = some i ∧ (can t n.val).detAt = s.now ∧
    (can t n.val).sending = none ∧ t.mem = s.mem) ∧
  (∀ (n : Fin 6) (s : State), (can s n.val).busOff = true → ∃ t, exec (.canBorec n) s = .next t ∧
    (can t n.val).recovering = true ∧ ((can s n.val).recovering = false → (can t n.val).recAt = s.now) ∧
    (can t n.val).tec = (can s n.val).tec ∧ t.regs = s.regs ∧ t.mem = s.mem)) ∧
  ((∀ (n : Fin 6) (t : Time) (s : State) (f : Nat), (can s n.val).sending = some f → canSends s n.val = true →
    (CAN_CFG_MODE n.val).of (canCfg s n.val) ≠ 2 → f < 3 →
    (can s n.val).chosenAt + frameLeast s n.val (headFrame s n.val f) ≤ t → ∃ x,
    exec (.canTxComplete n t) s = .next x ∧ (can x n.val).tec = (can s n.val).tec - 1 ∧
    (NoFd s n.val → SMap.get natD (can s n.val).flushTo f = 0 → canTxRp x n.val f = (canTxRp s n.val f + 1) % 32) ∧
    (can x n.val).sentFr = some (headFrame s n.val f) ∧ x.mem = s.mem ∧ x.now = max s.now t) ∧
  (∀ (n : Fin 6) (arb : Bool) (t : Time) (s : State) (f : Nat), (can s n.val).sending = some f → f < 3 →
    canSends s n.val = true → SMap.get natD (can s n.val).flushTo f = 0 → NoFd s n.val → ∃ x,
    exec (.canTxFail n arb t) s = .next x ∧ x.mem = s.mem ∧
    (canFlag s n.val CAN_CFG_NART = false → canTxRp x n.val f = canTxRp s n.val f ∧ x.regs = s.regs) ∧
    (canFlag s n.val CAN_CFG_NART = true → canTxRp x n.val f = (canTxRp s n.val f + 1) % 32 ∧
      fld x (CAN_CNT_TXFAIL n.val) = min (fld s (CAN_CNT_TXFAIL n.val) + 1) (2 ^ (CAN_CNT_TXFAIL n.val).width - 1))) ∧
  (∀ (n : Fin 6) (fr : CanFrame) (t : Time) (s : State) (k : Nat), canUp s n.val = true → fr.fdf = false →
    (CAN_CFG_MODE n.val).of (canCfg s n.val) ≠ 2 → canFilter s n.val fr = some k → lfld s (CAN_FLT_ID_ACT n.val k) = 0 →
    subMod (can s n.val).rxWp (can s n.val).rxRp 128 < 64 → (can s n.val).det = none → ∃ x,
    exec (.canRxFrame n fr t) s = .next x ∧ (can x n.val).rxWp = ((can s n.val).rxWp + 1) % 128 ∧
    (can x n.val).recv = recAfter (can s n.val).recv ∧
    (can x n.val).acked = (if canMode s n.val = 1 then (can s n.val).acked else some fr) ∧
    (∀ b, rdByte x b = if rxSlot n.val (can s n.val).rxWp ≤ b ∧
      b < rxSlot n.val (can s n.val).rxWp + (rxBytes s fr false k).length
      then (rxBytes s fr false k).getD (b - rxSlot n.val (can s n.val).rxWp) 0#8 else rdByte s b)) ∧
  (∀ (n : Fin 6) (e : CanErr) (t : Time) (s : State) (tx : Bool) (d : Nat × Nat), canUp s n.val = true →
    (can s n.val).det = none → tx = (e.tx && canSends s n.val && (can s n.val).sending.isSome) →
    d = canSteps tx (canPassive (can s n.val)) e.kind → ∃ x,
    exec (.canBusError n e t) s = .next x ∧ (can x n.val).tec = min ((can s n.val).tec + d.1) 255 ∧
    (can x n.val).recv = min ((can s n.val).recv + d.2) 255 ∧ (can x n.val).lec = e.lec.toNat ∧
    ((can s n.val).tec + d.1 ≤ 255 → (can x n.val).busOff = false ∧
      (tx = true → (can x n.val).sending = (can s n.val).sending)) ∧
    (255 < (can s n.val).tec + d.1 → (can x n.val).busOff = true ∧ (can x n.val).sending = none ∧
      fld x (CAN_CNT_BOFF n.val) = min (fld s (CAN_CNT_BOFF n.val) + 1) 255) ∧ x.mem = s.mem) ∧
  (∀ (n : Fin 6) (t : Time) (s : State), (can s n.val).recovering = true →
    (can s n.val).recAt + 128 * 11 * bitTime (canNbt s n.val) ≤ t → ∃ x,
    exec (.canRecovered n t) s = .next x ∧ (can x n.val).busOff = false ∧
    (can x n.val).recovering = false ∧ (can x n.val).tec = 0 ∧ (can x n.val).recv = 0 ∧ x.mem = s.mem) ∧
  (∀ (n : Fin 6) (err : Bool) (t : Time) (s : State) (i j : Nat), (can s n.val).det = some i →
    (err = true ∨ (can s n.val).detAt + orOne (fld s (CAN_DETREQ_WIN n.val)) * ms ≤ t) →
    candFrom s n.val (i + 1) = some j → ∃ x, exec (.canDetWindow n err t) s = .next x ∧
    (can x n.val).det = some j ∧ (can x n.val).detAt = t ∧ (can x n.val).detOk = 0 ∧ x.regs = s.regs ∧ x.mem = s.mem))

/-- Serial ports as masters: descriptors are published, a transaction starts on the next one or completes a bad one with
status 5, ends once its phases have passed, with the bytes read in the data area and the pointer one on, or, cut short
by the end of its lease, with the bytes read by then, and a select mismatch halts the port, which RESUME leaves (R423 to
R427, R431).
A load of the execute-in-place window gives the bytes of its block: of a buffered one, or of one that QSP0 then
reads and buffers, four at most, the oldest of which makes room (the model's choice, log 45); with XEN = 0 the access
faults (R426). A fetch gives the four bytes at its address, and where they are an instruction of no extension of the
core, takes the illegal-instruction exception (R85).
A serial port as a target: a selection with its own code takes the whole words received into the ring; another code,
and any while the port is disabled, masters or is no target, leaves it alone, and the strobe's level is kept; its
release drops a partial word and counts it, and TRP consumes words and is taken as given (the model's choice, log 45;
R427 to R429). -/
def Obligations.SerialPortsAct : Prop :=
  ((∀ (p : Fin 4) (m : Mask) (d : Word) (s : State), ∃ t, exec (.qspDbwp p m d) s = .next t ∧
    (qsp t p.val).wp = (QSP_DBWP_PTR p.val).of (clWord s (QSP_DBWP p.val) m d) ∧
    ((m.getLsbD 3 && (QSP_DBWP_RESUME p.val).of (clWord s (QSP_DBWP p.val) m d) == 1) = true →
      (qsp t p.val).halted = false) ∧ (qsp t p.val).rp = (qsp s p.val).rp ∧ t.mem = s.mem) ∧
  (∀ (p : Fin 4) (s : State), ∃ t, exec (.qspResume p) s = .next t ∧ (qsp t p.val).halted = false ∧
    (qsp t p.val).rp = (qsp s p.val).rp ∧ t.regs = s.regs ∧ t.mem = s.mem) ∧
  (∀ (p : Fin 4) (t : Time) (s : State), qspOn s p.val = true → (qsp s p.val).halted = false →
    (qsp s p.val).busy = none → (qsp s p.val).sel = false → ((qsp s p.val).low && lflag s (QSP_CFG_MM p.val)) = false →
    qspWaiting (qsp s p.val) ≠ 0 →
    (qsp s p.val).freeAt ≤ t → ∃ x, exec (.qspTransactionStart p t) s = .next x ∧ x.mem = s.mem ∧
    (descBad s p.val (qsp s p.val).rp = false → (qsp x p.val).busy = some t ∧ (qsp x p.val).xip = [] ∧
      (qsp x p.val).rp = (qsp s p.val).rp ∧ (qsp x p.val).run = qspRunOf s p.val (qsp s p.val).rp ∧ x.regs = s.regs) ∧
    (descBad s p.val (qsp s p.val).rp = true → (qsp x p.val).rp = ((qsp s p.val).rp + 1) % 128 ∧
      (qsp x p.val).busy = none ∧ (qsp x p.val).done = (qsp s p.val).done ++ [((qsp s p.val).rp, 5)])) ∧
  (∀ (p : Fin 4) (rd : List Byte) (rck : Nat) (t : Time) (s : State), qspEnds (qsp s p.val) t = true →
    (qsp s p.val).endAt = none → (qsp s p.val).run.read = false → ∃ x, exec (.qspTransactionDone p rd rck t) s = .next x ∧
    (qsp x p.val).rp = ((qsp s p.val).rp + 1) % 128 ∧ (qsp x p.val).busy = none ∧
    (qsp x p.val).done = (qsp s p.val).done ++ [((qsp s p.val).rp, 1)] ∧ x.mem = s.mem) ∧
  (∀ (p : Fin 4) (rd : List Byte) (rck : Nat) (t : Time) (s : State), qspEnds (qsp s p.val) t = true →
    (qsp s p.val).endAt = none → (qsp s p.val).run.read = true → ∃ x, exec (.qspTransactionDone p rd rck t) s = .next x ∧
    (qsp x p.val).rp = ((qsp s p.val).rp + 1) % 128 ∧ (qsp x p.val).busy = none ∧
    (qsp x p.val).done = (qsp s p.val).done ++ [((qsp s p.val).rp, if (qspRead s p.val rd rck).2 then 2 else 1)] ∧
    (∀ b, rdByte x b =
      if qspBase p.val + 0x400 + (qsp s p.val).run.ofs ≤ b ∧
        b < qspBase p.val + 0x400 + (qsp s p.val).run.ofs + (qspRead s p.val rd rck).1.length
      then (qspRead s p.val rd rck).1.getD (b - (qspBase p.val + 0x400 + (qsp s p.val).run.ofs)) 0#8 else rdByte s b)) ∧
  (∀ (p : Fin 4) (rd : List Byte) (rck : Nat) (t e : Time) (s : State), qspEnds (qsp s p.val) t = true →
    (qsp s p.val).endAt = some e → ∃ x, exec (.qspTransactionDone p rd rck t) s = .next x ∧
    (qsp x p.val).busy = none ∧ (qsp x p.val).rp = (qsp s p.val).rp ∧ (qsp x p.val).done = (qsp s p.val).done ∧
    x.regs = s.regs ∧ ((qsp s p.val).run.read = false → x.mem = s.mem) ∧
    ((qsp s p.val).run.read = true → ∀ b, rdByte x b =
      if qspBase p.val + 0x400 + (qsp s p.val).run.ofs ≤ b ∧
        b < qspBase p.val + 0x400 + (qsp s p.val).run.ofs + (rd.take (qsp s p.val).endBytes).length
      then (rd.take (qsp s p.val).endBytes).getD (b - (qspBase p.val + 0x400 + (qsp s p.val).run.ofs)) 0#8
      else rdByte s b)) ∧
  (∀ (p : Fin 4) (t u0 : Time) (s : State), (qsp s p.val).busy = some u0 → (qsp s p.val).runMm = true →
    (qsp s p.val).endAt = none → ∃ x,
    exec (.qspMmf p t) s = .next x ∧ (qsp x p.val).halted = true ∧ (qsp x p.val).busy = none ∧
    (qsp x p.val).done = (qsp s p.val).done ++ [((qsp s p.val).rp, 3)] ∧
    fld x (QSP_CNT_MMF p.val) = min (fld s (QSP_CNT_MMF p.val) + 1) 255 ∧ x.mem = s.mem)) ∧
  (∀ (w : Who) (a : Word) (z : Size) (blk : List Byte) (t : Time) (s : State), target a.toNat = .xip →
    (goes (upto t s) w .load a z.bytes = true →
      (lflag s QSP_XIP_XEN = true → (qsp s 0).xip.find? (fun e => e.1 == a.toNat / 32) = none → (qsp s 0).busy = none →
        ∃ x, exec (.xipRead w ⟨a, z⟩ false blk t) s = .next x ∧
          (unit x w.key).rdata = pick a.toNat z.bytes (leWord ((blk.drop (a.toNat % 32 / 4 * 4)).take 4)) ∧
          (qsp x 0).xip = ((a.toNat / 32, blk) :: (qsp s 0).xip).take 4 ∧ x.regs = s.regs ∧ x.mem = s.mem) ∧
      (∀ e, lflag s QSP_XIP_XEN = true → (qsp s 0).xip.find? (fun e => e.1 == a.toNat / 32) = some e →
        ∃ x, exec (.xipRead w ⟨a, z⟩ false blk t) s = .next x ∧
          (unit x w.key).rdata = pick a.toNat z.bytes (leWord ((e.2.drop (a.toNat % 32 / 4 * 4)).take 4)) ∧
          x.qsps = s.qsps ∧ x.regs = s.regs ∧ x.mem = s.mem) ∧
      (lflag s QSP_XIP_XEN = false → ∃ x, exec (.xipRead w ⟨a, z⟩ false blk t) s = .next x ∧
        (unit x w.key).arch.csrOf 0x342 = 5#32 ∧ (unit x w.key).arch.csrOf 0x343 = a ∧ x.qsps = s.qsps)) ∧
    (goes (upto t s) w .fetch a 2 = true → a.toNat % 32 ≤ 28 → lflag s QSP_XIP_XEN = true →
      ∀ e, (qsp s 0).xip.find? (fun e => e.1 == a.toNat / 32) = some e →
        ∃ x, exec (.xipRead w ⟨a, z⟩ true blk t) s = .next x ∧
          (unit x w.key).rdata = leWord ((e.2.drop (a.toNat % 32)).take 4) ∧
          (legalInstr (leWord ((e.2.drop (a.toNat % 32)).take 4)) = true →
            (unit x w.key).arch = (unit s w.key).arch) ∧
          (legalInstr (leWord ((e.2.drop (a.toNat % 32)).take 4)) = false →
            (unit x w.key).arch.csrOf 0x342 = 2#32 ∧ (unit x w.key).arch.priv = .machine))) ∧
  ((∀ (p : Fin 4) (code : BitVec 3) (rx : List Bool) (t : Time) (s : State), p.val ≠ 0 → (qsp s p.val).low = false →
    (qspOn s p.val = false ∨ (qsp s p.val).busy.isSome = true ∨ lflag s (QSP_CFG_TGT p.val) = false ∨
      code.toNat ≠ lfld s (QSP_CFG_OWN p.val)) → ∃ x, exec (.qspTargetSelect p ⟨code, rx⟩ t) s = .next x ∧
      (qsp x p.val).sel = (qsp s p.val).sel ∧ (qsp x p.val).low = true ∧ (qsp x p.val).twp = (qsp s p.val).twp ∧
      x.regs = s.regs ∧ x.mem = s.mem) ∧
  (∀ (p : Fin 4) (code : BitVec 3) (rx : List Bool) (t : Time) (s : State), qspOn s p.val = true →
    lflag s (QSP_CFG_TGT p.val) = true → p.val ≠ 0 → (qsp s p.val).busy = none → (qsp s p.val).low = false →
    (code.toNat = lfld s (QSP_CFG_OWN p.val) → rx.length < 8 * qspWordBytes s p.val → ∃ x,
      exec (.qspTargetSelect p ⟨code, rx⟩ t) s = .next x ∧ (qsp x p.val).sel = true ∧
      (qsp x p.val).selPart = rx.length % (8 * qspWordBytes s p.val) ∧ (qsp x p.val).twp = (qsp s p.val).twp ∧
      x.regs = s.regs ∧ x.mem = s.mem) ∧
    (code.toNat = lfld s (QSP_CFG_OWN p.val) → qspWordBytes s p.val = 1 → rx.length = 8 →
      lfld s (QSP_TMAX_MAXW p.val) ≠ 0 → subMod (qsp s p.val).twp (qsp s p.val).trp 2048 + 1 ≤ 2047 → ∃ x,
      exec (.qspTargetSelect p ⟨code, rx⟩ t) s = .next x ∧ (qsp x p.val).twp = ((qsp s p.val).twp + 1) % 2048 ∧
      (∀ b, rdByte x b = if b = qspBase p.val + 0x1000 + (qsp s p.val).twp then BitVec.ofNat 8 (msbNat rx)
        else rdByte s b))) ∧
  (∀ (p : Fin 4) (t : Time) (s : State), (qsp s p.val).low = true → ∃ x,
    exec (.qspTargetRelease p t) s = .next x ∧ (qsp x p.val).sel = false ∧ (qsp x p.val).low = false ∧ x.mem = s.mem ∧
    ((qsp s p.val).sel = false ∨ (qsp s p.val).selPart = 0 → x.regs = s.regs) ∧
    ((qsp s p.val).sel = true → (qsp s p.val).selPart ≠ 0 →
      fld x (QSP_CNT_PARTIAL p.val) = min (fld s (QSP_CNT_PARTIAL p.val) + 1) (2 ^ (QSP_CNT_PARTIAL p.val).width - 1))) ∧
  (∀ (p : Fin 4) (m : Mask) (d : Word) (s : State), ∃ t, exec (.qspTrp p m d) s = .next t ∧
    (qsp t p.val).trp = (QSP_TRP_PTR p.val).of (clWord s (QSP_TRP p.val) m d) ∧
    (qsp t p.val).twp = (qsp s p.val).twp ∧ t.mem = s.mem))

/-- The commands whose work takes time run when their conditions hold: OP 1, 4, 5, 7, 12, 13 and 14; a key of no root or
of a wrong signature, a switch of a partition that the manifest does not name, and a calibration record of a wrong
signature are refused with their codes (R444, R451 to R455, R471). A part goes in manifest order after the report of the
one before, and in an aborted gathering goes back in reverse order (R457, R459), another one being refused with CODE 6
(the model's choice, log 46). -/
def Obligations.TruCommandsStart : Prop :=
  ∀ (d : Word) (s : State),
    (TruTakes 1 d s → dataIn (cmdAddr s) 256 = true →
      (∀ k, k < 2 → keyValid s k = true → keySeq s k < leNat ((rdBytes s (cmdAddr s) 256).take 4)) →
      slotInUse s (installSlot s) = false → ∃ t, exec (.truInstallKey d) s = .next t ∧
      (if keyCode s (rdBytes s (cmdAddr s) 256) = 0 then TruRuns 1 (installSlot s) 256 s t
       else Refused (keyCode s (rdBytes s (cmdAddr s) 256)) s t)) ∧
    (TruTakes 4 d s → partState s (TRU_CMD_PART.of d) ≤ 1 → dataIn (cmdAddr s) (cmdLen s) = true →
      (if partState s (TRU_CMD_PART.of d) = 1 then SMap.get natD s.tru.staged (TRU_CMD_PART.of d) else 0) + cmdLen s
        ≤ partSize (TRU_CMD_PART.of d) →
      ∃ t, exec (.truStageBytes d) s = .next t ∧ TruRuns 4 (TRU_CMD_PART.of d) (cmdLen s) s t ∧
        partState t (TRU_CMD_PART.of d) = 1) ∧
    (TruTakes 5 d s → partState s (TRU_CMD_PART.of d) = 1 → dataIn (cmdAddr s) 32 = true →
      ∃ t, exec (.truSeal d) s = .next t ∧ TruRuns 5 (TRU_CMD_PART.of d) 32 s t) ∧
    (TruTakes 7 d s → gathOpen s = true → partState s (TRU_CMD_PART.of d) = 2 →
      targetFree s (TRU_CMD_PART.of d) = true → ticking s = true → ∃ t, exec (.truSwitch d) s = .next t ∧
      (∀ e, entryOf s (TRU_CMD_PART.of d) = some e → e.unchanged = false → earlierReported s (TRU_CMD_PART.of d) = false →
        Refused 6 s t) ∧
      (∀ e, entryOf s (TRU_CMD_PART.of d) = some e → e.unchanged = false → earlierReported s (TRU_CMD_PART.of d) = true →
        TruRuns 7 (TRU_CMD_PART.of d) e.len s t ∧ (s.tru.switched = [] → t.spn.verd = digestOf s.tru.manifest)) ∧
      (entryOf s (TRU_CMD_PART.of d) = none → Refused 8 s t)) ∧
    (TruTakes 12 d s → partState s (TRU_CMD_PART.of d) = 5 → targetFree s (TRU_CMD_PART.of d) = true →
      ticking s = true → ∃ t, exec (.truRollback d) s = .next t ∧
        if fld s TRU_GSTAT_STATE = 3 ∧ s.tru.switched.getLast? ≠ some (TRU_CMD_PART.of d) then Refused 6 s t
        else TruRuns 12 (TRU_CMD_PART.of d) (imageAt s (fallbackAt (TRU_CMD_PART.of d)) (TRU_CMD_PART.of d)).length s t) ∧
    (TruTakes 13 d s → (lcState s = 1 ∨ lcState s = 4) → dataIn (cmdAddr s) (cmdLen s) = true →
      calAt + cmdLen s ≤ 0x31E80000 → ∃ t, exec (.truWriteCalRecord d) s = .next t ∧
      (if imageSigned s (rdBytes s (cmdAddr s) (cmdLen s)) = true then TruRuns 13 0 (cmdLen s) s t
       else Refused 3 s t)) ∧
    (TruTakes 14 d s → TRU_CMD_PART.of d ≠ 0 → TRU_CMD_PART.of d ≤ 6 → hasUnit s (TRU_CMD_PART.of d - 1) = true →
      lcState s ≤ 4 → pairState s (TRU_CMD_PART.of d - 1) = 0 →
      ∃ t, exec (.truLoadPair d) s = .next t ∧
        TruRuns 14 (TRU_CMD_PART.of d) (imageAt s (activeAt (TRU_CMD_PART.of d)) (TRU_CMD_PART.of d)).length s t)

/-- The commands that act at once when their conditions hold: a token, refused with its code or acting by its scope,
leaving SERVICE, a report OK or failed, a commit (announced by the next tick signature, or without a tick at once) and
an abort (R437, R447, R448, R457 to R459). That they act at their own row, not as their time ends, and that a device
without a ring commits at once are the model's choices (log 46).
A manifest of good form, signed by a valid key, opens a gathering under its ID where none is open (R456, R457); OP 0
and 15 are refused with CODE 1, and any command while one runs with CODE 10 (R471), which leaves the STATE of the one
that runs (the model's choice, log 46). -/
def Obligations.TruCommandsActOrRefuse : Prop :=
  (∀ (d : Word) (s : State),
    (TruTakes 2 d s → dataIn (cmdAddr s) 160 = true →
      ∃ t, exec (.truPresentToken d) s = .next t ∧ t.tru.nonceN = s.tru.nonceN + 1 ∧
        (tokenCode s (rdBytes s (cmdAddr s) 160) ≠ 0 →
          fld t TRU_CMDST_CODE = tokenCode s (rdBytes s (cmdAddr s) 160) ∧ fld t TRU_CMDST_STATE = 3) ∧
        (tokenCode s (rdBytes s (cmdAddr s) 160) = 0 → slice (rdBytes s (cmdAddr s) 160) 16 1 = 1 → flag t TRU_LC_TOKDBG = true ∧
          t.tru.debug = some (s.now + slice (rdBytes s (cmdAddr s) 160) 20 4 * 1000 * ms)) ∧
        (tokenCode s (rdBytes s (cmdAddr s) 160) = 0 → slice (rdBytes s (cmdAddr s) 160) 16 1 = 2 → lcState t = 4 ∧
          t.tru.service = some (s.now + slice (rdBytes s (cmdAddr s) 160) 20 4 * 1000 * ms)) ∧
        (tokenCode s (rdBytes s (cmdAddr s) 160) = 0 → slice (rdBytes s (cmdAddr s) 160) 16 1 = 3 →
          t.tru.ret = some (s.now + slice (rdBytes s (cmdAddr s) 160) 20 4 * 1000 * ms))) ∧
    (TruTakes 3 d s → lcState s = 4 → ∃ t, exec (.truLeaveService d) s = .next t ∧ lcState t = 3 ∧
      t.tru.service = none) ∧
    (TruTakes 8 d s → gathOpen s = true → partState s (TRU_CMD_PART.of d) = 5 →
      ∃ t, exec (.truReportOk d) s = .next t ∧ TRU_CMD_PART.of d ∈ t.tru.okParts) ∧
    (TruTakes 9 d s → gathOpen s = true → ∃ t, exec (.truReportFailed d) s = .next t ∧
      TRU_CMD_PART.of d ∈ t.tru.failedParts ∧ TRU_CMD_PART.of d ∉ t.tru.okParts) ∧
    (TruTakes 10 d s → isFollower s = false → gathOpen s = true → fld s TRU_GSTAT_STATE = 2 →
      allReports s s.tru.succ = true → ∃ t, exec (.truCommit d) s = .next t ∧
        (ticking s = true → t.tru.closing = true) ∧ (ticking s = false → fld t TRU_GATH_ID = 0 ∧ t.spn.gath = 0#32)) ∧
    (TruTakes 11 d s → isFollower s = false → gathOpen s = true → ∃ t, exec (.truAbort d) s = .next t ∧
      t.tru.abortAt = some s.now ∧ (fld t TRU_GSTAT_STATE = 3 ∨ fld t TRU_GSTAT_STATE = 4))) ∧
  ((∀ (d : Word) (s : State) (m : List Byte), m = rdBytes s (cmdAddr s) (cmdLen s) → TruTakes 6 d s →
    dataIn (cmdAddr s) (cmdLen s) = true → fld s TRU_GATH_ID = 0 →
    isFollower s = false → ∃ t, exec (.truOpenManifest d) s = .next t ∧
      (if manifestOk s m (cmdLen s) = false then Refused 1 s t
       else if signedBy s (slice m 4 4) (m.take (cmdLen s - 64)) (m.drop (cmdLen s - 64)) = true then
        fld t TRU_GATH_ID = slice m 0 4 % 2 ^ 32 ∧ t.tru.manifest = m ∧
        t.spn.gath = BitVec.ofNat 32 (slice m 0 4) ∧ t.tru.okParts = [] ∧ t.tru.switched = []
       else Refused 3 s t)) ∧
  (∀ (d : Word) (s : State), TRU_CMD_GO.of d = 1 → (TRU_CMD_OP.of d = 0 ∨ TRU_CMD_OP.of d = 15) → s.tru.run = none →
    s.tru.auto_ = none → ∃ t, exec (.truCmdInvalid d) s = .next t ∧ Refused 1 s t) ∧
  (∀ (d : Word) (s : State), TRU_CMD_GO.of d = 1 → s.tru.run.isSome = true → ∃ t,
    exec (truRow (TRU_CMD_OP.of d) d) s = .next t ∧ fld t TRU_CMDST_CODE = 10 ∧
    fld t TRU_CMDST_STATE = fld s TRU_CMDST_STATE ∧ t.tru = s.tru ∧ t.mem = s.mem ∧ t.legs = s.legs))

/-- A TRU command whose time is over ends: with STATE 2 and CODE 0 if what it does succeeds, else with STATE 3 and its
code (R471).
Tokens end with their lifetimes: SERVICE falls back to FIELD, the debug unlock ends. SV in probation that has not
reported in time, or has met a permanent-class fault, is rolled back, and a gathering whose member runs alone too long,
or whose abort is old enough, is aborted or closed (R448, R455, R459; that a member alone closes a gathering that it has
rolled back is the model's choice, log 46). -/
def Obligations.TruTimedEnds : Prop :=
  (∀ (t : Time) (s : State) (r : TruRun), s.tru.auto_ = none → s.tru.run = some r → r.endAt ≤ t →
    ∃ x, exec (.truCmdDone t) s = .next x ∧ x.tru.run = none ∧
    (∀ y : Nat × State, y = truFinish r (updTru (fun z => { z with run := none }) (upto t s)) →
      fld x TRU_CMDST_CODE = y.1 ∧ fld x TRU_CMDST_STATE = (if y.1 = 0 then 2 else 3) ∧ x.mem = y.2.mem ∧
      (∀ k, k < 9 → partState x k = partState y.2 k)) ∧
    (r.op = 4 → ∀ b, rdByte x b = if stagingAt r.part + SMap.get natD s.tru.staged r.part ≤ b ∧
      b < stagingAt r.part + SMap.get natD s.tru.staged r.part + r.len then
      rdByte s (r.addr + (b - (stagingAt r.part + SMap.get natD s.tru.staged r.part))) else rdByte s b) ∧
    (r.op = 5 → r.part < 9 → x.mem = s.mem ∧ (partState x r.part = 2 ∧ fld x TRU_CMDST_CODE = 0 ∨
      partState x r.part = 0 ∧ (fld x TRU_CMDST_CODE = 3 ∨ fld x TRU_CMDST_CODE = 11)))) ∧
  ((∀ (t e : Time) (s : State), s.tru.service = some e → e ≤ t → lcState s = 4 → ∃ x,
    exec (.truTokenEnd t) s = .next x ∧ x.tru.service = none ∧ lcState x = 3 ∧ x.now = max s.now t ∧ x.mem = s.mem ∧
    x.legs = s.legs) ∧
  (∀ (t e : Time) (s : State), s.tru.debug = some e → e ≤ t → ∃ x,
    exec (.truTokenEnd t) s = .next x ∧ x.tru.debug = none ∧ flag x TRU_LC_TOKDBG = false ∧ x.mem = s.mem ∧
    x.legs = s.legs) ∧
  (∀ s : State, partState s 0 = 5 → s.tru.auto_ = none → ticking s = true → (s.prc.svFaulted = true ∨
    s.tru.svOk = false ∧ s.tru.svStart + fld s TRU_PROBT_VALUE ≤ s.tick.count) → ∃ x, exec .truProbTimeout s = .next x ∧
    x.tru.auto_ = some (s.now, s.now + rollTime s 0) ∧ x.mem = s.mem ∧ x.legs = s.legs ∧ x.units = s.units) ∧
  (∀ (t a : Time) (s : State), s.tru.aloneAt = some a → s.spn.role = 0 → a + fld s TRU_GTMO_VALUE * ms ≤ t →
    gathOpen s = true → ∃ x, exec (.gathTimeout t) s = .next x ∧
      fld x TRU_GSTAT_STATE = (if s.tru.switched = [] then 4 else 3) ∧ x.tru.closing = false ∧ x.mem = s.mem) ∧
  (∀ (t a : Time) (s : State), s.tru.aloneAt = some a → s.spn.role = 0 → a + fld s TRU_GTMO_VALUE * ms ≤ t →
    fld s TRU_GSTAT_STATE = 4 → ∃ x, exec (.gathTimeout t) s = .next x ∧ fld x TRU_GATH_ID = 0 ∧ x.spn.gath = 0#32 ∧
      x.mem = s.mem) ∧
  (∀ (t a : Time) (s : State), s.tru.abortAt = some a → a + fld s TRU_GTMO_VALUE * ms ≤ t → ∃ x,
    exec (.gathRollbackTimeout t) s = .next x ∧ fld x TRU_GATH_ID = 0 ∧ x.tru.abortAt = none ∧ x.spn.gath = 0#32 ∧
    x.mem = s.mem))

/-- The steps of the life cycle, each under its condition, and the refusals of the others with CODE 2: PROVISIONED,
FIELD, RETURN, which stops every unit and starts the erase of eMRAM with its journals and the gathering record, and
SCRAPPED after it (R435 to R439). A revocation of a root is permanent and never takes the last one (R441). -/
def Obligations.LifeCycleSteps : Prop :=
  (∀ s : State, if lcState s = 1 ∧ s.tru.prog.getLsbD 0 = true ∧ s.tru.devKey = true then ∃ t,
      exec .lcreqProvisioned s = .next t ∧ stepTaken t.tru 2 = true ∧ lcState t = 2 ∧ t.tru.debug = none ∧
      t.tru.service = none ∧ t.tru.ret = none ∧ t.mem = s.mem
    else ∃ t, exec .lcreqProvisioned s = .next t ∧ fld t TRU_CMDST_CODE = 2 ∧ t.tru = s.tru ∧ lcState t = lcState s) ∧
  (∀ s : State, if lcState s = 2 ∧ svVerified s = true then ∃ t,
      exec .lcreqField s = .next t ∧ stepTaken t.tru 3 = true ∧ lcState t = 3 ∧ t.tru.debug = none ∧ t.mem = s.mem
    else ∃ t, exec .lcreqField s = .next t ∧ fld t TRU_CMDST_CODE = 2 ∧ t.tru = s.tru ∧ lcState t = lcState s) ∧
  (∀ (s : State) (e : Time), (lcState s = 3 ∨ lcState s = 4) → s.tru.ret = some e → s.now < e → ∃ t,
    exec .lcreqReturn s = .next t ∧ stepTaken t.tru 5 = true ∧ lcState t = 5 ∧ t.tru.erased = false ∧
      t.tru.eraseEnd = s.now + 500 * ms ∧ fld t TRU_BOOTST_CAUSE = 5 ∧ t.tru.run = none ∧ t.prc.svStopped = true ∧
      (∀ w : Who, hasUnit s w.unit.val = true → working t w = false)) ∧
  (∀ s : State, if lcState s = 5 ∧ s.tru.erased = true then ∃ t,
      exec .lcreqScrapped s = .next t ∧ stepTaken t.tru 6 = true ∧ lcState t = 6
    else ∃ t, exec .lcreqScrapped s = .next t ∧ fld t TRU_CMDST_CODE = 2 ∧ t.tru = s.tru ∧ lcState t = lcState s) ∧
  (∀ (t : Time) (s : State), lcState s = 5 → s.tru.erased = false → s.tru.eraseEnd ≤ t → ∃ x,
    exec (.returnEraseDone t) s = .next x ∧ x.tru.erased = true ∧ fld x TRU_BOOTST_CAUSE = 0 ∧
    (∀ b, rdByte x b = if 0x30000000 ≤ b ∧ b < 0x32000000 then memD b else rdByte s b) ∧
    (∀ k, k < 10 → reg x (TRU_PART k) = 0#32) ∧ fld x TRU_GATH_ID = 0 ∧ x.tru.manifest = [] ∧ x.tru.switched = []) ∧
  (∀ (d : Word) (s : State), BitVec.ofNat 2 (TRU_REVOKE_REV.of d) ≠ 0#2 →
    s.tru.prog &&& ~~~(s.tru.rev ||| BitVec.ofNat 2 (TRU_REVOKE_REV.of d)) ≠ 0#2 → ∃ t,
    exec (.truRevoke d) s = .next t ∧ t.tru.rev = s.tru.rev ||| BitVec.ofNat 2 (TRU_REVOKE_REV.of d) ∧
    fld t TRU_OTP_REV = t.tru.rev.toNat ∧ t.mem = s.mem) ∧
  (∀ (d : Word) (s : State), BitVec.ofNat 2 (TRU_REVOKE_REV.of d) ≠ 0#2 →
    s.tru.prog &&& ~~~(s.tru.rev ||| BitVec.ofNat 2 (TRU_REVOKE_REV.of d)) = 0#2 → ∃ t,
    exec (.truRevoke d) s = .next t ∧ fld t TRU_CMDST_CODE = 5 ∧ t.tru = s.tru ∧ t.mem = s.mem)

/-- The memory test visits the next word of its class; an SRAM word that fails is recorded and takes a spare, one of the
twin cells fails the engine (R461, R462). A pad that reads another level than the driven one for longer than PADT sets
its bit (R468), and scan entry drives every gate low, ends every token and blocks the OTP keys (R469).
A block test starts when its part may be tested. The test of a pair or of an I/O unit ends with its result, a pair
that passes reads HELD with its registers reset, one that fails FAILED; a converter that passes its ladder check and its
logic test is compared with SAX once more before its work returns, one that does not stays on SAX and counts as failed
(R463 to R466).
A load or fetch of a word with an uncorrectable error faults with the address, counts and raises PRC_ECC_UNC; an SRAM
word is replaced by a spare word of zeros while one is free, any other stays bad (R93).  A corrected error counts where it
was met (R90, R177). -/
def Obligations.SelfTestAndEcc : Prop :=
  ((∀ (k : MemClass) (t : Time) (s : State), (fld s TST_MT_EN).testBit (memBit k) = true →
    (∀ u, k = .tcm u → hasUnit s u.val = true) → s.pwr.inReset = false →
    SMap.get natD s.tst.visitAt (memKey k) + memIv s k ≤ t → ∃ x, exec (.memtestVisit k false t) s = .next x ∧
    memPos x k = (memPos s k + 1) % memWords k ∧ SMap.get natD x.tst.visitAt (memKey k) = t ∧ x.regs = s.regs ∧
    x.mem = s.mem ∧ x.legs = s.legs) ∧
  (∀ (t : Time) (s : State), (fld s TST_MT_EN).testBit 1 = true → s.pwr.inReset = false →
    SMap.get natD s.tst.visitAt 7 + memIv s .sram ≤ t → fld s TST_SPARE_SRAM < 64 → ∃ x,
    exec (.memtestVisit .sram true t) s = .next x ∧ fld x TST_SPARE_SRAM = fld s TST_SPARE_SRAM + 1 ∧
    fld x TST_MFAIL_VALID = 1 ∧ fld x TST_MFAIL_MEM = 7 ∧
    reg x TST_MFAILA = BitVec.ofNat 32 (0x20000000 + 8 * memPos s .sram) ∧ x.mem = s.mem ∧ x.legs = s.legs) ∧
  (∀ (t : Time) (s : State), (fld s TST_MT_EN).testBit 2 = true → s.pwr.inReset = false → fld s ENG_STAT_STATE ≠ 2 →
    SMap.get natD s.tst.visitAt 8 + memIv s .twin ≤ t → ∃ x, exec (.memtestVisit .twin true t) s = .next x ∧
    fld x ENG_STAT_STATE = 2 ∧ fld x TST_MFAIL_VALID = 1 ∧
    reg x TST_MFAILA = BitVec.ofNat 32 (0x44100000 + 4 * (memPos s .twin % 65536)) ∧ x.mem = s.mem) ∧
  (∀ (l : Fin 96) (sd : Side) (level : Bool) (since t : Time) (s : State), flag s TST_ANA_PADEN = true →
    hasLeg s l.val = true → (if sd = .high then (leg s l.val).h else (leg s l.val).l).on = !level →
    max since ((if sd = .high then (leg s l.val).h else (leg s l.val).l).edgeAt + 10 * ns) + fld s TST_ANA_PADT * ns < t →
    ∃ x, exec (.tstPad l ⟨sd, level, since, t⟩) s = .next x ∧
    (fld x (TST_PAD_PAD (l.val / 16))).testBit (2 * (l.val % 16) + (if sd = .high then 0 else 1)) = true ∧
    x.now = max s.now t ∧ x.legs = s.legs ∧ x.mem = s.mem) ∧
  (∀ s : State, (lcState s = 1 ∨ (lcState s = 5 ∧ s.tru.erased = true)) → ∃ t, exec .tstScanEnter s = .next t ∧
    t.tst.scan = true ∧ t.tru.otpBlocked = true ∧ t.tru.zeroised = true ∧ t.tru.debug = none ∧ t.tru.service = none ∧
    t.tru.ret = none ∧ ∀ l, l < 96 → (leg t l).h.on = false ∧ (leg t l).l.on = false)) ∧
  ((∀ (d : Word) (t dt : Time) (s : State), TST_BTREQ_GO.of d = 1 → s.tst.bt = none →
    btTime (upto t s) (TST_BTREQ_CLASS.of d) (TST_BTREQ_INST.of d) = some dt → ∃ x,
    exec (.blockTestRequest d t) s = .next x ∧ fld x TST_BTST_BUSY = 1 ∧ fld x TST_BTST_RESULT = 0 ∧
    x.tst.bt = some { cls := TST_BTREQ_CLASS.of d, inst := TST_BTREQ_INST.of d, endAt := max s.now t + dt } ∧
    x.mem = s.mem ∧ x.legs = s.legs) ∧
  (∀ (pass : Bool) (a b c : BitVec 14) (t : Time) (s : State) (r : BtRun), s.tst.bt = some r → r.cls ≠ 1 → r.inst < 26 →
    r.endAt ≤ t → ∃ x, exec (.blockTestDone ⟨pass, a, b, c⟩ t) s = .next x ∧ x.tst.bt = none ∧
    fld x TST_BTST_BUSY = 0 ∧ fld x TST_BTST_RESULT = (if pass then 1 else 2) ∧
    (r.cls = 2 → r.inst < 6 → pairState x r.inst = (if pass then 0 else 4) ∧
      (pass = true → (unit x r.inst).arch = {} ∧ (unit x r.inst).failed = false)) ∧ x.mem = s.mem ∧ x.legs = s.legs) ∧
  (∀ (a b c : BitVec 14) (t : Time) (s : State) (r : BtRun), s.tst.bt = some r → r.cls = 1 → r.stage = .checking →
    ladderOk s a.toNat b.toNat c.toNat = true → ∃ x, exec (.blockTestDone ⟨true, a, b, c⟩ t) s = .next x ∧
    x.tst.bt = some { r with stage := .returning } ∧ (sar x r.inst).par = some 0 ∧ x.regs = s.regs ∧ x.legs = s.legs) ∧
  (∀ (pass : Bool) (a b c : BitVec 14) (t : Time) (s : State) (r : BtRun), s.tst.bt = some r → r.cls = 1 →
    r.stage = .checking → (pass && ladderOk s a.toNat b.toNat c.toNat) = false → ∃ x,
    exec (.blockTestDone ⟨pass, a, b, c⟩ t) s = .next x ∧ x.tst.bt = some { r with stage := .failed } ∧
    x.tst.saxUsed = true ∧ fld x BSI_SPARE_FAILU = min (fld s BSI_SPARE_FAILU + 1) 15 ∧ x.legs = s.legs) ∧
  (∀ (pass : Bool) (a b c : BitVec 14) (t : Time) (s : State) (r : BtRun), s.tst.bt = some r → r.cls = 1 →
    (r.stage = .returned ∨ r.stage = .failed) → r.endAt ≤ t → ∃ x, exec (.blockTestDone ⟨pass, a, b, c⟩ t) s = .next x ∧
    x.tst.bt = none ∧ fld x TST_BTST_BUSY = 0 ∧ fld x TST_BTST_RESULT = (if r.stage = .returned then 1 else 2) ∧
    x.legs = s.legs)) ∧
  ((∀ (w : Who) (a : Word) (f : Bool) (s : State),
    goes s w (if f then .fetch else .load) a (if f then 2 else 1) = true → target a.toNat = .sram →
    fld s TST_SPARE_SRAM < 64 → ∃ t, exec (.uncEccAccess w a f) s = .next t ∧
    (unit t w.key).arch.csrOf 0x342 = (if f then 1#32 else 5#32) ∧ (unit t w.key).arch.csrOf 0x343 = a ∧
    fld t TST_SPARE_SRAM = fld s TST_SPARE_SRAM + 1 ∧ SMap.get falseD t.eccBad (a.toNat / 8) = false ∧
    (∀ b, rdByte t b = if 8 * (a.toNat / 8) ≤ b ∧ b < 8 * (a.toNat / 8) + 8 then 0#8 else rdByte s b) ∧
    (∀ j, j ≠ w.key → unit t j = unit s j)) ∧
  (∀ (w : Who) (a : Word) (f : Bool) (s : State),
    goes s w (if f then .fetch else .load) a (if f then 2 else 1) = true → eccMem w a.toNat = true →
    (target a.toNat = .sram → 64 ≤ fld s TST_SPARE_SRAM) → ∃ t, exec (.uncEccAccess w a f) s = .next t ∧
    (unit t w.key).arch.csrOf 0x342 = (if f then 1#32 else 5#32) ∧ (unit t w.key).arch.csrOf 0x343 = a ∧
    fld t (PRC_ECC_UNC w.unit.val) = min (fld s (PRC_ECC_UNC w.unit.val) + 1) 65535 ∧
    SMap.get falseD t.eccBad (a.toNat / 8) = true ∧ t.mem = s.mem ∧ (∀ j, j ≠ w.key → unit t j = unit s j)) ∧
  (∀ (u : Fin 7) (s : State), hasUnit s u.val = true → ∃ t, exec (.singleBitEccError (.pair u)) s = .next t ∧
    fld t (PRC_ECC_CORR u.val) = min (fld s (PRC_ECC_CORR u.val) + 1) 65535 ∧
    (∀ a, a ≠ PRC_ECC u.val → reg t a = reg s a) ∧ t.mem = s.mem) ∧
  (∀ s : State, ∃ t, exec (.singleBitEccError .engine) s = .next t ∧
    fld t ENG_ECC_CORR = min (fld s ENG_ECC_CORR + 1) (2 ^ ENG_ECC_CORR.width - 1) ∧
    (∀ a, a ≠ ENG_ECC → winOf a ≠ 3 → a ≠ SPN_CNT2 → reg t a = reg s a) ∧ t.eng = s.eng ∧ t.mem = s.mem))

/-- Entering reset keeps OTP, the queue and eMRAM (where no command that writes it was cut, R440, R444), records the
cause, drives every gate low, stops the tick and ends every token; a further reset condition starts the 1 ms anew, and
after a loss of the rails it runs from their return, when SRC_SEL is chosen (R483). Its release 1 ms after the last
condition ended starts the boot ROM with the life-cycle state of OTP (R435, R448, R481). The model's choices: a running
reset keeps its cause but for a power-up, and the levels of the OK inputs at the rails' return count as accepted (log
62); every byte outside eMRAM falls back to its unlisted value (log 5).
The boot ROM starts SV on the active image where it is accepted, else on the fallback image, which it has copied to
active, in lockstep or, where the image asks for it, split; otherwise it stops with a cause (R117, R449, R450). That
MANUFACTURE boots without a key slot is the model's choice (log 47). -/
def Obligations.ResetAndBoot : Prop :=
  ((∀ (k : RstCause) (t : Time) (s : State), s.pwr.inReset = false → ∃ x, exec (.resetAssert k t) s = .next x ∧
    x.pwr.inReset = true ∧ x.pwr.resetEnd = max t x.pwr.railsFrom + ms ∧ fld x PWR_RSTC_CAUSE = rstCode k ∧
    (railsLost k = none → x.pwr.railsFrom = s.pwr.railsFrom ∧ x.pwr.src = s.pwr.src) ∧
    (∀ r, railsLost k = some r → x.pwr.railsFrom = max t r.from_ ∧ x.pwr.src = (!r.mainOk && r.bkupOk)) ∧
    (∀ l, (leg x l).h.on = false ∧ (leg x l).l.on = false) ∧ x.tick.run = .stopped ∧ x.tru.otp = s.tru.otp ∧
    x.tru.service = none ∧ x.tru.debug = none ∧ x.tru.ret = none ∧ x.pending = s.pending ∧ x.variant = s.variant ∧
    x.col = [] ∧ x.live = [] ∧ x.shadow = []) ∧
  (∀ (k : RstCause) (t : Time) (s : State), s.pwr.inReset = false →
    (∀ r, s.tru.run = some r → r.op ≠ 1 ∧ r.op ≠ 4 ∧ r.op ≠ 13) → ∃ x, exec (.resetAssert k t) s = .next x ∧
    (∀ b, rdByte x b = if 0x30000000 ≤ b ∧ b < 0x32000000 then rdByte s b else memD b)) ∧
  (∀ (k : RstCause) (t : Time) (s : State), s.pwr.inReset = true → ∃ x, exec (.resetAssert k t) s = .next x ∧
    x.pwr.inReset = true ∧ x.pwr.resetEnd = max (max s.now t) x.pwr.railsFrom + ms ∧
    fld x PWR_RSTC_CAUSE = (if rstCode k = 0 then 0 else fld s PWR_RSTC_CAUSE) ∧
    (∀ a, a ≠ PWR_BANK → a ≠ PWR_RSTC → reg x a = reg s a) ∧ x.mem = s.mem ∧ x.legs = s.legs) ∧
  (∀ (e t : Time) (s : State), s.pwr.inReset = true → s.pwr.resetEnd ≤ e + ms → e + ms ≤ t → ∃ x,
    exec (.resetRelease ⟨e, t⟩) s = .next x ∧ x.pwr.inReset = false ∧ x.pwr.booting = true ∧
    lcState x = (if otpLc s.tru = 0 then 1 else otpLc s.tru) ∧ x.tru.nonceN = s.tru.nonceN + 1 ∧
    (otpLc s.tru = 5 → s.tru.erased = false → fld x TRU_BOOTST_CAUSE = 5 ∧ x.tru.eraseEnd = t + 500 * ms))) ∧
  (∀ (t : Time) (s u v : State), s.pwr.booting = true → s.pwr.inReset = false → ¬ (lcState s = 5 ∧ s.tru.erased = false) →
    u = updPwr (fun p => { p with booting := false }) (upto t s) →
    v = showLen 0 (copyMem (fallbackAt 0) (activeAt 0) (partSize 0) u) →
    (lcState s = 6 → ∃ x, exec (.bootComplete t) s = .next x ∧ fld x TRU_BOOTST_CAUSE = 4 ∧ x.prc.svStopped = true ∧
      pairState x 6 = 0 ∧ x.mem = s.mem) ∧
    (lcState s ≠ 6 → lcState s ≠ 1 → keyValid s 0 = false → keyValid s 1 = false → ∃ x,
      exec (.bootComplete t) s = .next x ∧ fld x TRU_BOOTST_CAUSE = 2 ∧ x.prc.svStopped = true ∧ pairState x 6 = 0 ∧
      x.mem = s.mem) ∧
    (lcState s ≠ 6 → (lcState s = 1 ∨ keyValid s 0 = true ∨ keyValid s 1 = true) →
      ∃ x, exec (.bootComplete t) s = .next x ∧
        (if imageCode u (activeAt 0) 0 = 0 then
          fld x TRU_BOOTST_CAUSE = 0 ∧ x.prc.svStopped = false ∧
          pairState x 6 = (if Config.imageSvSplit (imageAt u (activeAt 0) 0) then 2 else 1) ∧
          (unit x 6).arch.pc = Config.imageEntry (imageAt u (activeAt 0) 0) ∧ x.mem = s.mem
         else if imageCode v (activeAt 0) 0 = 0 then
          fld x TRU_BOOTST_CAUSE = 1 ∧ x.prc.svStopped = false ∧
          pairState x 6 = (if Config.imageSvSplit (imageAt v (activeAt 0) 0) then 2 else 1) ∧
          (unit x 6).arch.pc = Config.imageEntry (imageAt v (activeAt 0) 0) ∧ x.mem = v.mem
         else fld x TRU_BOOTST_CAUSE = 3 ∧ x.prc.svStopped = true ∧ pairState x 6 = 0 ∧ x.mem = v.mem)))

/-- The logic-supply hand-over. A level of MAIN_OK or BKUP_OK that has passed the filter is accepted. A forced hand-over
starts when the selected source is lost while the other is good; with both lost SRC_SEL stays and HOLD_REQ is high; a
return starts after 20 ms and the dwell; SRC_SEL changes THLD after HOLD_REQ, or a return whose MAIN_OK pin is low is
skipped; and HOLD_REQ falls TSET later (R483 to R487).
A bank's brown-out sets its bit and acts as its cluster's fault line held low: the cluster's gates are low, its legs
have their fault latches and its groups are held and HARD, while the line's own level stays (R482).
THERM_N goes low, with PWR_THERM_HI, when a sensor reads above HI, and is released, with PWR_THERM_LO, when all four
read below LO; otherwise a reading leaves it as it is. No gate moves (R492). -/
def Obligations.SuppliesAndTemperature : Prop :=
  ((∀ (v : Bool) (e t : Time) (s : State), s.pwr.mainOk ≠ v → okHeld s (max e s.pwr.railsFrom) t = true → ∃ x,
    exec (.okAccept false v ⟨e, t⟩) s = .next x ∧ x.pwr.mainOk = v ∧ x.pwr.bkupOk = s.pwr.bkupOk ∧ x.pwr.src = s.pwr.src ∧
    x.mem = s.mem ∧ x.legs = s.legs) ∧
  (∀ (v : Bool) (e t : Time) (s : State), s.pwr.bkupOk ≠ v → okHeld s (max e s.pwr.railsFrom) t = true → ∃ x,
    exec (.okAccept true v ⟨e, t⟩) s = .next x ∧ x.pwr.bkupOk = v ∧ x.pwr.mainOk = s.pwr.mainOk ∧ x.pwr.src = s.pwr.src ∧
    x.mem = s.mem ∧ x.legs = s.legs) ∧
  (∀ (e t : Time) (s : State), s.pwr.mainOk = true → s.pwr.src = false → hoEn s = true →
    s.pwr.stage = .idle → okHeld s (max e s.pwr.railsFrom) t = true → ∃ x, exec (.okAccept false false ⟨e, t⟩) s = .next x ∧
    x.pwr.holdReq = true ∧ x.pwr.src = false ∧
    (s.pwr.bkupOk = true → x.pwr.stage = .hold ∧ x.pwr.forced = true) ∧ (s.pwr.bkupOk = false → x.pwr.stage = .lost)) ∧
  (∀ (t : Time) (s : State), hoEn s = true → s.pwr.src = true → s.pwr.stage = .idle → dwelling s.pwr t = false →
    good20 s.pwr t = true → ∃ x, exec (.hoReturnStart t) s = .next x ∧ x.pwr.stage = .hold ∧
    x.pwr.forced = false ∧ x.pwr.holdReq = true ∧ x.pwr.src = true ∧ x.mem = s.mem ∧ x.legs = s.legs) ∧
  (∀ (pin : Bool) (t : Time) (s : State), hoEn s = true → s.pwr.stage = .hold →
    s.pwr.stageAt + lfld s PWR_CTRL_THLD * us ≤ t → (s.pwr.forced = true ∨ pin = true) → ∃ x,
    exec (.hoSwitch pin t) s = .next x ∧ x.pwr.src = !s.pwr.src ∧ x.pwr.stage = .settle ∧ x.regs = s.regs) ∧
  (∀ (t : Time) (s : State), hoEn s = true → s.pwr.stage = .hold →
    s.pwr.stageAt + lfld s PWR_CTRL_THLD * us ≤ t → s.pwr.forced = false → selOk s.pwr = true → ∃ x,
    exec (.hoSwitch false t) s = .next x ∧ x.pwr.src = s.pwr.src ∧ x.pwr.stage = .idle ∧ x.pwr.holdReq = false ∧
    fld x PWR_HOCNT_SKIP = min (fld s PWR_HOCNT_SKIP + 1) 65535) ∧
  (∀ (t : Time) (s : State), hoEn s = true → s.pwr.stage = .settle →
    s.pwr.stageAt + (lfld s PWR_CTRL_THLD + lfld s PWR_CTRL_TSET) * us ≤ t → selOk s.pwr = true → ∃ x,
    exec (.pwrHoDone t) s = .next x ∧ x.pwr.stage = .idle ∧ x.pwr.holdReq = false ∧ x.pwr.doneAt = some t ∧
    x.pwr.src = s.pwr.src ∧ fld x PWR_HOCNT_DONE = min (fld s PWR_HOCNT_DONE + 1) 65535)) ∧
  (∀ (c : Fin 16) (t : Time) (s : State), hasCluster s c.val = true → ∃ x,
    exec (.pwrBankBor c t) s = .next x ∧ (fld x PWR_BANK_BOR).testBit c.val = true ∧
    (cl x c.val).low = (cl s c.val).low ∧
    (∀ l, l < 96 → l / 6 = c.val → (leg x l).h.on = false ∧ (leg x l).l.on = false) ∧
    (∀ l ∈ clLegs s c.val, (leg x l).latch = true) ∧
    (∀ g ∈ clGrps s c.val, (grp x g).hold = true ∧ (grp x g).hard = true) ∧ x.mem = s.mem) ∧
  ((∀ (k : Fin 4) (deg : BitVec 8) (t : Time) (s : State), s.pwr.therm = false → thermHi s < deg.toInt → ∃ u x,
    exec (.thermAssert k deg t) s = .next x ∧ x = raise 613 u ∧ u.regs = s.regs ∧ thermN x = false ∧ x.pwr.therm = true ∧
    SMap.get (fun _ => 0#8) x.pwr.ts k.val = deg ∧ x.legs = s.legs) ∧
  (∀ (k : Fin 4) (deg : BitVec 8) (t : Time) (s : State), s.pwr.therm = true ∨ deg.toInt ≤ thermHi s → ∃ x,
    exec (.thermAssert k deg t) s = .next x ∧ x.pwr.therm = s.pwr.therm ∧
    SMap.get (fun _ => 0#8) x.pwr.ts k.val = deg ∧ x.regs = s.regs ∧ x.legs = s.legs) ∧
  (∀ (a b c d : BitVec 8) (t : Time) (s : State), s.pwr.therm = true →
    (∀ v, v ∈ [a, b, c, d] → v.toInt < thermLo s) → ∃ u x, exec (.thermRelease a b c d t) s = .next x ∧ x = raise 614 u ∧
    u.regs = s.regs ∧ thermN x = !s.pwr.inReset ∧ x.pwr.therm = false ∧ x.legs = s.legs) ∧
  (∀ (a b c d : BitVec 8) (t : Time) (s : State), (s.pwr.therm = false ∨ ∃ v, v ∈ [a, b, c, d] ∧ thermLo s ≤ v.toInt) → ∃ x,
    exec (.thermRelease a b c d t) s = .next x ∧ x.pwr.therm = s.pwr.therm ∧ x.regs = s.regs ∧ x.legs = s.legs))
end

