-- ==== Sys2Proof/Laws/SMap.lean ====
section
/-! SUPPORT. The laws of the sparse map: a read after a write, and the canonical form that every write keeps. -/

namespace Sys2Proof.SMap

variable {β : Type}

theorem get_erase_same (d : Nat → β) (m : SMap β) (a : Nat) : get d (erase m a) a = d a := by
  induction m with
  | nil => rfl
  | cons e m ih =>
    obtain ⟨k, v⟩ := e
    by_cases h : a = k <;> simp [erase, get, h] <;> simpa [h] using ih

theorem get_erase_ne (d : Nat → β) (m : SMap β) {a b : Nat} (h : b ≠ a) : get d (erase m a) b = get d m b := by
  induction m with
  | nil => rfl
  | cons e m ih =>
    obtain ⟨k, v⟩ := e
    by_cases hk : a = k
    · subst hk; simp [erase, get, h, ih]
    · by_cases hb : b = k <;> simp [erase, get, hk, hb, ih]

theorem get_insert_same (d : Nat → β) (m : SMap β) (a : Nat) (v : β) : get d (insert m a v) a = v := by
  induction m with
  | nil => simp [insert, get]
  | cons e m ih =>
    obtain ⟨k, w⟩ := e
    unfold insert
    split
    · simp [get]
    · split
      · simp [get]
      · rename_i h1 h2; simp [get, h2, ih]

theorem get_insert_ne (d : Nat → β) (m : SMap β) {a b : Nat} (v : β) (h : b ≠ a) :
    get d (insert m a v) b = get d m b := by
  induction m with
  | nil => simp [insert, get, h]
  | cons e m ih =>
    obtain ⟨k, w⟩ := e
    unfold insert
    split
    · simp [get, h]
    · split
      · rename_i h1 h2; subst h2; simp [get, h]
      · by_cases hb : b = k <;> simp [get, hb, ih]

/-- A read after a write. -/
theorem get_set [DecidableEq β] (d : Nat → β) (m : SMap β) (a b : Nat) (v : β) :
    get d (set d m a v) b = if b = a then v else get d m b := by
  unfold set
  by_cases h : b = a
  · subst h
    split
    · rename_i hv; simp [get_erase_same, hv]
    · simp [get_insert_same]
  · split
    · simp [get_erase_ne d m h]
    · simp [get_insert_ne d m v h]

@[simp] theorem get_set_same [DecidableEq β] (d : Nat → β) (m : SMap β) (a : Nat) (v : β) :
    get d (set d m a v) a = v := by simp [get_set]

theorem get_set_ne [DecidableEq β] (d : Nat → β) (m : SMap β) {a b : Nat} (v : β) (h : b ≠ a) :
    get d (set d m a v) b = get d m b := by simp [get_set, h]

theorem above_erase (m : SMap β) (k a : Nat) (h : above k m = true) : above k (erase m a) = true := by
  induction m with
  | nil => rfl
  | cons e m ih =>
    obtain ⟨c, v⟩ := e
    simp only [above, Bool.and_eq_true, decide_eq_true_eq] at h
    unfold erase
    split
    · exact ih h.2
    · simp [above, h.1, ih h.2]

theorem above_insert (m : SMap β) (k a : Nat) (v : β) (h : above k m = true) (ha : k < a) :
    above k (insert m a v) = true := by
  induction m with
  | nil => simp [insert, above, ha]
  | cons e m ih =>
    obtain ⟨c, w⟩ := e
    have h' := h
    simp only [above, Bool.and_eq_true, decide_eq_true_eq] at h'
    unfold insert
    split
    · simp [above, ha, h'.1, h'.2]
    · split
      · simp [above, ha, h'.2]
      · simp [above, h'.1, ih h'.2]

theorem above_trans (m : SMap β) {j k : Nat} (hjk : j ≤ k) (h : above k m = true) : above j m = true := by
  induction m with
  | nil => rfl
  | cons e m ih =>
    obtain ⟨c, w⟩ := e
    simp only [above, Bool.and_eq_true, decide_eq_true_eq] at h ⊢
    exact ⟨by omega, ih h.2⟩

theorem erase_wf [DecidableEq β] (d : Nat → β) (m : SMap β) (a : Nat) (h : wf d m = true) :
    wf d (erase m a) = true := by
  induction m with
  | nil => rfl
  | cons e m ih =>
    obtain ⟨c, w⟩ := e
    simp only [wf, Bool.and_eq_true] at h
    unfold erase
    split
    · exact ih h.2
    · simp only [wf, Bool.and_eq_true]
      exact ⟨⟨above_erase m c a h.1.1, h.1.2⟩, ih h.2⟩

theorem insert_wf [DecidableEq β] (d : Nat → β) (m : SMap β) (a : Nat) (v : β) (hv : v ≠ d a)
    (h : wf d m = true) : wf d (insert m a v) = true := by
  induction m with
  | nil => simp [insert, wf, above, hv]
  | cons e m ih =>
    obtain ⟨c, w⟩ := e
    have h' := h
    simp only [wf, Bool.and_eq_true] at h'
    unfold insert
    split
    · rename_i hac
      simp only [wf, above, Bool.and_eq_true, decide_eq_true_eq]
      refine ⟨⟨⟨hac, above_trans m (Nat.le_of_lt hac) h'.1.1⟩, hv⟩, ⟨h'.1.1, ?_⟩, h'.2⟩
      simpa using h'.1.2
    · split
      · rename_i h1 h2
        subst h2
        simp only [wf, Bool.and_eq_true, decide_eq_true_eq]
        exact ⟨⟨h'.1.1, hv⟩, h'.2⟩
      · rename_i h1 h2
        simp only [wf, Bool.and_eq_true]
        exact ⟨⟨above_insert m c a v h'.1.1 (by omega), h'.1.2⟩, ih h'.2⟩

/-- Every write keeps the canonical form. -/
theorem set_wf [DecidableEq β] (d : Nat → β) (m : SMap β) (a : Nat) (v : β) (h : wf d m = true) :
    wf d (set d m a v) = true := by
  unfold set
  split
  · exact erase_wf d m a h
  · rename_i hv; exact insert_wf d m a v hv h

theorem above_filter (m : SMap β) (k : Nat) (p : Nat × β → Bool) (h : above k m = true) :
    above k (m.filter p) = true := by
  induction m with
  | nil => rfl
  | cons e m ih =>
    obtain ⟨c, w⟩ := e
    simp only [above, Bool.and_eq_true, decide_eq_true_eq] at h
    rw [List.filter_cons]
    split
    · simp [above, h.1, ih h.2]
    · exact ih h.2

/-- A part of a canonical map is canonical. -/
theorem filter_wf [DecidableEq β] (d : Nat → β) (m : SMap β) (p : Nat × β → Bool) (h : wf d m = true) :
    wf d (m.filter p) = true := by
  induction m with
  | nil => rfl
  | cons e m ih =>
    obtain ⟨c, w⟩ := e
    simp only [wf, Bool.and_eq_true] at h
    rw [List.filter_cons]
    split
    · simp only [wf, Bool.and_eq_true]
      exact ⟨⟨above_filter m c p h.1.1, h.1.2⟩, ih h.2⟩
    · exact ih h.2

end Sys2Proof.SMap
end

