-- ==== Sys2Proof/Laws/State.lean ====
section
/-! SUPPORT. The fields of State after each named update: one lemma per field that the update leaves alone. -/

namespace Sys2Proof.Machine
open Sys2Proof

variable (s : State)


@[simp] theorem upto_pending (t : Time) : (upto t s).pending = s.pending := rfl
@[simp] theorem upto_variant (t : Time) : (upto t s).variant = s.variant := rfl
@[simp] theorem upto_free (t : Time) : (upto t s).free = s.free := rfl
@[simp] theorem upto_regs (t : Time) : (upto t s).regs = s.regs := rfl
@[simp] theorem upto_shadow (t : Time) : (upto t s).shadow = s.shadow := rfl
@[simp] theorem upto_live (t : Time) : (upto t s).live = s.live := rfl
@[simp] theorem upto_act (t : Time) : (upto t s).act = s.act := rfl
@[simp] theorem upto_toAct (t : Time) : (upto t s).toAct = s.toAct := rfl
@[simp] theorem upto_mem (t : Time) : (upto t s).mem = s.mem := rfl
@[simp] theorem upto_tcm (t : Time) : (upto t s).tcm = s.tcm := rfl
@[simp] theorem upto_eccBad (t : Time) : (upto t s).eccBad = s.eccBad := rfl
@[simp] theorem upto_observed (t : Time) : (upto t s).observed = s.observed := rfl
@[simp] theorem upto_tick (t : Time) : (upto t s).tick = s.tick := rfl
@[simp] theorem upto_units (t : Time) : (upto t s).units = s.units := rfl
@[simp] theorem upto_col (t : Time) : (upto t s).col = s.col := rfl
@[simp] theorem upto_prc (t : Time) : (upto t s).prc = s.prc := rfl
@[simp] theorem upto_eng (t : Time) : (upto t s).eng = s.eng := rfl
@[simp] theorem upto_legs (t : Time) : (upto t s).legs = s.legs := rfl
@[simp] theorem upto_grps (t : Time) : (upto t s).grps = s.grps := rfl
@[simp] theorem upto_cls (t : Time) : (upto t s).cls = s.cls := rfl
@[simp] theorem upto_tbLost (t : Time) : (upto t s).tbLost = s.tbLost := rfl
@[simp] theorem upto_engHalt (t : Time) : (upto t s).engHalt = s.engHalt := rfl
@[simp] theorem upto_chans (t : Time) : (upto t s).chans = s.chans := rfl
@[simp] theorem upto_clkLost (t : Time) : (upto t s).clkLost = s.clkLost := rfl
@[simp] theorem upto_clkAt (t : Time) : (upto t s).clkAt = s.clkAt := rfl
@[simp] theorem upto_cal (t : Time) : (upto t s).cal = s.cal := rfl
@[simp] theorem upto_rel (t : Time) : (upto t s).rel = s.rel := rfl
@[simp] theorem upto_sars (t : Time) : (upto t s).sars = s.sars := rfl
@[simp] theorem upto_slots (t : Time) : (upto t s).slots = s.slots := rfl
@[simp] theorem upto_refFrom (t : Time) : (upto t s).refFrom = s.refFrom := rfl
@[simp] theorem upto_refAt (t : Time) : (upto t s).refAt = s.refAt := rfl
@[simp] theorem upto_ports (t : Time) : (upto t s).ports = s.ports := rfl
@[simp] theorem upto_cmps (t : Time) : (upto t s).cmps = s.cmps := rfl
@[simp] theorem upto_ems (t : Time) : (upto t s).ems = s.ems := rfl
@[simp] theorem upto_plss (t : Time) : (upto t s).plss = s.plss := rfl
@[simp] theorem upto_saf (t : Time) : (upto t s).saf = s.saf := rfl
@[simp] theorem upto_aux (t : Time) : (upto t s).aux = s.aux := rfl
@[simp] theorem upto_spn (t : Time) : (upto t s).spn = s.spn := rfl
@[simp] theorem upto_cans (t : Time) : (upto t s).cans = s.cans := rfl
@[simp] theorem upto_qsps (t : Time) : (upto t s).qsps = s.qsps := rfl
@[simp] theorem upto_tru (t : Time) : (upto t s).tru = s.tru := rfl
@[simp] theorem upto_tst (t : Time) : (upto t s).tst = s.tst := rfl
@[simp] theorem upto_pwr (t : Time) : (upto t s).pwr = s.pwr := rfl

@[simp] theorem spend_pending : (spend s).pending = s.pending := rfl
@[simp] theorem spend_variant : (spend s).variant = s.variant := rfl
@[simp] theorem spend_now : (spend s).now = s.now := rfl
@[simp] theorem spend_regs : (spend s).regs = s.regs := rfl
@[simp] theorem spend_shadow : (spend s).shadow = s.shadow := rfl
@[simp] theorem spend_live : (spend s).live = s.live := rfl
@[simp] theorem spend_act : (spend s).act = s.act := rfl
@[simp] theorem spend_toAct : (spend s).toAct = s.toAct := rfl
@[simp] theorem spend_mem : (spend s).mem = s.mem := rfl
@[simp] theorem spend_tcm : (spend s).tcm = s.tcm := rfl
@[simp] theorem spend_eccBad : (spend s).eccBad = s.eccBad := rfl
@[simp] theorem spend_observed : (spend s).observed = s.observed := rfl
@[simp] theorem spend_tick : (spend s).tick = s.tick := rfl
@[simp] theorem spend_units : (spend s).units = s.units := rfl
@[simp] theorem spend_col : (spend s).col = s.col := rfl
@[simp] theorem spend_prc : (spend s).prc = s.prc := rfl
@[simp] theorem spend_eng : (spend s).eng = s.eng := rfl
@[simp] theorem spend_legs : (spend s).legs = s.legs := rfl
@[simp] theorem spend_grps : (spend s).grps = s.grps := rfl
@[simp] theorem spend_cls : (spend s).cls = s.cls := rfl
@[simp] theorem spend_tbLost : (spend s).tbLost = s.tbLost := rfl
@[simp] theorem spend_engHalt : (spend s).engHalt = s.engHalt := rfl
@[simp] theorem spend_chans : (spend s).chans = s.chans := rfl
@[simp] theorem spend_clkLost : (spend s).clkLost = s.clkLost := rfl
@[simp] theorem spend_clkAt : (spend s).clkAt = s.clkAt := rfl
@[simp] theorem spend_cal : (spend s).cal = s.cal := rfl
@[simp] theorem spend_rel : (spend s).rel = s.rel := rfl
@[simp] theorem spend_sars : (spend s).sars = s.sars := rfl
@[simp] theorem spend_slots : (spend s).slots = s.slots := rfl
@[simp] theorem spend_refFrom : (spend s).refFrom = s.refFrom := rfl
@[simp] theorem spend_refAt : (spend s).refAt = s.refAt := rfl
@[simp] theorem spend_ports : (spend s).ports = s.ports := rfl
@[simp] theorem spend_cmps : (spend s).cmps = s.cmps := rfl
@[simp] theorem spend_ems : (spend s).ems = s.ems := rfl
@[simp] theorem spend_plss : (spend s).plss = s.plss := rfl
@[simp] theorem spend_saf : (spend s).saf = s.saf := rfl
@[simp] theorem spend_aux : (spend s).aux = s.aux := rfl
@[simp] theorem spend_spn : (spend s).spn = s.spn := rfl
@[simp] theorem spend_cans : (spend s).cans = s.cans := rfl
@[simp] theorem spend_qsps : (spend s).qsps = s.qsps := rfl
@[simp] theorem spend_tru : (spend s).tru = s.tru := rfl
@[simp] theorem spend_tst : (spend s).tst = s.tst := rfl
@[simp] theorem spend_pwr : (spend s).pwr = s.pwr := rfl

@[simp] theorem setReg_pending (a : Nat) (v : Word) : (setReg a v s).pending = s.pending := rfl
@[simp] theorem setReg_variant (a : Nat) (v : Word) : (setReg a v s).variant = s.variant := rfl
@[simp] theorem setReg_now (a : Nat) (v : Word) : (setReg a v s).now = s.now := rfl
@[simp] theorem setReg_free (a : Nat) (v : Word) : (setReg a v s).free = s.free := rfl
@[simp] theorem setReg_shadow (a : Nat) (v : Word) : (setReg a v s).shadow = s.shadow := rfl
@[simp] theorem setReg_live (a : Nat) (v : Word) : (setReg a v s).live = s.live := rfl
@[simp] theorem setReg_act (a : Nat) (v : Word) : (setReg a v s).act = s.act := rfl
@[simp] theorem setReg_toAct (a : Nat) (v : Word) : (setReg a v s).toAct = s.toAct := rfl
@[simp] theorem setReg_mem (a : Nat) (v : Word) : (setReg a v s).mem = s.mem := rfl
@[simp] theorem setReg_tcm (a : Nat) (v : Word) : (setReg a v s).tcm = s.tcm := rfl
@[simp] theorem setReg_eccBad (a : Nat) (v : Word) : (setReg a v s).eccBad = s.eccBad := rfl
@[simp] theorem setReg_observed (a : Nat) (v : Word) : (setReg a v s).observed = s.observed := rfl
@[simp] theorem setReg_tick (a : Nat) (v : Word) : (setReg a v s).tick = s.tick := rfl
@[simp] theorem setReg_units (a : Nat) (v : Word) : (setReg a v s).units = s.units := rfl
@[simp] theorem setReg_col (a : Nat) (v : Word) : (setReg a v s).col = s.col := rfl
@[simp] theorem setReg_prc (a : Nat) (v : Word) : (setReg a v s).prc = s.prc := rfl
@[simp] theorem setReg_eng (a : Nat) (v : Word) : (setReg a v s).eng = s.eng := rfl
@[simp] theorem setReg_legs (a : Nat) (v : Word) : (setReg a v s).legs = s.legs := rfl
@[simp] theorem setReg_grps (a : Nat) (v : Word) : (setReg a v s).grps = s.grps := rfl
@[simp] theorem setReg_cls (a : Nat) (v : Word) : (setReg a v s).cls = s.cls := rfl
@[simp] theorem setReg_tbLost (a : Nat) (v : Word) : (setReg a v s).tbLost = s.tbLost := rfl
@[simp] theorem setReg_engHalt (a : Nat) (v : Word) : (setReg a v s).engHalt = s.engHalt := rfl
@[simp] theorem setReg_chans (a : Nat) (v : Word) : (setReg a v s).chans = s.chans := rfl
@[simp] theorem setReg_clkLost (a : Nat) (v : Word) : (setReg a v s).clkLost = s.clkLost := rfl
@[simp] theorem setReg_clkAt (a : Nat) (v : Word) : (setReg a v s).clkAt = s.clkAt := rfl
@[simp] theorem setReg_cal (a : Nat) (v : Word) : (setReg a v s).cal = s.cal := rfl
@[simp] theorem setReg_rel (a : Nat) (v : Word) : (setReg a v s).rel = s.rel := rfl
@[simp] theorem setReg_sars (a : Nat) (v : Word) : (setReg a v s).sars = s.sars := rfl
@[simp] theorem setReg_slots (a : Nat) (v : Word) : (setReg a v s).slots = s.slots := rfl
@[simp] theorem setReg_refFrom (a : Nat) (v : Word) : (setReg a v s).refFrom = s.refFrom := rfl
@[simp] theorem setReg_refAt (a : Nat) (v : Word) : (setReg a v s).refAt = s.refAt := rfl
@[simp] theorem setReg_ports (a : Nat) (v : Word) : (setReg a v s).ports = s.ports := rfl
@[simp] theorem setReg_cmps (a : Nat) (v : Word) : (setReg a v s).cmps = s.cmps := rfl
@[simp] theorem setReg_ems (a : Nat) (v : Word) : (setReg a v s).ems = s.ems := rfl
@[simp] theorem setReg_plss (a : Nat) (v : Word) : (setReg a v s).plss = s.plss := rfl
@[simp] theorem setReg_saf (a : Nat) (v : Word) : (setReg a v s).saf = s.saf := rfl
@[simp] theorem setReg_aux (a : Nat) (v : Word) : (setReg a v s).aux = s.aux := rfl
@[simp] theorem setReg_spn (a : Nat) (v : Word) : (setReg a v s).spn = s.spn := rfl
@[simp] theorem setReg_cans (a : Nat) (v : Word) : (setReg a v s).cans = s.cans := rfl
@[simp] theorem setReg_qsps (a : Nat) (v : Word) : (setReg a v s).qsps = s.qsps := rfl
@[simp] theorem setReg_tru (a : Nat) (v : Word) : (setReg a v s).tru = s.tru := rfl
@[simp] theorem setReg_tst (a : Nat) (v : Word) : (setReg a v s).tst = s.tst := rfl
@[simp] theorem setReg_pwr (a : Nat) (v : Word) : (setReg a v s).pwr = s.pwr := rfl

@[simp] theorem setShad_pending (a : Nat) (v : Word) : (setShad a v s).pending = s.pending := rfl
@[simp] theorem setShad_variant (a : Nat) (v : Word) : (setShad a v s).variant = s.variant := rfl
@[simp] theorem setShad_now (a : Nat) (v : Word) : (setShad a v s).now = s.now := rfl
@[simp] theorem setShad_free (a : Nat) (v : Word) : (setShad a v s).free = s.free := rfl
@[simp] theorem setShad_regs (a : Nat) (v : Word) : (setShad a v s).regs = s.regs := rfl
@[simp] theorem setShad_live (a : Nat) (v : Word) : (setShad a v s).live = s.live := rfl
@[simp] theorem setShad_act (a : Nat) (v : Word) : (setShad a v s).act = s.act := rfl
@[simp] theorem setShad_toAct (a : Nat) (v : Word) : (setShad a v s).toAct = s.toAct := rfl
@[simp] theorem setShad_mem (a : Nat) (v : Word) : (setShad a v s).mem = s.mem := rfl
@[simp] theorem setShad_tcm (a : Nat) (v : Word) : (setShad a v s).tcm = s.tcm := rfl
@[simp] theorem setShad_eccBad (a : Nat) (v : Word) : (setShad a v s).eccBad = s.eccBad := rfl
@[simp] theorem setShad_observed (a : Nat) (v : Word) : (setShad a v s).observed = s.observed := rfl
@[simp] theorem setShad_tick (a : Nat) (v : Word) : (setShad a v s).tick = s.tick := rfl
@[simp] theorem setShad_units (a : Nat) (v : Word) : (setShad a v s).units = s.units := rfl
@[simp] theorem setShad_col (a : Nat) (v : Word) : (setShad a v s).col = s.col := rfl
@[simp] theorem setShad_prc (a : Nat) (v : Word) : (setShad a v s).prc = s.prc := rfl
@[simp] theorem setShad_eng (a : Nat) (v : Word) : (setShad a v s).eng = s.eng := rfl
@[simp] theorem setShad_legs (a : Nat) (v : Word) : (setShad a v s).legs = s.legs := rfl
@[simp] theorem setShad_grps (a : Nat) (v : Word) : (setShad a v s).grps = s.grps := rfl
@[simp] theorem setShad_cls (a : Nat) (v : Word) : (setShad a v s).cls = s.cls := rfl
@[simp] theorem setShad_tbLost (a : Nat) (v : Word) : (setShad a v s).tbLost = s.tbLost := rfl
@[simp] theorem setShad_engHalt (a : Nat) (v : Word) : (setShad a v s).engHalt = s.engHalt := rfl
@[simp] theorem setShad_chans (a : Nat) (v : Word) : (setShad a v s).chans = s.chans := rfl
@[simp] theorem setShad_clkLost (a : Nat) (v : Word) : (setShad a v s).clkLost = s.clkLost := rfl
@[simp] theorem setShad_clkAt (a : Nat) (v : Word) : (setShad a v s).clkAt = s.clkAt := rfl
@[simp] theorem setShad_cal (a : Nat) (v : Word) : (setShad a v s).cal = s.cal := rfl
@[simp] theorem setShad_rel (a : Nat) (v : Word) : (setShad a v s).rel = s.rel := rfl
@[simp] theorem setShad_sars (a : Nat) (v : Word) : (setShad a v s).sars = s.sars := rfl
@[simp] theorem setShad_slots (a : Nat) (v : Word) : (setShad a v s).slots = s.slots := rfl
@[simp] theorem setShad_refFrom (a : Nat) (v : Word) : (setShad a v s).refFrom = s.refFrom := rfl
@[simp] theorem setShad_refAt (a : Nat) (v : Word) : (setShad a v s).refAt = s.refAt := rfl
@[simp] theorem setShad_ports (a : Nat) (v : Word) : (setShad a v s).ports = s.ports := rfl
@[simp] theorem setShad_cmps (a : Nat) (v : Word) : (setShad a v s).cmps = s.cmps := rfl
@[simp] theorem setShad_ems (a : Nat) (v : Word) : (setShad a v s).ems = s.ems := rfl
@[simp] theorem setShad_plss (a : Nat) (v : Word) : (setShad a v s).plss = s.plss := rfl
@[simp] theorem setShad_saf (a : Nat) (v : Word) : (setShad a v s).saf = s.saf := rfl
@[simp] theorem setShad_aux (a : Nat) (v : Word) : (setShad a v s).aux = s.aux := rfl
@[simp] theorem setShad_spn (a : Nat) (v : Word) : (setShad a v s).spn = s.spn := rfl
@[simp] theorem setShad_cans (a : Nat) (v : Word) : (setShad a v s).cans = s.cans := rfl
@[simp] theorem setShad_qsps (a : Nat) (v : Word) : (setShad a v s).qsps = s.qsps := rfl
@[simp] theorem setShad_tru (a : Nat) (v : Word) : (setShad a v s).tru = s.tru := rfl
@[simp] theorem setShad_tst (a : Nat) (v : Word) : (setShad a v s).tst = s.tst := rfl
@[simp] theorem setShad_pwr (a : Nat) (v : Word) : (setShad a v s).pwr = s.pwr := rfl

@[simp] theorem setLive_pending (a : Nat) (v : Word) : (setLive a v s).pending = s.pending := rfl
@[simp] theorem setLive_variant (a : Nat) (v : Word) : (setLive a v s).variant = s.variant := rfl
@[simp] theorem setLive_now (a : Nat) (v : Word) : (setLive a v s).now = s.now := rfl
@[simp] theorem setLive_free (a : Nat) (v : Word) : (setLive a v s).free = s.free := rfl
@[simp] theorem setLive_regs (a : Nat) (v : Word) : (setLive a v s).regs = s.regs := rfl
@[simp] theorem setLive_shadow (a : Nat) (v : Word) : (setLive a v s).shadow = s.shadow := rfl
@[simp] theorem setLive_act (a : Nat) (v : Word) : (setLive a v s).act = s.act := rfl
@[simp] theorem setLive_toAct (a : Nat) (v : Word) : (setLive a v s).toAct = s.toAct := rfl
@[simp] theorem setLive_mem (a : Nat) (v : Word) : (setLive a v s).mem = s.mem := rfl
@[simp] theorem setLive_tcm (a : Nat) (v : Word) : (setLive a v s).tcm = s.tcm := rfl
@[simp] theorem setLive_eccBad (a : Nat) (v : Word) : (setLive a v s).eccBad = s.eccBad := rfl
@[simp] theorem setLive_observed (a : Nat) (v : Word) : (setLive a v s).observed = s.observed := rfl
@[simp] theorem setLive_tick (a : Nat) (v : Word) : (setLive a v s).tick = s.tick := rfl
@[simp] theorem setLive_units (a : Nat) (v : Word) : (setLive a v s).units = s.units := rfl
@[simp] theorem setLive_col (a : Nat) (v : Word) : (setLive a v s).col = s.col := rfl
@[simp] theorem setLive_prc (a : Nat) (v : Word) : (setLive a v s).prc = s.prc := rfl
@[simp] theorem setLive_eng (a : Nat) (v : Word) : (setLive a v s).eng = s.eng := rfl
@[simp] theorem setLive_legs (a : Nat) (v : Word) : (setLive a v s).legs = s.legs := rfl
@[simp] theorem setLive_grps (a : Nat) (v : Word) : (setLive a v s).grps = s.grps := rfl
@[simp] theorem setLive_cls (a : Nat) (v : Word) : (setLive a v s).cls = s.cls := rfl
@[simp] theorem setLive_tbLost (a : Nat) (v : Word) : (setLive a v s).tbLost = s.tbLost := rfl
@[simp] theorem setLive_engHalt (a : Nat) (v : Word) : (setLive a v s).engHalt = s.engHalt := rfl
@[simp] theorem setLive_chans (a : Nat) (v : Word) : (setLive a v s).chans = s.chans := rfl
@[simp] theorem setLive_clkLost (a : Nat) (v : Word) : (setLive a v s).clkLost = s.clkLost := rfl
@[simp] theorem setLive_clkAt (a : Nat) (v : Word) : (setLive a v s).clkAt = s.clkAt := rfl
@[simp] theorem setLive_cal (a : Nat) (v : Word) : (setLive a v s).cal = s.cal := rfl
@[simp] theorem setLive_rel (a : Nat) (v : Word) : (setLive a v s).rel = s.rel := rfl
@[simp] theorem setLive_sars (a : Nat) (v : Word) : (setLive a v s).sars = s.sars := rfl
@[simp] theorem setLive_slots (a : Nat) (v : Word) : (setLive a v s).slots = s.slots := rfl
@[simp] theorem setLive_refFrom (a : Nat) (v : Word) : (setLive a v s).refFrom = s.refFrom := rfl
@[simp] theorem setLive_refAt (a : Nat) (v : Word) : (setLive a v s).refAt = s.refAt := rfl
@[simp] theorem setLive_ports (a : Nat) (v : Word) : (setLive a v s).ports = s.ports := rfl
@[simp] theorem setLive_cmps (a : Nat) (v : Word) : (setLive a v s).cmps = s.cmps := rfl
@[simp] theorem setLive_ems (a : Nat) (v : Word) : (setLive a v s).ems = s.ems := rfl
@[simp] theorem setLive_plss (a : Nat) (v : Word) : (setLive a v s).plss = s.plss := rfl
@[simp] theorem setLive_saf (a : Nat) (v : Word) : (setLive a v s).saf = s.saf := rfl
@[simp] theorem setLive_aux (a : Nat) (v : Word) : (setLive a v s).aux = s.aux := rfl
@[simp] theorem setLive_spn (a : Nat) (v : Word) : (setLive a v s).spn = s.spn := rfl
@[simp] theorem setLive_cans (a : Nat) (v : Word) : (setLive a v s).cans = s.cans := rfl
@[simp] theorem setLive_qsps (a : Nat) (v : Word) : (setLive a v s).qsps = s.qsps := rfl
@[simp] theorem setLive_tru (a : Nat) (v : Word) : (setLive a v s).tru = s.tru := rfl
@[simp] theorem setLive_tst (a : Nat) (v : Word) : (setLive a v s).tst = s.tst := rfl
@[simp] theorem setLive_pwr (a : Nat) (v : Word) : (setLive a v s).pwr = s.pwr := rfl

@[simp] theorem updUnit_pending (k : Nat) (f : UnitSt → UnitSt) : (updUnit k f s).pending = s.pending := rfl
@[simp] theorem updUnit_variant (k : Nat) (f : UnitSt → UnitSt) : (updUnit k f s).variant = s.variant := rfl
@[simp] theorem updUnit_now (k : Nat) (f : UnitSt → UnitSt) : (updUnit k f s).now = s.now := rfl
@[simp] theorem updUnit_free (k : Nat) (f : UnitSt → UnitSt) : (updUnit k f s).free = s.free := rfl
@[simp] theorem updUnit_regs (k : Nat) (f : UnitSt → UnitSt) : (updUnit k f s).regs = s.regs := rfl
@[simp] theorem updUnit_shadow (k : Nat) (f : UnitSt → UnitSt) : (updUnit k f s).shadow = s.shadow := rfl
@[simp] theorem updUnit_live (k : Nat) (f : UnitSt → UnitSt) : (updUnit k f s).live = s.live := rfl
@[simp] theorem updUnit_act (k : Nat) (f : UnitSt → UnitSt) : (updUnit k f s).act = s.act := rfl
@[simp] theorem updUnit_toAct (k : Nat) (f : UnitSt → UnitSt) : (updUnit k f s).toAct = s.toAct := rfl
@[simp] theorem updUnit_mem (k : Nat) (f : UnitSt → UnitSt) : (updUnit k f s).mem = s.mem := rfl
@[simp] theorem updUnit_tcm (k : Nat) (f : UnitSt → UnitSt) : (updUnit k f s).tcm = s.tcm := rfl
@[simp] theorem updUnit_eccBad (k : Nat) (f : UnitSt → UnitSt) : (updUnit k f s).eccBad = s.eccBad := rfl
@[simp] theorem updUnit_observed (k : Nat) (f : UnitSt → UnitSt) : (updUnit k f s).observed = s.observed := rfl
@[simp] theorem updUnit_tick (k : Nat) (f : UnitSt → UnitSt) : (updUnit k f s).tick = s.tick := rfl
@[simp] theorem updUnit_col (k : Nat) (f : UnitSt → UnitSt) : (updUnit k f s).col = s.col := rfl
@[simp] theorem updUnit_prc (k : Nat) (f : UnitSt → UnitSt) : (updUnit k f s).prc = s.prc := rfl
@[simp] theorem updUnit_eng (k : Nat) (f : UnitSt → UnitSt) : (updUnit k f s).eng = s.eng := rfl
@[simp] theorem updUnit_legs (k : Nat) (f : UnitSt → UnitSt) : (updUnit k f s).legs = s.legs := rfl
@[simp] theorem updUnit_grps (k : Nat) (f : UnitSt → UnitSt) : (updUnit k f s).grps = s.grps := rfl
@[simp] theorem updUnit_cls (k : Nat) (f : UnitSt → UnitSt) : (updUnit k f s).cls = s.cls := rfl
@[simp] theorem updUnit_tbLost (k : Nat) (f : UnitSt → UnitSt) : (updUnit k f s).tbLost = s.tbLost := rfl
@[simp] theorem updUnit_engHalt (k : Nat) (f : UnitSt → UnitSt) : (updUnit k f s).engHalt = s.engHalt := rfl
@[simp] theorem updUnit_chans (k : Nat) (f : UnitSt → UnitSt) : (updUnit k f s).chans = s.chans := rfl
@[simp] theorem updUnit_clkLost (k : Nat) (f : UnitSt → UnitSt) : (updUnit k f s).clkLost = s.clkLost := rfl
@[simp] theorem updUnit_clkAt (k : Nat) (f : UnitSt → UnitSt) : (updUnit k f s).clkAt = s.clkAt := rfl
@[simp] theorem updUnit_cal (k : Nat) (f : UnitSt → UnitSt) : (updUnit k f s).cal = s.cal := rfl
@[simp] theorem updUnit_rel (k : Nat) (f : UnitSt → UnitSt) : (updUnit k f s).rel = s.rel := rfl
@[simp] theorem updUnit_sars (k : Nat) (f : UnitSt → UnitSt) : (updUnit k f s).sars = s.sars := rfl
@[simp] theorem updUnit_slots (k : Nat) (f : UnitSt → UnitSt) : (updUnit k f s).slots = s.slots := rfl
@[simp] theorem updUnit_refFrom (k : Nat) (f : UnitSt → UnitSt) : (updUnit k f s).refFrom = s.refFrom := rfl
@[simp] theorem updUnit_refAt (k : Nat) (f : UnitSt → UnitSt) : (updUnit k f s).refAt = s.refAt := rfl
@[simp] theorem updUnit_ports (k : Nat) (f : UnitSt → UnitSt) : (updUnit k f s).ports = s.ports := rfl
@[simp] theorem updUnit_cmps (k : Nat) (f : UnitSt → UnitSt) : (updUnit k f s).cmps = s.cmps := rfl
@[simp] theorem updUnit_ems (k : Nat) (f : UnitSt → UnitSt) : (updUnit k f s).ems = s.ems := rfl
@[simp] theorem updUnit_plss (k : Nat) (f : UnitSt → UnitSt) : (updUnit k f s).plss = s.plss := rfl
@[simp] theorem updUnit_saf (k : Nat) (f : UnitSt → UnitSt) : (updUnit k f s).saf = s.saf := rfl
@[simp] theorem updUnit_aux (k : Nat) (f : UnitSt → UnitSt) : (updUnit k f s).aux = s.aux := rfl
@[simp] theorem updUnit_spn (k : Nat) (f : UnitSt → UnitSt) : (updUnit k f s).spn = s.spn := rfl
@[simp] theorem updUnit_cans (k : Nat) (f : UnitSt → UnitSt) : (updUnit k f s).cans = s.cans := rfl
@[simp] theorem updUnit_qsps (k : Nat) (f : UnitSt → UnitSt) : (updUnit k f s).qsps = s.qsps := rfl
@[simp] theorem updUnit_tru (k : Nat) (f : UnitSt → UnitSt) : (updUnit k f s).tru = s.tru := rfl
@[simp] theorem updUnit_tst (k : Nat) (f : UnitSt → UnitSt) : (updUnit k f s).tst = s.tst := rfl
@[simp] theorem updUnit_pwr (k : Nat) (f : UnitSt → UnitSt) : (updUnit k f s).pwr = s.pwr := rfl

@[simp] theorem updLeg_pending (k : Nat) (f : LegSt → LegSt) : (updLeg k f s).pending = s.pending := rfl
@[simp] theorem updLeg_variant (k : Nat) (f : LegSt → LegSt) : (updLeg k f s).variant = s.variant := rfl
@[simp] theorem updLeg_now (k : Nat) (f : LegSt → LegSt) : (updLeg k f s).now = s.now := rfl
@[simp] theorem updLeg_free (k : Nat) (f : LegSt → LegSt) : (updLeg k f s).free = s.free := rfl
@[simp] theorem updLeg_regs (k : Nat) (f : LegSt → LegSt) : (updLeg k f s).regs = s.regs := rfl
@[simp] theorem updLeg_shadow (k : Nat) (f : LegSt → LegSt) : (updLeg k f s).shadow = s.shadow := rfl
@[simp] theorem updLeg_live (k : Nat) (f : LegSt → LegSt) : (updLeg k f s).live = s.live := rfl
@[simp] theorem updLeg_act (k : Nat) (f : LegSt → LegSt) : (updLeg k f s).act = s.act := rfl
@[simp] theorem updLeg_toAct (k : Nat) (f : LegSt → LegSt) : (updLeg k f s).toAct = s.toAct := rfl
@[simp] theorem updLeg_mem (k : Nat) (f : LegSt → LegSt) : (updLeg k f s).mem = s.mem := rfl
@[simp] theorem updLeg_tcm (k : Nat) (f : LegSt → LegSt) : (updLeg k f s).tcm = s.tcm := rfl
@[simp] theorem updLeg_eccBad (k : Nat) (f : LegSt → LegSt) : (updLeg k f s).eccBad = s.eccBad := rfl
@[simp] theorem updLeg_observed (k : Nat) (f : LegSt → LegSt) : (updLeg k f s).observed = s.observed := rfl
@[simp] theorem updLeg_tick (k : Nat) (f : LegSt → LegSt) : (updLeg k f s).tick = s.tick := rfl
@[simp] theorem updLeg_units (k : Nat) (f : LegSt → LegSt) : (updLeg k f s).units = s.units := rfl
@[simp] theorem updLeg_col (k : Nat) (f : LegSt → LegSt) : (updLeg k f s).col = s.col := rfl
@[simp] theorem updLeg_prc (k : Nat) (f : LegSt → LegSt) : (updLeg k f s).prc = s.prc := rfl
@[simp] theorem updLeg_eng (k : Nat) (f : LegSt → LegSt) : (updLeg k f s).eng = s.eng := rfl
@[simp] theorem updLeg_grps (k : Nat) (f : LegSt → LegSt) : (updLeg k f s).grps = s.grps := rfl
@[simp] theorem updLeg_cls (k : Nat) (f : LegSt → LegSt) : (updLeg k f s).cls = s.cls := rfl
@[simp] theorem updLeg_tbLost (k : Nat) (f : LegSt → LegSt) : (updLeg k f s).tbLost = s.tbLost := rfl
@[simp] theorem updLeg_engHalt (k : Nat) (f : LegSt → LegSt) : (updLeg k f s).engHalt = s.engHalt := rfl
@[simp] theorem updLeg_chans (k : Nat) (f : LegSt → LegSt) : (updLeg k f s).chans = s.chans := rfl
@[simp] theorem updLeg_clkLost (k : Nat) (f : LegSt → LegSt) : (updLeg k f s).clkLost = s.clkLost := rfl
@[simp] theorem updLeg_clkAt (k : Nat) (f : LegSt → LegSt) : (updLeg k f s).clkAt = s.clkAt := rfl
@[simp] theorem updLeg_cal (k : Nat) (f : LegSt → LegSt) : (updLeg k f s).cal = s.cal := rfl
@[simp] theorem updLeg_rel (k : Nat) (f : LegSt → LegSt) : (updLeg k f s).rel = s.rel := rfl
@[simp] theorem updLeg_sars (k : Nat) (f : LegSt → LegSt) : (updLeg k f s).sars = s.sars := rfl
@[simp] theorem updLeg_slots (k : Nat) (f : LegSt → LegSt) : (updLeg k f s).slots = s.slots := rfl
@[simp] theorem updLeg_refFrom (k : Nat) (f : LegSt → LegSt) : (updLeg k f s).refFrom = s.refFrom := rfl
@[simp] theorem updLeg_refAt (k : Nat) (f : LegSt → LegSt) : (updLeg k f s).refAt = s.refAt := rfl
@[simp] theorem updLeg_ports (k : Nat) (f : LegSt → LegSt) : (updLeg k f s).ports = s.ports := rfl
@[simp] theorem updLeg_cmps (k : Nat) (f : LegSt → LegSt) : (updLeg k f s).cmps = s.cmps := rfl
@[simp] theorem updLeg_ems (k : Nat) (f : LegSt → LegSt) : (updLeg k f s).ems = s.ems := rfl
@[simp] theorem updLeg_plss (k : Nat) (f : LegSt → LegSt) : (updLeg k f s).plss = s.plss := rfl
@[simp] theorem updLeg_saf (k : Nat) (f : LegSt → LegSt) : (updLeg k f s).saf = s.saf := rfl
@[simp] theorem updLeg_aux (k : Nat) (f : LegSt → LegSt) : (updLeg k f s).aux = s.aux := rfl
@[simp] theorem updLeg_spn (k : Nat) (f : LegSt → LegSt) : (updLeg k f s).spn = s.spn := rfl
@[simp] theorem updLeg_cans (k : Nat) (f : LegSt → LegSt) : (updLeg k f s).cans = s.cans := rfl
@[simp] theorem updLeg_qsps (k : Nat) (f : LegSt → LegSt) : (updLeg k f s).qsps = s.qsps := rfl
@[simp] theorem updLeg_tru (k : Nat) (f : LegSt → LegSt) : (updLeg k f s).tru = s.tru := rfl
@[simp] theorem updLeg_tst (k : Nat) (f : LegSt → LegSt) : (updLeg k f s).tst = s.tst := rfl
@[simp] theorem updLeg_pwr (k : Nat) (f : LegSt → LegSt) : (updLeg k f s).pwr = s.pwr := rfl

@[simp] theorem updGrp_pending (k : Nat) (f : GrpSt → GrpSt) : (updGrp k f s).pending = s.pending := rfl
@[simp] theorem updGrp_variant (k : Nat) (f : GrpSt → GrpSt) : (updGrp k f s).variant = s.variant := rfl
@[simp] theorem updGrp_now (k : Nat) (f : GrpSt → GrpSt) : (updGrp k f s).now = s.now := rfl
@[simp] theorem updGrp_free (k : Nat) (f : GrpSt → GrpSt) : (updGrp k f s).free = s.free := rfl
@[simp] theorem updGrp_regs (k : Nat) (f : GrpSt → GrpSt) : (updGrp k f s).regs = s.regs := rfl
@[simp] theorem updGrp_shadow (k : Nat) (f : GrpSt → GrpSt) : (updGrp k f s).shadow = s.shadow := rfl
@[simp] theorem updGrp_live (k : Nat) (f : GrpSt → GrpSt) : (updGrp k f s).live = s.live := rfl
@[simp] theorem updGrp_act (k : Nat) (f : GrpSt → GrpSt) : (updGrp k f s).act = s.act := rfl
@[simp] theorem updGrp_toAct (k : Nat) (f : GrpSt → GrpSt) : (updGrp k f s).toAct = s.toAct := rfl
@[simp] theorem updGrp_mem (k : Nat) (f : GrpSt → GrpSt) : (updGrp k f s).mem = s.mem := rfl
@[simp] theorem updGrp_tcm (k : Nat) (f : GrpSt → GrpSt) : (updGrp k f s).tcm = s.tcm := rfl
@[simp] theorem updGrp_eccBad (k : Nat) (f : GrpSt → GrpSt) : (updGrp k f s).eccBad = s.eccBad := rfl
@[simp] theorem updGrp_observed (k : Nat) (f : GrpSt → GrpSt) : (updGrp k f s).observed = s.observed := rfl
@[simp] theorem updGrp_tick (k : Nat) (f : GrpSt → GrpSt) : (updGrp k f s).tick = s.tick := rfl
@[simp] theorem updGrp_units (k : Nat) (f : GrpSt → GrpSt) : (updGrp k f s).units = s.units := rfl
@[simp] theorem updGrp_col (k : Nat) (f : GrpSt → GrpSt) : (updGrp k f s).col = s.col := rfl
@[simp] theorem updGrp_prc (k : Nat) (f : GrpSt → GrpSt) : (updGrp k f s).prc = s.prc := rfl
@[simp] theorem updGrp_eng (k : Nat) (f : GrpSt → GrpSt) : (updGrp k f s).eng = s.eng := rfl
@[simp] theorem updGrp_legs (k : Nat) (f : GrpSt → GrpSt) : (updGrp k f s).legs = s.legs := rfl
@[simp] theorem updGrp_cls (k : Nat) (f : GrpSt → GrpSt) : (updGrp k f s).cls = s.cls := rfl
@[simp] theorem updGrp_tbLost (k : Nat) (f : GrpSt → GrpSt) : (updGrp k f s).tbLost = s.tbLost := rfl
@[simp] theorem updGrp_engHalt (k : Nat) (f : GrpSt → GrpSt) : (updGrp k f s).engHalt = s.engHalt := rfl
@[simp] theorem updGrp_chans (k : Nat) (f : GrpSt → GrpSt) : (updGrp k f s).chans = s.chans := rfl
@[simp] theorem updGrp_clkLost (k : Nat) (f : GrpSt → GrpSt) : (updGrp k f s).clkLost = s.clkLost := rfl
@[simp] theorem updGrp_clkAt (k : Nat) (f : GrpSt → GrpSt) : (updGrp k f s).clkAt = s.clkAt := rfl
@[simp] theorem updGrp_cal (k : Nat) (f : GrpSt → GrpSt) : (updGrp k f s).cal = s.cal := rfl
@[simp] theorem updGrp_rel (k : Nat) (f : GrpSt → GrpSt) : (updGrp k f s).rel = s.rel := rfl
@[simp] theorem updGrp_sars (k : Nat) (f : GrpSt → GrpSt) : (updGrp k f s).sars = s.sars := rfl
@[simp] theorem updGrp_slots (k : Nat) (f : GrpSt → GrpSt) : (updGrp k f s).slots = s.slots := rfl
@[simp] theorem updGrp_refFrom (k : Nat) (f : GrpSt → GrpSt) : (updGrp k f s).refFrom = s.refFrom := rfl
@[simp] theorem updGrp_refAt (k : Nat) (f : GrpSt → GrpSt) : (updGrp k f s).refAt = s.refAt := rfl
@[simp] theorem updGrp_ports (k : Nat) (f : GrpSt → GrpSt) : (updGrp k f s).ports = s.ports := rfl
@[simp] theorem updGrp_cmps (k : Nat) (f : GrpSt → GrpSt) : (updGrp k f s).cmps = s.cmps := rfl
@[simp] theorem updGrp_ems (k : Nat) (f : GrpSt → GrpSt) : (updGrp k f s).ems = s.ems := rfl
@[simp] theorem updGrp_plss (k : Nat) (f : GrpSt → GrpSt) : (updGrp k f s).plss = s.plss := rfl
@[simp] theorem updGrp_saf (k : Nat) (f : GrpSt → GrpSt) : (updGrp k f s).saf = s.saf := rfl
@[simp] theorem updGrp_aux (k : Nat) (f : GrpSt → GrpSt) : (updGrp k f s).aux = s.aux := rfl
@[simp] theorem updGrp_spn (k : Nat) (f : GrpSt → GrpSt) : (updGrp k f s).spn = s.spn := rfl
@[simp] theorem updGrp_cans (k : Nat) (f : GrpSt → GrpSt) : (updGrp k f s).cans = s.cans := rfl
@[simp] theorem updGrp_qsps (k : Nat) (f : GrpSt → GrpSt) : (updGrp k f s).qsps = s.qsps := rfl
@[simp] theorem updGrp_tru (k : Nat) (f : GrpSt → GrpSt) : (updGrp k f s).tru = s.tru := rfl
@[simp] theorem updGrp_tst (k : Nat) (f : GrpSt → GrpSt) : (updGrp k f s).tst = s.tst := rfl
@[simp] theorem updGrp_pwr (k : Nat) (f : GrpSt → GrpSt) : (updGrp k f s).pwr = s.pwr := rfl

@[simp] theorem updCl_pending (k : Nat) (f : ClSt → ClSt) : (updCl k f s).pending = s.pending := rfl
@[simp] theorem updCl_variant (k : Nat) (f : ClSt → ClSt) : (updCl k f s).variant = s.variant := rfl
@[simp] theorem updCl_now (k : Nat) (f : ClSt → ClSt) : (updCl k f s).now = s.now := rfl
@[simp] theorem updCl_free (k : Nat) (f : ClSt → ClSt) : (updCl k f s).free = s.free := rfl
@[simp] theorem updCl_regs (k : Nat) (f : ClSt → ClSt) : (updCl k f s).regs = s.regs := rfl
@[simp] theorem updCl_shadow (k : Nat) (f : ClSt → ClSt) : (updCl k f s).shadow = s.shadow := rfl
@[simp] theorem updCl_live (k : Nat) (f : ClSt → ClSt) : (updCl k f s).live = s.live := rfl
@[simp] theorem updCl_act (k : Nat) (f : ClSt → ClSt) : (updCl k f s).act = s.act := rfl
@[simp] theorem updCl_toAct (k : Nat) (f : ClSt → ClSt) : (updCl k f s).toAct = s.toAct := rfl
@[simp] theorem updCl_mem (k : Nat) (f : ClSt → ClSt) : (updCl k f s).mem = s.mem := rfl
@[simp] theorem updCl_tcm (k : Nat) (f : ClSt → ClSt) : (updCl k f s).tcm = s.tcm := rfl
@[simp] theorem updCl_eccBad (k : Nat) (f : ClSt → ClSt) : (updCl k f s).eccBad = s.eccBad := rfl
@[simp] theorem updCl_observed (k : Nat) (f : ClSt → ClSt) : (updCl k f s).observed = s.observed := rfl
@[simp] theorem updCl_tick (k : Nat) (f : ClSt → ClSt) : (updCl k f s).tick = s.tick := rfl
@[simp] theorem updCl_units (k : Nat) (f : ClSt → ClSt) : (updCl k f s).units = s.units := rfl
@[simp] theorem updCl_col (k : Nat) (f : ClSt → ClSt) : (updCl k f s).col = s.col := rfl
@[simp] theorem updCl_prc (k : Nat) (f : ClSt → ClSt) : (updCl k f s).prc = s.prc := rfl
@[simp] theorem updCl_eng (k : Nat) (f : ClSt → ClSt) : (updCl k f s).eng = s.eng := rfl
@[simp] theorem updCl_legs (k : Nat) (f : ClSt → ClSt) : (updCl k f s).legs = s.legs := rfl
@[simp] theorem updCl_grps (k : Nat) (f : ClSt → ClSt) : (updCl k f s).grps = s.grps := rfl
@[simp] theorem updCl_tbLost (k : Nat) (f : ClSt → ClSt) : (updCl k f s).tbLost = s.tbLost := rfl
@[simp] theorem updCl_engHalt (k : Nat) (f : ClSt → ClSt) : (updCl k f s).engHalt = s.engHalt := rfl
@[simp] theorem updCl_chans (k : Nat) (f : ClSt → ClSt) : (updCl k f s).chans = s.chans := rfl
@[simp] theorem updCl_clkLost (k : Nat) (f : ClSt → ClSt) : (updCl k f s).clkLost = s.clkLost := rfl
@[simp] theorem updCl_clkAt (k : Nat) (f : ClSt → ClSt) : (updCl k f s).clkAt = s.clkAt := rfl
@[simp] theorem updCl_cal (k : Nat) (f : ClSt → ClSt) : (updCl k f s).cal = s.cal := rfl
@[simp] theorem updCl_rel (k : Nat) (f : ClSt → ClSt) : (updCl k f s).rel = s.rel := rfl
@[simp] theorem updCl_sars (k : Nat) (f : ClSt → ClSt) : (updCl k f s).sars = s.sars := rfl
@[simp] theorem updCl_slots (k : Nat) (f : ClSt → ClSt) : (updCl k f s).slots = s.slots := rfl
@[simp] theorem updCl_refFrom (k : Nat) (f : ClSt → ClSt) : (updCl k f s).refFrom = s.refFrom := rfl
@[simp] theorem updCl_refAt (k : Nat) (f : ClSt → ClSt) : (updCl k f s).refAt = s.refAt := rfl
@[simp] theorem updCl_ports (k : Nat) (f : ClSt → ClSt) : (updCl k f s).ports = s.ports := rfl
@[simp] theorem updCl_cmps (k : Nat) (f : ClSt → ClSt) : (updCl k f s).cmps = s.cmps := rfl
@[simp] theorem updCl_ems (k : Nat) (f : ClSt → ClSt) : (updCl k f s).ems = s.ems := rfl
@[simp] theorem updCl_plss (k : Nat) (f : ClSt → ClSt) : (updCl k f s).plss = s.plss := rfl
@[simp] theorem updCl_saf (k : Nat) (f : ClSt → ClSt) : (updCl k f s).saf = s.saf := rfl
@[simp] theorem updCl_aux (k : Nat) (f : ClSt → ClSt) : (updCl k f s).aux = s.aux := rfl
@[simp] theorem updCl_spn (k : Nat) (f : ClSt → ClSt) : (updCl k f s).spn = s.spn := rfl
@[simp] theorem updCl_cans (k : Nat) (f : ClSt → ClSt) : (updCl k f s).cans = s.cans := rfl
@[simp] theorem updCl_qsps (k : Nat) (f : ClSt → ClSt) : (updCl k f s).qsps = s.qsps := rfl
@[simp] theorem updCl_tru (k : Nat) (f : ClSt → ClSt) : (updCl k f s).tru = s.tru := rfl
@[simp] theorem updCl_tst (k : Nat) (f : ClSt → ClSt) : (updCl k f s).tst = s.tst := rfl
@[simp] theorem updCl_pwr (k : Nat) (f : ClSt → ClSt) : (updCl k f s).pwr = s.pwr := rfl

@[simp] theorem updChan_pending (k : Nat) (f : ChSt → ChSt) : (updChan k f s).pending = s.pending := rfl
@[simp] theorem updChan_variant (k : Nat) (f : ChSt → ChSt) : (updChan k f s).variant = s.variant := rfl
@[simp] theorem updChan_now (k : Nat) (f : ChSt → ChSt) : (updChan k f s).now = s.now := rfl
@[simp] theorem updChan_free (k : Nat) (f : ChSt → ChSt) : (updChan k f s).free = s.free := rfl
@[simp] theorem updChan_regs (k : Nat) (f : ChSt → ChSt) : (updChan k f s).regs = s.regs := rfl
@[simp] theorem updChan_shadow (k : Nat) (f : ChSt → ChSt) : (updChan k f s).shadow = s.shadow := rfl
@[simp] theorem updChan_live (k : Nat) (f : ChSt → ChSt) : (updChan k f s).live = s.live := rfl
@[simp] theorem updChan_act (k : Nat) (f : ChSt → ChSt) : (updChan k f s).act = s.act := rfl
@[simp] theorem updChan_toAct (k : Nat) (f : ChSt → ChSt) : (updChan k f s).toAct = s.toAct := rfl
@[simp] theorem updChan_mem (k : Nat) (f : ChSt → ChSt) : (updChan k f s).mem = s.mem := rfl
@[simp] theorem updChan_tcm (k : Nat) (f : ChSt → ChSt) : (updChan k f s).tcm = s.tcm := rfl
@[simp] theorem updChan_eccBad (k : Nat) (f : ChSt → ChSt) : (updChan k f s).eccBad = s.eccBad := rfl
@[simp] theorem updChan_observed (k : Nat) (f : ChSt → ChSt) : (updChan k f s).observed = s.observed := rfl
@[simp] theorem updChan_tick (k : Nat) (f : ChSt → ChSt) : (updChan k f s).tick = s.tick := rfl
@[simp] theorem updChan_units (k : Nat) (f : ChSt → ChSt) : (updChan k f s).units = s.units := rfl
@[simp] theorem updChan_col (k : Nat) (f : ChSt → ChSt) : (updChan k f s).col = s.col := rfl
@[simp] theorem updChan_prc (k : Nat) (f : ChSt → ChSt) : (updChan k f s).prc = s.prc := rfl
@[simp] theorem updChan_eng (k : Nat) (f : ChSt → ChSt) : (updChan k f s).eng = s.eng := rfl
@[simp] theorem updChan_legs (k : Nat) (f : ChSt → ChSt) : (updChan k f s).legs = s.legs := rfl
@[simp] theorem updChan_grps (k : Nat) (f : ChSt → ChSt) : (updChan k f s).grps = s.grps := rfl
@[simp] theorem updChan_cls (k : Nat) (f : ChSt → ChSt) : (updChan k f s).cls = s.cls := rfl
@[simp] theorem updChan_tbLost (k : Nat) (f : ChSt → ChSt) : (updChan k f s).tbLost = s.tbLost := rfl
@[simp] theorem updChan_engHalt (k : Nat) (f : ChSt → ChSt) : (updChan k f s).engHalt = s.engHalt := rfl
@[simp] theorem updChan_clkLost (k : Nat) (f : ChSt → ChSt) : (updChan k f s).clkLost = s.clkLost := rfl
@[simp] theorem updChan_clkAt (k : Nat) (f : ChSt → ChSt) : (updChan k f s).clkAt = s.clkAt := rfl
@[simp] theorem updChan_cal (k : Nat) (f : ChSt → ChSt) : (updChan k f s).cal = s.cal := rfl
@[simp] theorem updChan_rel (k : Nat) (f : ChSt → ChSt) : (updChan k f s).rel = s.rel := rfl
@[simp] theorem updChan_sars (k : Nat) (f : ChSt → ChSt) : (updChan k f s).sars = s.sars := rfl
@[simp] theorem updChan_slots (k : Nat) (f : ChSt → ChSt) : (updChan k f s).slots = s.slots := rfl
@[simp] theorem updChan_refFrom (k : Nat) (f : ChSt → ChSt) : (updChan k f s).refFrom = s.refFrom := rfl
@[simp] theorem updChan_refAt (k : Nat) (f : ChSt → ChSt) : (updChan k f s).refAt = s.refAt := rfl
@[simp] theorem updChan_ports (k : Nat) (f : ChSt → ChSt) : (updChan k f s).ports = s.ports := rfl
@[simp] theorem updChan_cmps (k : Nat) (f : ChSt → ChSt) : (updChan k f s).cmps = s.cmps := rfl
@[simp] theorem updChan_ems (k : Nat) (f : ChSt → ChSt) : (updChan k f s).ems = s.ems := rfl
@[simp] theorem updChan_plss (k : Nat) (f : ChSt → ChSt) : (updChan k f s).plss = s.plss := rfl
@[simp] theorem updChan_saf (k : Nat) (f : ChSt → ChSt) : (updChan k f s).saf = s.saf := rfl
@[simp] theorem updChan_aux (k : Nat) (f : ChSt → ChSt) : (updChan k f s).aux = s.aux := rfl
@[simp] theorem updChan_spn (k : Nat) (f : ChSt → ChSt) : (updChan k f s).spn = s.spn := rfl
@[simp] theorem updChan_cans (k : Nat) (f : ChSt → ChSt) : (updChan k f s).cans = s.cans := rfl
@[simp] theorem updChan_qsps (k : Nat) (f : ChSt → ChSt) : (updChan k f s).qsps = s.qsps := rfl
@[simp] theorem updChan_tru (k : Nat) (f : ChSt → ChSt) : (updChan k f s).tru = s.tru := rfl
@[simp] theorem updChan_tst (k : Nat) (f : ChSt → ChSt) : (updChan k f s).tst = s.tst := rfl
@[simp] theorem updChan_pwr (k : Nat) (f : ChSt → ChSt) : (updChan k f s).pwr = s.pwr := rfl

@[simp] theorem updSar_pending (k : Nat) (f : SarSt → SarSt) : (updSar k f s).pending = s.pending := rfl
@[simp] theorem updSar_variant (k : Nat) (f : SarSt → SarSt) : (updSar k f s).variant = s.variant := rfl
@[simp] theorem updSar_now (k : Nat) (f : SarSt → SarSt) : (updSar k f s).now = s.now := rfl
@[simp] theorem updSar_free (k : Nat) (f : SarSt → SarSt) : (updSar k f s).free = s.free := rfl
@[simp] theorem updSar_regs (k : Nat) (f : SarSt → SarSt) : (updSar k f s).regs = s.regs := rfl
@[simp] theorem updSar_shadow (k : Nat) (f : SarSt → SarSt) : (updSar k f s).shadow = s.shadow := rfl
@[simp] theorem updSar_live (k : Nat) (f : SarSt → SarSt) : (updSar k f s).live = s.live := rfl
@[simp] theorem updSar_act (k : Nat) (f : SarSt → SarSt) : (updSar k f s).act = s.act := rfl
@[simp] theorem updSar_toAct (k : Nat) (f : SarSt → SarSt) : (updSar k f s).toAct = s.toAct := rfl
@[simp] theorem updSar_mem (k : Nat) (f : SarSt → SarSt) : (updSar k f s).mem = s.mem := rfl
@[simp] theorem updSar_tcm (k : Nat) (f : SarSt → SarSt) : (updSar k f s).tcm = s.tcm := rfl
@[simp] theorem updSar_eccBad (k : Nat) (f : SarSt → SarSt) : (updSar k f s).eccBad = s.eccBad := rfl
@[simp] theorem updSar_observed (k : Nat) (f : SarSt → SarSt) : (updSar k f s).observed = s.observed := rfl
@[simp] theorem updSar_tick (k : Nat) (f : SarSt → SarSt) : (updSar k f s).tick = s.tick := rfl
@[simp] theorem updSar_units (k : Nat) (f : SarSt → SarSt) : (updSar k f s).units = s.units := rfl
@[simp] theorem updSar_col (k : Nat) (f : SarSt → SarSt) : (updSar k f s).col = s.col := rfl
@[simp] theorem updSar_prc (k : Nat) (f : SarSt → SarSt) : (updSar k f s).prc = s.prc := rfl
@[simp] theorem updSar_eng (k : Nat) (f : SarSt → SarSt) : (updSar k f s).eng = s.eng := rfl
@[simp] theorem updSar_legs (k : Nat) (f : SarSt → SarSt) : (updSar k f s).legs = s.legs := rfl
@[simp] theorem updSar_grps (k : Nat) (f : SarSt → SarSt) : (updSar k f s).grps = s.grps := rfl
@[simp] theorem updSar_cls (k : Nat) (f : SarSt → SarSt) : (updSar k f s).cls = s.cls := rfl
@[simp] theorem updSar_tbLost (k : Nat) (f : SarSt → SarSt) : (updSar k f s).tbLost = s.tbLost := rfl
@[simp] theorem updSar_engHalt (k : Nat) (f : SarSt → SarSt) : (updSar k f s).engHalt = s.engHalt := rfl
@[simp] theorem updSar_chans (k : Nat) (f : SarSt → SarSt) : (updSar k f s).chans = s.chans := rfl
@[simp] theorem updSar_clkLost (k : Nat) (f : SarSt → SarSt) : (updSar k f s).clkLost = s.clkLost := rfl
@[simp] theorem updSar_clkAt (k : Nat) (f : SarSt → SarSt) : (updSar k f s).clkAt = s.clkAt := rfl
@[simp] theorem updSar_cal (k : Nat) (f : SarSt → SarSt) : (updSar k f s).cal = s.cal := rfl
@[simp] theorem updSar_rel (k : Nat) (f : SarSt → SarSt) : (updSar k f s).rel = s.rel := rfl
@[simp] theorem updSar_slots (k : Nat) (f : SarSt → SarSt) : (updSar k f s).slots = s.slots := rfl
@[simp] theorem updSar_refFrom (k : Nat) (f : SarSt → SarSt) : (updSar k f s).refFrom = s.refFrom := rfl
@[simp] theorem updSar_refAt (k : Nat) (f : SarSt → SarSt) : (updSar k f s).refAt = s.refAt := rfl
@[simp] theorem updSar_ports (k : Nat) (f : SarSt → SarSt) : (updSar k f s).ports = s.ports := rfl
@[simp] theorem updSar_cmps (k : Nat) (f : SarSt → SarSt) : (updSar k f s).cmps = s.cmps := rfl
@[simp] theorem updSar_ems (k : Nat) (f : SarSt → SarSt) : (updSar k f s).ems = s.ems := rfl
@[simp] theorem updSar_plss (k : Nat) (f : SarSt → SarSt) : (updSar k f s).plss = s.plss := rfl
@[simp] theorem updSar_saf (k : Nat) (f : SarSt → SarSt) : (updSar k f s).saf = s.saf := rfl
@[simp] theorem updSar_aux (k : Nat) (f : SarSt → SarSt) : (updSar k f s).aux = s.aux := rfl
@[simp] theorem updSar_spn (k : Nat) (f : SarSt → SarSt) : (updSar k f s).spn = s.spn := rfl
@[simp] theorem updSar_cans (k : Nat) (f : SarSt → SarSt) : (updSar k f s).cans = s.cans := rfl
@[simp] theorem updSar_qsps (k : Nat) (f : SarSt → SarSt) : (updSar k f s).qsps = s.qsps := rfl
@[simp] theorem updSar_tru (k : Nat) (f : SarSt → SarSt) : (updSar k f s).tru = s.tru := rfl
@[simp] theorem updSar_tst (k : Nat) (f : SarSt → SarSt) : (updSar k f s).tst = s.tst := rfl
@[simp] theorem updSar_pwr (k : Nat) (f : SarSt → SarSt) : (updSar k f s).pwr = s.pwr := rfl

@[simp] theorem updSlot_pending (k : Nat) (f : SlotSt → SlotSt) : (updSlot k f s).pending = s.pending := rfl
@[simp] theorem updSlot_variant (k : Nat) (f : SlotSt → SlotSt) : (updSlot k f s).variant = s.variant := rfl
@[simp] theorem updSlot_now (k : Nat) (f : SlotSt → SlotSt) : (updSlot k f s).now = s.now := rfl
@[simp] theorem updSlot_free (k : Nat) (f : SlotSt → SlotSt) : (updSlot k f s).free = s.free := rfl
@[simp] theorem updSlot_regs (k : Nat) (f : SlotSt → SlotSt) : (updSlot k f s).regs = s.regs := rfl
@[simp] theorem updSlot_shadow (k : Nat) (f : SlotSt → SlotSt) : (updSlot k f s).shadow = s.shadow := rfl
@[simp] theorem updSlot_live (k : Nat) (f : SlotSt → SlotSt) : (updSlot k f s).live = s.live := rfl
@[simp] theorem updSlot_act (k : Nat) (f : SlotSt → SlotSt) : (updSlot k f s).act = s.act := rfl
@[simp] theorem updSlot_toAct (k : Nat) (f : SlotSt → SlotSt) : (updSlot k f s).toAct = s.toAct := rfl
@[simp] theorem updSlot_mem (k : Nat) (f : SlotSt → SlotSt) : (updSlot k f s).mem = s.mem := rfl
@[simp] theorem updSlot_tcm (k : Nat) (f : SlotSt → SlotSt) : (updSlot k f s).tcm = s.tcm := rfl
@[simp] theorem updSlot_eccBad (k : Nat) (f : SlotSt → SlotSt) : (updSlot k f s).eccBad = s.eccBad := rfl
@[simp] theorem updSlot_observed (k : Nat) (f : SlotSt → SlotSt) : (updSlot k f s).observed = s.observed := rfl
@[simp] theorem updSlot_tick (k : Nat) (f : SlotSt → SlotSt) : (updSlot k f s).tick = s.tick := rfl
@[simp] theorem updSlot_units (k : Nat) (f : SlotSt → SlotSt) : (updSlot k f s).units = s.units := rfl
@[simp] theorem updSlot_col (k : Nat) (f : SlotSt → SlotSt) : (updSlot k f s).col = s.col := rfl
@[simp] theorem updSlot_prc (k : Nat) (f : SlotSt → SlotSt) : (updSlot k f s).prc = s.prc := rfl
@[simp] theorem updSlot_eng (k : Nat) (f : SlotSt → SlotSt) : (updSlot k f s).eng = s.eng := rfl
@[simp] theorem updSlot_legs (k : Nat) (f : SlotSt → SlotSt) : (updSlot k f s).legs = s.legs := rfl
@[simp] theorem updSlot_grps (k : Nat) (f : SlotSt → SlotSt) : (updSlot k f s).grps = s.grps := rfl
@[simp] theorem updSlot_cls (k : Nat) (f : SlotSt → SlotSt) : (updSlot k f s).cls = s.cls := rfl
@[simp] theorem updSlot_tbLost (k : Nat) (f : SlotSt → SlotSt) : (updSlot k f s).tbLost = s.tbLost := rfl
@[simp] theorem updSlot_engHalt (k : Nat) (f : SlotSt → SlotSt) : (updSlot k f s).engHalt = s.engHalt := rfl
@[simp] theorem updSlot_chans (k : Nat) (f : SlotSt → SlotSt) : (updSlot k f s).chans = s.chans := rfl
@[simp] theorem updSlot_clkLost (k : Nat) (f : SlotSt → SlotSt) : (updSlot k f s).clkLost = s.clkLost := rfl
@[simp] theorem updSlot_clkAt (k : Nat) (f : SlotSt → SlotSt) : (updSlot k f s).clkAt = s.clkAt := rfl
@[simp] theorem updSlot_cal (k : Nat) (f : SlotSt → SlotSt) : (updSlot k f s).cal = s.cal := rfl
@[simp] theorem updSlot_rel (k : Nat) (f : SlotSt → SlotSt) : (updSlot k f s).rel = s.rel := rfl
@[simp] theorem updSlot_sars (k : Nat) (f : SlotSt → SlotSt) : (updSlot k f s).sars = s.sars := rfl
@[simp] theorem updSlot_refFrom (k : Nat) (f : SlotSt → SlotSt) : (updSlot k f s).refFrom = s.refFrom := rfl
@[simp] theorem updSlot_refAt (k : Nat) (f : SlotSt → SlotSt) : (updSlot k f s).refAt = s.refAt := rfl
@[simp] theorem updSlot_ports (k : Nat) (f : SlotSt → SlotSt) : (updSlot k f s).ports = s.ports := rfl
@[simp] theorem updSlot_cmps (k : Nat) (f : SlotSt → SlotSt) : (updSlot k f s).cmps = s.cmps := rfl
@[simp] theorem updSlot_ems (k : Nat) (f : SlotSt → SlotSt) : (updSlot k f s).ems = s.ems := rfl
@[simp] theorem updSlot_plss (k : Nat) (f : SlotSt → SlotSt) : (updSlot k f s).plss = s.plss := rfl
@[simp] theorem updSlot_saf (k : Nat) (f : SlotSt → SlotSt) : (updSlot k f s).saf = s.saf := rfl
@[simp] theorem updSlot_aux (k : Nat) (f : SlotSt → SlotSt) : (updSlot k f s).aux = s.aux := rfl
@[simp] theorem updSlot_spn (k : Nat) (f : SlotSt → SlotSt) : (updSlot k f s).spn = s.spn := rfl
@[simp] theorem updSlot_cans (k : Nat) (f : SlotSt → SlotSt) : (updSlot k f s).cans = s.cans := rfl
@[simp] theorem updSlot_qsps (k : Nat) (f : SlotSt → SlotSt) : (updSlot k f s).qsps = s.qsps := rfl
@[simp] theorem updSlot_tru (k : Nat) (f : SlotSt → SlotSt) : (updSlot k f s).tru = s.tru := rfl
@[simp] theorem updSlot_tst (k : Nat) (f : SlotSt → SlotSt) : (updSlot k f s).tst = s.tst := rfl
@[simp] theorem updSlot_pwr (k : Nat) (f : SlotSt → SlotSt) : (updSlot k f s).pwr = s.pwr := rfl

@[simp] theorem updPort_pending (k : Nat) (f : PortSt → PortSt) : (updPort k f s).pending = s.pending := rfl
@[simp] theorem updPort_variant (k : Nat) (f : PortSt → PortSt) : (updPort k f s).variant = s.variant := rfl
@[simp] theorem updPort_now (k : Nat) (f : PortSt → PortSt) : (updPort k f s).now = s.now := rfl
@[simp] theorem updPort_free (k : Nat) (f : PortSt → PortSt) : (updPort k f s).free = s.free := rfl
@[simp] theorem updPort_regs (k : Nat) (f : PortSt → PortSt) : (updPort k f s).regs = s.regs := rfl
@[simp] theorem updPort_shadow (k : Nat) (f : PortSt → PortSt) : (updPort k f s).shadow = s.shadow := rfl
@[simp] theorem updPort_live (k : Nat) (f : PortSt → PortSt) : (updPort k f s).live = s.live := rfl
@[simp] theorem updPort_act (k : Nat) (f : PortSt → PortSt) : (updPort k f s).act = s.act := rfl
@[simp] theorem updPort_toAct (k : Nat) (f : PortSt → PortSt) : (updPort k f s).toAct = s.toAct := rfl
@[simp] theorem updPort_mem (k : Nat) (f : PortSt → PortSt) : (updPort k f s).mem = s.mem := rfl
@[simp] theorem updPort_tcm (k : Nat) (f : PortSt → PortSt) : (updPort k f s).tcm = s.tcm := rfl
@[simp] theorem updPort_eccBad (k : Nat) (f : PortSt → PortSt) : (updPort k f s).eccBad = s.eccBad := rfl
@[simp] theorem updPort_observed (k : Nat) (f : PortSt → PortSt) : (updPort k f s).observed = s.observed := rfl
@[simp] theorem updPort_tick (k : Nat) (f : PortSt → PortSt) : (updPort k f s).tick = s.tick := rfl
@[simp] theorem updPort_units (k : Nat) (f : PortSt → PortSt) : (updPort k f s).units = s.units := rfl
@[simp] theorem updPort_col (k : Nat) (f : PortSt → PortSt) : (updPort k f s).col = s.col := rfl
@[simp] theorem updPort_prc (k : Nat) (f : PortSt → PortSt) : (updPort k f s).prc = s.prc := rfl
@[simp] theorem updPort_eng (k : Nat) (f : PortSt → PortSt) : (updPort k f s).eng = s.eng := rfl
@[simp] theorem updPort_legs (k : Nat) (f : PortSt → PortSt) : (updPort k f s).legs = s.legs := rfl
@[simp] theorem updPort_grps (k : Nat) (f : PortSt → PortSt) : (updPort k f s).grps = s.grps := rfl
@[simp] theorem updPort_cls (k : Nat) (f : PortSt → PortSt) : (updPort k f s).cls = s.cls := rfl
@[simp] theorem updPort_tbLost (k : Nat) (f : PortSt → PortSt) : (updPort k f s).tbLost = s.tbLost := rfl
@[simp] theorem updPort_engHalt (k : Nat) (f : PortSt → PortSt) : (updPort k f s).engHalt = s.engHalt := rfl
@[simp] theorem updPort_chans (k : Nat) (f : PortSt → PortSt) : (updPort k f s).chans = s.chans := rfl
@[simp] theorem updPort_clkLost (k : Nat) (f : PortSt → PortSt) : (updPort k f s).clkLost = s.clkLost := rfl
@[simp] theorem updPort_clkAt (k : Nat) (f : PortSt → PortSt) : (updPort k f s).clkAt = s.clkAt := rfl
@[simp] theorem updPort_cal (k : Nat) (f : PortSt → PortSt) : (updPort k f s).cal = s.cal := rfl
@[simp] theorem updPort_rel (k : Nat) (f : PortSt → PortSt) : (updPort k f s).rel = s.rel := rfl
@[simp] theorem updPort_sars (k : Nat) (f : PortSt → PortSt) : (updPort k f s).sars = s.sars := rfl
@[simp] theorem updPort_slots (k : Nat) (f : PortSt → PortSt) : (updPort k f s).slots = s.slots := rfl
@[simp] theorem updPort_refFrom (k : Nat) (f : PortSt → PortSt) : (updPort k f s).refFrom = s.refFrom := rfl
@[simp] theorem updPort_refAt (k : Nat) (f : PortSt → PortSt) : (updPort k f s).refAt = s.refAt := rfl
@[simp] theorem updPort_cmps (k : Nat) (f : PortSt → PortSt) : (updPort k f s).cmps = s.cmps := rfl
@[simp] theorem updPort_ems (k : Nat) (f : PortSt → PortSt) : (updPort k f s).ems = s.ems := rfl
@[simp] theorem updPort_plss (k : Nat) (f : PortSt → PortSt) : (updPort k f s).plss = s.plss := rfl
@[simp] theorem updPort_saf (k : Nat) (f : PortSt → PortSt) : (updPort k f s).saf = s.saf := rfl
@[simp] theorem updPort_aux (k : Nat) (f : PortSt → PortSt) : (updPort k f s).aux = s.aux := rfl
@[simp] theorem updPort_spn (k : Nat) (f : PortSt → PortSt) : (updPort k f s).spn = s.spn := rfl
@[simp] theorem updPort_cans (k : Nat) (f : PortSt → PortSt) : (updPort k f s).cans = s.cans := rfl
@[simp] theorem updPort_qsps (k : Nat) (f : PortSt → PortSt) : (updPort k f s).qsps = s.qsps := rfl
@[simp] theorem updPort_tru (k : Nat) (f : PortSt → PortSt) : (updPort k f s).tru = s.tru := rfl
@[simp] theorem updPort_tst (k : Nat) (f : PortSt → PortSt) : (updPort k f s).tst = s.tst := rfl
@[simp] theorem updPort_pwr (k : Nat) (f : PortSt → PortSt) : (updPort k f s).pwr = s.pwr := rfl

@[simp] theorem updCmp_pending (k : Nat) (f : CmpSt → CmpSt) : (updCmp k f s).pending = s.pending := rfl
@[simp] theorem updCmp_variant (k : Nat) (f : CmpSt → CmpSt) : (updCmp k f s).variant = s.variant := rfl
@[simp] theorem updCmp_now (k : Nat) (f : CmpSt → CmpSt) : (updCmp k f s).now = s.now := rfl
@[simp] theorem updCmp_free (k : Nat) (f : CmpSt → CmpSt) : (updCmp k f s).free = s.free := rfl
@[simp] theorem updCmp_regs (k : Nat) (f : CmpSt → CmpSt) : (updCmp k f s).regs = s.regs := rfl
@[simp] theorem updCmp_shadow (k : Nat) (f : CmpSt → CmpSt) : (updCmp k f s).shadow = s.shadow := rfl
@[simp] theorem updCmp_live (k : Nat) (f : CmpSt → CmpSt) : (updCmp k f s).live = s.live := rfl
@[simp] theorem updCmp_act (k : Nat) (f : CmpSt → CmpSt) : (updCmp k f s).act = s.act := rfl
@[simp] theorem updCmp_toAct (k : Nat) (f : CmpSt → CmpSt) : (updCmp k f s).toAct = s.toAct := rfl
@[simp] theorem updCmp_mem (k : Nat) (f : CmpSt → CmpSt) : (updCmp k f s).mem = s.mem := rfl
@[simp] theorem updCmp_tcm (k : Nat) (f : CmpSt → CmpSt) : (updCmp k f s).tcm = s.tcm := rfl
@[simp] theorem updCmp_eccBad (k : Nat) (f : CmpSt → CmpSt) : (updCmp k f s).eccBad = s.eccBad := rfl
@[simp] theorem updCmp_observed (k : Nat) (f : CmpSt → CmpSt) : (updCmp k f s).observed = s.observed := rfl
@[simp] theorem updCmp_tick (k : Nat) (f : CmpSt → CmpSt) : (updCmp k f s).tick = s.tick := rfl
@[simp] theorem updCmp_units (k : Nat) (f : CmpSt → CmpSt) : (updCmp k f s).units = s.units := rfl
@[simp] theorem updCmp_col (k : Nat) (f : CmpSt → CmpSt) : (updCmp k f s).col = s.col := rfl
@[simp] theorem updCmp_prc (k : Nat) (f : CmpSt → CmpSt) : (updCmp k f s).prc = s.prc := rfl
@[simp] theorem updCmp_eng (k : Nat) (f : CmpSt → CmpSt) : (updCmp k f s).eng = s.eng := rfl
@[simp] theorem updCmp_legs (k : Nat) (f : CmpSt → CmpSt) : (updCmp k f s).legs = s.legs := rfl
@[simp] theorem updCmp_grps (k : Nat) (f : CmpSt → CmpSt) : (updCmp k f s).grps = s.grps := rfl
@[simp] theorem updCmp_cls (k : Nat) (f : CmpSt → CmpSt) : (updCmp k f s).cls = s.cls := rfl
@[simp] theorem updCmp_tbLost (k : Nat) (f : CmpSt → CmpSt) : (updCmp k f s).tbLost = s.tbLost := rfl
@[simp] theorem updCmp_engHalt (k : Nat) (f : CmpSt → CmpSt) : (updCmp k f s).engHalt = s.engHalt := rfl
@[simp] theorem updCmp_chans (k : Nat) (f : CmpSt → CmpSt) : (updCmp k f s).chans = s.chans := rfl
@[simp] theorem updCmp_clkLost (k : Nat) (f : CmpSt → CmpSt) : (updCmp k f s).clkLost = s.clkLost := rfl
@[simp] theorem updCmp_clkAt (k : Nat) (f : CmpSt → CmpSt) : (updCmp k f s).clkAt = s.clkAt := rfl
@[simp] theorem updCmp_cal (k : Nat) (f : CmpSt → CmpSt) : (updCmp k f s).cal = s.cal := rfl
@[simp] theorem updCmp_rel (k : Nat) (f : CmpSt → CmpSt) : (updCmp k f s).rel = s.rel := rfl
@[simp] theorem updCmp_sars (k : Nat) (f : CmpSt → CmpSt) : (updCmp k f s).sars = s.sars := rfl
@[simp] theorem updCmp_slots (k : Nat) (f : CmpSt → CmpSt) : (updCmp k f s).slots = s.slots := rfl
@[simp] theorem updCmp_refFrom (k : Nat) (f : CmpSt → CmpSt) : (updCmp k f s).refFrom = s.refFrom := rfl
@[simp] theorem updCmp_refAt (k : Nat) (f : CmpSt → CmpSt) : (updCmp k f s).refAt = s.refAt := rfl
@[simp] theorem updCmp_ports (k : Nat) (f : CmpSt → CmpSt) : (updCmp k f s).ports = s.ports := rfl
@[simp] theorem updCmp_ems (k : Nat) (f : CmpSt → CmpSt) : (updCmp k f s).ems = s.ems := rfl
@[simp] theorem updCmp_plss (k : Nat) (f : CmpSt → CmpSt) : (updCmp k f s).plss = s.plss := rfl
@[simp] theorem updCmp_saf (k : Nat) (f : CmpSt → CmpSt) : (updCmp k f s).saf = s.saf := rfl
@[simp] theorem updCmp_aux (k : Nat) (f : CmpSt → CmpSt) : (updCmp k f s).aux = s.aux := rfl
@[simp] theorem updCmp_spn (k : Nat) (f : CmpSt → CmpSt) : (updCmp k f s).spn = s.spn := rfl
@[simp] theorem updCmp_cans (k : Nat) (f : CmpSt → CmpSt) : (updCmp k f s).cans = s.cans := rfl
@[simp] theorem updCmp_qsps (k : Nat) (f : CmpSt → CmpSt) : (updCmp k f s).qsps = s.qsps := rfl
@[simp] theorem updCmp_tru (k : Nat) (f : CmpSt → CmpSt) : (updCmp k f s).tru = s.tru := rfl
@[simp] theorem updCmp_tst (k : Nat) (f : CmpSt → CmpSt) : (updCmp k f s).tst = s.tst := rfl
@[simp] theorem updCmp_pwr (k : Nat) (f : CmpSt → CmpSt) : (updCmp k f s).pwr = s.pwr := rfl

@[simp] theorem updEm_pending (k : Nat) (f : EmSt → EmSt) : (updEm k f s).pending = s.pending := rfl
@[simp] theorem updEm_variant (k : Nat) (f : EmSt → EmSt) : (updEm k f s).variant = s.variant := rfl
@[simp] theorem updEm_now (k : Nat) (f : EmSt → EmSt) : (updEm k f s).now = s.now := rfl
@[simp] theorem updEm_free (k : Nat) (f : EmSt → EmSt) : (updEm k f s).free = s.free := rfl
@[simp] theorem updEm_regs (k : Nat) (f : EmSt → EmSt) : (updEm k f s).regs = s.regs := rfl
@[simp] theorem updEm_shadow (k : Nat) (f : EmSt → EmSt) : (updEm k f s).shadow = s.shadow := rfl
@[simp] theorem updEm_live (k : Nat) (f : EmSt → EmSt) : (updEm k f s).live = s.live := rfl
@[simp] theorem updEm_act (k : Nat) (f : EmSt → EmSt) : (updEm k f s).act = s.act := rfl
@[simp] theorem updEm_toAct (k : Nat) (f : EmSt → EmSt) : (updEm k f s).toAct = s.toAct := rfl
@[simp] theorem updEm_mem (k : Nat) (f : EmSt → EmSt) : (updEm k f s).mem = s.mem := rfl
@[simp] theorem updEm_tcm (k : Nat) (f : EmSt → EmSt) : (updEm k f s).tcm = s.tcm := rfl
@[simp] theorem updEm_eccBad (k : Nat) (f : EmSt → EmSt) : (updEm k f s).eccBad = s.eccBad := rfl
@[simp] theorem updEm_observed (k : Nat) (f : EmSt → EmSt) : (updEm k f s).observed = s.observed := rfl
@[simp] theorem updEm_tick (k : Nat) (f : EmSt → EmSt) : (updEm k f s).tick = s.tick := rfl
@[simp] theorem updEm_units (k : Nat) (f : EmSt → EmSt) : (updEm k f s).units = s.units := rfl
@[simp] theorem updEm_col (k : Nat) (f : EmSt → EmSt) : (updEm k f s).col = s.col := rfl
@[simp] theorem updEm_prc (k : Nat) (f : EmSt → EmSt) : (updEm k f s).prc = s.prc := rfl
@[simp] theorem updEm_eng (k : Nat) (f : EmSt → EmSt) : (updEm k f s).eng = s.eng := rfl
@[simp] theorem updEm_legs (k : Nat) (f : EmSt → EmSt) : (updEm k f s).legs = s.legs := rfl
@[simp] theorem updEm_grps (k : Nat) (f : EmSt → EmSt) : (updEm k f s).grps = s.grps := rfl
@[simp] theorem updEm_cls (k : Nat) (f : EmSt → EmSt) : (updEm k f s).cls = s.cls := rfl
@[simp] theorem updEm_tbLost (k : Nat) (f : EmSt → EmSt) : (updEm k f s).tbLost = s.tbLost := rfl
@[simp] theorem updEm_engHalt (k : Nat) (f : EmSt → EmSt) : (updEm k f s).engHalt = s.engHalt := rfl
@[simp] theorem updEm_chans (k : Nat) (f : EmSt → EmSt) : (updEm k f s).chans = s.chans := rfl
@[simp] theorem updEm_clkLost (k : Nat) (f : EmSt → EmSt) : (updEm k f s).clkLost = s.clkLost := rfl
@[simp] theorem updEm_clkAt (k : Nat) (f : EmSt → EmSt) : (updEm k f s).clkAt = s.clkAt := rfl
@[simp] theorem updEm_cal (k : Nat) (f : EmSt → EmSt) : (updEm k f s).cal = s.cal := rfl
@[simp] theorem updEm_rel (k : Nat) (f : EmSt → EmSt) : (updEm k f s).rel = s.rel := rfl
@[simp] theorem updEm_sars (k : Nat) (f : EmSt → EmSt) : (updEm k f s).sars = s.sars := rfl
@[simp] theorem updEm_slots (k : Nat) (f : EmSt → EmSt) : (updEm k f s).slots = s.slots := rfl
@[simp] theorem updEm_refFrom (k : Nat) (f : EmSt → EmSt) : (updEm k f s).refFrom = s.refFrom := rfl
@[simp] theorem updEm_refAt (k : Nat) (f : EmSt → EmSt) : (updEm k f s).refAt = s.refAt := rfl
@[simp] theorem updEm_ports (k : Nat) (f : EmSt → EmSt) : (updEm k f s).ports = s.ports := rfl
@[simp] theorem updEm_cmps (k : Nat) (f : EmSt → EmSt) : (updEm k f s).cmps = s.cmps := rfl
@[simp] theorem updEm_plss (k : Nat) (f : EmSt → EmSt) : (updEm k f s).plss = s.plss := rfl
@[simp] theorem updEm_saf (k : Nat) (f : EmSt → EmSt) : (updEm k f s).saf = s.saf := rfl
@[simp] theorem updEm_aux (k : Nat) (f : EmSt → EmSt) : (updEm k f s).aux = s.aux := rfl
@[simp] theorem updEm_spn (k : Nat) (f : EmSt → EmSt) : (updEm k f s).spn = s.spn := rfl
@[simp] theorem updEm_cans (k : Nat) (f : EmSt → EmSt) : (updEm k f s).cans = s.cans := rfl
@[simp] theorem updEm_qsps (k : Nat) (f : EmSt → EmSt) : (updEm k f s).qsps = s.qsps := rfl
@[simp] theorem updEm_tru (k : Nat) (f : EmSt → EmSt) : (updEm k f s).tru = s.tru := rfl
@[simp] theorem updEm_tst (k : Nat) (f : EmSt → EmSt) : (updEm k f s).tst = s.tst := rfl
@[simp] theorem updEm_pwr (k : Nat) (f : EmSt → EmSt) : (updEm k f s).pwr = s.pwr := rfl

@[simp] theorem updPls_pending (k : Nat) (f : PlsSt → PlsSt) : (updPls k f s).pending = s.pending := rfl
@[simp] theorem updPls_variant (k : Nat) (f : PlsSt → PlsSt) : (updPls k f s).variant = s.variant := rfl
@[simp] theorem updPls_now (k : Nat) (f : PlsSt → PlsSt) : (updPls k f s).now = s.now := rfl
@[simp] theorem updPls_free (k : Nat) (f : PlsSt → PlsSt) : (updPls k f s).free = s.free := rfl
@[simp] theorem updPls_regs (k : Nat) (f : PlsSt → PlsSt) : (updPls k f s).regs = s.regs := rfl
@[simp] theorem updPls_shadow (k : Nat) (f : PlsSt → PlsSt) : (updPls k f s).shadow = s.shadow := rfl
@[simp] theorem updPls_live (k : Nat) (f : PlsSt → PlsSt) : (updPls k f s).live = s.live := rfl
@[simp] theorem updPls_act (k : Nat) (f : PlsSt → PlsSt) : (updPls k f s).act = s.act := rfl
@[simp] theorem updPls_toAct (k : Nat) (f : PlsSt → PlsSt) : (updPls k f s).toAct = s.toAct := rfl
@[simp] theorem updPls_mem (k : Nat) (f : PlsSt → PlsSt) : (updPls k f s).mem = s.mem := rfl
@[simp] theorem updPls_tcm (k : Nat) (f : PlsSt → PlsSt) : (updPls k f s).tcm = s.tcm := rfl
@[simp] theorem updPls_eccBad (k : Nat) (f : PlsSt → PlsSt) : (updPls k f s).eccBad = s.eccBad := rfl
@[simp] theorem updPls_observed (k : Nat) (f : PlsSt → PlsSt) : (updPls k f s).observed = s.observed := rfl
@[simp] theorem updPls_tick (k : Nat) (f : PlsSt → PlsSt) : (updPls k f s).tick = s.tick := rfl
@[simp] theorem updPls_units (k : Nat) (f : PlsSt → PlsSt) : (updPls k f s).units = s.units := rfl
@[simp] theorem updPls_col (k : Nat) (f : PlsSt → PlsSt) : (updPls k f s).col = s.col := rfl
@[simp] theorem updPls_prc (k : Nat) (f : PlsSt → PlsSt) : (updPls k f s).prc = s.prc := rfl
@[simp] theorem updPls_eng (k : Nat) (f : PlsSt → PlsSt) : (updPls k f s).eng = s.eng := rfl
@[simp] theorem updPls_legs (k : Nat) (f : PlsSt → PlsSt) : (updPls k f s).legs = s.legs := rfl
@[simp] theorem updPls_grps (k : Nat) (f : PlsSt → PlsSt) : (updPls k f s).grps = s.grps := rfl
@[simp] theorem updPls_cls (k : Nat) (f : PlsSt → PlsSt) : (updPls k f s).cls = s.cls := rfl
@[simp] theorem updPls_tbLost (k : Nat) (f : PlsSt → PlsSt) : (updPls k f s).tbLost = s.tbLost := rfl
@[simp] theorem updPls_engHalt (k : Nat) (f : PlsSt → PlsSt) : (updPls k f s).engHalt = s.engHalt := rfl
@[simp] theorem updPls_chans (k : Nat) (f : PlsSt → PlsSt) : (updPls k f s).chans = s.chans := rfl
@[simp] theorem updPls_clkLost (k : Nat) (f : PlsSt → PlsSt) : (updPls k f s).clkLost = s.clkLost := rfl
@[simp] theorem updPls_clkAt (k : Nat) (f : PlsSt → PlsSt) : (updPls k f s).clkAt = s.clkAt := rfl
@[simp] theorem updPls_cal (k : Nat) (f : PlsSt → PlsSt) : (updPls k f s).cal = s.cal := rfl
@[simp] theorem updPls_rel (k : Nat) (f : PlsSt → PlsSt) : (updPls k f s).rel = s.rel := rfl
@[simp] theorem updPls_sars (k : Nat) (f : PlsSt → PlsSt) : (updPls k f s).sars = s.sars := rfl
@[simp] theorem updPls_slots (k : Nat) (f : PlsSt → PlsSt) : (updPls k f s).slots = s.slots := rfl
@[simp] theorem updPls_refFrom (k : Nat) (f : PlsSt → PlsSt) : (updPls k f s).refFrom = s.refFrom := rfl
@[simp] theorem updPls_refAt (k : Nat) (f : PlsSt → PlsSt) : (updPls k f s).refAt = s.refAt := rfl
@[simp] theorem updPls_ports (k : Nat) (f : PlsSt → PlsSt) : (updPls k f s).ports = s.ports := rfl
@[simp] theorem updPls_cmps (k : Nat) (f : PlsSt → PlsSt) : (updPls k f s).cmps = s.cmps := rfl
@[simp] theorem updPls_ems (k : Nat) (f : PlsSt → PlsSt) : (updPls k f s).ems = s.ems := rfl
@[simp] theorem updPls_saf (k : Nat) (f : PlsSt → PlsSt) : (updPls k f s).saf = s.saf := rfl
@[simp] theorem updPls_aux (k : Nat) (f : PlsSt → PlsSt) : (updPls k f s).aux = s.aux := rfl
@[simp] theorem updPls_spn (k : Nat) (f : PlsSt → PlsSt) : (updPls k f s).spn = s.spn := rfl
@[simp] theorem updPls_cans (k : Nat) (f : PlsSt → PlsSt) : (updPls k f s).cans = s.cans := rfl
@[simp] theorem updPls_qsps (k : Nat) (f : PlsSt → PlsSt) : (updPls k f s).qsps = s.qsps := rfl
@[simp] theorem updPls_tru (k : Nat) (f : PlsSt → PlsSt) : (updPls k f s).tru = s.tru := rfl
@[simp] theorem updPls_tst (k : Nat) (f : PlsSt → PlsSt) : (updPls k f s).tst = s.tst := rfl
@[simp] theorem updPls_pwr (k : Nat) (f : PlsSt → PlsSt) : (updPls k f s).pwr = s.pwr := rfl

@[simp] theorem updSin_pending (k : Nat) (f : SinSt → SinSt) : (updSin k f s).pending = s.pending := rfl
@[simp] theorem updSin_variant (k : Nat) (f : SinSt → SinSt) : (updSin k f s).variant = s.variant := rfl
@[simp] theorem updSin_now (k : Nat) (f : SinSt → SinSt) : (updSin k f s).now = s.now := rfl
@[simp] theorem updSin_free (k : Nat) (f : SinSt → SinSt) : (updSin k f s).free = s.free := rfl
@[simp] theorem updSin_regs (k : Nat) (f : SinSt → SinSt) : (updSin k f s).regs = s.regs := rfl
@[simp] theorem updSin_shadow (k : Nat) (f : SinSt → SinSt) : (updSin k f s).shadow = s.shadow := rfl
@[simp] theorem updSin_live (k : Nat) (f : SinSt → SinSt) : (updSin k f s).live = s.live := rfl
@[simp] theorem updSin_act (k : Nat) (f : SinSt → SinSt) : (updSin k f s).act = s.act := rfl
@[simp] theorem updSin_toAct (k : Nat) (f : SinSt → SinSt) : (updSin k f s).toAct = s.toAct := rfl
@[simp] theorem updSin_mem (k : Nat) (f : SinSt → SinSt) : (updSin k f s).mem = s.mem := rfl
@[simp] theorem updSin_tcm (k : Nat) (f : SinSt → SinSt) : (updSin k f s).tcm = s.tcm := rfl
@[simp] theorem updSin_eccBad (k : Nat) (f : SinSt → SinSt) : (updSin k f s).eccBad = s.eccBad := rfl
@[simp] theorem updSin_observed (k : Nat) (f : SinSt → SinSt) : (updSin k f s).observed = s.observed := rfl
@[simp] theorem updSin_tick (k : Nat) (f : SinSt → SinSt) : (updSin k f s).tick = s.tick := rfl
@[simp] theorem updSin_units (k : Nat) (f : SinSt → SinSt) : (updSin k f s).units = s.units := rfl
@[simp] theorem updSin_col (k : Nat) (f : SinSt → SinSt) : (updSin k f s).col = s.col := rfl
@[simp] theorem updSin_prc (k : Nat) (f : SinSt → SinSt) : (updSin k f s).prc = s.prc := rfl
@[simp] theorem updSin_eng (k : Nat) (f : SinSt → SinSt) : (updSin k f s).eng = s.eng := rfl
@[simp] theorem updSin_legs (k : Nat) (f : SinSt → SinSt) : (updSin k f s).legs = s.legs := rfl
@[simp] theorem updSin_grps (k : Nat) (f : SinSt → SinSt) : (updSin k f s).grps = s.grps := rfl
@[simp] theorem updSin_cls (k : Nat) (f : SinSt → SinSt) : (updSin k f s).cls = s.cls := rfl
@[simp] theorem updSin_tbLost (k : Nat) (f : SinSt → SinSt) : (updSin k f s).tbLost = s.tbLost := rfl
@[simp] theorem updSin_engHalt (k : Nat) (f : SinSt → SinSt) : (updSin k f s).engHalt = s.engHalt := rfl
@[simp] theorem updSin_chans (k : Nat) (f : SinSt → SinSt) : (updSin k f s).chans = s.chans := rfl
@[simp] theorem updSin_clkLost (k : Nat) (f : SinSt → SinSt) : (updSin k f s).clkLost = s.clkLost := rfl
@[simp] theorem updSin_clkAt (k : Nat) (f : SinSt → SinSt) : (updSin k f s).clkAt = s.clkAt := rfl
@[simp] theorem updSin_cal (k : Nat) (f : SinSt → SinSt) : (updSin k f s).cal = s.cal := rfl
@[simp] theorem updSin_rel (k : Nat) (f : SinSt → SinSt) : (updSin k f s).rel = s.rel := rfl
@[simp] theorem updSin_sars (k : Nat) (f : SinSt → SinSt) : (updSin k f s).sars = s.sars := rfl
@[simp] theorem updSin_slots (k : Nat) (f : SinSt → SinSt) : (updSin k f s).slots = s.slots := rfl
@[simp] theorem updSin_refFrom (k : Nat) (f : SinSt → SinSt) : (updSin k f s).refFrom = s.refFrom := rfl
@[simp] theorem updSin_refAt (k : Nat) (f : SinSt → SinSt) : (updSin k f s).refAt = s.refAt := rfl
@[simp] theorem updSin_ports (k : Nat) (f : SinSt → SinSt) : (updSin k f s).ports = s.ports := rfl
@[simp] theorem updSin_cmps (k : Nat) (f : SinSt → SinSt) : (updSin k f s).cmps = s.cmps := rfl
@[simp] theorem updSin_ems (k : Nat) (f : SinSt → SinSt) : (updSin k f s).ems = s.ems := rfl
@[simp] theorem updSin_plss (k : Nat) (f : SinSt → SinSt) : (updSin k f s).plss = s.plss := rfl
@[simp] theorem updSin_aux (k : Nat) (f : SinSt → SinSt) : (updSin k f s).aux = s.aux := rfl
@[simp] theorem updSin_spn (k : Nat) (f : SinSt → SinSt) : (updSin k f s).spn = s.spn := rfl
@[simp] theorem updSin_cans (k : Nat) (f : SinSt → SinSt) : (updSin k f s).cans = s.cans := rfl
@[simp] theorem updSin_qsps (k : Nat) (f : SinSt → SinSt) : (updSin k f s).qsps = s.qsps := rfl
@[simp] theorem updSin_tru (k : Nat) (f : SinSt → SinSt) : (updSin k f s).tru = s.tru := rfl
@[simp] theorem updSin_tst (k : Nat) (f : SinSt → SinSt) : (updSin k f s).tst = s.tst := rfl
@[simp] theorem updSin_pwr (k : Nat) (f : SinSt → SinSt) : (updSin k f s).pwr = s.pwr := rfl

@[simp] theorem updSout_pending (k : Nat) (f : SoutSt → SoutSt) : (updSout k f s).pending = s.pending := rfl
@[simp] theorem updSout_variant (k : Nat) (f : SoutSt → SoutSt) : (updSout k f s).variant = s.variant := rfl
@[simp] theorem updSout_now (k : Nat) (f : SoutSt → SoutSt) : (updSout k f s).now = s.now := rfl
@[simp] theorem updSout_free (k : Nat) (f : SoutSt → SoutSt) : (updSout k f s).free = s.free := rfl
@[simp] theorem updSout_regs (k : Nat) (f : SoutSt → SoutSt) : (updSout k f s).regs = s.regs := rfl
@[simp] theorem updSout_shadow (k : Nat) (f : SoutSt → SoutSt) : (updSout k f s).shadow = s.shadow := rfl
@[simp] theorem updSout_live (k : Nat) (f : SoutSt → SoutSt) : (updSout k f s).live = s.live := rfl
@[simp] theorem updSout_act (k : Nat) (f : SoutSt → SoutSt) : (updSout k f s).act = s.act := rfl
@[simp] theorem updSout_toAct (k : Nat) (f : SoutSt → SoutSt) : (updSout k f s).toAct = s.toAct := rfl
@[simp] theorem updSout_mem (k : Nat) (f : SoutSt → SoutSt) : (updSout k f s).mem = s.mem := rfl
@[simp] theorem updSout_tcm (k : Nat) (f : SoutSt → SoutSt) : (updSout k f s).tcm = s.tcm := rfl
@[simp] theorem updSout_eccBad (k : Nat) (f : SoutSt → SoutSt) : (updSout k f s).eccBad = s.eccBad := rfl
@[simp] theorem updSout_observed (k : Nat) (f : SoutSt → SoutSt) : (updSout k f s).observed = s.observed := rfl
@[simp] theorem updSout_tick (k : Nat) (f : SoutSt → SoutSt) : (updSout k f s).tick = s.tick := rfl
@[simp] theorem updSout_units (k : Nat) (f : SoutSt → SoutSt) : (updSout k f s).units = s.units := rfl
@[simp] theorem updSout_col (k : Nat) (f : SoutSt → SoutSt) : (updSout k f s).col = s.col := rfl
@[simp] theorem updSout_prc (k : Nat) (f : SoutSt → SoutSt) : (updSout k f s).prc = s.prc := rfl
@[simp] theorem updSout_eng (k : Nat) (f : SoutSt → SoutSt) : (updSout k f s).eng = s.eng := rfl
@[simp] theorem updSout_legs (k : Nat) (f : SoutSt → SoutSt) : (updSout k f s).legs = s.legs := rfl
@[simp] theorem updSout_grps (k : Nat) (f : SoutSt → SoutSt) : (updSout k f s).grps = s.grps := rfl
@[simp] theorem updSout_cls (k : Nat) (f : SoutSt → SoutSt) : (updSout k f s).cls = s.cls := rfl
@[simp] theorem updSout_tbLost (k : Nat) (f : SoutSt → SoutSt) : (updSout k f s).tbLost = s.tbLost := rfl
@[simp] theorem updSout_engHalt (k : Nat) (f : SoutSt → SoutSt) : (updSout k f s).engHalt = s.engHalt := rfl
@[simp] theorem updSout_chans (k : Nat) (f : SoutSt → SoutSt) : (updSout k f s).chans = s.chans := rfl
@[simp] theorem updSout_clkLost (k : Nat) (f : SoutSt → SoutSt) : (updSout k f s).clkLost = s.clkLost := rfl
@[simp] theorem updSout_clkAt (k : Nat) (f : SoutSt → SoutSt) : (updSout k f s).clkAt = s.clkAt := rfl
@[simp] theorem updSout_cal (k : Nat) (f : SoutSt → SoutSt) : (updSout k f s).cal = s.cal := rfl
@[simp] theorem updSout_rel (k : Nat) (f : SoutSt → SoutSt) : (updSout k f s).rel = s.rel := rfl
@[simp] theorem updSout_sars (k : Nat) (f : SoutSt → SoutSt) : (updSout k f s).sars = s.sars := rfl
@[simp] theorem updSout_slots (k : Nat) (f : SoutSt → SoutSt) : (updSout k f s).slots = s.slots := rfl
@[simp] theorem updSout_refFrom (k : Nat) (f : SoutSt → SoutSt) : (updSout k f s).refFrom = s.refFrom := rfl
@[simp] theorem updSout_refAt (k : Nat) (f : SoutSt → SoutSt) : (updSout k f s).refAt = s.refAt := rfl
@[simp] theorem updSout_ports (k : Nat) (f : SoutSt → SoutSt) : (updSout k f s).ports = s.ports := rfl
@[simp] theorem updSout_cmps (k : Nat) (f : SoutSt → SoutSt) : (updSout k f s).cmps = s.cmps := rfl
@[simp] theorem updSout_ems (k : Nat) (f : SoutSt → SoutSt) : (updSout k f s).ems = s.ems := rfl
@[simp] theorem updSout_plss (k : Nat) (f : SoutSt → SoutSt) : (updSout k f s).plss = s.plss := rfl
@[simp] theorem updSout_aux (k : Nat) (f : SoutSt → SoutSt) : (updSout k f s).aux = s.aux := rfl
@[simp] theorem updSout_spn (k : Nat) (f : SoutSt → SoutSt) : (updSout k f s).spn = s.spn := rfl
@[simp] theorem updSout_cans (k : Nat) (f : SoutSt → SoutSt) : (updSout k f s).cans = s.cans := rfl
@[simp] theorem updSout_qsps (k : Nat) (f : SoutSt → SoutSt) : (updSout k f s).qsps = s.qsps := rfl
@[simp] theorem updSout_tru (k : Nat) (f : SoutSt → SoutSt) : (updSout k f s).tru = s.tru := rfl
@[simp] theorem updSout_tst (k : Nat) (f : SoutSt → SoutSt) : (updSout k f s).tst = s.tst := rfl
@[simp] theorem updSout_pwr (k : Nat) (f : SoutSt → SoutSt) : (updSout k f s).pwr = s.pwr := rfl

@[simp] theorem updLink_pending (k : Nat) (f : LinkSt → LinkSt) : (updLink k f s).pending = s.pending := rfl
@[simp] theorem updLink_variant (k : Nat) (f : LinkSt → LinkSt) : (updLink k f s).variant = s.variant := rfl
@[simp] theorem updLink_now (k : Nat) (f : LinkSt → LinkSt) : (updLink k f s).now = s.now := rfl
@[simp] theorem updLink_free (k : Nat) (f : LinkSt → LinkSt) : (updLink k f s).free = s.free := rfl
@[simp] theorem updLink_regs (k : Nat) (f : LinkSt → LinkSt) : (updLink k f s).regs = s.regs := rfl
@[simp] theorem updLink_shadow (k : Nat) (f : LinkSt → LinkSt) : (updLink k f s).shadow = s.shadow := rfl
@[simp] theorem updLink_live (k : Nat) (f : LinkSt → LinkSt) : (updLink k f s).live = s.live := rfl
@[simp] theorem updLink_act (k : Nat) (f : LinkSt → LinkSt) : (updLink k f s).act = s.act := rfl
@[simp] theorem updLink_toAct (k : Nat) (f : LinkSt → LinkSt) : (updLink k f s).toAct = s.toAct := rfl
@[simp] theorem updLink_mem (k : Nat) (f : LinkSt → LinkSt) : (updLink k f s).mem = s.mem := rfl
@[simp] theorem updLink_tcm (k : Nat) (f : LinkSt → LinkSt) : (updLink k f s).tcm = s.tcm := rfl
@[simp] theorem updLink_eccBad (k : Nat) (f : LinkSt → LinkSt) : (updLink k f s).eccBad = s.eccBad := rfl
@[simp] theorem updLink_observed (k : Nat) (f : LinkSt → LinkSt) : (updLink k f s).observed = s.observed := rfl
@[simp] theorem updLink_tick (k : Nat) (f : LinkSt → LinkSt) : (updLink k f s).tick = s.tick := rfl
@[simp] theorem updLink_units (k : Nat) (f : LinkSt → LinkSt) : (updLink k f s).units = s.units := rfl
@[simp] theorem updLink_col (k : Nat) (f : LinkSt → LinkSt) : (updLink k f s).col = s.col := rfl
@[simp] theorem updLink_prc (k : Nat) (f : LinkSt → LinkSt) : (updLink k f s).prc = s.prc := rfl
@[simp] theorem updLink_eng (k : Nat) (f : LinkSt → LinkSt) : (updLink k f s).eng = s.eng := rfl
@[simp] theorem updLink_legs (k : Nat) (f : LinkSt → LinkSt) : (updLink k f s).legs = s.legs := rfl
@[simp] theorem updLink_grps (k : Nat) (f : LinkSt → LinkSt) : (updLink k f s).grps = s.grps := rfl
@[simp] theorem updLink_cls (k : Nat) (f : LinkSt → LinkSt) : (updLink k f s).cls = s.cls := rfl
@[simp] theorem updLink_tbLost (k : Nat) (f : LinkSt → LinkSt) : (updLink k f s).tbLost = s.tbLost := rfl
@[simp] theorem updLink_engHalt (k : Nat) (f : LinkSt → LinkSt) : (updLink k f s).engHalt = s.engHalt := rfl
@[simp] theorem updLink_chans (k : Nat) (f : LinkSt → LinkSt) : (updLink k f s).chans = s.chans := rfl
@[simp] theorem updLink_clkLost (k : Nat) (f : LinkSt → LinkSt) : (updLink k f s).clkLost = s.clkLost := rfl
@[simp] theorem updLink_clkAt (k : Nat) (f : LinkSt → LinkSt) : (updLink k f s).clkAt = s.clkAt := rfl
@[simp] theorem updLink_cal (k : Nat) (f : LinkSt → LinkSt) : (updLink k f s).cal = s.cal := rfl
@[simp] theorem updLink_rel (k : Nat) (f : LinkSt → LinkSt) : (updLink k f s).rel = s.rel := rfl
@[simp] theorem updLink_sars (k : Nat) (f : LinkSt → LinkSt) : (updLink k f s).sars = s.sars := rfl
@[simp] theorem updLink_slots (k : Nat) (f : LinkSt → LinkSt) : (updLink k f s).slots = s.slots := rfl
@[simp] theorem updLink_refFrom (k : Nat) (f : LinkSt → LinkSt) : (updLink k f s).refFrom = s.refFrom := rfl
@[simp] theorem updLink_refAt (k : Nat) (f : LinkSt → LinkSt) : (updLink k f s).refAt = s.refAt := rfl
@[simp] theorem updLink_ports (k : Nat) (f : LinkSt → LinkSt) : (updLink k f s).ports = s.ports := rfl
@[simp] theorem updLink_cmps (k : Nat) (f : LinkSt → LinkSt) : (updLink k f s).cmps = s.cmps := rfl
@[simp] theorem updLink_ems (k : Nat) (f : LinkSt → LinkSt) : (updLink k f s).ems = s.ems := rfl
@[simp] theorem updLink_plss (k : Nat) (f : LinkSt → LinkSt) : (updLink k f s).plss = s.plss := rfl
@[simp] theorem updLink_saf (k : Nat) (f : LinkSt → LinkSt) : (updLink k f s).saf = s.saf := rfl
@[simp] theorem updLink_aux (k : Nat) (f : LinkSt → LinkSt) : (updLink k f s).aux = s.aux := rfl
@[simp] theorem updLink_cans (k : Nat) (f : LinkSt → LinkSt) : (updLink k f s).cans = s.cans := rfl
@[simp] theorem updLink_qsps (k : Nat) (f : LinkSt → LinkSt) : (updLink k f s).qsps = s.qsps := rfl
@[simp] theorem updLink_tru (k : Nat) (f : LinkSt → LinkSt) : (updLink k f s).tru = s.tru := rfl
@[simp] theorem updLink_tst (k : Nat) (f : LinkSt → LinkSt) : (updLink k f s).tst = s.tst := rfl
@[simp] theorem updLink_pwr (k : Nat) (f : LinkSt → LinkSt) : (updLink k f s).pwr = s.pwr := rfl

@[simp] theorem updMemb_pending (k : Nat) (f : MembSt → MembSt) : (updMemb k f s).pending = s.pending := rfl
@[simp] theorem updMemb_variant (k : Nat) (f : MembSt → MembSt) : (updMemb k f s).variant = s.variant := rfl
@[simp] theorem updMemb_now (k : Nat) (f : MembSt → MembSt) : (updMemb k f s).now = s.now := rfl
@[simp] theorem updMemb_free (k : Nat) (f : MembSt → MembSt) : (updMemb k f s).free = s.free := rfl
@[simp] theorem updMemb_regs (k : Nat) (f : MembSt → MembSt) : (updMemb k f s).regs = s.regs := rfl
@[simp] theorem updMemb_shadow (k : Nat) (f : MembSt → MembSt) : (updMemb k f s).shadow = s.shadow := rfl
@[simp] theorem updMemb_live (k : Nat) (f : MembSt → MembSt) : (updMemb k f s).live = s.live := rfl
@[simp] theorem updMemb_act (k : Nat) (f : MembSt → MembSt) : (updMemb k f s).act = s.act := rfl
@[simp] theorem updMemb_toAct (k : Nat) (f : MembSt → MembSt) : (updMemb k f s).toAct = s.toAct := rfl
@[simp] theorem updMemb_mem (k : Nat) (f : MembSt → MembSt) : (updMemb k f s).mem = s.mem := rfl
@[simp] theorem updMemb_tcm (k : Nat) (f : MembSt → MembSt) : (updMemb k f s).tcm = s.tcm := rfl
@[simp] theorem updMemb_eccBad (k : Nat) (f : MembSt → MembSt) : (updMemb k f s).eccBad = s.eccBad := rfl
@[simp] theorem updMemb_observed (k : Nat) (f : MembSt → MembSt) : (updMemb k f s).observed = s.observed := rfl
@[simp] theorem updMemb_tick (k : Nat) (f : MembSt → MembSt) : (updMemb k f s).tick = s.tick := rfl
@[simp] theorem updMemb_units (k : Nat) (f : MembSt → MembSt) : (updMemb k f s).units = s.units := rfl
@[simp] theorem updMemb_col (k : Nat) (f : MembSt → MembSt) : (updMemb k f s).col = s.col := rfl
@[simp] theorem updMemb_prc (k : Nat) (f : MembSt → MembSt) : (updMemb k f s).prc = s.prc := rfl
@[simp] theorem updMemb_eng (k : Nat) (f : MembSt → MembSt) : (updMemb k f s).eng = s.eng := rfl
@[simp] theorem updMemb_legs (k : Nat) (f : MembSt → MembSt) : (updMemb k f s).legs = s.legs := rfl
@[simp] theorem updMemb_grps (k : Nat) (f : MembSt → MembSt) : (updMemb k f s).grps = s.grps := rfl
@[simp] theorem updMemb_cls (k : Nat) (f : MembSt → MembSt) : (updMemb k f s).cls = s.cls := rfl
@[simp] theorem updMemb_tbLost (k : Nat) (f : MembSt → MembSt) : (updMemb k f s).tbLost = s.tbLost := rfl
@[simp] theorem updMemb_engHalt (k : Nat) (f : MembSt → MembSt) : (updMemb k f s).engHalt = s.engHalt := rfl
@[simp] theorem updMemb_chans (k : Nat) (f : MembSt → MembSt) : (updMemb k f s).chans = s.chans := rfl
@[simp] theorem updMemb_clkLost (k : Nat) (f : MembSt → MembSt) : (updMemb k f s).clkLost = s.clkLost := rfl
@[simp] theorem updMemb_clkAt (k : Nat) (f : MembSt → MembSt) : (updMemb k f s).clkAt = s.clkAt := rfl
@[simp] theorem updMemb_cal (k : Nat) (f : MembSt → MembSt) : (updMemb k f s).cal = s.cal := rfl
@[simp] theorem updMemb_rel (k : Nat) (f : MembSt → MembSt) : (updMemb k f s).rel = s.rel := rfl
@[simp] theorem updMemb_sars (k : Nat) (f : MembSt → MembSt) : (updMemb k f s).sars = s.sars := rfl
@[simp] theorem updMemb_slots (k : Nat) (f : MembSt → MembSt) : (updMemb k f s).slots = s.slots := rfl
@[simp] theorem updMemb_refFrom (k : Nat) (f : MembSt → MembSt) : (updMemb k f s).refFrom = s.refFrom := rfl
@[simp] theorem updMemb_refAt (k : Nat) (f : MembSt → MembSt) : (updMemb k f s).refAt = s.refAt := rfl
@[simp] theorem updMemb_ports (k : Nat) (f : MembSt → MembSt) : (updMemb k f s).ports = s.ports := rfl
@[simp] theorem updMemb_cmps (k : Nat) (f : MembSt → MembSt) : (updMemb k f s).cmps = s.cmps := rfl
@[simp] theorem updMemb_ems (k : Nat) (f : MembSt → MembSt) : (updMemb k f s).ems = s.ems := rfl
@[simp] theorem updMemb_plss (k : Nat) (f : MembSt → MembSt) : (updMemb k f s).plss = s.plss := rfl
@[simp] theorem updMemb_saf (k : Nat) (f : MembSt → MembSt) : (updMemb k f s).saf = s.saf := rfl
@[simp] theorem updMemb_aux (k : Nat) (f : MembSt → MembSt) : (updMemb k f s).aux = s.aux := rfl
@[simp] theorem updMemb_cans (k : Nat) (f : MembSt → MembSt) : (updMemb k f s).cans = s.cans := rfl
@[simp] theorem updMemb_qsps (k : Nat) (f : MembSt → MembSt) : (updMemb k f s).qsps = s.qsps := rfl
@[simp] theorem updMemb_tru (k : Nat) (f : MembSt → MembSt) : (updMemb k f s).tru = s.tru := rfl
@[simp] theorem updMemb_tst (k : Nat) (f : MembSt → MembSt) : (updMemb k f s).tst = s.tst := rfl
@[simp] theorem updMemb_pwr (k : Nat) (f : MembSt → MembSt) : (updMemb k f s).pwr = s.pwr := rfl

@[simp] theorem updSpq_pending (k : Nat) (f : QSt → QSt) : (updSpq k f s).pending = s.pending := rfl
@[simp] theorem updSpq_variant (k : Nat) (f : QSt → QSt) : (updSpq k f s).variant = s.variant := rfl
@[simp] theorem updSpq_now (k : Nat) (f : QSt → QSt) : (updSpq k f s).now = s.now := rfl
@[simp] theorem updSpq_free (k : Nat) (f : QSt → QSt) : (updSpq k f s).free = s.free := rfl
@[simp] theorem updSpq_regs (k : Nat) (f : QSt → QSt) : (updSpq k f s).regs = s.regs := rfl
@[simp] theorem updSpq_shadow (k : Nat) (f : QSt → QSt) : (updSpq k f s).shadow = s.shadow := rfl
@[simp] theorem updSpq_live (k : Nat) (f : QSt → QSt) : (updSpq k f s).live = s.live := rfl
@[simp] theorem updSpq_act (k : Nat) (f : QSt → QSt) : (updSpq k f s).act = s.act := rfl
@[simp] theorem updSpq_toAct (k : Nat) (f : QSt → QSt) : (updSpq k f s).toAct = s.toAct := rfl
@[simp] theorem updSpq_mem (k : Nat) (f : QSt → QSt) : (updSpq k f s).mem = s.mem := rfl
@[simp] theorem updSpq_tcm (k : Nat) (f : QSt → QSt) : (updSpq k f s).tcm = s.tcm := rfl
@[simp] theorem updSpq_eccBad (k : Nat) (f : QSt → QSt) : (updSpq k f s).eccBad = s.eccBad := rfl
@[simp] theorem updSpq_observed (k : Nat) (f : QSt → QSt) : (updSpq k f s).observed = s.observed := rfl
@[simp] theorem updSpq_tick (k : Nat) (f : QSt → QSt) : (updSpq k f s).tick = s.tick := rfl
@[simp] theorem updSpq_units (k : Nat) (f : QSt → QSt) : (updSpq k f s).units = s.units := rfl
@[simp] theorem updSpq_col (k : Nat) (f : QSt → QSt) : (updSpq k f s).col = s.col := rfl
@[simp] theorem updSpq_prc (k : Nat) (f : QSt → QSt) : (updSpq k f s).prc = s.prc := rfl
@[simp] theorem updSpq_eng (k : Nat) (f : QSt → QSt) : (updSpq k f s).eng = s.eng := rfl
@[simp] theorem updSpq_legs (k : Nat) (f : QSt → QSt) : (updSpq k f s).legs = s.legs := rfl
@[simp] theorem updSpq_grps (k : Nat) (f : QSt → QSt) : (updSpq k f s).grps = s.grps := rfl
@[simp] theorem updSpq_cls (k : Nat) (f : QSt → QSt) : (updSpq k f s).cls = s.cls := rfl
@[simp] theorem updSpq_tbLost (k : Nat) (f : QSt → QSt) : (updSpq k f s).tbLost = s.tbLost := rfl
@[simp] theorem updSpq_engHalt (k : Nat) (f : QSt → QSt) : (updSpq k f s).engHalt = s.engHalt := rfl
@[simp] theorem updSpq_chans (k : Nat) (f : QSt → QSt) : (updSpq k f s).chans = s.chans := rfl
@[simp] theorem updSpq_clkLost (k : Nat) (f : QSt → QSt) : (updSpq k f s).clkLost = s.clkLost := rfl
@[simp] theorem updSpq_clkAt (k : Nat) (f : QSt → QSt) : (updSpq k f s).clkAt = s.clkAt := rfl
@[simp] theorem updSpq_cal (k : Nat) (f : QSt → QSt) : (updSpq k f s).cal = s.cal := rfl
@[simp] theorem updSpq_rel (k : Nat) (f : QSt → QSt) : (updSpq k f s).rel = s.rel := rfl
@[simp] theorem updSpq_sars (k : Nat) (f : QSt → QSt) : (updSpq k f s).sars = s.sars := rfl
@[simp] theorem updSpq_slots (k : Nat) (f : QSt → QSt) : (updSpq k f s).slots = s.slots := rfl
@[simp] theorem updSpq_refFrom (k : Nat) (f : QSt → QSt) : (updSpq k f s).refFrom = s.refFrom := rfl
@[simp] theorem updSpq_refAt (k : Nat) (f : QSt → QSt) : (updSpq k f s).refAt = s.refAt := rfl
@[simp] theorem updSpq_ports (k : Nat) (f : QSt → QSt) : (updSpq k f s).ports = s.ports := rfl
@[simp] theorem updSpq_cmps (k : Nat) (f : QSt → QSt) : (updSpq k f s).cmps = s.cmps := rfl
@[simp] theorem updSpq_ems (k : Nat) (f : QSt → QSt) : (updSpq k f s).ems = s.ems := rfl
@[simp] theorem updSpq_plss (k : Nat) (f : QSt → QSt) : (updSpq k f s).plss = s.plss := rfl
@[simp] theorem updSpq_saf (k : Nat) (f : QSt → QSt) : (updSpq k f s).saf = s.saf := rfl
@[simp] theorem updSpq_aux (k : Nat) (f : QSt → QSt) : (updSpq k f s).aux = s.aux := rfl
@[simp] theorem updSpq_cans (k : Nat) (f : QSt → QSt) : (updSpq k f s).cans = s.cans := rfl
@[simp] theorem updSpq_qsps (k : Nat) (f : QSt → QSt) : (updSpq k f s).qsps = s.qsps := rfl
@[simp] theorem updSpq_tru (k : Nat) (f : QSt → QSt) : (updSpq k f s).tru = s.tru := rfl
@[simp] theorem updSpq_tst (k : Nat) (f : QSt → QSt) : (updSpq k f s).tst = s.tst := rfl
@[simp] theorem updSpq_pwr (k : Nat) (f : QSt → QSt) : (updSpq k f s).pwr = s.pwr := rfl

@[simp] theorem updCan_pending (k : Nat) (f : CanSt → CanSt) : (updCan k f s).pending = s.pending := rfl
@[simp] theorem updCan_variant (k : Nat) (f : CanSt → CanSt) : (updCan k f s).variant = s.variant := rfl
@[simp] theorem updCan_now (k : Nat) (f : CanSt → CanSt) : (updCan k f s).now = s.now := rfl
@[simp] theorem updCan_free (k : Nat) (f : CanSt → CanSt) : (updCan k f s).free = s.free := rfl
@[simp] theorem updCan_regs (k : Nat) (f : CanSt → CanSt) : (updCan k f s).regs = s.regs := rfl
@[simp] theorem updCan_shadow (k : Nat) (f : CanSt → CanSt) : (updCan k f s).shadow = s.shadow := rfl
@[simp] theorem updCan_live (k : Nat) (f : CanSt → CanSt) : (updCan k f s).live = s.live := rfl
@[simp] theorem updCan_act (k : Nat) (f : CanSt → CanSt) : (updCan k f s).act = s.act := rfl
@[simp] theorem updCan_toAct (k : Nat) (f : CanSt → CanSt) : (updCan k f s).toAct = s.toAct := rfl
@[simp] theorem updCan_mem (k : Nat) (f : CanSt → CanSt) : (updCan k f s).mem = s.mem := rfl
@[simp] theorem updCan_tcm (k : Nat) (f : CanSt → CanSt) : (updCan k f s).tcm = s.tcm := rfl
@[simp] theorem updCan_eccBad (k : Nat) (f : CanSt → CanSt) : (updCan k f s).eccBad = s.eccBad := rfl
@[simp] theorem updCan_observed (k : Nat) (f : CanSt → CanSt) : (updCan k f s).observed = s.observed := rfl
@[simp] theorem updCan_tick (k : Nat) (f : CanSt → CanSt) : (updCan k f s).tick = s.tick := rfl
@[simp] theorem updCan_units (k : Nat) (f : CanSt → CanSt) : (updCan k f s).units = s.units := rfl
@[simp] theorem updCan_col (k : Nat) (f : CanSt → CanSt) : (updCan k f s).col = s.col := rfl
@[simp] theorem updCan_prc (k : Nat) (f : CanSt → CanSt) : (updCan k f s).prc = s.prc := rfl
@[simp] theorem updCan_eng (k : Nat) (f : CanSt → CanSt) : (updCan k f s).eng = s.eng := rfl
@[simp] theorem updCan_legs (k : Nat) (f : CanSt → CanSt) : (updCan k f s).legs = s.legs := rfl
@[simp] theorem updCan_grps (k : Nat) (f : CanSt → CanSt) : (updCan k f s).grps = s.grps := rfl
@[simp] theorem updCan_cls (k : Nat) (f : CanSt → CanSt) : (updCan k f s).cls = s.cls := rfl
@[simp] theorem updCan_tbLost (k : Nat) (f : CanSt → CanSt) : (updCan k f s).tbLost = s.tbLost := rfl
@[simp] theorem updCan_engHalt (k : Nat) (f : CanSt → CanSt) : (updCan k f s).engHalt = s.engHalt := rfl
@[simp] theorem updCan_chans (k : Nat) (f : CanSt → CanSt) : (updCan k f s).chans = s.chans := rfl
@[simp] theorem updCan_clkLost (k : Nat) (f : CanSt → CanSt) : (updCan k f s).clkLost = s.clkLost := rfl
@[simp] theorem updCan_clkAt (k : Nat) (f : CanSt → CanSt) : (updCan k f s).clkAt = s.clkAt := rfl
@[simp] theorem updCan_cal (k : Nat) (f : CanSt → CanSt) : (updCan k f s).cal = s.cal := rfl
@[simp] theorem updCan_rel (k : Nat) (f : CanSt → CanSt) : (updCan k f s).rel = s.rel := rfl
@[simp] theorem updCan_sars (k : Nat) (f : CanSt → CanSt) : (updCan k f s).sars = s.sars := rfl
@[simp] theorem updCan_slots (k : Nat) (f : CanSt → CanSt) : (updCan k f s).slots = s.slots := rfl
@[simp] theorem updCan_refFrom (k : Nat) (f : CanSt → CanSt) : (updCan k f s).refFrom = s.refFrom := rfl
@[simp] theorem updCan_refAt (k : Nat) (f : CanSt → CanSt) : (updCan k f s).refAt = s.refAt := rfl
@[simp] theorem updCan_ports (k : Nat) (f : CanSt → CanSt) : (updCan k f s).ports = s.ports := rfl
@[simp] theorem updCan_cmps (k : Nat) (f : CanSt → CanSt) : (updCan k f s).cmps = s.cmps := rfl
@[simp] theorem updCan_ems (k : Nat) (f : CanSt → CanSt) : (updCan k f s).ems = s.ems := rfl
@[simp] theorem updCan_plss (k : Nat) (f : CanSt → CanSt) : (updCan k f s).plss = s.plss := rfl
@[simp] theorem updCan_saf (k : Nat) (f : CanSt → CanSt) : (updCan k f s).saf = s.saf := rfl
@[simp] theorem updCan_aux (k : Nat) (f : CanSt → CanSt) : (updCan k f s).aux = s.aux := rfl
@[simp] theorem updCan_spn (k : Nat) (f : CanSt → CanSt) : (updCan k f s).spn = s.spn := rfl
@[simp] theorem updCan_qsps (k : Nat) (f : CanSt → CanSt) : (updCan k f s).qsps = s.qsps := rfl
@[simp] theorem updCan_tru (k : Nat) (f : CanSt → CanSt) : (updCan k f s).tru = s.tru := rfl
@[simp] theorem updCan_tst (k : Nat) (f : CanSt → CanSt) : (updCan k f s).tst = s.tst := rfl
@[simp] theorem updCan_pwr (k : Nat) (f : CanSt → CanSt) : (updCan k f s).pwr = s.pwr := rfl

@[simp] theorem updQsp_pending (k : Nat) (f : QspSt → QspSt) : (updQsp k f s).pending = s.pending := rfl
@[simp] theorem updQsp_variant (k : Nat) (f : QspSt → QspSt) : (updQsp k f s).variant = s.variant := rfl
@[simp] theorem updQsp_now (k : Nat) (f : QspSt → QspSt) : (updQsp k f s).now = s.now := rfl
@[simp] theorem updQsp_free (k : Nat) (f : QspSt → QspSt) : (updQsp k f s).free = s.free := rfl
@[simp] theorem updQsp_regs (k : Nat) (f : QspSt → QspSt) : (updQsp k f s).regs = s.regs := rfl
@[simp] theorem updQsp_shadow (k : Nat) (f : QspSt → QspSt) : (updQsp k f s).shadow = s.shadow := rfl
@[simp] theorem updQsp_live (k : Nat) (f : QspSt → QspSt) : (updQsp k f s).live = s.live := rfl
@[simp] theorem updQsp_act (k : Nat) (f : QspSt → QspSt) : (updQsp k f s).act = s.act := rfl
@[simp] theorem updQsp_toAct (k : Nat) (f : QspSt → QspSt) : (updQsp k f s).toAct = s.toAct := rfl
@[simp] theorem updQsp_mem (k : Nat) (f : QspSt → QspSt) : (updQsp k f s).mem = s.mem := rfl
@[simp] theorem updQsp_tcm (k : Nat) (f : QspSt → QspSt) : (updQsp k f s).tcm = s.tcm := rfl
@[simp] theorem updQsp_eccBad (k : Nat) (f : QspSt → QspSt) : (updQsp k f s).eccBad = s.eccBad := rfl
@[simp] theorem updQsp_observed (k : Nat) (f : QspSt → QspSt) : (updQsp k f s).observed = s.observed := rfl
@[simp] theorem updQsp_tick (k : Nat) (f : QspSt → QspSt) : (updQsp k f s).tick = s.tick := rfl
@[simp] theorem updQsp_units (k : Nat) (f : QspSt → QspSt) : (updQsp k f s).units = s.units := rfl
@[simp] theorem updQsp_col (k : Nat) (f : QspSt → QspSt) : (updQsp k f s).col = s.col := rfl
@[simp] theorem updQsp_prc (k : Nat) (f : QspSt → QspSt) : (updQsp k f s).prc = s.prc := rfl
@[simp] theorem updQsp_eng (k : Nat) (f : QspSt → QspSt) : (updQsp k f s).eng = s.eng := rfl
@[simp] theorem updQsp_legs (k : Nat) (f : QspSt → QspSt) : (updQsp k f s).legs = s.legs := rfl
@[simp] theorem updQsp_grps (k : Nat) (f : QspSt → QspSt) : (updQsp k f s).grps = s.grps := rfl
@[simp] theorem updQsp_cls (k : Nat) (f : QspSt → QspSt) : (updQsp k f s).cls = s.cls := rfl
@[simp] theorem updQsp_tbLost (k : Nat) (f : QspSt → QspSt) : (updQsp k f s).tbLost = s.tbLost := rfl
@[simp] theorem updQsp_engHalt (k : Nat) (f : QspSt → QspSt) : (updQsp k f s).engHalt = s.engHalt := rfl
@[simp] theorem updQsp_chans (k : Nat) (f : QspSt → QspSt) : (updQsp k f s).chans = s.chans := rfl
@[simp] theorem updQsp_clkLost (k : Nat) (f : QspSt → QspSt) : (updQsp k f s).clkLost = s.clkLost := rfl
@[simp] theorem updQsp_clkAt (k : Nat) (f : QspSt → QspSt) : (updQsp k f s).clkAt = s.clkAt := rfl
@[simp] theorem updQsp_cal (k : Nat) (f : QspSt → QspSt) : (updQsp k f s).cal = s.cal := rfl
@[simp] theorem updQsp_rel (k : Nat) (f : QspSt → QspSt) : (updQsp k f s).rel = s.rel := rfl
@[simp] theorem updQsp_sars (k : Nat) (f : QspSt → QspSt) : (updQsp k f s).sars = s.sars := rfl
@[simp] theorem updQsp_slots (k : Nat) (f : QspSt → QspSt) : (updQsp k f s).slots = s.slots := rfl
@[simp] theorem updQsp_refFrom (k : Nat) (f : QspSt → QspSt) : (updQsp k f s).refFrom = s.refFrom := rfl
@[simp] theorem updQsp_refAt (k : Nat) (f : QspSt → QspSt) : (updQsp k f s).refAt = s.refAt := rfl
@[simp] theorem updQsp_ports (k : Nat) (f : QspSt → QspSt) : (updQsp k f s).ports = s.ports := rfl
@[simp] theorem updQsp_cmps (k : Nat) (f : QspSt → QspSt) : (updQsp k f s).cmps = s.cmps := rfl
@[simp] theorem updQsp_ems (k : Nat) (f : QspSt → QspSt) : (updQsp k f s).ems = s.ems := rfl
@[simp] theorem updQsp_plss (k : Nat) (f : QspSt → QspSt) : (updQsp k f s).plss = s.plss := rfl
@[simp] theorem updQsp_saf (k : Nat) (f : QspSt → QspSt) : (updQsp k f s).saf = s.saf := rfl
@[simp] theorem updQsp_aux (k : Nat) (f : QspSt → QspSt) : (updQsp k f s).aux = s.aux := rfl
@[simp] theorem updQsp_spn (k : Nat) (f : QspSt → QspSt) : (updQsp k f s).spn = s.spn := rfl
@[simp] theorem updQsp_cans (k : Nat) (f : QspSt → QspSt) : (updQsp k f s).cans = s.cans := rfl
@[simp] theorem updQsp_tru (k : Nat) (f : QspSt → QspSt) : (updQsp k f s).tru = s.tru := rfl
@[simp] theorem updQsp_tst (k : Nat) (f : QspSt → QspSt) : (updQsp k f s).tst = s.tst := rfl
@[simp] theorem updQsp_pwr (k : Nat) (f : QspSt → QspSt) : (updQsp k f s).pwr = s.pwr := rfl

@[simp] theorem updTick_pending (f : TickSt → TickSt) : (updTick f s).pending = s.pending := rfl
@[simp] theorem updTick_variant (f : TickSt → TickSt) : (updTick f s).variant = s.variant := rfl
@[simp] theorem updTick_now (f : TickSt → TickSt) : (updTick f s).now = s.now := rfl
@[simp] theorem updTick_free (f : TickSt → TickSt) : (updTick f s).free = s.free := rfl
@[simp] theorem updTick_regs (f : TickSt → TickSt) : (updTick f s).regs = s.regs := rfl
@[simp] theorem updTick_shadow (f : TickSt → TickSt) : (updTick f s).shadow = s.shadow := rfl
@[simp] theorem updTick_live (f : TickSt → TickSt) : (updTick f s).live = s.live := rfl
@[simp] theorem updTick_act (f : TickSt → TickSt) : (updTick f s).act = s.act := rfl
@[simp] theorem updTick_toAct (f : TickSt → TickSt) : (updTick f s).toAct = s.toAct := rfl
@[simp] theorem updTick_mem (f : TickSt → TickSt) : (updTick f s).mem = s.mem := rfl
@[simp] theorem updTick_tcm (f : TickSt → TickSt) : (updTick f s).tcm = s.tcm := rfl
@[simp] theorem updTick_eccBad (f : TickSt → TickSt) : (updTick f s).eccBad = s.eccBad := rfl
@[simp] theorem updTick_observed (f : TickSt → TickSt) : (updTick f s).observed = s.observed := rfl
@[simp] theorem updTick_units (f : TickSt → TickSt) : (updTick f s).units = s.units := rfl
@[simp] theorem updTick_col (f : TickSt → TickSt) : (updTick f s).col = s.col := rfl
@[simp] theorem updTick_prc (f : TickSt → TickSt) : (updTick f s).prc = s.prc := rfl
@[simp] theorem updTick_eng (f : TickSt → TickSt) : (updTick f s).eng = s.eng := rfl
@[simp] theorem updTick_legs (f : TickSt → TickSt) : (updTick f s).legs = s.legs := rfl
@[simp] theorem updTick_grps (f : TickSt → TickSt) : (updTick f s).grps = s.grps := rfl
@[simp] theorem updTick_cls (f : TickSt → TickSt) : (updTick f s).cls = s.cls := rfl
@[simp] theorem updTick_tbLost (f : TickSt → TickSt) : (updTick f s).tbLost = s.tbLost := rfl
@[simp] theorem updTick_engHalt (f : TickSt → TickSt) : (updTick f s).engHalt = s.engHalt := rfl
@[simp] theorem updTick_chans (f : TickSt → TickSt) : (updTick f s).chans = s.chans := rfl
@[simp] theorem updTick_clkLost (f : TickSt → TickSt) : (updTick f s).clkLost = s.clkLost := rfl
@[simp] theorem updTick_clkAt (f : TickSt → TickSt) : (updTick f s).clkAt = s.clkAt := rfl
@[simp] theorem updTick_cal (f : TickSt → TickSt) : (updTick f s).cal = s.cal := rfl
@[simp] theorem updTick_rel (f : TickSt → TickSt) : (updTick f s).rel = s.rel := rfl
@[simp] theorem updTick_sars (f : TickSt → TickSt) : (updTick f s).sars = s.sars := rfl
@[simp] theorem updTick_slots (f : TickSt → TickSt) : (updTick f s).slots = s.slots := rfl
@[simp] theorem updTick_refFrom (f : TickSt → TickSt) : (updTick f s).refFrom = s.refFrom := rfl
@[simp] theorem updTick_refAt (f : TickSt → TickSt) : (updTick f s).refAt = s.refAt := rfl
@[simp] theorem updTick_ports (f : TickSt → TickSt) : (updTick f s).ports = s.ports := rfl
@[simp] theorem updTick_cmps (f : TickSt → TickSt) : (updTick f s).cmps = s.cmps := rfl
@[simp] theorem updTick_ems (f : TickSt → TickSt) : (updTick f s).ems = s.ems := rfl
@[simp] theorem updTick_plss (f : TickSt → TickSt) : (updTick f s).plss = s.plss := rfl
@[simp] theorem updTick_saf (f : TickSt → TickSt) : (updTick f s).saf = s.saf := rfl
@[simp] theorem updTick_aux (f : TickSt → TickSt) : (updTick f s).aux = s.aux := rfl
@[simp] theorem updTick_spn (f : TickSt → TickSt) : (updTick f s).spn = s.spn := rfl
@[simp] theorem updTick_cans (f : TickSt → TickSt) : (updTick f s).cans = s.cans := rfl
@[simp] theorem updTick_qsps (f : TickSt → TickSt) : (updTick f s).qsps = s.qsps := rfl
@[simp] theorem updTick_tru (f : TickSt → TickSt) : (updTick f s).tru = s.tru := rfl
@[simp] theorem updTick_tst (f : TickSt → TickSt) : (updTick f s).tst = s.tst := rfl
@[simp] theorem updTick_pwr (f : TickSt → TickSt) : (updTick f s).pwr = s.pwr := rfl

@[simp] theorem updPrc_pending (f : PrcSt → PrcSt) : (updPrc f s).pending = s.pending := rfl
@[simp] theorem updPrc_variant (f : PrcSt → PrcSt) : (updPrc f s).variant = s.variant := rfl
@[simp] theorem updPrc_now (f : PrcSt → PrcSt) : (updPrc f s).now = s.now := rfl
@[simp] theorem updPrc_free (f : PrcSt → PrcSt) : (updPrc f s).free = s.free := rfl
@[simp] theorem updPrc_regs (f : PrcSt → PrcSt) : (updPrc f s).regs = s.regs := rfl
@[simp] theorem updPrc_shadow (f : PrcSt → PrcSt) : (updPrc f s).shadow = s.shadow := rfl
@[simp] theorem updPrc_live (f : PrcSt → PrcSt) : (updPrc f s).live = s.live := rfl
@[simp] theorem updPrc_act (f : PrcSt → PrcSt) : (updPrc f s).act = s.act := rfl
@[simp] theorem updPrc_toAct (f : PrcSt → PrcSt) : (updPrc f s).toAct = s.toAct := rfl
@[simp] theorem updPrc_mem (f : PrcSt → PrcSt) : (updPrc f s).mem = s.mem := rfl
@[simp] theorem updPrc_tcm (f : PrcSt → PrcSt) : (updPrc f s).tcm = s.tcm := rfl
@[simp] theorem updPrc_eccBad (f : PrcSt → PrcSt) : (updPrc f s).eccBad = s.eccBad := rfl
@[simp] theorem updPrc_observed (f : PrcSt → PrcSt) : (updPrc f s).observed = s.observed := rfl
@[simp] theorem updPrc_tick (f : PrcSt → PrcSt) : (updPrc f s).tick = s.tick := rfl
@[simp] theorem updPrc_units (f : PrcSt → PrcSt) : (updPrc f s).units = s.units := rfl
@[simp] theorem updPrc_col (f : PrcSt → PrcSt) : (updPrc f s).col = s.col := rfl
@[simp] theorem updPrc_eng (f : PrcSt → PrcSt) : (updPrc f s).eng = s.eng := rfl
@[simp] theorem updPrc_legs (f : PrcSt → PrcSt) : (updPrc f s).legs = s.legs := rfl
@[simp] theorem updPrc_grps (f : PrcSt → PrcSt) : (updPrc f s).grps = s.grps := rfl
@[simp] theorem updPrc_cls (f : PrcSt → PrcSt) : (updPrc f s).cls = s.cls := rfl
@[simp] theorem updPrc_tbLost (f : PrcSt → PrcSt) : (updPrc f s).tbLost = s.tbLost := rfl
@[simp] theorem updPrc_engHalt (f : PrcSt → PrcSt) : (updPrc f s).engHalt = s.engHalt := rfl
@[simp] theorem updPrc_chans (f : PrcSt → PrcSt) : (updPrc f s).chans = s.chans := rfl
@[simp] theorem updPrc_clkLost (f : PrcSt → PrcSt) : (updPrc f s).clkLost = s.clkLost := rfl
@[simp] theorem updPrc_clkAt (f : PrcSt → PrcSt) : (updPrc f s).clkAt = s.clkAt := rfl
@[simp] theorem updPrc_cal (f : PrcSt → PrcSt) : (updPrc f s).cal = s.cal := rfl
@[simp] theorem updPrc_rel (f : PrcSt → PrcSt) : (updPrc f s).rel = s.rel := rfl
@[simp] theorem updPrc_sars (f : PrcSt → PrcSt) : (updPrc f s).sars = s.sars := rfl
@[simp] theorem updPrc_slots (f : PrcSt → PrcSt) : (updPrc f s).slots = s.slots := rfl
@[simp] theorem updPrc_refFrom (f : PrcSt → PrcSt) : (updPrc f s).refFrom = s.refFrom := rfl
@[simp] theorem updPrc_refAt (f : PrcSt → PrcSt) : (updPrc f s).refAt = s.refAt := rfl
@[simp] theorem updPrc_ports (f : PrcSt → PrcSt) : (updPrc f s).ports = s.ports := rfl
@[simp] theorem updPrc_cmps (f : PrcSt → PrcSt) : (updPrc f s).cmps = s.cmps := rfl
@[simp] theorem updPrc_ems (f : PrcSt → PrcSt) : (updPrc f s).ems = s.ems := rfl
@[simp] theorem updPrc_plss (f : PrcSt → PrcSt) : (updPrc f s).plss = s.plss := rfl
@[simp] theorem updPrc_saf (f : PrcSt → PrcSt) : (updPrc f s).saf = s.saf := rfl
@[simp] theorem updPrc_aux (f : PrcSt → PrcSt) : (updPrc f s).aux = s.aux := rfl
@[simp] theorem updPrc_spn (f : PrcSt → PrcSt) : (updPrc f s).spn = s.spn := rfl
@[simp] theorem updPrc_cans (f : PrcSt → PrcSt) : (updPrc f s).cans = s.cans := rfl
@[simp] theorem updPrc_qsps (f : PrcSt → PrcSt) : (updPrc f s).qsps = s.qsps := rfl
@[simp] theorem updPrc_tru (f : PrcSt → PrcSt) : (updPrc f s).tru = s.tru := rfl
@[simp] theorem updPrc_tst (f : PrcSt → PrcSt) : (updPrc f s).tst = s.tst := rfl
@[simp] theorem updPrc_pwr (f : PrcSt → PrcSt) : (updPrc f s).pwr = s.pwr := rfl

@[simp] theorem updEng_pending (f : EngSt → EngSt) : (updEng f s).pending = s.pending := rfl
@[simp] theorem updEng_variant (f : EngSt → EngSt) : (updEng f s).variant = s.variant := rfl
@[simp] theorem updEng_now (f : EngSt → EngSt) : (updEng f s).now = s.now := rfl
@[simp] theorem updEng_free (f : EngSt → EngSt) : (updEng f s).free = s.free := rfl
@[simp] theorem updEng_regs (f : EngSt → EngSt) : (updEng f s).regs = s.regs := rfl
@[simp] theorem updEng_shadow (f : EngSt → EngSt) : (updEng f s).shadow = s.shadow := rfl
@[simp] theorem updEng_live (f : EngSt → EngSt) : (updEng f s).live = s.live := rfl
@[simp] theorem updEng_act (f : EngSt → EngSt) : (updEng f s).act = s.act := rfl
@[simp] theorem updEng_toAct (f : EngSt → EngSt) : (updEng f s).toAct = s.toAct := rfl
@[simp] theorem updEng_mem (f : EngSt → EngSt) : (updEng f s).mem = s.mem := rfl
@[simp] theorem updEng_tcm (f : EngSt → EngSt) : (updEng f s).tcm = s.tcm := rfl
@[simp] theorem updEng_eccBad (f : EngSt → EngSt) : (updEng f s).eccBad = s.eccBad := rfl
@[simp] theorem updEng_observed (f : EngSt → EngSt) : (updEng f s).observed = s.observed := rfl
@[simp] theorem updEng_tick (f : EngSt → EngSt) : (updEng f s).tick = s.tick := rfl
@[simp] theorem updEng_units (f : EngSt → EngSt) : (updEng f s).units = s.units := rfl
@[simp] theorem updEng_col (f : EngSt → EngSt) : (updEng f s).col = s.col := rfl
@[simp] theorem updEng_prc (f : EngSt → EngSt) : (updEng f s).prc = s.prc := rfl
@[simp] theorem updEng_legs (f : EngSt → EngSt) : (updEng f s).legs = s.legs := rfl
@[simp] theorem updEng_grps (f : EngSt → EngSt) : (updEng f s).grps = s.grps := rfl
@[simp] theorem updEng_cls (f : EngSt → EngSt) : (updEng f s).cls = s.cls := rfl
@[simp] theorem updEng_tbLost (f : EngSt → EngSt) : (updEng f s).tbLost = s.tbLost := rfl
@[simp] theorem updEng_engHalt (f : EngSt → EngSt) : (updEng f s).engHalt = s.engHalt := rfl
@[simp] theorem updEng_chans (f : EngSt → EngSt) : (updEng f s).chans = s.chans := rfl
@[simp] theorem updEng_clkLost (f : EngSt → EngSt) : (updEng f s).clkLost = s.clkLost := rfl
@[simp] theorem updEng_clkAt (f : EngSt → EngSt) : (updEng f s).clkAt = s.clkAt := rfl
@[simp] theorem updEng_cal (f : EngSt → EngSt) : (updEng f s).cal = s.cal := rfl
@[simp] theorem updEng_rel (f : EngSt → EngSt) : (updEng f s).rel = s.rel := rfl
@[simp] theorem updEng_sars (f : EngSt → EngSt) : (updEng f s).sars = s.sars := rfl
@[simp] theorem updEng_slots (f : EngSt → EngSt) : (updEng f s).slots = s.slots := rfl
@[simp] theorem updEng_refFrom (f : EngSt → EngSt) : (updEng f s).refFrom = s.refFrom := rfl
@[simp] theorem updEng_refAt (f : EngSt → EngSt) : (updEng f s).refAt = s.refAt := rfl
@[simp] theorem updEng_ports (f : EngSt → EngSt) : (updEng f s).ports = s.ports := rfl
@[simp] theorem updEng_cmps (f : EngSt → EngSt) : (updEng f s).cmps = s.cmps := rfl
@[simp] theorem updEng_ems (f : EngSt → EngSt) : (updEng f s).ems = s.ems := rfl
@[simp] theorem updEng_plss (f : EngSt → EngSt) : (updEng f s).plss = s.plss := rfl
@[simp] theorem updEng_saf (f : EngSt → EngSt) : (updEng f s).saf = s.saf := rfl
@[simp] theorem updEng_aux (f : EngSt → EngSt) : (updEng f s).aux = s.aux := rfl
@[simp] theorem updEng_spn (f : EngSt → EngSt) : (updEng f s).spn = s.spn := rfl
@[simp] theorem updEng_cans (f : EngSt → EngSt) : (updEng f s).cans = s.cans := rfl
@[simp] theorem updEng_qsps (f : EngSt → EngSt) : (updEng f s).qsps = s.qsps := rfl
@[simp] theorem updEng_tru (f : EngSt → EngSt) : (updEng f s).tru = s.tru := rfl
@[simp] theorem updEng_tst (f : EngSt → EngSt) : (updEng f s).tst = s.tst := rfl
@[simp] theorem updEng_pwr (f : EngSt → EngSt) : (updEng f s).pwr = s.pwr := rfl

@[simp] theorem updSaf_pending (f : SafSt → SafSt) : (updSaf f s).pending = s.pending := rfl
@[simp] theorem updSaf_variant (f : SafSt → SafSt) : (updSaf f s).variant = s.variant := rfl
@[simp] theorem updSaf_now (f : SafSt → SafSt) : (updSaf f s).now = s.now := rfl
@[simp] theorem updSaf_free (f : SafSt → SafSt) : (updSaf f s).free = s.free := rfl
@[simp] theorem updSaf_regs (f : SafSt → SafSt) : (updSaf f s).regs = s.regs := rfl
@[simp] theorem updSaf_shadow (f : SafSt → SafSt) : (updSaf f s).shadow = s.shadow := rfl
@[simp] theorem updSaf_live (f : SafSt → SafSt) : (updSaf f s).live = s.live := rfl
@[simp] theorem updSaf_act (f : SafSt → SafSt) : (updSaf f s).act = s.act := rfl
@[simp] theorem updSaf_toAct (f : SafSt → SafSt) : (updSaf f s).toAct = s.toAct := rfl
@[simp] theorem updSaf_mem (f : SafSt → SafSt) : (updSaf f s).mem = s.mem := rfl
@[simp] theorem updSaf_tcm (f : SafSt → SafSt) : (updSaf f s).tcm = s.tcm := rfl
@[simp] theorem updSaf_eccBad (f : SafSt → SafSt) : (updSaf f s).eccBad = s.eccBad := rfl
@[simp] theorem updSaf_observed (f : SafSt → SafSt) : (updSaf f s).observed = s.observed := rfl
@[simp] theorem updSaf_tick (f : SafSt → SafSt) : (updSaf f s).tick = s.tick := rfl
@[simp] theorem updSaf_units (f : SafSt → SafSt) : (updSaf f s).units = s.units := rfl
@[simp] theorem updSaf_col (f : SafSt → SafSt) : (updSaf f s).col = s.col := rfl
@[simp] theorem updSaf_prc (f : SafSt → SafSt) : (updSaf f s).prc = s.prc := rfl
@[simp] theorem updSaf_eng (f : SafSt → SafSt) : (updSaf f s).eng = s.eng := rfl
@[simp] theorem updSaf_legs (f : SafSt → SafSt) : (updSaf f s).legs = s.legs := rfl
@[simp] theorem updSaf_grps (f : SafSt → SafSt) : (updSaf f s).grps = s.grps := rfl
@[simp] theorem updSaf_cls (f : SafSt → SafSt) : (updSaf f s).cls = s.cls := rfl
@[simp] theorem updSaf_tbLost (f : SafSt → SafSt) : (updSaf f s).tbLost = s.tbLost := rfl
@[simp] theorem updSaf_engHalt (f : SafSt → SafSt) : (updSaf f s).engHalt = s.engHalt := rfl
@[simp] theorem updSaf_chans (f : SafSt → SafSt) : (updSaf f s).chans = s.chans := rfl
@[simp] theorem updSaf_clkLost (f : SafSt → SafSt) : (updSaf f s).clkLost = s.clkLost := rfl
@[simp] theorem updSaf_clkAt (f : SafSt → SafSt) : (updSaf f s).clkAt = s.clkAt := rfl
@[simp] theorem updSaf_cal (f : SafSt → SafSt) : (updSaf f s).cal = s.cal := rfl
@[simp] theorem updSaf_rel (f : SafSt → SafSt) : (updSaf f s).rel = s.rel := rfl
@[simp] theorem updSaf_sars (f : SafSt → SafSt) : (updSaf f s).sars = s.sars := rfl
@[simp] theorem updSaf_slots (f : SafSt → SafSt) : (updSaf f s).slots = s.slots := rfl
@[simp] theorem updSaf_refFrom (f : SafSt → SafSt) : (updSaf f s).refFrom = s.refFrom := rfl
@[simp] theorem updSaf_refAt (f : SafSt → SafSt) : (updSaf f s).refAt = s.refAt := rfl
@[simp] theorem updSaf_ports (f : SafSt → SafSt) : (updSaf f s).ports = s.ports := rfl
@[simp] theorem updSaf_cmps (f : SafSt → SafSt) : (updSaf f s).cmps = s.cmps := rfl
@[simp] theorem updSaf_ems (f : SafSt → SafSt) : (updSaf f s).ems = s.ems := rfl
@[simp] theorem updSaf_plss (f : SafSt → SafSt) : (updSaf f s).plss = s.plss := rfl
@[simp] theorem updSaf_aux (f : SafSt → SafSt) : (updSaf f s).aux = s.aux := rfl
@[simp] theorem updSaf_spn (f : SafSt → SafSt) : (updSaf f s).spn = s.spn := rfl
@[simp] theorem updSaf_cans (f : SafSt → SafSt) : (updSaf f s).cans = s.cans := rfl
@[simp] theorem updSaf_qsps (f : SafSt → SafSt) : (updSaf f s).qsps = s.qsps := rfl
@[simp] theorem updSaf_tru (f : SafSt → SafSt) : (updSaf f s).tru = s.tru := rfl
@[simp] theorem updSaf_tst (f : SafSt → SafSt) : (updSaf f s).tst = s.tst := rfl
@[simp] theorem updSaf_pwr (f : SafSt → SafSt) : (updSaf f s).pwr = s.pwr := rfl

@[simp] theorem updSpn_pending (f : SpnSt → SpnSt) : (updSpn f s).pending = s.pending := rfl
@[simp] theorem updSpn_variant (f : SpnSt → SpnSt) : (updSpn f s).variant = s.variant := rfl
@[simp] theorem updSpn_now (f : SpnSt → SpnSt) : (updSpn f s).now = s.now := rfl
@[simp] theorem updSpn_free (f : SpnSt → SpnSt) : (updSpn f s).free = s.free := rfl
@[simp] theorem updSpn_regs (f : SpnSt → SpnSt) : (updSpn f s).regs = s.regs := rfl
@[simp] theorem updSpn_shadow (f : SpnSt → SpnSt) : (updSpn f s).shadow = s.shadow := rfl
@[simp] theorem updSpn_live (f : SpnSt → SpnSt) : (updSpn f s).live = s.live := rfl
@[simp] theorem updSpn_act (f : SpnSt → SpnSt) : (updSpn f s).act = s.act := rfl
@[simp] theorem updSpn_toAct (f : SpnSt → SpnSt) : (updSpn f s).toAct = s.toAct := rfl
@[simp] theorem updSpn_mem (f : SpnSt → SpnSt) : (updSpn f s).mem = s.mem := rfl
@[simp] theorem updSpn_tcm (f : SpnSt → SpnSt) : (updSpn f s).tcm = s.tcm := rfl
@[simp] theorem updSpn_eccBad (f : SpnSt → SpnSt) : (updSpn f s).eccBad = s.eccBad := rfl
@[simp] theorem updSpn_observed (f : SpnSt → SpnSt) : (updSpn f s).observed = s.observed := rfl
@[simp] theorem updSpn_tick (f : SpnSt → SpnSt) : (updSpn f s).tick = s.tick := rfl
@[simp] theorem updSpn_units (f : SpnSt → SpnSt) : (updSpn f s).units = s.units := rfl
@[simp] theorem updSpn_col (f : SpnSt → SpnSt) : (updSpn f s).col = s.col := rfl
@[simp] theorem updSpn_prc (f : SpnSt → SpnSt) : (updSpn f s).prc = s.prc := rfl
@[simp] theorem updSpn_eng (f : SpnSt → SpnSt) : (updSpn f s).eng = s.eng := rfl
@[simp] theorem updSpn_legs (f : SpnSt → SpnSt) : (updSpn f s).legs = s.legs := rfl
@[simp] theorem updSpn_grps (f : SpnSt → SpnSt) : (updSpn f s).grps = s.grps := rfl
@[simp] theorem updSpn_cls (f : SpnSt → SpnSt) : (updSpn f s).cls = s.cls := rfl
@[simp] theorem updSpn_tbLost (f : SpnSt → SpnSt) : (updSpn f s).tbLost = s.tbLost := rfl
@[simp] theorem updSpn_engHalt (f : SpnSt → SpnSt) : (updSpn f s).engHalt = s.engHalt := rfl
@[simp] theorem updSpn_chans (f : SpnSt → SpnSt) : (updSpn f s).chans = s.chans := rfl
@[simp] theorem updSpn_clkLost (f : SpnSt → SpnSt) : (updSpn f s).clkLost = s.clkLost := rfl
@[simp] theorem updSpn_clkAt (f : SpnSt → SpnSt) : (updSpn f s).clkAt = s.clkAt := rfl
@[simp] theorem updSpn_cal (f : SpnSt → SpnSt) : (updSpn f s).cal = s.cal := rfl
@[simp] theorem updSpn_rel (f : SpnSt → SpnSt) : (updSpn f s).rel = s.rel := rfl
@[simp] theorem updSpn_sars (f : SpnSt → SpnSt) : (updSpn f s).sars = s.sars := rfl
@[simp] theorem updSpn_slots (f : SpnSt → SpnSt) : (updSpn f s).slots = s.slots := rfl
@[simp] theorem updSpn_refFrom (f : SpnSt → SpnSt) : (updSpn f s).refFrom = s.refFrom := rfl
@[simp] theorem updSpn_refAt (f : SpnSt → SpnSt) : (updSpn f s).refAt = s.refAt := rfl
@[simp] theorem updSpn_ports (f : SpnSt → SpnSt) : (updSpn f s).ports = s.ports := rfl
@[simp] theorem updSpn_cmps (f : SpnSt → SpnSt) : (updSpn f s).cmps = s.cmps := rfl
@[simp] theorem updSpn_ems (f : SpnSt → SpnSt) : (updSpn f s).ems = s.ems := rfl
@[simp] theorem updSpn_plss (f : SpnSt → SpnSt) : (updSpn f s).plss = s.plss := rfl
@[simp] theorem updSpn_saf (f : SpnSt → SpnSt) : (updSpn f s).saf = s.saf := rfl
@[simp] theorem updSpn_aux (f : SpnSt → SpnSt) : (updSpn f s).aux = s.aux := rfl
@[simp] theorem updSpn_cans (f : SpnSt → SpnSt) : (updSpn f s).cans = s.cans := rfl
@[simp] theorem updSpn_qsps (f : SpnSt → SpnSt) : (updSpn f s).qsps = s.qsps := rfl
@[simp] theorem updSpn_tru (f : SpnSt → SpnSt) : (updSpn f s).tru = s.tru := rfl
@[simp] theorem updSpn_tst (f : SpnSt → SpnSt) : (updSpn f s).tst = s.tst := rfl
@[simp] theorem updSpn_pwr (f : SpnSt → SpnSt) : (updSpn f s).pwr = s.pwr := rfl

@[simp] theorem updTru_pending (f : TruSt → TruSt) : (updTru f s).pending = s.pending := rfl
@[simp] theorem updTru_variant (f : TruSt → TruSt) : (updTru f s).variant = s.variant := rfl
@[simp] theorem updTru_now (f : TruSt → TruSt) : (updTru f s).now = s.now := rfl
@[simp] theorem updTru_free (f : TruSt → TruSt) : (updTru f s).free = s.free := rfl
@[simp] theorem updTru_regs (f : TruSt → TruSt) : (updTru f s).regs = s.regs := rfl
@[simp] theorem updTru_shadow (f : TruSt → TruSt) : (updTru f s).shadow = s.shadow := rfl
@[simp] theorem updTru_live (f : TruSt → TruSt) : (updTru f s).live = s.live := rfl
@[simp] theorem updTru_act (f : TruSt → TruSt) : (updTru f s).act = s.act := rfl
@[simp] theorem updTru_toAct (f : TruSt → TruSt) : (updTru f s).toAct = s.toAct := rfl
@[simp] theorem updTru_mem (f : TruSt → TruSt) : (updTru f s).mem = s.mem := rfl
@[simp] theorem updTru_tcm (f : TruSt → TruSt) : (updTru f s).tcm = s.tcm := rfl
@[simp] theorem updTru_eccBad (f : TruSt → TruSt) : (updTru f s).eccBad = s.eccBad := rfl
@[simp] theorem updTru_observed (f : TruSt → TruSt) : (updTru f s).observed = s.observed := rfl
@[simp] theorem updTru_tick (f : TruSt → TruSt) : (updTru f s).tick = s.tick := rfl
@[simp] theorem updTru_units (f : TruSt → TruSt) : (updTru f s).units = s.units := rfl
@[simp] theorem updTru_col (f : TruSt → TruSt) : (updTru f s).col = s.col := rfl
@[simp] theorem updTru_prc (f : TruSt → TruSt) : (updTru f s).prc = s.prc := rfl
@[simp] theorem updTru_eng (f : TruSt → TruSt) : (updTru f s).eng = s.eng := rfl
@[simp] theorem updTru_legs (f : TruSt → TruSt) : (updTru f s).legs = s.legs := rfl
@[simp] theorem updTru_grps (f : TruSt → TruSt) : (updTru f s).grps = s.grps := rfl
@[simp] theorem updTru_cls (f : TruSt → TruSt) : (updTru f s).cls = s.cls := rfl
@[simp] theorem updTru_tbLost (f : TruSt → TruSt) : (updTru f s).tbLost = s.tbLost := rfl
@[simp] theorem updTru_engHalt (f : TruSt → TruSt) : (updTru f s).engHalt = s.engHalt := rfl
@[simp] theorem updTru_chans (f : TruSt → TruSt) : (updTru f s).chans = s.chans := rfl
@[simp] theorem updTru_clkLost (f : TruSt → TruSt) : (updTru f s).clkLost = s.clkLost := rfl
@[simp] theorem updTru_clkAt (f : TruSt → TruSt) : (updTru f s).clkAt = s.clkAt := rfl
@[simp] theorem updTru_cal (f : TruSt → TruSt) : (updTru f s).cal = s.cal := rfl
@[simp] theorem updTru_rel (f : TruSt → TruSt) : (updTru f s).rel = s.rel := rfl
@[simp] theorem updTru_sars (f : TruSt → TruSt) : (updTru f s).sars = s.sars := rfl
@[simp] theorem updTru_slots (f : TruSt → TruSt) : (updTru f s).slots = s.slots := rfl
@[simp] theorem updTru_refFrom (f : TruSt → TruSt) : (updTru f s).refFrom = s.refFrom := rfl
@[simp] theorem updTru_refAt (f : TruSt → TruSt) : (updTru f s).refAt = s.refAt := rfl
@[simp] theorem updTru_ports (f : TruSt → TruSt) : (updTru f s).ports = s.ports := rfl
@[simp] theorem updTru_cmps (f : TruSt → TruSt) : (updTru f s).cmps = s.cmps := rfl
@[simp] theorem updTru_ems (f : TruSt → TruSt) : (updTru f s).ems = s.ems := rfl
@[simp] theorem updTru_plss (f : TruSt → TruSt) : (updTru f s).plss = s.plss := rfl
@[simp] theorem updTru_saf (f : TruSt → TruSt) : (updTru f s).saf = s.saf := rfl
@[simp] theorem updTru_aux (f : TruSt → TruSt) : (updTru f s).aux = s.aux := rfl
@[simp] theorem updTru_spn (f : TruSt → TruSt) : (updTru f s).spn = s.spn := rfl
@[simp] theorem updTru_cans (f : TruSt → TruSt) : (updTru f s).cans = s.cans := rfl
@[simp] theorem updTru_qsps (f : TruSt → TruSt) : (updTru f s).qsps = s.qsps := rfl
@[simp] theorem updTru_tst (f : TruSt → TruSt) : (updTru f s).tst = s.tst := rfl
@[simp] theorem updTru_pwr (f : TruSt → TruSt) : (updTru f s).pwr = s.pwr := rfl

@[simp] theorem updPwr_pending (f : PwrSt → PwrSt) : (updPwr f s).pending = s.pending := rfl
@[simp] theorem updPwr_variant (f : PwrSt → PwrSt) : (updPwr f s).variant = s.variant := rfl
@[simp] theorem updPwr_now (f : PwrSt → PwrSt) : (updPwr f s).now = s.now := rfl
@[simp] theorem updPwr_free (f : PwrSt → PwrSt) : (updPwr f s).free = s.free := rfl
@[simp] theorem updPwr_regs (f : PwrSt → PwrSt) : (updPwr f s).regs = s.regs := rfl
@[simp] theorem updPwr_shadow (f : PwrSt → PwrSt) : (updPwr f s).shadow = s.shadow := rfl
@[simp] theorem updPwr_live (f : PwrSt → PwrSt) : (updPwr f s).live = s.live := rfl
@[simp] theorem updPwr_act (f : PwrSt → PwrSt) : (updPwr f s).act = s.act := rfl
@[simp] theorem updPwr_toAct (f : PwrSt → PwrSt) : (updPwr f s).toAct = s.toAct := rfl
@[simp] theorem updPwr_mem (f : PwrSt → PwrSt) : (updPwr f s).mem = s.mem := rfl
@[simp] theorem updPwr_tcm (f : PwrSt → PwrSt) : (updPwr f s).tcm = s.tcm := rfl
@[simp] theorem updPwr_eccBad (f : PwrSt → PwrSt) : (updPwr f s).eccBad = s.eccBad := rfl
@[simp] theorem updPwr_observed (f : PwrSt → PwrSt) : (updPwr f s).observed = s.observed := rfl
@[simp] theorem updPwr_tick (f : PwrSt → PwrSt) : (updPwr f s).tick = s.tick := rfl
@[simp] theorem updPwr_units (f : PwrSt → PwrSt) : (updPwr f s).units = s.units := rfl
@[simp] theorem updPwr_col (f : PwrSt → PwrSt) : (updPwr f s).col = s.col := rfl
@[simp] theorem updPwr_prc (f : PwrSt → PwrSt) : (updPwr f s).prc = s.prc := rfl
@[simp] theorem updPwr_eng (f : PwrSt → PwrSt) : (updPwr f s).eng = s.eng := rfl
@[simp] theorem updPwr_legs (f : PwrSt → PwrSt) : (updPwr f s).legs = s.legs := rfl
@[simp] theorem updPwr_grps (f : PwrSt → PwrSt) : (updPwr f s).grps = s.grps := rfl
@[simp] theorem updPwr_cls (f : PwrSt → PwrSt) : (updPwr f s).cls = s.cls := rfl
@[simp] theorem updPwr_tbLost (f : PwrSt → PwrSt) : (updPwr f s).tbLost = s.tbLost := rfl
@[simp] theorem updPwr_engHalt (f : PwrSt → PwrSt) : (updPwr f s).engHalt = s.engHalt := rfl
@[simp] theorem updPwr_chans (f : PwrSt → PwrSt) : (updPwr f s).chans = s.chans := rfl
@[simp] theorem updPwr_clkLost (f : PwrSt → PwrSt) : (updPwr f s).clkLost = s.clkLost := rfl
@[simp] theorem updPwr_clkAt (f : PwrSt → PwrSt) : (updPwr f s).clkAt = s.clkAt := rfl
@[simp] theorem updPwr_cal (f : PwrSt → PwrSt) : (updPwr f s).cal = s.cal := rfl
@[simp] theorem updPwr_rel (f : PwrSt → PwrSt) : (updPwr f s).rel = s.rel := rfl
@[simp] theorem updPwr_sars (f : PwrSt → PwrSt) : (updPwr f s).sars = s.sars := rfl
@[simp] theorem updPwr_slots (f : PwrSt → PwrSt) : (updPwr f s).slots = s.slots := rfl
@[simp] theorem updPwr_refFrom (f : PwrSt → PwrSt) : (updPwr f s).refFrom = s.refFrom := rfl
@[simp] theorem updPwr_refAt (f : PwrSt → PwrSt) : (updPwr f s).refAt = s.refAt := rfl
@[simp] theorem updPwr_ports (f : PwrSt → PwrSt) : (updPwr f s).ports = s.ports := rfl
@[simp] theorem updPwr_cmps (f : PwrSt → PwrSt) : (updPwr f s).cmps = s.cmps := rfl
@[simp] theorem updPwr_ems (f : PwrSt → PwrSt) : (updPwr f s).ems = s.ems := rfl
@[simp] theorem updPwr_plss (f : PwrSt → PwrSt) : (updPwr f s).plss = s.plss := rfl
@[simp] theorem updPwr_saf (f : PwrSt → PwrSt) : (updPwr f s).saf = s.saf := rfl
@[simp] theorem updPwr_aux (f : PwrSt → PwrSt) : (updPwr f s).aux = s.aux := rfl
@[simp] theorem updPwr_spn (f : PwrSt → PwrSt) : (updPwr f s).spn = s.spn := rfl
@[simp] theorem updPwr_cans (f : PwrSt → PwrSt) : (updPwr f s).cans = s.cans := rfl
@[simp] theorem updPwr_qsps (f : PwrSt → PwrSt) : (updPwr f s).qsps = s.qsps := rfl
@[simp] theorem updPwr_tru (f : PwrSt → PwrSt) : (updPwr f s).tru = s.tru := rfl
@[simp] theorem updPwr_tst (f : PwrSt → PwrSt) : (updPwr f s).tst = s.tst := rfl

@[simp] theorem wrByte_pending (a : Nat) (b : Byte) : (wrByte a b s).pending = s.pending := rfl
@[simp] theorem wrByte_variant (a : Nat) (b : Byte) : (wrByte a b s).variant = s.variant := rfl
@[simp] theorem wrByte_now (a : Nat) (b : Byte) : (wrByte a b s).now = s.now := rfl
@[simp] theorem wrByte_free (a : Nat) (b : Byte) : (wrByte a b s).free = s.free := rfl
@[simp] theorem wrByte_regs (a : Nat) (b : Byte) : (wrByte a b s).regs = s.regs := rfl
@[simp] theorem wrByte_shadow (a : Nat) (b : Byte) : (wrByte a b s).shadow = s.shadow := rfl
@[simp] theorem wrByte_live (a : Nat) (b : Byte) : (wrByte a b s).live = s.live := rfl
@[simp] theorem wrByte_act (a : Nat) (b : Byte) : (wrByte a b s).act = s.act := rfl
@[simp] theorem wrByte_toAct (a : Nat) (b : Byte) : (wrByte a b s).toAct = s.toAct := rfl
@[simp] theorem wrByte_tcm (a : Nat) (b : Byte) : (wrByte a b s).tcm = s.tcm := rfl
@[simp] theorem wrByte_eccBad (a : Nat) (b : Byte) : (wrByte a b s).eccBad = s.eccBad := rfl
@[simp] theorem wrByte_observed (a : Nat) (b : Byte) : (wrByte a b s).observed = s.observed := rfl
@[simp] theorem wrByte_tick (a : Nat) (b : Byte) : (wrByte a b s).tick = s.tick := rfl
@[simp] theorem wrByte_units (a : Nat) (b : Byte) : (wrByte a b s).units = s.units := rfl
@[simp] theorem wrByte_col (a : Nat) (b : Byte) : (wrByte a b s).col = s.col := rfl
@[simp] theorem wrByte_prc (a : Nat) (b : Byte) : (wrByte a b s).prc = s.prc := rfl
@[simp] theorem wrByte_eng (a : Nat) (b : Byte) : (wrByte a b s).eng = s.eng := rfl
@[simp] theorem wrByte_legs (a : Nat) (b : Byte) : (wrByte a b s).legs = s.legs := rfl
@[simp] theorem wrByte_grps (a : Nat) (b : Byte) : (wrByte a b s).grps = s.grps := rfl
@[simp] theorem wrByte_cls (a : Nat) (b : Byte) : (wrByte a b s).cls = s.cls := rfl
@[simp] theorem wrByte_tbLost (a : Nat) (b : Byte) : (wrByte a b s).tbLost = s.tbLost := rfl
@[simp] theorem wrByte_engHalt (a : Nat) (b : Byte) : (wrByte a b s).engHalt = s.engHalt := rfl
@[simp] theorem wrByte_chans (a : Nat) (b : Byte) : (wrByte a b s).chans = s.chans := rfl
@[simp] theorem wrByte_clkLost (a : Nat) (b : Byte) : (wrByte a b s).clkLost = s.clkLost := rfl
@[simp] theorem wrByte_clkAt (a : Nat) (b : Byte) : (wrByte a b s).clkAt = s.clkAt := rfl
@[simp] theorem wrByte_cal (a : Nat) (b : Byte) : (wrByte a b s).cal = s.cal := rfl
@[simp] theorem wrByte_rel (a : Nat) (b : Byte) : (wrByte a b s).rel = s.rel := rfl
@[simp] theorem wrByte_sars (a : Nat) (b : Byte) : (wrByte a b s).sars = s.sars := rfl
@[simp] theorem wrByte_slots (a : Nat) (b : Byte) : (wrByte a b s).slots = s.slots := rfl
@[simp] theorem wrByte_refFrom (a : Nat) (b : Byte) : (wrByte a b s).refFrom = s.refFrom := rfl
@[simp] theorem wrByte_refAt (a : Nat) (b : Byte) : (wrByte a b s).refAt = s.refAt := rfl
@[simp] theorem wrByte_ports (a : Nat) (b : Byte) : (wrByte a b s).ports = s.ports := rfl
@[simp] theorem wrByte_cmps (a : Nat) (b : Byte) : (wrByte a b s).cmps = s.cmps := rfl
@[simp] theorem wrByte_ems (a : Nat) (b : Byte) : (wrByte a b s).ems = s.ems := rfl
@[simp] theorem wrByte_plss (a : Nat) (b : Byte) : (wrByte a b s).plss = s.plss := rfl
@[simp] theorem wrByte_saf (a : Nat) (b : Byte) : (wrByte a b s).saf = s.saf := rfl
@[simp] theorem wrByte_aux (a : Nat) (b : Byte) : (wrByte a b s).aux = s.aux := rfl
@[simp] theorem wrByte_spn (a : Nat) (b : Byte) : (wrByte a b s).spn = s.spn := rfl
@[simp] theorem wrByte_cans (a : Nat) (b : Byte) : (wrByte a b s).cans = s.cans := rfl
@[simp] theorem wrByte_qsps (a : Nat) (b : Byte) : (wrByte a b s).qsps = s.qsps := rfl
@[simp] theorem wrByte_tru (a : Nat) (b : Byte) : (wrByte a b s).tru = s.tru := rfl
@[simp] theorem wrByte_tst (a : Nat) (b : Byte) : (wrByte a b s).tst = s.tst := rfl
@[simp] theorem wrByte_pwr (a : Nat) (b : Byte) : (wrByte a b s).pwr = s.pwr := rfl

@[simp] theorem wrTcm_pending (a : Nat) (b : Byte) : (wrTcm a b s).pending = s.pending := rfl
@[simp] theorem wrTcm_variant (a : Nat) (b : Byte) : (wrTcm a b s).variant = s.variant := rfl
@[simp] theorem wrTcm_now (a : Nat) (b : Byte) : (wrTcm a b s).now = s.now := rfl
@[simp] theorem wrTcm_free (a : Nat) (b : Byte) : (wrTcm a b s).free = s.free := rfl
@[simp] theorem wrTcm_regs (a : Nat) (b : Byte) : (wrTcm a b s).regs = s.regs := rfl
@[simp] theorem wrTcm_shadow (a : Nat) (b : Byte) : (wrTcm a b s).shadow = s.shadow := rfl
@[simp] theorem wrTcm_live (a : Nat) (b : Byte) : (wrTcm a b s).live = s.live := rfl
@[simp] theorem wrTcm_act (a : Nat) (b : Byte) : (wrTcm a b s).act = s.act := rfl
@[simp] theorem wrTcm_toAct (a : Nat) (b : Byte) : (wrTcm a b s).toAct = s.toAct := rfl
@[simp] theorem wrTcm_mem (a : Nat) (b : Byte) : (wrTcm a b s).mem = s.mem := rfl
@[simp] theorem wrTcm_eccBad (a : Nat) (b : Byte) : (wrTcm a b s).eccBad = s.eccBad := rfl
@[simp] theorem wrTcm_observed (a : Nat) (b : Byte) : (wrTcm a b s).observed = s.observed := rfl
@[simp] theorem wrTcm_tick (a : Nat) (b : Byte) : (wrTcm a b s).tick = s.tick := rfl
@[simp] theorem wrTcm_units (a : Nat) (b : Byte) : (wrTcm a b s).units = s.units := rfl
@[simp] theorem wrTcm_col (a : Nat) (b : Byte) : (wrTcm a b s).col = s.col := rfl
@[simp] theorem wrTcm_prc (a : Nat) (b : Byte) : (wrTcm a b s).prc = s.prc := rfl
@[simp] theorem wrTcm_eng (a : Nat) (b : Byte) : (wrTcm a b s).eng = s.eng := rfl
@[simp] theorem wrTcm_legs (a : Nat) (b : Byte) : (wrTcm a b s).legs = s.legs := rfl
@[simp] theorem wrTcm_grps (a : Nat) (b : Byte) : (wrTcm a b s).grps = s.grps := rfl
@[simp] theorem wrTcm_cls (a : Nat) (b : Byte) : (wrTcm a b s).cls = s.cls := rfl
@[simp] theorem wrTcm_tbLost (a : Nat) (b : Byte) : (wrTcm a b s).tbLost = s.tbLost := rfl
@[simp] theorem wrTcm_engHalt (a : Nat) (b : Byte) : (wrTcm a b s).engHalt = s.engHalt := rfl
@[simp] theorem wrTcm_chans (a : Nat) (b : Byte) : (wrTcm a b s).chans = s.chans := rfl
@[simp] theorem wrTcm_clkLost (a : Nat) (b : Byte) : (wrTcm a b s).clkLost = s.clkLost := rfl
@[simp] theorem wrTcm_clkAt (a : Nat) (b : Byte) : (wrTcm a b s).clkAt = s.clkAt := rfl
@[simp] theorem wrTcm_cal (a : Nat) (b : Byte) : (wrTcm a b s).cal = s.cal := rfl
@[simp] theorem wrTcm_rel (a : Nat) (b : Byte) : (wrTcm a b s).rel = s.rel := rfl
@[simp] theorem wrTcm_sars (a : Nat) (b : Byte) : (wrTcm a b s).sars = s.sars := rfl
@[simp] theorem wrTcm_slots (a : Nat) (b : Byte) : (wrTcm a b s).slots = s.slots := rfl
@[simp] theorem wrTcm_refFrom (a : Nat) (b : Byte) : (wrTcm a b s).refFrom = s.refFrom := rfl
@[simp] theorem wrTcm_refAt (a : Nat) (b : Byte) : (wrTcm a b s).refAt = s.refAt := rfl
@[simp] theorem wrTcm_ports (a : Nat) (b : Byte) : (wrTcm a b s).ports = s.ports := rfl
@[simp] theorem wrTcm_cmps (a : Nat) (b : Byte) : (wrTcm a b s).cmps = s.cmps := rfl
@[simp] theorem wrTcm_ems (a : Nat) (b : Byte) : (wrTcm a b s).ems = s.ems := rfl
@[simp] theorem wrTcm_plss (a : Nat) (b : Byte) : (wrTcm a b s).plss = s.plss := rfl
@[simp] theorem wrTcm_saf (a : Nat) (b : Byte) : (wrTcm a b s).saf = s.saf := rfl
@[simp] theorem wrTcm_aux (a : Nat) (b : Byte) : (wrTcm a b s).aux = s.aux := rfl
@[simp] theorem wrTcm_spn (a : Nat) (b : Byte) : (wrTcm a b s).spn = s.spn := rfl
@[simp] theorem wrTcm_cans (a : Nat) (b : Byte) : (wrTcm a b s).cans = s.cans := rfl
@[simp] theorem wrTcm_qsps (a : Nat) (b : Byte) : (wrTcm a b s).qsps = s.qsps := rfl
@[simp] theorem wrTcm_tru (a : Nat) (b : Byte) : (wrTcm a b s).tru = s.tru := rfl
@[simp] theorem wrTcm_tst (a : Nat) (b : Byte) : (wrTcm a b s).tst = s.tst := rfl
@[simp] theorem wrTcm_pwr (a : Nat) (b : Byte) : (wrTcm a b s).pwr = s.pwr := rfl

@[simp] theorem setFld_pending (f : Fld) (v : Nat) : (setFld f v s).pending = s.pending := rfl
@[simp] theorem setFld_variant (f : Fld) (v : Nat) : (setFld f v s).variant = s.variant := rfl
@[simp] theorem setFld_now (f : Fld) (v : Nat) : (setFld f v s).now = s.now := rfl
@[simp] theorem setFld_free (f : Fld) (v : Nat) : (setFld f v s).free = s.free := rfl
@[simp] theorem setFld_shadow (f : Fld) (v : Nat) : (setFld f v s).shadow = s.shadow := rfl
@[simp] theorem setFld_live (f : Fld) (v : Nat) : (setFld f v s).live = s.live := rfl
@[simp] theorem setFld_act (f : Fld) (v : Nat) : (setFld f v s).act = s.act := rfl
@[simp] theorem setFld_toAct (f : Fld) (v : Nat) : (setFld f v s).toAct = s.toAct := rfl
@[simp] theorem setFld_mem (f : Fld) (v : Nat) : (setFld f v s).mem = s.mem := rfl
@[simp] theorem setFld_tcm (f : Fld) (v : Nat) : (setFld f v s).tcm = s.tcm := rfl
@[simp] theorem setFld_eccBad (f : Fld) (v : Nat) : (setFld f v s).eccBad = s.eccBad := rfl
@[simp] theorem setFld_observed (f : Fld) (v : Nat) : (setFld f v s).observed = s.observed := rfl
@[simp] theorem setFld_tick (f : Fld) (v : Nat) : (setFld f v s).tick = s.tick := rfl
@[simp] theorem setFld_units (f : Fld) (v : Nat) : (setFld f v s).units = s.units := rfl
@[simp] theorem setFld_col (f : Fld) (v : Nat) : (setFld f v s).col = s.col := rfl
@[simp] theorem setFld_prc (f : Fld) (v : Nat) : (setFld f v s).prc = s.prc := rfl
@[simp] theorem setFld_eng (f : Fld) (v : Nat) : (setFld f v s).eng = s.eng := rfl
@[simp] theorem setFld_legs (f : Fld) (v : Nat) : (setFld f v s).legs = s.legs := rfl
@[simp] theorem setFld_grps (f : Fld) (v : Nat) : (setFld f v s).grps = s.grps := rfl
@[simp] theorem setFld_cls (f : Fld) (v : Nat) : (setFld f v s).cls = s.cls := rfl
@[simp] theorem setFld_tbLost (f : Fld) (v : Nat) : (setFld f v s).tbLost = s.tbLost := rfl
@[simp] theorem setFld_engHalt (f : Fld) (v : Nat) : (setFld f v s).engHalt = s.engHalt := rfl
@[simp] theorem setFld_chans (f : Fld) (v : Nat) : (setFld f v s).chans = s.chans := rfl
@[simp] theorem setFld_clkLost (f : Fld) (v : Nat) : (setFld f v s).clkLost = s.clkLost := rfl
@[simp] theorem setFld_clkAt (f : Fld) (v : Nat) : (setFld f v s).clkAt = s.clkAt := rfl
@[simp] theorem setFld_cal (f : Fld) (v : Nat) : (setFld f v s).cal = s.cal := rfl
@[simp] theorem setFld_rel (f : Fld) (v : Nat) : (setFld f v s).rel = s.rel := rfl
@[simp] theorem setFld_sars (f : Fld) (v : Nat) : (setFld f v s).sars = s.sars := rfl
@[simp] theorem setFld_slots (f : Fld) (v : Nat) : (setFld f v s).slots = s.slots := rfl
@[simp] theorem setFld_refFrom (f : Fld) (v : Nat) : (setFld f v s).refFrom = s.refFrom := rfl
@[simp] theorem setFld_refAt (f : Fld) (v : Nat) : (setFld f v s).refAt = s.refAt := rfl
@[simp] theorem setFld_ports (f : Fld) (v : Nat) : (setFld f v s).ports = s.ports := rfl
@[simp] theorem setFld_cmps (f : Fld) (v : Nat) : (setFld f v s).cmps = s.cmps := rfl
@[simp] theorem setFld_ems (f : Fld) (v : Nat) : (setFld f v s).ems = s.ems := rfl
@[simp] theorem setFld_plss (f : Fld) (v : Nat) : (setFld f v s).plss = s.plss := rfl
@[simp] theorem setFld_saf (f : Fld) (v : Nat) : (setFld f v s).saf = s.saf := rfl
@[simp] theorem setFld_aux (f : Fld) (v : Nat) : (setFld f v s).aux = s.aux := rfl
@[simp] theorem setFld_spn (f : Fld) (v : Nat) : (setFld f v s).spn = s.spn := rfl
@[simp] theorem setFld_cans (f : Fld) (v : Nat) : (setFld f v s).cans = s.cans := rfl
@[simp] theorem setFld_qsps (f : Fld) (v : Nat) : (setFld f v s).qsps = s.qsps := rfl
@[simp] theorem setFld_tru (f : Fld) (v : Nat) : (setFld f v s).tru = s.tru := rfl
@[simp] theorem setFld_tst (f : Fld) (v : Nat) : (setFld f v s).tst = s.tst := rfl
@[simp] theorem setFld_pwr (f : Fld) (v : Nat) : (setFld f v s).pwr = s.pwr := rfl

@[simp] theorem setFldBit_pending (f : Fld) (i : Nat) (v : Bool) : (setFldBit f i v s).pending = s.pending := rfl
@[simp] theorem setFldBit_variant (f : Fld) (i : Nat) (v : Bool) : (setFldBit f i v s).variant = s.variant := rfl
@[simp] theorem setFldBit_now (f : Fld) (i : Nat) (v : Bool) : (setFldBit f i v s).now = s.now := rfl
@[simp] theorem setFldBit_free (f : Fld) (i : Nat) (v : Bool) : (setFldBit f i v s).free = s.free := rfl
@[simp] theorem setFldBit_shadow (f : Fld) (i : Nat) (v : Bool) : (setFldBit f i v s).shadow = s.shadow := rfl
@[simp] theorem setFldBit_live (f : Fld) (i : Nat) (v : Bool) : (setFldBit f i v s).live = s.live := rfl
@[simp] theorem setFldBit_act (f : Fld) (i : Nat) (v : Bool) : (setFldBit f i v s).act = s.act := rfl
@[simp] theorem setFldBit_toAct (f : Fld) (i : Nat) (v : Bool) : (setFldBit f i v s).toAct = s.toAct := rfl
@[simp] theorem setFldBit_mem (f : Fld) (i : Nat) (v : Bool) : (setFldBit f i v s).mem = s.mem := rfl
@[simp] theorem setFldBit_tcm (f : Fld) (i : Nat) (v : Bool) : (setFldBit f i v s).tcm = s.tcm := rfl
@[simp] theorem setFldBit_eccBad (f : Fld) (i : Nat) (v : Bool) : (setFldBit f i v s).eccBad = s.eccBad := rfl
@[simp] theorem setFldBit_observed (f : Fld) (i : Nat) (v : Bool) : (setFldBit f i v s).observed = s.observed := rfl
@[simp] theorem setFldBit_tick (f : Fld) (i : Nat) (v : Bool) : (setFldBit f i v s).tick = s.tick := rfl
@[simp] theorem setFldBit_units (f : Fld) (i : Nat) (v : Bool) : (setFldBit f i v s).units = s.units := rfl
@[simp] theorem setFldBit_col (f : Fld) (i : Nat) (v : Bool) : (setFldBit f i v s).col = s.col := rfl
@[simp] theorem setFldBit_prc (f : Fld) (i : Nat) (v : Bool) : (setFldBit f i v s).prc = s.prc := rfl
@[simp] theorem setFldBit_eng (f : Fld) (i : Nat) (v : Bool) : (setFldBit f i v s).eng = s.eng := rfl
@[simp] theorem setFldBit_legs (f : Fld) (i : Nat) (v : Bool) : (setFldBit f i v s).legs = s.legs := rfl
@[simp] theorem setFldBit_grps (f : Fld) (i : Nat) (v : Bool) : (setFldBit f i v s).grps = s.grps := rfl
@[simp] theorem setFldBit_cls (f : Fld) (i : Nat) (v : Bool) : (setFldBit f i v s).cls = s.cls := rfl
@[simp] theorem setFldBit_tbLost (f : Fld) (i : Nat) (v : Bool) : (setFldBit f i v s).tbLost = s.tbLost := rfl
@[simp] theorem setFldBit_engHalt (f : Fld) (i : Nat) (v : Bool) : (setFldBit f i v s).engHalt = s.engHalt := rfl
@[simp] theorem setFldBit_chans (f : Fld) (i : Nat) (v : Bool) : (setFldBit f i v s).chans = s.chans := rfl
@[simp] theorem setFldBit_clkLost (f : Fld) (i : Nat) (v : Bool) : (setFldBit f i v s).clkLost = s.clkLost := rfl
@[simp] theorem setFldBit_clkAt (f : Fld) (i : Nat) (v : Bool) : (setFldBit f i v s).clkAt = s.clkAt := rfl
@[simp] theorem setFldBit_cal (f : Fld) (i : Nat) (v : Bool) : (setFldBit f i v s).cal = s.cal := rfl
@[simp] theorem setFldBit_rel (f : Fld) (i : Nat) (v : Bool) : (setFldBit f i v s).rel = s.rel := rfl
@[simp] theorem setFldBit_sars (f : Fld) (i : Nat) (v : Bool) : (setFldBit f i v s).sars = s.sars := rfl
@[simp] theorem setFldBit_slots (f : Fld) (i : Nat) (v : Bool) : (setFldBit f i v s).slots = s.slots := rfl
@[simp] theorem setFldBit_refFrom (f : Fld) (i : Nat) (v : Bool) : (setFldBit f i v s).refFrom = s.refFrom := rfl
@[simp] theorem setFldBit_refAt (f : Fld) (i : Nat) (v : Bool) : (setFldBit f i v s).refAt = s.refAt := rfl
@[simp] theorem setFldBit_ports (f : Fld) (i : Nat) (v : Bool) : (setFldBit f i v s).ports = s.ports := rfl
@[simp] theorem setFldBit_cmps (f : Fld) (i : Nat) (v : Bool) : (setFldBit f i v s).cmps = s.cmps := rfl
@[simp] theorem setFldBit_ems (f : Fld) (i : Nat) (v : Bool) : (setFldBit f i v s).ems = s.ems := rfl
@[simp] theorem setFldBit_plss (f : Fld) (i : Nat) (v : Bool) : (setFldBit f i v s).plss = s.plss := rfl
@[simp] theorem setFldBit_saf (f : Fld) (i : Nat) (v : Bool) : (setFldBit f i v s).saf = s.saf := rfl
@[simp] theorem setFldBit_aux (f : Fld) (i : Nat) (v : Bool) : (setFldBit f i v s).aux = s.aux := rfl
@[simp] theorem setFldBit_spn (f : Fld) (i : Nat) (v : Bool) : (setFldBit f i v s).spn = s.spn := rfl
@[simp] theorem setFldBit_cans (f : Fld) (i : Nat) (v : Bool) : (setFldBit f i v s).cans = s.cans := rfl
@[simp] theorem setFldBit_qsps (f : Fld) (i : Nat) (v : Bool) : (setFldBit f i v s).qsps = s.qsps := rfl
@[simp] theorem setFldBit_tru (f : Fld) (i : Nat) (v : Bool) : (setFldBit f i v s).tru = s.tru := rfl
@[simp] theorem setFldBit_tst (f : Fld) (i : Nat) (v : Bool) : (setFldBit f i v s).tst = s.tst := rfl
@[simp] theorem setFldBit_pwr (f : Fld) (i : Nat) (v : Bool) : (setFldBit f i v s).pwr = s.pwr := rfl

@[simp] theorem incFld_pending (f : Fld) : (incFld f s).pending = s.pending := rfl
@[simp] theorem incFld_variant (f : Fld) : (incFld f s).variant = s.variant := rfl
@[simp] theorem incFld_now (f : Fld) : (incFld f s).now = s.now := rfl
@[simp] theorem incFld_free (f : Fld) : (incFld f s).free = s.free := rfl
@[simp] theorem incFld_shadow (f : Fld) : (incFld f s).shadow = s.shadow := rfl
@[simp] theorem incFld_live (f : Fld) : (incFld f s).live = s.live := rfl
@[simp] theorem incFld_act (f : Fld) : (incFld f s).act = s.act := rfl
@[simp] theorem incFld_toAct (f : Fld) : (incFld f s).toAct = s.toAct := rfl
@[simp] theorem incFld_mem (f : Fld) : (incFld f s).mem = s.mem := rfl
@[simp] theorem incFld_tcm (f : Fld) : (incFld f s).tcm = s.tcm := rfl
@[simp] theorem incFld_eccBad (f : Fld) : (incFld f s).eccBad = s.eccBad := rfl
@[simp] theorem incFld_observed (f : Fld) : (incFld f s).observed = s.observed := rfl
@[simp] theorem incFld_tick (f : Fld) : (incFld f s).tick = s.tick := rfl
@[simp] theorem incFld_units (f : Fld) : (incFld f s).units = s.units := rfl
@[simp] theorem incFld_col (f : Fld) : (incFld f s).col = s.col := rfl
@[simp] theorem incFld_prc (f : Fld) : (incFld f s).prc = s.prc := rfl
@[simp] theorem incFld_eng (f : Fld) : (incFld f s).eng = s.eng := rfl
@[simp] theorem incFld_legs (f : Fld) : (incFld f s).legs = s.legs := rfl
@[simp] theorem incFld_grps (f : Fld) : (incFld f s).grps = s.grps := rfl
@[simp] theorem incFld_cls (f : Fld) : (incFld f s).cls = s.cls := rfl
@[simp] theorem incFld_tbLost (f : Fld) : (incFld f s).tbLost = s.tbLost := rfl
@[simp] theorem incFld_engHalt (f : Fld) : (incFld f s).engHalt = s.engHalt := rfl
@[simp] theorem incFld_chans (f : Fld) : (incFld f s).chans = s.chans := rfl
@[simp] theorem incFld_clkLost (f : Fld) : (incFld f s).clkLost = s.clkLost := rfl
@[simp] theorem incFld_clkAt (f : Fld) : (incFld f s).clkAt = s.clkAt := rfl
@[simp] theorem incFld_cal (f : Fld) : (incFld f s).cal = s.cal := rfl
@[simp] theorem incFld_rel (f : Fld) : (incFld f s).rel = s.rel := rfl
@[simp] theorem incFld_sars (f : Fld) : (incFld f s).sars = s.sars := rfl
@[simp] theorem incFld_slots (f : Fld) : (incFld f s).slots = s.slots := rfl
@[simp] theorem incFld_refFrom (f : Fld) : (incFld f s).refFrom = s.refFrom := rfl
@[simp] theorem incFld_refAt (f : Fld) : (incFld f s).refAt = s.refAt := rfl
@[simp] theorem incFld_ports (f : Fld) : (incFld f s).ports = s.ports := rfl
@[simp] theorem incFld_cmps (f : Fld) : (incFld f s).cmps = s.cmps := rfl
@[simp] theorem incFld_ems (f : Fld) : (incFld f s).ems = s.ems := rfl
@[simp] theorem incFld_plss (f : Fld) : (incFld f s).plss = s.plss := rfl
@[simp] theorem incFld_saf (f : Fld) : (incFld f s).saf = s.saf := rfl
@[simp] theorem incFld_aux (f : Fld) : (incFld f s).aux = s.aux := rfl
@[simp] theorem incFld_spn (f : Fld) : (incFld f s).spn = s.spn := rfl
@[simp] theorem incFld_cans (f : Fld) : (incFld f s).cans = s.cans := rfl
@[simp] theorem incFld_qsps (f : Fld) : (incFld f s).qsps = s.qsps := rfl
@[simp] theorem incFld_tru (f : Fld) : (incFld f s).tru = s.tru := rfl
@[simp] theorem incFld_tst (f : Fld) : (incFld f s).tst = s.tst := rfl
@[simp] theorem incFld_pwr (f : Fld) : (incFld f s).pwr = s.pwr := rfl

@[simp] theorem maxFld_pending (f : Fld) (v : Nat) : (maxFld f v s).pending = s.pending := rfl
@[simp] theorem maxFld_variant (f : Fld) (v : Nat) : (maxFld f v s).variant = s.variant := rfl
@[simp] theorem maxFld_now (f : Fld) (v : Nat) : (maxFld f v s).now = s.now := rfl
@[simp] theorem maxFld_free (f : Fld) (v : Nat) : (maxFld f v s).free = s.free := rfl
@[simp] theorem maxFld_shadow (f : Fld) (v : Nat) : (maxFld f v s).shadow = s.shadow := rfl
@[simp] theorem maxFld_live (f : Fld) (v : Nat) : (maxFld f v s).live = s.live := rfl
@[simp] theorem maxFld_act (f : Fld) (v : Nat) : (maxFld f v s).act = s.act := rfl
@[simp] theorem maxFld_toAct (f : Fld) (v : Nat) : (maxFld f v s).toAct = s.toAct := rfl
@[simp] theorem maxFld_mem (f : Fld) (v : Nat) : (maxFld f v s).mem = s.mem := rfl
@[simp] theorem maxFld_tcm (f : Fld) (v : Nat) : (maxFld f v s).tcm = s.tcm := rfl
@[simp] theorem maxFld_eccBad (f : Fld) (v : Nat) : (maxFld f v s).eccBad = s.eccBad := rfl
@[simp] theorem maxFld_observed (f : Fld) (v : Nat) : (maxFld f v s).observed = s.observed := rfl
@[simp] theorem maxFld_tick (f : Fld) (v : Nat) : (maxFld f v s).tick = s.tick := rfl
@[simp] theorem maxFld_units (f : Fld) (v : Nat) : (maxFld f v s).units = s.units := rfl
@[simp] theorem maxFld_col (f : Fld) (v : Nat) : (maxFld f v s).col = s.col := rfl
@[simp] theorem maxFld_prc (f : Fld) (v : Nat) : (maxFld f v s).prc = s.prc := rfl
@[simp] theorem maxFld_eng (f : Fld) (v : Nat) : (maxFld f v s).eng = s.eng := rfl
@[simp] theorem maxFld_legs (f : Fld) (v : Nat) : (maxFld f v s).legs = s.legs := rfl
@[simp] theorem maxFld_grps (f : Fld) (v : Nat) : (maxFld f v s).grps = s.grps := rfl
@[simp] theorem maxFld_cls (f : Fld) (v : Nat) : (maxFld f v s).cls = s.cls := rfl
@[simp] theorem maxFld_tbLost (f : Fld) (v : Nat) : (maxFld f v s).tbLost = s.tbLost := rfl
@[simp] theorem maxFld_engHalt (f : Fld) (v : Nat) : (maxFld f v s).engHalt = s.engHalt := rfl
@[simp] theorem maxFld_chans (f : Fld) (v : Nat) : (maxFld f v s).chans = s.chans := rfl
@[simp] theorem maxFld_clkLost (f : Fld) (v : Nat) : (maxFld f v s).clkLost = s.clkLost := rfl
@[simp] theorem maxFld_clkAt (f : Fld) (v : Nat) : (maxFld f v s).clkAt = s.clkAt := rfl
@[simp] theorem maxFld_cal (f : Fld) (v : Nat) : (maxFld f v s).cal = s.cal := rfl
@[simp] theorem maxFld_rel (f : Fld) (v : Nat) : (maxFld f v s).rel = s.rel := rfl
@[simp] theorem maxFld_sars (f : Fld) (v : Nat) : (maxFld f v s).sars = s.sars := rfl
@[simp] theorem maxFld_slots (f : Fld) (v : Nat) : (maxFld f v s).slots = s.slots := rfl
@[simp] theorem maxFld_refFrom (f : Fld) (v : Nat) : (maxFld f v s).refFrom = s.refFrom := rfl
@[simp] theorem maxFld_refAt (f : Fld) (v : Nat) : (maxFld f v s).refAt = s.refAt := rfl
@[simp] theorem maxFld_ports (f : Fld) (v : Nat) : (maxFld f v s).ports = s.ports := rfl
@[simp] theorem maxFld_cmps (f : Fld) (v : Nat) : (maxFld f v s).cmps = s.cmps := rfl
@[simp] theorem maxFld_ems (f : Fld) (v : Nat) : (maxFld f v s).ems = s.ems := rfl
@[simp] theorem maxFld_plss (f : Fld) (v : Nat) : (maxFld f v s).plss = s.plss := rfl
@[simp] theorem maxFld_saf (f : Fld) (v : Nat) : (maxFld f v s).saf = s.saf := rfl
@[simp] theorem maxFld_aux (f : Fld) (v : Nat) : (maxFld f v s).aux = s.aux := rfl
@[simp] theorem maxFld_spn (f : Fld) (v : Nat) : (maxFld f v s).spn = s.spn := rfl
@[simp] theorem maxFld_cans (f : Fld) (v : Nat) : (maxFld f v s).cans = s.cans := rfl
@[simp] theorem maxFld_qsps (f : Fld) (v : Nat) : (maxFld f v s).qsps = s.qsps := rfl
@[simp] theorem maxFld_tru (f : Fld) (v : Nat) : (maxFld f v s).tru = s.tru := rfl
@[simp] theorem maxFld_tst (f : Fld) (v : Nat) : (maxFld f v s).tst = s.tst := rfl
@[simp] theorem maxFld_pwr (f : Fld) (v : Nat) : (maxFld f v s).pwr = s.pwr := rfl

@[simp] theorem putCl_pending (a : Nat) (v : Word) : (putCl a v s).pending = s.pending := rfl
@[simp] theorem putCl_variant (a : Nat) (v : Word) : (putCl a v s).variant = s.variant := rfl
@[simp] theorem putCl_now (a : Nat) (v : Word) : (putCl a v s).now = s.now := rfl
@[simp] theorem putCl_free (a : Nat) (v : Word) : (putCl a v s).free = s.free := rfl
@[simp] theorem putCl_shadow (a : Nat) (v : Word) : (putCl a v s).shadow = s.shadow := rfl
@[simp] theorem putCl_live (a : Nat) (v : Word) : (putCl a v s).live = s.live := rfl
@[simp] theorem putCl_act (a : Nat) (v : Word) : (putCl a v s).act = s.act := rfl
@[simp] theorem putCl_toAct (a : Nat) (v : Word) : (putCl a v s).toAct = s.toAct := rfl
@[simp] theorem putCl_mem (a : Nat) (v : Word) : (putCl a v s).mem = s.mem := rfl
@[simp] theorem putCl_tcm (a : Nat) (v : Word) : (putCl a v s).tcm = s.tcm := rfl
@[simp] theorem putCl_eccBad (a : Nat) (v : Word) : (putCl a v s).eccBad = s.eccBad := rfl
@[simp] theorem putCl_observed (a : Nat) (v : Word) : (putCl a v s).observed = s.observed := rfl
@[simp] theorem putCl_tick (a : Nat) (v : Word) : (putCl a v s).tick = s.tick := rfl
@[simp] theorem putCl_units (a : Nat) (v : Word) : (putCl a v s).units = s.units := rfl
@[simp] theorem putCl_col (a : Nat) (v : Word) : (putCl a v s).col = s.col := rfl
@[simp] theorem putCl_prc (a : Nat) (v : Word) : (putCl a v s).prc = s.prc := rfl
@[simp] theorem putCl_eng (a : Nat) (v : Word) : (putCl a v s).eng = s.eng := rfl
@[simp] theorem putCl_legs (a : Nat) (v : Word) : (putCl a v s).legs = s.legs := rfl
@[simp] theorem putCl_grps (a : Nat) (v : Word) : (putCl a v s).grps = s.grps := rfl
@[simp] theorem putCl_cls (a : Nat) (v : Word) : (putCl a v s).cls = s.cls := rfl
@[simp] theorem putCl_tbLost (a : Nat) (v : Word) : (putCl a v s).tbLost = s.tbLost := rfl
@[simp] theorem putCl_engHalt (a : Nat) (v : Word) : (putCl a v s).engHalt = s.engHalt := rfl
@[simp] theorem putCl_chans (a : Nat) (v : Word) : (putCl a v s).chans = s.chans := rfl
@[simp] theorem putCl_clkLost (a : Nat) (v : Word) : (putCl a v s).clkLost = s.clkLost := rfl
@[simp] theorem putCl_clkAt (a : Nat) (v : Word) : (putCl a v s).clkAt = s.clkAt := rfl
@[simp] theorem putCl_cal (a : Nat) (v : Word) : (putCl a v s).cal = s.cal := rfl
@[simp] theorem putCl_rel (a : Nat) (v : Word) : (putCl a v s).rel = s.rel := rfl
@[simp] theorem putCl_sars (a : Nat) (v : Word) : (putCl a v s).sars = s.sars := rfl
@[simp] theorem putCl_slots (a : Nat) (v : Word) : (putCl a v s).slots = s.slots := rfl
@[simp] theorem putCl_refFrom (a : Nat) (v : Word) : (putCl a v s).refFrom = s.refFrom := rfl
@[simp] theorem putCl_refAt (a : Nat) (v : Word) : (putCl a v s).refAt = s.refAt := rfl
@[simp] theorem putCl_ports (a : Nat) (v : Word) : (putCl a v s).ports = s.ports := rfl
@[simp] theorem putCl_cmps (a : Nat) (v : Word) : (putCl a v s).cmps = s.cmps := rfl
@[simp] theorem putCl_ems (a : Nat) (v : Word) : (putCl a v s).ems = s.ems := rfl
@[simp] theorem putCl_plss (a : Nat) (v : Word) : (putCl a v s).plss = s.plss := rfl
@[simp] theorem putCl_saf (a : Nat) (v : Word) : (putCl a v s).saf = s.saf := rfl
@[simp] theorem putCl_aux (a : Nat) (v : Word) : (putCl a v s).aux = s.aux := rfl
@[simp] theorem putCl_spn (a : Nat) (v : Word) : (putCl a v s).spn = s.spn := rfl
@[simp] theorem putCl_cans (a : Nat) (v : Word) : (putCl a v s).cans = s.cans := rfl
@[simp] theorem putCl_qsps (a : Nat) (v : Word) : (putCl a v s).qsps = s.qsps := rfl
@[simp] theorem putCl_tru (a : Nat) (v : Word) : (putCl a v s).tru = s.tru := rfl
@[simp] theorem putCl_tst (a : Nat) (v : Word) : (putCl a v s).tst = s.tst := rfl
@[simp] theorem putCl_pwr (a : Nat) (v : Word) : (putCl a v s).pwr = s.pwr := rfl

@[simp] theorem latchEvent_pending (a i : Nat) : (latchEvent a i s).pending = s.pending := rfl
@[simp] theorem latchEvent_variant (a i : Nat) : (latchEvent a i s).variant = s.variant := rfl
@[simp] theorem latchEvent_now (a i : Nat) : (latchEvent a i s).now = s.now := rfl
@[simp] theorem latchEvent_free (a i : Nat) : (latchEvent a i s).free = s.free := rfl
@[simp] theorem latchEvent_shadow (a i : Nat) : (latchEvent a i s).shadow = s.shadow := rfl
@[simp] theorem latchEvent_live (a i : Nat) : (latchEvent a i s).live = s.live := rfl
@[simp] theorem latchEvent_act (a i : Nat) : (latchEvent a i s).act = s.act := rfl
@[simp] theorem latchEvent_toAct (a i : Nat) : (latchEvent a i s).toAct = s.toAct := rfl
@[simp] theorem latchEvent_mem (a i : Nat) : (latchEvent a i s).mem = s.mem := rfl
@[simp] theorem latchEvent_tcm (a i : Nat) : (latchEvent a i s).tcm = s.tcm := rfl
@[simp] theorem latchEvent_eccBad (a i : Nat) : (latchEvent a i s).eccBad = s.eccBad := rfl
@[simp] theorem latchEvent_tick (a i : Nat) : (latchEvent a i s).tick = s.tick := rfl
@[simp] theorem latchEvent_units (a i : Nat) : (latchEvent a i s).units = s.units := rfl
@[simp] theorem latchEvent_col (a i : Nat) : (latchEvent a i s).col = s.col := rfl
@[simp] theorem latchEvent_prc (a i : Nat) : (latchEvent a i s).prc = s.prc := rfl
@[simp] theorem latchEvent_eng (a i : Nat) : (latchEvent a i s).eng = s.eng := rfl
@[simp] theorem latchEvent_legs (a i : Nat) : (latchEvent a i s).legs = s.legs := rfl
@[simp] theorem latchEvent_grps (a i : Nat) : (latchEvent a i s).grps = s.grps := rfl
@[simp] theorem latchEvent_cls (a i : Nat) : (latchEvent a i s).cls = s.cls := rfl
@[simp] theorem latchEvent_tbLost (a i : Nat) : (latchEvent a i s).tbLost = s.tbLost := rfl
@[simp] theorem latchEvent_engHalt (a i : Nat) : (latchEvent a i s).engHalt = s.engHalt := rfl
@[simp] theorem latchEvent_chans (a i : Nat) : (latchEvent a i s).chans = s.chans := rfl
@[simp] theorem latchEvent_clkLost (a i : Nat) : (latchEvent a i s).clkLost = s.clkLost := rfl
@[simp] theorem latchEvent_clkAt (a i : Nat) : (latchEvent a i s).clkAt = s.clkAt := rfl
@[simp] theorem latchEvent_cal (a i : Nat) : (latchEvent a i s).cal = s.cal := rfl
@[simp] theorem latchEvent_rel (a i : Nat) : (latchEvent a i s).rel = s.rel := rfl
@[simp] theorem latchEvent_sars (a i : Nat) : (latchEvent a i s).sars = s.sars := rfl
@[simp] theorem latchEvent_slots (a i : Nat) : (latchEvent a i s).slots = s.slots := rfl
@[simp] theorem latchEvent_refFrom (a i : Nat) : (latchEvent a i s).refFrom = s.refFrom := rfl
@[simp] theorem latchEvent_refAt (a i : Nat) : (latchEvent a i s).refAt = s.refAt := rfl
@[simp] theorem latchEvent_ports (a i : Nat) : (latchEvent a i s).ports = s.ports := rfl
@[simp] theorem latchEvent_cmps (a i : Nat) : (latchEvent a i s).cmps = s.cmps := rfl
@[simp] theorem latchEvent_ems (a i : Nat) : (latchEvent a i s).ems = s.ems := rfl
@[simp] theorem latchEvent_plss (a i : Nat) : (latchEvent a i s).plss = s.plss := rfl
@[simp] theorem latchEvent_saf (a i : Nat) : (latchEvent a i s).saf = s.saf := rfl
@[simp] theorem latchEvent_aux (a i : Nat) : (latchEvent a i s).aux = s.aux := rfl
@[simp] theorem latchEvent_spn (a i : Nat) : (latchEvent a i s).spn = s.spn := rfl
@[simp] theorem latchEvent_cans (a i : Nat) : (latchEvent a i s).cans = s.cans := rfl
@[simp] theorem latchEvent_qsps (a i : Nat) : (latchEvent a i s).qsps = s.qsps := rfl
@[simp] theorem latchEvent_tru (a i : Nat) : (latchEvent a i s).tru = s.tru := rfl
@[simp] theorem latchEvent_tst (a i : Nat) : (latchEvent a i s).tst = s.tst := rfl
@[simp] theorem latchEvent_pwr (a i : Nat) : (latchEvent a i s).pwr = s.pwr := rfl

@[simp] theorem updCell_pending (k : Nat) (f : Cell → Cell) : (updCell k f s).pending = s.pending := rfl
@[simp] theorem updCell_variant (k : Nat) (f : Cell → Cell) : (updCell k f s).variant = s.variant := rfl
@[simp] theorem updCell_now (k : Nat) (f : Cell → Cell) : (updCell k f s).now = s.now := rfl
@[simp] theorem updCell_free (k : Nat) (f : Cell → Cell) : (updCell k f s).free = s.free := rfl
@[simp] theorem updCell_regs (k : Nat) (f : Cell → Cell) : (updCell k f s).regs = s.regs := rfl
@[simp] theorem updCell_shadow (k : Nat) (f : Cell → Cell) : (updCell k f s).shadow = s.shadow := rfl
@[simp] theorem updCell_live (k : Nat) (f : Cell → Cell) : (updCell k f s).live = s.live := rfl
@[simp] theorem updCell_act (k : Nat) (f : Cell → Cell) : (updCell k f s).act = s.act := rfl
@[simp] theorem updCell_toAct (k : Nat) (f : Cell → Cell) : (updCell k f s).toAct = s.toAct := rfl
@[simp] theorem updCell_mem (k : Nat) (f : Cell → Cell) : (updCell k f s).mem = s.mem := rfl
@[simp] theorem updCell_tcm (k : Nat) (f : Cell → Cell) : (updCell k f s).tcm = s.tcm := rfl
@[simp] theorem updCell_eccBad (k : Nat) (f : Cell → Cell) : (updCell k f s).eccBad = s.eccBad := rfl
@[simp] theorem updCell_observed (k : Nat) (f : Cell → Cell) : (updCell k f s).observed = s.observed := rfl
@[simp] theorem updCell_tick (k : Nat) (f : Cell → Cell) : (updCell k f s).tick = s.tick := rfl
@[simp] theorem updCell_units (k : Nat) (f : Cell → Cell) : (updCell k f s).units = s.units := rfl
@[simp] theorem updCell_col (k : Nat) (f : Cell → Cell) : (updCell k f s).col = s.col := rfl
@[simp] theorem updCell_prc (k : Nat) (f : Cell → Cell) : (updCell k f s).prc = s.prc := rfl
@[simp] theorem updCell_legs (k : Nat) (f : Cell → Cell) : (updCell k f s).legs = s.legs := rfl
@[simp] theorem updCell_grps (k : Nat) (f : Cell → Cell) : (updCell k f s).grps = s.grps := rfl
@[simp] theorem updCell_cls (k : Nat) (f : Cell → Cell) : (updCell k f s).cls = s.cls := rfl
@[simp] theorem updCell_tbLost (k : Nat) (f : Cell → Cell) : (updCell k f s).tbLost = s.tbLost := rfl
@[simp] theorem updCell_engHalt (k : Nat) (f : Cell → Cell) : (updCell k f s).engHalt = s.engHalt := rfl
@[simp] theorem updCell_chans (k : Nat) (f : Cell → Cell) : (updCell k f s).chans = s.chans := rfl
@[simp] theorem updCell_clkLost (k : Nat) (f : Cell → Cell) : (updCell k f s).clkLost = s.clkLost := rfl
@[simp] theorem updCell_clkAt (k : Nat) (f : Cell → Cell) : (updCell k f s).clkAt = s.clkAt := rfl
@[simp] theorem updCell_cal (k : Nat) (f : Cell → Cell) : (updCell k f s).cal = s.cal := rfl
@[simp] theorem updCell_rel (k : Nat) (f : Cell → Cell) : (updCell k f s).rel = s.rel := rfl
@[simp] theorem updCell_sars (k : Nat) (f : Cell → Cell) : (updCell k f s).sars = s.sars := rfl
@[simp] theorem updCell_slots (k : Nat) (f : Cell → Cell) : (updCell k f s).slots = s.slots := rfl
@[simp] theorem updCell_refFrom (k : Nat) (f : Cell → Cell) : (updCell k f s).refFrom = s.refFrom := rfl
@[simp] theorem updCell_refAt (k : Nat) (f : Cell → Cell) : (updCell k f s).refAt = s.refAt := rfl
@[simp] theorem updCell_ports (k : Nat) (f : Cell → Cell) : (updCell k f s).ports = s.ports := rfl
@[simp] theorem updCell_cmps (k : Nat) (f : Cell → Cell) : (updCell k f s).cmps = s.cmps := rfl
@[simp] theorem updCell_ems (k : Nat) (f : Cell → Cell) : (updCell k f s).ems = s.ems := rfl
@[simp] theorem updCell_plss (k : Nat) (f : Cell → Cell) : (updCell k f s).plss = s.plss := rfl
@[simp] theorem updCell_saf (k : Nat) (f : Cell → Cell) : (updCell k f s).saf = s.saf := rfl
@[simp] theorem updCell_aux (k : Nat) (f : Cell → Cell) : (updCell k f s).aux = s.aux := rfl
@[simp] theorem updCell_spn (k : Nat) (f : Cell → Cell) : (updCell k f s).spn = s.spn := rfl
@[simp] theorem updCell_cans (k : Nat) (f : Cell → Cell) : (updCell k f s).cans = s.cans := rfl
@[simp] theorem updCell_qsps (k : Nat) (f : Cell → Cell) : (updCell k f s).qsps = s.qsps := rfl
@[simp] theorem updCell_tru (k : Nat) (f : Cell → Cell) : (updCell k f s).tru = s.tru := rfl
@[simp] theorem updCell_tst (k : Nat) (f : Cell → Cell) : (updCell k f s).tst = s.tst := rfl
@[simp] theorem updCell_pwr (k : Nat) (f : Cell → Cell) : (updCell k f s).pwr = s.pwr := rfl

@[simp] theorem updScr_pending (k : Nat) (f : Scr → Scr) : (updScr k f s).pending = s.pending := rfl
@[simp] theorem updScr_variant (k : Nat) (f : Scr → Scr) : (updScr k f s).variant = s.variant := rfl
@[simp] theorem updScr_now (k : Nat) (f : Scr → Scr) : (updScr k f s).now = s.now := rfl
@[simp] theorem updScr_free (k : Nat) (f : Scr → Scr) : (updScr k f s).free = s.free := rfl
@[simp] theorem updScr_regs (k : Nat) (f : Scr → Scr) : (updScr k f s).regs = s.regs := rfl
@[simp] theorem updScr_shadow (k : Nat) (f : Scr → Scr) : (updScr k f s).shadow = s.shadow := rfl
@[simp] theorem updScr_live (k : Nat) (f : Scr → Scr) : (updScr k f s).live = s.live := rfl
@[simp] theorem updScr_act (k : Nat) (f : Scr → Scr) : (updScr k f s).act = s.act := rfl
@[simp] theorem updScr_toAct (k : Nat) (f : Scr → Scr) : (updScr k f s).toAct = s.toAct := rfl
@[simp] theorem updScr_mem (k : Nat) (f : Scr → Scr) : (updScr k f s).mem = s.mem := rfl
@[simp] theorem updScr_tcm (k : Nat) (f : Scr → Scr) : (updScr k f s).tcm = s.tcm := rfl
@[simp] theorem updScr_eccBad (k : Nat) (f : Scr → Scr) : (updScr k f s).eccBad = s.eccBad := rfl
@[simp] theorem updScr_observed (k : Nat) (f : Scr → Scr) : (updScr k f s).observed = s.observed := rfl
@[simp] theorem updScr_tick (k : Nat) (f : Scr → Scr) : (updScr k f s).tick = s.tick := rfl
@[simp] theorem updScr_units (k : Nat) (f : Scr → Scr) : (updScr k f s).units = s.units := rfl
@[simp] theorem updScr_col (k : Nat) (f : Scr → Scr) : (updScr k f s).col = s.col := rfl
@[simp] theorem updScr_prc (k : Nat) (f : Scr → Scr) : (updScr k f s).prc = s.prc := rfl
@[simp] theorem updScr_legs (k : Nat) (f : Scr → Scr) : (updScr k f s).legs = s.legs := rfl
@[simp] theorem updScr_grps (k : Nat) (f : Scr → Scr) : (updScr k f s).grps = s.grps := rfl
@[simp] theorem updScr_cls (k : Nat) (f : Scr → Scr) : (updScr k f s).cls = s.cls := rfl
@[simp] theorem updScr_tbLost (k : Nat) (f : Scr → Scr) : (updScr k f s).tbLost = s.tbLost := rfl
@[simp] theorem updScr_engHalt (k : Nat) (f : Scr → Scr) : (updScr k f s).engHalt = s.engHalt := rfl
@[simp] theorem updScr_chans (k : Nat) (f : Scr → Scr) : (updScr k f s).chans = s.chans := rfl
@[simp] theorem updScr_clkLost (k : Nat) (f : Scr → Scr) : (updScr k f s).clkLost = s.clkLost := rfl
@[simp] theorem updScr_clkAt (k : Nat) (f : Scr → Scr) : (updScr k f s).clkAt = s.clkAt := rfl
@[simp] theorem updScr_cal (k : Nat) (f : Scr → Scr) : (updScr k f s).cal = s.cal := rfl
@[simp] theorem updScr_rel (k : Nat) (f : Scr → Scr) : (updScr k f s).rel = s.rel := rfl
@[simp] theorem updScr_sars (k : Nat) (f : Scr → Scr) : (updScr k f s).sars = s.sars := rfl
@[simp] theorem updScr_slots (k : Nat) (f : Scr → Scr) : (updScr k f s).slots = s.slots := rfl
@[simp] theorem updScr_refFrom (k : Nat) (f : Scr → Scr) : (updScr k f s).refFrom = s.refFrom := rfl
@[simp] theorem updScr_refAt (k : Nat) (f : Scr → Scr) : (updScr k f s).refAt = s.refAt := rfl
@[simp] theorem updScr_ports (k : Nat) (f : Scr → Scr) : (updScr k f s).ports = s.ports := rfl
@[simp] theorem updScr_cmps (k : Nat) (f : Scr → Scr) : (updScr k f s).cmps = s.cmps := rfl
@[simp] theorem updScr_ems (k : Nat) (f : Scr → Scr) : (updScr k f s).ems = s.ems := rfl
@[simp] theorem updScr_plss (k : Nat) (f : Scr → Scr) : (updScr k f s).plss = s.plss := rfl
@[simp] theorem updScr_saf (k : Nat) (f : Scr → Scr) : (updScr k f s).saf = s.saf := rfl
@[simp] theorem updScr_aux (k : Nat) (f : Scr → Scr) : (updScr k f s).aux = s.aux := rfl
@[simp] theorem updScr_spn (k : Nat) (f : Scr → Scr) : (updScr k f s).spn = s.spn := rfl
@[simp] theorem updScr_cans (k : Nat) (f : Scr → Scr) : (updScr k f s).cans = s.cans := rfl
@[simp] theorem updScr_qsps (k : Nat) (f : Scr → Scr) : (updScr k f s).qsps = s.qsps := rfl
@[simp] theorem updScr_tru (k : Nat) (f : Scr → Scr) : (updScr k f s).tru = s.tru := rfl
@[simp] theorem updScr_tst (k : Nat) (f : Scr → Scr) : (updScr k f s).tst = s.tst := rfl
@[simp] theorem updScr_pwr (k : Nat) (f : Scr → Scr) : (updScr k f s).pwr = s.pwr := rfl

end Sys2Proof.Machine
end

