-- ==== Sys2Proof/Laws/Ops.lean ====
section
/-! SUPPORT. What each named operation of Ops does to what it writes, and that it leaves everything else alone: reads
after writes of registers, fields, instances and bytes, and the whole effect of raising an event. -/

namespace Sys2Proof.Machine
open Sys2Proof

/-! ### Registers -/

theorem reg_setReg (s : State) (a b : Nat) (v : Word) : reg (setReg a v s) b = if b = a then v else reg s b := by
  simp [reg, setReg, SMap.get_set]
@[simp] theorem reg_setReg_same (s : State) (a : Nat) (v : Word) : reg (setReg a v s) a = v := by simp [reg_setReg]
theorem reg_setReg_ne (s : State) {a b : Nat} (v : Word) (h : b ≠ a) : reg (setReg a v s) b = reg s b := by
  simp [reg_setReg, h]
theorem shad_setShad (s : State) (a b : Nat) (v : Word) : shad (setShad a v s) b = if b = a then v else shad s b := by
  simp [shad, setShad, SMap.get_set]
@[simp] theorem shad_setShad_same (s : State) (a : Nat) (v : Word) : shad (setShad a v s) a = v := by
  simp [shad_setShad]
theorem live_setLive (s : State) (a b : Nat) (v : Word) : live (setLive a v s) b = if b = a then v else live s b := by
  simp [live, setLive, SMap.get_set]

/-- Reads of the pages and registers depend on their own field of State alone. -/
theorem reg_congr {s t : State} (h : t.regs = s.regs) (a : Nat) : reg t a = reg s a := by simp [reg, h]
theorem fld_congr {s t : State} (h : t.regs = s.regs) (f : Fld) : fld t f = fld s f := by simp [fld, reg, h]
theorem shad_congr {s t : State} (h : t.shadow = s.shadow) (a : Nat) : shad t a = shad s a := by simp [shad, h]
theorem live_congr {s t : State} (h : t.live = s.live) (a : Nat) : live t a = live s a := by simp [live, h]
theorem lfld_congr {s t : State} (h : t.live = s.live) (f : Fld) : lfld t f = lfld s f := by simp [lfld, live, h]
theorem act_congr {s t : State} (h : t.act = s.act) (a : Nat) : act t a = act s a := by simp [act, h]
theorem afld_congr {s t : State} (h : t.act = s.act) (f : Fld) : afld t f = afld s f := by simp [afld, act, h]

/-! ### Fields -/

/-- A field after it has been put into a number. -/
theorem bits_setBits (n lo w v : Nat) : bits (setBits n lo w v) lo w = v % 2 ^ w := by
  unfold setBits bits
  have hb : (n >>> lo % 2 ^ w) <<< lo ≤ n := by
    rw [Nat.shiftLeft_eq, Nat.shiftRight_eq_div_pow]
    calc n / 2 ^ lo % 2 ^ w * 2 ^ lo ≤ n / 2 ^ lo * 2 ^ lo := Nat.mul_le_mul_right _ (Nat.mod_le _ _)
      _ ≤ n := Nat.div_mul_le_self _ _
  have hsplit : n - (n >>> lo % 2 ^ w) <<< lo = n % 2 ^ lo + 2 ^ lo * (2 ^ w * (n / 2 ^ lo / 2 ^ w)) := by
    rw [Nat.shiftLeft_eq, Nat.shiftRight_eq_div_pow]
    have h1 := Nat.mod_add_div n (2 ^ lo)
    have h2 := Nat.mod_add_div (n / 2 ^ lo) (2 ^ w)
    have h3 : n = n % 2 ^ lo + 2 ^ lo * (n / 2 ^ lo % 2 ^ w + 2 ^ w * (n / 2 ^ lo / 2 ^ w)) := by rw [h2, h1]
    rw [Nat.mul_add] at h3
    rw [Nat.mul_comm (n / 2 ^ lo % 2 ^ w)]
    omega
  rw [hsplit, Nat.shiftRight_eq_div_pow, Nat.shiftLeft_eq]
  have hp : 0 < 2 ^ lo := Nat.two_pow_pos lo
  have e : (n % 2 ^ lo + 2 ^ lo * (2 ^ w * (n / 2 ^ lo / 2 ^ w)) + v % 2 ^ w * 2 ^ lo) =
      n % 2 ^ lo + 2 ^ lo * (2 ^ w * (n / 2 ^ lo / 2 ^ w) + v % 2 ^ w) := by ring
  rw [e, Nat.add_mul_div_left _ _ hp, Nat.div_eq_of_lt (Nat.mod_lt _ hp), Nat.zero_add, Nat.add_comm,
    Nat.add_mul_mod_self_left, Nat.mod_mod]

/-- Two fields of one number that do not overlap. -/
theorem bits_setBits_above (n lo w v lo' w' : Nat) (h : lo + w ≤ lo') : bits (setBits n lo w v) lo' w' = bits n lo' w' := by
  have hp : 0 < 2 ^ lo := Nat.two_pow_pos lo
  have hsplit : n - (n >>> lo % 2 ^ w) <<< lo = n % 2 ^ lo + 2 ^ lo * (2 ^ w * (n / 2 ^ lo / 2 ^ w)) := by
    rw [Nat.shiftLeft_eq, Nat.shiftRight_eq_div_pow]
    have h1 := Nat.mod_add_div n (2 ^ lo)
    have h2 := Nat.mod_add_div (n / 2 ^ lo) (2 ^ w)
    have h3 : n = n % 2 ^ lo + 2 ^ lo * (n / 2 ^ lo % 2 ^ w + 2 ^ w * (n / 2 ^ lo / 2 ^ w)) := by rw [h2, h1]
    rw [Nat.mul_add] at h3
    rw [Nat.mul_comm (n / 2 ^ lo % 2 ^ w)]
    omega
  have key : setBits n lo w v / 2 ^ (lo + w) = n / 2 ^ (lo + w) := by
    unfold setBits bits
    rw [hsplit, Nat.shiftLeft_eq, Nat.pow_add, ← Nat.div_div_eq_div_mul, ← Nat.div_div_eq_div_mul]
    have e : (n % 2 ^ lo + 2 ^ lo * (2 ^ w * (n / 2 ^ lo / 2 ^ w)) + v % 2 ^ w * 2 ^ lo) =
        n % 2 ^ lo + 2 ^ lo * (v % 2 ^ w + 2 ^ w * (n / 2 ^ lo / 2 ^ w)) := by ring
    rw [e, Nat.add_mul_div_left _ _ hp, Nat.div_eq_of_lt (Nat.mod_lt _ hp), Nat.zero_add,
      Nat.add_mul_div_left _ _ (Nat.two_pow_pos w), Nat.div_eq_of_lt (Nat.mod_lt _ (Nat.two_pow_pos w)), Nat.zero_add]
  unfold bits
  obtain ⟨k, rfl⟩ := Nat.exists_eq_add_of_le h
  rw [Nat.shiftRight_eq_div_pow, Nat.shiftRight_eq_div_pow, Nat.pow_add 2 (lo + w) k, ← Nat.div_div_eq_div_mul,
    ← Nat.div_div_eq_div_mul, key]

theorem bits_setBits_below (n lo w v lo' w' : Nat) (h : lo' + w' ≤ lo) : bits (setBits n lo w v) lo' w' = bits n lo' w' := by
  have hp : 0 < 2 ^ lo := Nat.two_pow_pos lo
  have hsplit : n - (n >>> lo % 2 ^ w) <<< lo = n % 2 ^ lo + 2 ^ lo * (2 ^ w * (n / 2 ^ lo / 2 ^ w)) := by
    rw [Nat.shiftLeft_eq, Nat.shiftRight_eq_div_pow]
    have h1 := Nat.mod_add_div n (2 ^ lo)
    have h2 := Nat.mod_add_div (n / 2 ^ lo) (2 ^ w)
    have h3 : n = n % 2 ^ lo + 2 ^ lo * (n / 2 ^ lo % 2 ^ w + 2 ^ w * (n / 2 ^ lo / 2 ^ w)) := by rw [h2, h1]
    rw [Nat.mul_add] at h3
    rw [Nat.mul_comm (n / 2 ^ lo % 2 ^ w)]
    omega
  have key : setBits n lo w v % 2 ^ lo = n % 2 ^ lo := by
    unfold setBits bits
    rw [hsplit, Nat.shiftLeft_eq]
    have e : (n % 2 ^ lo + 2 ^ lo * (2 ^ w * (n / 2 ^ lo / 2 ^ w)) + v % 2 ^ w * 2 ^ lo) =
        n % 2 ^ lo + 2 ^ lo * (v % 2 ^ w + 2 ^ w * (n / 2 ^ lo / 2 ^ w)) := by ring
    rw [e, Nat.add_mul_mod_self_left, Nat.mod_mod]
  have bit : ∀ i, i < lo → (setBits n lo w v).testBit i = n.testBit i := by
    intro i hi
    have := congrArg (fun m => m.testBit i) key
    simpa [Nat.testBit_mod_two_pow, hi] using this
  unfold bits
  apply Nat.eq_of_testBit_eq
  intro i
  simp only [Nat.testBit_mod_two_pow, Nat.testBit_shiftRight]
  by_cases hi : i < w'
  · rw [bit (lo' + i) (by omega)]
  · simp [hi]

theorem bits_lt (n lo w : Nat) : bits n lo w < 2 ^ w := Nat.mod_lt _ (Nat.two_pow_pos w)

theorem setBits_lt (n lo w v : Nat) (hn : n < 2 ^ 32) (h : lo + w ≤ 32) : setBits n lo w v < 2 ^ 32 := by
  have hb := bits_setBits_above n lo w v 32 1 (by omega)
  have key : setBits n lo w v / 2 ^ (lo + w) = n / 2 ^ (lo + w) := by
    apply Nat.eq_of_testBit_eq
    intro i
    have := bits_setBits_above n lo w v (lo + w + i) 1 (by omega)
    simp only [bits, Nat.shiftRight_eq_div_pow, pow_one] at this
    simp only [Nat.testBit_eq_decide_div_mod_eq, Nat.div_div_eq_div_mul, ← Nat.pow_add, this]
  have h2 : setBits n lo w v / 2 ^ (lo + w) < 2 ^ (32 - (lo + w)) := by
    rw [key]
    apply Nat.div_lt_of_lt_mul
    rw [← Nat.pow_add, Nat.add_sub_of_le h]
    exact hn
  have := Nat.lt_mul_of_div_lt h2 (Nat.two_pow_pos (lo + w))
  rwa [← Nat.pow_add, Nat.sub_add_cancel h] at this

/-- A field of a word fits it. -/
def Fld.fits (f : Fld) : Prop := f.lsb + f.width ≤ 32

theorem Fld.of_put (f : Fld) (v : Nat) (w : Word) (h : f.fits) : f.of (f.put v w) = v % 2 ^ f.width := by
  unfold Fld.of Fld.put
  rw [BitVec.toNat_ofNat, Nat.mod_eq_of_lt (setBits_lt _ _ _ _ w.isLt h), bits_setBits]

/-- A field that lies elsewhere in the word keeps its value. -/
theorem Fld.of_put_other (f g : Fld) (v : Nat) (w : Word) (h : f.fits) (hd : f.lsb + f.width ≤ g.lsb ∨ g.lsb + g.width ≤ f.lsb) :
    g.of (f.put v w) = g.of w := by
  unfold Fld.of Fld.put
  rw [BitVec.toNat_ofNat, Nat.mod_eq_of_lt (setBits_lt _ _ _ _ w.isLt h)]
  rcases hd with hd | hd
  · exact bits_setBits_above _ _ _ _ _ _ hd
  · exact bits_setBits_below _ _ _ _ _ _ hd

theorem fld_setFld_same (s : State) (f : Fld) (v : Nat) (h : f.fits) : fld (setFld f v s) f = v % 2 ^ f.width := by
  simp [fld, setFld, Fld.of_put f v _ h]

theorem fld_setFld_reg (s : State) (f g : Fld) (v : Nat) (h : g.reg ≠ f.reg) : fld (setFld f v s) g = fld s g := by
  simp [fld, setFld, reg_setReg_ne _ _ h]

theorem fld_setFld_other (s : State) (f g : Fld) (v : Nat) (h : f.fits)
    (hd : f.lsb + f.width ≤ g.lsb ∨ g.lsb + g.width ≤ f.lsb) : fld (setFld f v s) g = fld s g := by
  by_cases hr : g.reg = f.reg
  · simp only [fld, setFld, hr, reg_setReg_same, Fld.of_put_other f g v _ h hd]
  · exact fld_setFld_reg s f g v hr

theorem reg_setFld_ne (s : State) (f : Fld) (v a : Nat) (h : a ≠ f.reg) : reg (setFld f v s) a = reg s a := by
  simp [setFld, reg_setReg_ne _ _ h]

theorem fld_lt (s : State) (f : Fld) : fld s f < 2 ^ f.width := bits_lt _ _ _

/-! ### Instances -/

theorem unit_updUnit (s : State) (k j : Nat) (f : UnitSt → UnitSt) :
    unit (updUnit k f s) j = if j = k then f (unit s k) else unit s j := by simp [unit, updUnit, SMap.get_set]
theorem leg_updLeg (s : State) (k j : Nat) (f : LegSt → LegSt) :
    leg (updLeg k f s) j = if j = k then f (leg s k) else leg s j := by simp [leg, updLeg, SMap.get_set]
theorem grp_updGrp (s : State) (k j : Nat) (f : GrpSt → GrpSt) :
    grp (updGrp k f s) j = if j = k then f (grp s k) else grp s j := by simp [grp, updGrp, SMap.get_set]
theorem cl_updCl (s : State) (k j : Nat) (f : ClSt → ClSt) :
    cl (updCl k f s) j = if j = k then f (cl s k) else cl s j := by simp [cl, updCl, SMap.get_set]
theorem chan_updChan (s : State) (k j : Nat) (f : ChSt → ChSt) :
    chan (updChan k f s) j = if j = k then f (chan s k) else chan s j := by simp [chan, updChan, SMap.get_set]
theorem sar_updSar (s : State) (k j : Nat) (f : SarSt → SarSt) :
    sar (updSar k f s) j = if j = k then f (sar s k) else sar s j := by simp [sar, updSar, SMap.get_set]
theorem slot_updSlot (s : State) (k j : Nat) (f : SlotSt → SlotSt) :
    slot (updSlot k f s) j = if j = k then f (slot s k) else slot s j := by simp [slot, updSlot, SMap.get_set]
theorem port_updPort (s : State) (k j : Nat) (f : PortSt → PortSt) :
    port (updPort k f s) j = if j = k then f (port s k) else port s j := by simp [port, updPort, SMap.get_set]
theorem cmpo_updCmp (s : State) (k j : Nat) (f : CmpSt → CmpSt) :
    cmpo (updCmp k f s) j = if j = k then f (cmpo s k) else cmpo s j := by simp [cmpo, updCmp, SMap.get_set]
theorem em_updEm (s : State) (k j : Nat) (f : EmSt → EmSt) :
    em (updEm k f s) j = if j = k then f (em s k) else em s j := by simp [em, updEm, SMap.get_set]
theorem pls_updPls (s : State) (k j : Nat) (f : PlsSt → PlsSt) :
    pls (updPls k f s) j = if j = k then f (pls s k) else pls s j := by simp [pls, updPls, SMap.get_set]
theorem sin_updSin (s : State) (k j : Nat) (f : SinSt → SinSt) :
    sin (updSin k f s) j = if j = k then f (sin s k) else sin s j := by simp [sin, updSin, SMap.get_set]
theorem sout_updSout (s : State) (k j : Nat) (f : SoutSt → SoutSt) :
    sout (updSout k f s) j = if j = k then f (sout s k) else sout s j := by simp [sout, updSout, SMap.get_set]
theorem link_updLink (s : State) (k j : Nat) (f : LinkSt → LinkSt) :
    link (updLink k f s) j = if j = k then f (link s k) else link s j := by simp [link, updLink, SMap.get_set]
theorem memb_updMemb (s : State) (k j : Nat) (f : MembSt → MembSt) :
    memb (updMemb k f s) j = if j = k then f (memb s k) else memb s j := by simp [memb, updMemb, SMap.get_set]
theorem spq_updSpq (s : State) (k j : Nat) (f : QSt → QSt) :
    spq (updSpq k f s) j = if j = k then f (spq s k) else spq s j := by simp [spq, updSpq, SMap.get_set]
theorem can_updCan (s : State) (k j : Nat) (f : CanSt → CanSt) :
    can (updCan k f s) j = if j = k then f (can s k) else can s j := by simp [can, updCan, SMap.get_set]
theorem qsp_updQsp (s : State) (k j : Nat) (f : QspSt → QspSt) :
    qsp (updQsp k f s) j = if j = k then f (qsp s k) else qsp s j := by simp [qsp, updQsp, SMap.get_set]
theorem cell_updCell (s : State) (k j : Nat) (f : Cell → Cell) :
    cell (updCell k f s) j = if j = k then f (cell s k) else cell s j := by simp [cell, updCell, updEng, SMap.get_set]

/-! ### Bytes -/

theorem rdByte_wrByte (s : State) (a b : Nat) (v : Byte) : rdByte (wrByte a v s) b = if b = a then v else rdByte s b := by
  simp [rdByte, wrByte, SMap.get_set]
theorem rdTcm_wrTcm (s : State) (a b : Nat) (v : Byte) : rdTcm (wrTcm a v s) b = if b = a then v else rdTcm s b := by
  simp [rdTcm, wrTcm, SMap.get_set]

/-- A byte after a run of bytes has been written: the byte of the run, or as before outside it. -/
theorem rdByte_wrBytes (bs : List Byte) : ∀ (s : State) (a b : Nat), rdByte (wrBytes a bs s) b =
    if a ≤ b ∧ b < a + bs.length then bs.getD (b - a) 0#8 else rdByte s b := by
  induction bs with
  | nil => intro s a b; simp [wrBytes]
  | cons v r ih =>
    intro s a b
    rw [wrBytes, ih]
    by_cases h : a + 1 ≤ b ∧ b < a + 1 + r.length
    · have e : b - a = b - (a + 1) + 1 := by omega
      have h' : a ≤ b ∧ b < a + (v :: r).length := by simp; omega
      rw [if_pos h, if_pos h', e, List.getD_cons_succ]
    · rw [if_neg h, rdByte_wrByte]
      by_cases hb : b = a
      · subst hb; simp
      · have h' : ¬ (a ≤ b ∧ b < a + (v :: r).length) := by simp; omega
        rw [if_neg hb, if_neg h']

/-- The writes of bytes keep the canonical form of both byte memories. -/
theorem wrByte_wf (s : State) (a : Nat) (v : Byte) (h : SMap.wf memD s.mem = true) :
    SMap.wf memD (wrByte a v s).mem = true := SMap.set_wf _ _ _ _ h
theorem wrTcm_wf (s : State) (a : Nat) (v : Byte) (h : SMap.wf tcmD s.tcm = true) :
    SMap.wf tcmD (wrTcm a v s).tcm = true := SMap.set_wf _ _ _ _ h
theorem wrBytes_wf (bs : List Byte) : ∀ (s : State) (a : Nat), SMap.wf memD s.mem = true →
    SMap.wf memD (wrBytes a bs s).mem = true := by
  induction bs with
  | nil => intro s a h; exact h
  | cons v r ih => intro s a h; exact ih _ _ (wrByte_wf s a v h)
theorem wrTcms_wf (bs : List Byte) : ∀ (s : State) (k : Nat), SMap.wf tcmD s.tcm = true →
    SMap.wf tcmD (wrTcms k bs s).tcm = true := by
  induction bs with
  | nil => intro s a h; exact h
  | cons v r ih => intro s a h; exact ih _ _ (wrTcm_wf s a v h)

/-! ### Loops -/

/-- What every iteration keeps, the loop keeps. -/
theorem forAll_keeps {α : Type} (P : State → Prop) (xs : List α) (f : α → State → State)
    (h : ∀ x ∈ xs, ∀ s, P s → P (f x s)) : ∀ s, P s → P (forAll xs f s) := by
  induction xs with
  | nil => intro s hs; exact hs
  | cons x xs ih =>
    intro s hs
    exact ih (fun y hy => h y (List.mem_cons_of_mem _ hy)) _ (h x List.mem_cons_self s hs)

/-- What no iteration changes, the loop does not change. -/
theorem forAll_same {α β : Type} (g : State → β) (xs : List α) (f : α → State → State)
    (h : ∀ x ∈ xs, ∀ s, g (f x s) = g s) (s : State) : g (forAll xs f s) = g s :=
  forAll_keeps (fun t => g t = g s) xs f (fun x hx t ht => (h x hx t).trans ht) s rfl

/-! ### Events -/

/-- The register that holds an event's latch lies in the EVR window. -/
theorem pendReg_window (c e : Nat) (hc : c < 7) (he : e < 640) : pendReg c e / 0x10000 = 0x4003 := by
  unfold pendReg EVR_PEND
  omega

/-- Raising an event changes latches and observed marks of EVR and the spine's event queue, and nothing else. -/
theorem raise_frame (e : Nat) (s : State) : ∃ r o n, raise e s = { s with regs := r, observed := o, spn := n } := by
  have hq : ∀ x : State, ∃ r o n, queueRemote e x = { x with regs := r, observed := o, spn := n } := by
    intro x
    unfold queueRemote
    split
    · exact ⟨_, _, _, rfl⟩
    · exact ⟨(incFld SPN_CNT2_EVDROP x).regs, x.observed, x.spn, rfl⟩
  unfold raise
  split
  · exact ⟨s.regs, s.observed, s.spn, rfl⟩
  · have hy : ∃ r o n, (if lflag s (EVR_ROUTE_SPINE e) then queueRemote e s else s) =
        { s with regs := r, observed := o, spn := n } := by
      split
      · exact hq s
      · exact ⟨s.regs, s.observed, s.spn, rfl⟩
    obtain ⟨r, o, n, h⟩ := hy
    dsimp only
    rw [h]
    split
    · exact ⟨r, o, n, rfl⟩
    · exact ⟨_, _, n, rfl⟩

/-- A register outside EVR and SPN keeps its value when an event is raised. -/
theorem reg_raise (e : Nat) (s : State) (a : Nat) (h3 : a / 0x10000 ≠ 0x4003) (hd : a ≠ SPN_CNT2) :
    reg (raise e s) a = reg s a := by
  have hq : ∀ x : State, reg (queueRemote e x) a = reg x a := by
    intro x
    unfold queueRemote
    split
    · rfl
    · unfold incFld
      exact reg_setFld_ne x _ _ a (by simpa [SPN_CNT2_EVDROP] using hd)
  have hl : ∀ (x : State) (b i : Nat), b ≠ a → reg (latchEvent b i x) a = reg x a := by
    intro x b i hb
    exact (reg_congr (s := setReg b _ x) rfl a).trans (reg_setReg_ne x _ (Ne.symm hb))
  unfold raise
  split
  · rfl
  · rename_i he
    have he' : e < 640 := by
      simp only [Bool.or_eq_true, decide_eq_true_eq, not_or] at he
      omega
    have hy : reg (if lflag s (EVR_ROUTE_SPINE e) then queueRemote e s else s) a = reg s a := by
      split
      · exact hq s
      · rfl
    dsimp only
    split
    · exact hy
    · rename_i hc
      have hc' : evTarget s e < 7 := by
        simp only [Bool.or_eq_true, decide_eq_true_eq, not_or] at hc
        omega
      rw [hl _ _ _ (fun hb => h3 (hb ▸ pendReg_window _ e hc' he')), hy]

theorem fld_raise (e : Nat) (s : State) (f : Fld) (h3 : f.reg / 0x10000 ≠ 0x4003) (hd : f.reg ≠ SPN_CNT2) :
    fld (raise e s) f = fld s f := by simp [fld, reg_raise e s f.reg h3 hd]

end Sys2Proof.Machine
end

