-- ==== Sys2Proof/Laws/Reads.lean ====
section
/-! SUPPORT. What is read after each named update: one lemma per read and update that do not meet. -/

namespace Sys2Proof.Machine
open Sys2Proof

variable (s : State)


@[simp] theorem reg_upto (t : Time) (b : Nat) : reg (upto t s) b = reg s b := rfl
@[simp] theorem fld_upto (t : Time) (g : Fld) : fld (upto t s) g = fld s g := rfl
@[simp] theorem shad_upto (t : Time) (b : Nat) : shad (upto t s) b = shad s b := rfl
@[simp] theorem sfld_upto (t : Time) (g : Fld) : sfld (upto t s) g = sfld s g := rfl
@[simp] theorem live_upto (t : Time) (b : Nat) : live (upto t s) b = live s b := rfl
@[simp] theorem lfld_upto (t : Time) (g : Fld) : lfld (upto t s) g = lfld s g := rfl
@[simp] theorem act_upto (t : Time) (b : Nat) : act (upto t s) b = act s b := rfl
@[simp] theorem afld_upto (t : Time) (g : Fld) : afld (upto t s) g = afld s g := rfl
@[simp] theorem rdByte_upto (t : Time) (b : Nat) : rdByte (upto t s) b = rdByte s b := rfl
@[simp] theorem rdTcm_upto (t : Time) (b : Nat) : rdTcm (upto t s) b = rdTcm s b := rfl
@[simp] theorem unit_upto (t : Time) (b : Nat) : unit (upto t s) b = unit s b := rfl
@[simp] theorem leg_upto (t : Time) (b : Nat) : leg (upto t s) b = leg s b := rfl
@[simp] theorem grp_upto (t : Time) (b : Nat) : grp (upto t s) b = grp s b := rfl
@[simp] theorem cl_upto (t : Time) (b : Nat) : cl (upto t s) b = cl s b := rfl
@[simp] theorem chan_upto (t : Time) (b : Nat) : chan (upto t s) b = chan s b := rfl
@[simp] theorem sar_upto (t : Time) (b : Nat) : sar (upto t s) b = sar s b := rfl
@[simp] theorem slot_upto (t : Time) (b : Nat) : slot (upto t s) b = slot s b := rfl
@[simp] theorem port_upto (t : Time) (b : Nat) : port (upto t s) b = port s b := rfl
@[simp] theorem cmpo_upto (t : Time) (b : Nat) : cmpo (upto t s) b = cmpo s b := rfl
@[simp] theorem em_upto (t : Time) (b : Nat) : em (upto t s) b = em s b := rfl
@[simp] theorem pls_upto (t : Time) (b : Nat) : pls (upto t s) b = pls s b := rfl
@[simp] theorem sin_upto (t : Time) (b : Nat) : sin (upto t s) b = sin s b := rfl
@[simp] theorem sout_upto (t : Time) (b : Nat) : sout (upto t s) b = sout s b := rfl
@[simp] theorem link_upto (t : Time) (b : Nat) : link (upto t s) b = link s b := rfl
@[simp] theorem memb_upto (t : Time) (b : Nat) : memb (upto t s) b = memb s b := rfl
@[simp] theorem spq_upto (t : Time) (b : Nat) : spq (upto t s) b = spq s b := rfl
@[simp] theorem can_upto (t : Time) (b : Nat) : can (upto t s) b = can s b := rfl
@[simp] theorem qsp_upto (t : Time) (b : Nat) : qsp (upto t s) b = qsp s b := rfl
@[simp] theorem cell_upto (t : Time) (b : Nat) : cell (upto t s) b = cell s b := rfl
@[simp] theorem scr_upto (t : Time) (b : Nat) : scr (upto t s) b = scr s b := rfl
@[simp] theorem sample_upto (t : Time) (b : Nat) : sample (upto t s) b = sample s b := rfl
@[simp] theorem latched_upto (t : Time) (b : Nat) : latched (upto t s) b = latched s b := rfl
@[simp] theorem pairState_upto (t : Time) (b : Nat) : pairState (upto t s) b = pairState s b := rfl
@[simp] theorem ticking_upto (t : Time) : ticking (upto t s) = ticking s := rfl
@[simp] theorem is9610_upto (t : Time) : is9610 (upto t s) = is9610 s := rfl
@[simp] theorem hasUnit_upto (t : Time) (b : Nat) : hasUnit (upto t s) b = hasUnit s b := rfl
@[simp] theorem hasLeg_upto (t : Time) (b : Nat) : hasLeg (upto t s) b = hasLeg s b := rfl
@[simp] theorem hasCluster_upto (t : Time) (b : Nat) : hasCluster (upto t s) b = hasCluster s b := rfl
@[simp] theorem hasBs_upto (t : Time) (b : Nat) : hasBs (upto t s) b = hasBs s b := rfl
@[simp] theorem hasClk_upto (t : Time) (b : Nat) : hasClk (upto t s) b = hasClk s b := rfl
@[simp] theorem hasPort_upto (t : Time) (b : Nat) : hasPort (upto t s) b = hasPort s b := rfl
@[simp] theorem hasSp_upto (t : Time) (b : Nat) : hasSp (upto t s) b = hasSp s b := rfl
@[simp] theorem hasCan_upto (t : Time) (b : Nat) : hasCan (upto t s) b = hasCan s b := rfl
@[simp] theorem deadEvent_upto (t : Time) (b : Nat) : deadEvent (upto t s) b = deadEvent s b := rfl

@[simp] theorem reg_spend (b : Nat) : reg (spend s) b = reg s b := rfl
@[simp] theorem fld_spend (g : Fld) : fld (spend s) g = fld s g := rfl
@[simp] theorem shad_spend (b : Nat) : shad (spend s) b = shad s b := rfl
@[simp] theorem sfld_spend (g : Fld) : sfld (spend s) g = sfld s g := rfl
@[simp] theorem live_spend (b : Nat) : live (spend s) b = live s b := rfl
@[simp] theorem lfld_spend (g : Fld) : lfld (spend s) g = lfld s g := rfl
@[simp] theorem act_spend (b : Nat) : act (spend s) b = act s b := rfl
@[simp] theorem afld_spend (g : Fld) : afld (spend s) g = afld s g := rfl
@[simp] theorem rdByte_spend (b : Nat) : rdByte (spend s) b = rdByte s b := rfl
@[simp] theorem rdTcm_spend (b : Nat) : rdTcm (spend s) b = rdTcm s b := rfl
@[simp] theorem unit_spend (b : Nat) : unit (spend s) b = unit s b := rfl
@[simp] theorem leg_spend (b : Nat) : leg (spend s) b = leg s b := rfl
@[simp] theorem grp_spend (b : Nat) : grp (spend s) b = grp s b := rfl
@[simp] theorem cl_spend (b : Nat) : cl (spend s) b = cl s b := rfl
@[simp] theorem chan_spend (b : Nat) : chan (spend s) b = chan s b := rfl
@[simp] theorem sar_spend (b : Nat) : sar (spend s) b = sar s b := rfl
@[simp] theorem slot_spend (b : Nat) : slot (spend s) b = slot s b := rfl
@[simp] theorem port_spend (b : Nat) : port (spend s) b = port s b := rfl
@[simp] theorem cmpo_spend (b : Nat) : cmpo (spend s) b = cmpo s b := rfl
@[simp] theorem em_spend (b : Nat) : em (spend s) b = em s b := rfl
@[simp] theorem pls_spend (b : Nat) : pls (spend s) b = pls s b := rfl
@[simp] theorem sin_spend (b : Nat) : sin (spend s) b = sin s b := rfl
@[simp] theorem sout_spend (b : Nat) : sout (spend s) b = sout s b := rfl
@[simp] theorem link_spend (b : Nat) : link (spend s) b = link s b := rfl
@[simp] theorem memb_spend (b : Nat) : memb (spend s) b = memb s b := rfl
@[simp] theorem spq_spend (b : Nat) : spq (spend s) b = spq s b := rfl
@[simp] theorem can_spend (b : Nat) : can (spend s) b = can s b := rfl
@[simp] theorem qsp_spend (b : Nat) : qsp (spend s) b = qsp s b := rfl
@[simp] theorem cell_spend (b : Nat) : cell (spend s) b = cell s b := rfl
@[simp] theorem scr_spend (b : Nat) : scr (spend s) b = scr s b := rfl
@[simp] theorem sample_spend (b : Nat) : sample (spend s) b = sample s b := rfl
@[simp] theorem latched_spend (b : Nat) : latched (spend s) b = latched s b := rfl
@[simp] theorem pairState_spend (b : Nat) : pairState (spend s) b = pairState s b := rfl
@[simp] theorem ticking_spend : ticking (spend s) = ticking s := rfl
@[simp] theorem is9610_spend : is9610 (spend s) = is9610 s := rfl
@[simp] theorem hasUnit_spend (b : Nat) : hasUnit (spend s) b = hasUnit s b := rfl
@[simp] theorem hasLeg_spend (b : Nat) : hasLeg (spend s) b = hasLeg s b := rfl
@[simp] theorem hasCluster_spend (b : Nat) : hasCluster (spend s) b = hasCluster s b := rfl
@[simp] theorem hasBs_spend (b : Nat) : hasBs (spend s) b = hasBs s b := rfl
@[simp] theorem hasClk_spend (b : Nat) : hasClk (spend s) b = hasClk s b := rfl
@[simp] theorem hasPort_spend (b : Nat) : hasPort (spend s) b = hasPort s b := rfl
@[simp] theorem hasSp_spend (b : Nat) : hasSp (spend s) b = hasSp s b := rfl
@[simp] theorem hasCan_spend (b : Nat) : hasCan (spend s) b = hasCan s b := rfl
@[simp] theorem deadEvent_spend (b : Nat) : deadEvent (spend s) b = deadEvent s b := rfl

@[simp] theorem shad_setReg (a : Nat) (v : Word) (b : Nat) : shad (setReg a v s) b = shad s b := rfl
@[simp] theorem sfld_setReg (a : Nat) (v : Word) (g : Fld) : sfld (setReg a v s) g = sfld s g := rfl
@[simp] theorem live_setReg (a : Nat) (v : Word) (b : Nat) : live (setReg a v s) b = live s b := rfl
@[simp] theorem lfld_setReg (a : Nat) (v : Word) (g : Fld) : lfld (setReg a v s) g = lfld s g := rfl
@[simp] theorem act_setReg (a : Nat) (v : Word) (b : Nat) : act (setReg a v s) b = act s b := rfl
@[simp] theorem afld_setReg (a : Nat) (v : Word) (g : Fld) : afld (setReg a v s) g = afld s g := rfl
@[simp] theorem rdByte_setReg (a : Nat) (v : Word) (b : Nat) : rdByte (setReg a v s) b = rdByte s b := rfl
@[simp] theorem rdTcm_setReg (a : Nat) (v : Word) (b : Nat) : rdTcm (setReg a v s) b = rdTcm s b := rfl
@[simp] theorem unit_setReg (a : Nat) (v : Word) (b : Nat) : unit (setReg a v s) b = unit s b := rfl
@[simp] theorem leg_setReg (a : Nat) (v : Word) (b : Nat) : leg (setReg a v s) b = leg s b := rfl
@[simp] theorem grp_setReg (a : Nat) (v : Word) (b : Nat) : grp (setReg a v s) b = grp s b := rfl
@[simp] theorem cl_setReg (a : Nat) (v : Word) (b : Nat) : cl (setReg a v s) b = cl s b := rfl
@[simp] theorem chan_setReg (a : Nat) (v : Word) (b : Nat) : chan (setReg a v s) b = chan s b := rfl
@[simp] theorem sar_setReg (a : Nat) (v : Word) (b : Nat) : sar (setReg a v s) b = sar s b := rfl
@[simp] theorem slot_setReg (a : Nat) (v : Word) (b : Nat) : slot (setReg a v s) b = slot s b := rfl
@[simp] theorem port_setReg (a : Nat) (v : Word) (b : Nat) : port (setReg a v s) b = port s b := rfl
@[simp] theorem cmpo_setReg (a : Nat) (v : Word) (b : Nat) : cmpo (setReg a v s) b = cmpo s b := rfl
@[simp] theorem em_setReg (a : Nat) (v : Word) (b : Nat) : em (setReg a v s) b = em s b := rfl
@[simp] theorem pls_setReg (a : Nat) (v : Word) (b : Nat) : pls (setReg a v s) b = pls s b := rfl
@[simp] theorem sin_setReg (a : Nat) (v : Word) (b : Nat) : sin (setReg a v s) b = sin s b := rfl
@[simp] theorem sout_setReg (a : Nat) (v : Word) (b : Nat) : sout (setReg a v s) b = sout s b := rfl
@[simp] theorem link_setReg (a : Nat) (v : Word) (b : Nat) : link (setReg a v s) b = link s b := rfl
@[simp] theorem memb_setReg (a : Nat) (v : Word) (b : Nat) : memb (setReg a v s) b = memb s b := rfl
@[simp] theorem spq_setReg (a : Nat) (v : Word) (b : Nat) : spq (setReg a v s) b = spq s b := rfl
@[simp] theorem can_setReg (a : Nat) (v : Word) (b : Nat) : can (setReg a v s) b = can s b := rfl
@[simp] theorem qsp_setReg (a : Nat) (v : Word) (b : Nat) : qsp (setReg a v s) b = qsp s b := rfl
@[simp] theorem cell_setReg (a : Nat) (v : Word) (b : Nat) : cell (setReg a v s) b = cell s b := rfl
@[simp] theorem scr_setReg (a : Nat) (v : Word) (b : Nat) : scr (setReg a v s) b = scr s b := rfl
@[simp] theorem sample_setReg (a : Nat) (v : Word) (b : Nat) : sample (setReg a v s) b = sample s b := rfl
@[simp] theorem latched_setReg (a : Nat) (v : Word) (b : Nat) : latched (setReg a v s) b = latched s b := rfl
@[simp] theorem ticking_setReg (a : Nat) (v : Word) : ticking (setReg a v s) = ticking s := rfl
@[simp] theorem is9610_setReg (a : Nat) (v : Word) : is9610 (setReg a v s) = is9610 s := rfl
@[simp] theorem hasUnit_setReg (a : Nat) (v : Word) (b : Nat) : hasUnit (setReg a v s) b = hasUnit s b := rfl
@[simp] theorem hasLeg_setReg (a : Nat) (v : Word) (b : Nat) : hasLeg (setReg a v s) b = hasLeg s b := rfl
@[simp] theorem hasCluster_setReg (a : Nat) (v : Word) (b : Nat) : hasCluster (setReg a v s) b = hasCluster s b := rfl
@[simp] theorem hasBs_setReg (a : Nat) (v : Word) (b : Nat) : hasBs (setReg a v s) b = hasBs s b := rfl
@[simp] theorem hasClk_setReg (a : Nat) (v : Word) (b : Nat) : hasClk (setReg a v s) b = hasClk s b := rfl
@[simp] theorem hasPort_setReg (a : Nat) (v : Word) (b : Nat) : hasPort (setReg a v s) b = hasPort s b := rfl
@[simp] theorem hasSp_setReg (a : Nat) (v : Word) (b : Nat) : hasSp (setReg a v s) b = hasSp s b := rfl
@[simp] theorem hasCan_setReg (a : Nat) (v : Word) (b : Nat) : hasCan (setReg a v s) b = hasCan s b := rfl
@[simp] theorem deadEvent_setReg (a : Nat) (v : Word) (b : Nat) : deadEvent (setReg a v s) b = deadEvent s b := rfl

@[simp] theorem reg_setShad (a : Nat) (v : Word) (b : Nat) : reg (setShad a v s) b = reg s b := rfl
@[simp] theorem fld_setShad (a : Nat) (v : Word) (g : Fld) : fld (setShad a v s) g = fld s g := rfl
@[simp] theorem live_setShad (a : Nat) (v : Word) (b : Nat) : live (setShad a v s) b = live s b := rfl
@[simp] theorem lfld_setShad (a : Nat) (v : Word) (g : Fld) : lfld (setShad a v s) g = lfld s g := rfl
@[simp] theorem act_setShad (a : Nat) (v : Word) (b : Nat) : act (setShad a v s) b = act s b := rfl
@[simp] theorem afld_setShad (a : Nat) (v : Word) (g : Fld) : afld (setShad a v s) g = afld s g := rfl
@[simp] theorem rdByte_setShad (a : Nat) (v : Word) (b : Nat) : rdByte (setShad a v s) b = rdByte s b := rfl
@[simp] theorem rdTcm_setShad (a : Nat) (v : Word) (b : Nat) : rdTcm (setShad a v s) b = rdTcm s b := rfl
@[simp] theorem unit_setShad (a : Nat) (v : Word) (b : Nat) : unit (setShad a v s) b = unit s b := rfl
@[simp] theorem leg_setShad (a : Nat) (v : Word) (b : Nat) : leg (setShad a v s) b = leg s b := rfl
@[simp] theorem grp_setShad (a : Nat) (v : Word) (b : Nat) : grp (setShad a v s) b = grp s b := rfl
@[simp] theorem cl_setShad (a : Nat) (v : Word) (b : Nat) : cl (setShad a v s) b = cl s b := rfl
@[simp] theorem chan_setShad (a : Nat) (v : Word) (b : Nat) : chan (setShad a v s) b = chan s b := rfl
@[simp] theorem sar_setShad (a : Nat) (v : Word) (b : Nat) : sar (setShad a v s) b = sar s b := rfl
@[simp] theorem slot_setShad (a : Nat) (v : Word) (b : Nat) : slot (setShad a v s) b = slot s b := rfl
@[simp] theorem port_setShad (a : Nat) (v : Word) (b : Nat) : port (setShad a v s) b = port s b := rfl
@[simp] theorem cmpo_setShad (a : Nat) (v : Word) (b : Nat) : cmpo (setShad a v s) b = cmpo s b := rfl
@[simp] theorem em_setShad (a : Nat) (v : Word) (b : Nat) : em (setShad a v s) b = em s b := rfl
@[simp] theorem pls_setShad (a : Nat) (v : Word) (b : Nat) : pls (setShad a v s) b = pls s b := rfl
@[simp] theorem sin_setShad (a : Nat) (v : Word) (b : Nat) : sin (setShad a v s) b = sin s b := rfl
@[simp] theorem sout_setShad (a : Nat) (v : Word) (b : Nat) : sout (setShad a v s) b = sout s b := rfl
@[simp] theorem link_setShad (a : Nat) (v : Word) (b : Nat) : link (setShad a v s) b = link s b := rfl
@[simp] theorem memb_setShad (a : Nat) (v : Word) (b : Nat) : memb (setShad a v s) b = memb s b := rfl
@[simp] theorem spq_setShad (a : Nat) (v : Word) (b : Nat) : spq (setShad a v s) b = spq s b := rfl
@[simp] theorem can_setShad (a : Nat) (v : Word) (b : Nat) : can (setShad a v s) b = can s b := rfl
@[simp] theorem qsp_setShad (a : Nat) (v : Word) (b : Nat) : qsp (setShad a v s) b = qsp s b := rfl
@[simp] theorem cell_setShad (a : Nat) (v : Word) (b : Nat) : cell (setShad a v s) b = cell s b := rfl
@[simp] theorem scr_setShad (a : Nat) (v : Word) (b : Nat) : scr (setShad a v s) b = scr s b := rfl
@[simp] theorem sample_setShad (a : Nat) (v : Word) (b : Nat) : sample (setShad a v s) b = sample s b := rfl
@[simp] theorem latched_setShad (a : Nat) (v : Word) (b : Nat) : latched (setShad a v s) b = latched s b := rfl
@[simp] theorem pairState_setShad (a : Nat) (v : Word) (b : Nat) : pairState (setShad a v s) b = pairState s b := rfl
@[simp] theorem ticking_setShad (a : Nat) (v : Word) : ticking (setShad a v s) = ticking s := rfl
@[simp] theorem is9610_setShad (a : Nat) (v : Word) : is9610 (setShad a v s) = is9610 s := rfl
@[simp] theorem hasUnit_setShad (a : Nat) (v : Word) (b : Nat) : hasUnit (setShad a v s) b = hasUnit s b := rfl
@[simp] theorem hasLeg_setShad (a : Nat) (v : Word) (b : Nat) : hasLeg (setShad a v s) b = hasLeg s b := rfl
@[simp] theorem hasCluster_setShad (a : Nat) (v : Word) (b : Nat) : hasCluster (setShad a v s) b = hasCluster s b := rfl
@[simp] theorem hasBs_setShad (a : Nat) (v : Word) (b : Nat) : hasBs (setShad a v s) b = hasBs s b := rfl
@[simp] theorem hasClk_setShad (a : Nat) (v : Word) (b : Nat) : hasClk (setShad a v s) b = hasClk s b := rfl
@[simp] theorem hasPort_setShad (a : Nat) (v : Word) (b : Nat) : hasPort (setShad a v s) b = hasPort s b := rfl
@[simp] theorem hasSp_setShad (a : Nat) (v : Word) (b : Nat) : hasSp (setShad a v s) b = hasSp s b := rfl
@[simp] theorem hasCan_setShad (a : Nat) (v : Word) (b : Nat) : hasCan (setShad a v s) b = hasCan s b := rfl
@[simp] theorem deadEvent_setShad (a : Nat) (v : Word) (b : Nat) : deadEvent (setShad a v s) b = deadEvent s b := rfl

@[simp] theorem reg_setLive (a : Nat) (v : Word) (b : Nat) : reg (setLive a v s) b = reg s b := rfl
@[simp] theorem fld_setLive (a : Nat) (v : Word) (g : Fld) : fld (setLive a v s) g = fld s g := rfl
@[simp] theorem shad_setLive (a : Nat) (v : Word) (b : Nat) : shad (setLive a v s) b = shad s b := rfl
@[simp] theorem sfld_setLive (a : Nat) (v : Word) (g : Fld) : sfld (setLive a v s) g = sfld s g := rfl
@[simp] theorem act_setLive (a : Nat) (v : Word) (b : Nat) : act (setLive a v s) b = act s b := rfl
@[simp] theorem afld_setLive (a : Nat) (v : Word) (g : Fld) : afld (setLive a v s) g = afld s g := rfl
@[simp] theorem rdByte_setLive (a : Nat) (v : Word) (b : Nat) : rdByte (setLive a v s) b = rdByte s b := rfl
@[simp] theorem rdTcm_setLive (a : Nat) (v : Word) (b : Nat) : rdTcm (setLive a v s) b = rdTcm s b := rfl
@[simp] theorem unit_setLive (a : Nat) (v : Word) (b : Nat) : unit (setLive a v s) b = unit s b := rfl
@[simp] theorem leg_setLive (a : Nat) (v : Word) (b : Nat) : leg (setLive a v s) b = leg s b := rfl
@[simp] theorem grp_setLive (a : Nat) (v : Word) (b : Nat) : grp (setLive a v s) b = grp s b := rfl
@[simp] theorem cl_setLive (a : Nat) (v : Word) (b : Nat) : cl (setLive a v s) b = cl s b := rfl
@[simp] theorem chan_setLive (a : Nat) (v : Word) (b : Nat) : chan (setLive a v s) b = chan s b := rfl
@[simp] theorem sar_setLive (a : Nat) (v : Word) (b : Nat) : sar (setLive a v s) b = sar s b := rfl
@[simp] theorem slot_setLive (a : Nat) (v : Word) (b : Nat) : slot (setLive a v s) b = slot s b := rfl
@[simp] theorem port_setLive (a : Nat) (v : Word) (b : Nat) : port (setLive a v s) b = port s b := rfl
@[simp] theorem cmpo_setLive (a : Nat) (v : Word) (b : Nat) : cmpo (setLive a v s) b = cmpo s b := rfl
@[simp] theorem em_setLive (a : Nat) (v : Word) (b : Nat) : em (setLive a v s) b = em s b := rfl
@[simp] theorem pls_setLive (a : Nat) (v : Word) (b : Nat) : pls (setLive a v s) b = pls s b := rfl
@[simp] theorem sin_setLive (a : Nat) (v : Word) (b : Nat) : sin (setLive a v s) b = sin s b := rfl
@[simp] theorem sout_setLive (a : Nat) (v : Word) (b : Nat) : sout (setLive a v s) b = sout s b := rfl
@[simp] theorem link_setLive (a : Nat) (v : Word) (b : Nat) : link (setLive a v s) b = link s b := rfl
@[simp] theorem memb_setLive (a : Nat) (v : Word) (b : Nat) : memb (setLive a v s) b = memb s b := rfl
@[simp] theorem spq_setLive (a : Nat) (v : Word) (b : Nat) : spq (setLive a v s) b = spq s b := rfl
@[simp] theorem can_setLive (a : Nat) (v : Word) (b : Nat) : can (setLive a v s) b = can s b := rfl
@[simp] theorem qsp_setLive (a : Nat) (v : Word) (b : Nat) : qsp (setLive a v s) b = qsp s b := rfl
@[simp] theorem cell_setLive (a : Nat) (v : Word) (b : Nat) : cell (setLive a v s) b = cell s b := rfl
@[simp] theorem scr_setLive (a : Nat) (v : Word) (b : Nat) : scr (setLive a v s) b = scr s b := rfl
@[simp] theorem sample_setLive (a : Nat) (v : Word) (b : Nat) : sample (setLive a v s) b = sample s b := rfl
@[simp] theorem latched_setLive (a : Nat) (v : Word) (b : Nat) : latched (setLive a v s) b = latched s b := rfl
@[simp] theorem pairState_setLive (a : Nat) (v : Word) (b : Nat) : pairState (setLive a v s) b = pairState s b := rfl
@[simp] theorem ticking_setLive (a : Nat) (v : Word) : ticking (setLive a v s) = ticking s := rfl
@[simp] theorem is9610_setLive (a : Nat) (v : Word) : is9610 (setLive a v s) = is9610 s := rfl
@[simp] theorem hasUnit_setLive (a : Nat) (v : Word) (b : Nat) : hasUnit (setLive a v s) b = hasUnit s b := rfl
@[simp] theorem hasLeg_setLive (a : Nat) (v : Word) (b : Nat) : hasLeg (setLive a v s) b = hasLeg s b := rfl
@[simp] theorem hasCluster_setLive (a : Nat) (v : Word) (b : Nat) : hasCluster (setLive a v s) b = hasCluster s b := rfl
@[simp] theorem hasBs_setLive (a : Nat) (v : Word) (b : Nat) : hasBs (setLive a v s) b = hasBs s b := rfl
@[simp] theorem hasClk_setLive (a : Nat) (v : Word) (b : Nat) : hasClk (setLive a v s) b = hasClk s b := rfl
@[simp] theorem hasPort_setLive (a : Nat) (v : Word) (b : Nat) : hasPort (setLive a v s) b = hasPort s b := rfl
@[simp] theorem hasSp_setLive (a : Nat) (v : Word) (b : Nat) : hasSp (setLive a v s) b = hasSp s b := rfl
@[simp] theorem hasCan_setLive (a : Nat) (v : Word) (b : Nat) : hasCan (setLive a v s) b = hasCan s b := rfl
@[simp] theorem deadEvent_setLive (a : Nat) (v : Word) (b : Nat) : deadEvent (setLive a v s) b = deadEvent s b := rfl

@[simp] theorem reg_updUnit (k : Nat) (f : UnitSt → UnitSt) (b : Nat) : reg (updUnit k f s) b = reg s b := rfl
@[simp] theorem fld_updUnit (k : Nat) (f : UnitSt → UnitSt) (g : Fld) : fld (updUnit k f s) g = fld s g := rfl
@[simp] theorem shad_updUnit (k : Nat) (f : UnitSt → UnitSt) (b : Nat) : shad (updUnit k f s) b = shad s b := rfl
@[simp] theorem sfld_updUnit (k : Nat) (f : UnitSt → UnitSt) (g : Fld) : sfld (updUnit k f s) g = sfld s g := rfl
@[simp] theorem live_updUnit (k : Nat) (f : UnitSt → UnitSt) (b : Nat) : live (updUnit k f s) b = live s b := rfl
@[simp] theorem lfld_updUnit (k : Nat) (f : UnitSt → UnitSt) (g : Fld) : lfld (updUnit k f s) g = lfld s g := rfl
@[simp] theorem act_updUnit (k : Nat) (f : UnitSt → UnitSt) (b : Nat) : act (updUnit k f s) b = act s b := rfl
@[simp] theorem afld_updUnit (k : Nat) (f : UnitSt → UnitSt) (g : Fld) : afld (updUnit k f s) g = afld s g := rfl
@[simp] theorem rdByte_updUnit (k : Nat) (f : UnitSt → UnitSt) (b : Nat) : rdByte (updUnit k f s) b = rdByte s b := rfl
@[simp] theorem rdTcm_updUnit (k : Nat) (f : UnitSt → UnitSt) (b : Nat) : rdTcm (updUnit k f s) b = rdTcm s b := rfl
@[simp] theorem leg_updUnit (k : Nat) (f : UnitSt → UnitSt) (b : Nat) : leg (updUnit k f s) b = leg s b := rfl
@[simp] theorem grp_updUnit (k : Nat) (f : UnitSt → UnitSt) (b : Nat) : grp (updUnit k f s) b = grp s b := rfl
@[simp] theorem cl_updUnit (k : Nat) (f : UnitSt → UnitSt) (b : Nat) : cl (updUnit k f s) b = cl s b := rfl
@[simp] theorem chan_updUnit (k : Nat) (f : UnitSt → UnitSt) (b : Nat) : chan (updUnit k f s) b = chan s b := rfl
@[simp] theorem sar_updUnit (k : Nat) (f : UnitSt → UnitSt) (b : Nat) : sar (updUnit k f s) b = sar s b := rfl
@[simp] theorem slot_updUnit (k : Nat) (f : UnitSt → UnitSt) (b : Nat) : slot (updUnit k f s) b = slot s b := rfl
@[simp] theorem port_updUnit (k : Nat) (f : UnitSt → UnitSt) (b : Nat) : port (updUnit k f s) b = port s b := rfl
@[simp] theorem cmpo_updUnit (k : Nat) (f : UnitSt → UnitSt) (b : Nat) : cmpo (updUnit k f s) b = cmpo s b := rfl
@[simp] theorem em_updUnit (k : Nat) (f : UnitSt → UnitSt) (b : Nat) : em (updUnit k f s) b = em s b := rfl
@[simp] theorem pls_updUnit (k : Nat) (f : UnitSt → UnitSt) (b : Nat) : pls (updUnit k f s) b = pls s b := rfl
@[simp] theorem sin_updUnit (k : Nat) (f : UnitSt → UnitSt) (b : Nat) : sin (updUnit k f s) b = sin s b := rfl
@[simp] theorem sout_updUnit (k : Nat) (f : UnitSt → UnitSt) (b : Nat) : sout (updUnit k f s) b = sout s b := rfl
@[simp] theorem link_updUnit (k : Nat) (f : UnitSt → UnitSt) (b : Nat) : link (updUnit k f s) b = link s b := rfl
@[simp] theorem memb_updUnit (k : Nat) (f : UnitSt → UnitSt) (b : Nat) : memb (updUnit k f s) b = memb s b := rfl
@[simp] theorem spq_updUnit (k : Nat) (f : UnitSt → UnitSt) (b : Nat) : spq (updUnit k f s) b = spq s b := rfl
@[simp] theorem can_updUnit (k : Nat) (f : UnitSt → UnitSt) (b : Nat) : can (updUnit k f s) b = can s b := rfl
@[simp] theorem qsp_updUnit (k : Nat) (f : UnitSt → UnitSt) (b : Nat) : qsp (updUnit k f s) b = qsp s b := rfl
@[simp] theorem cell_updUnit (k : Nat) (f : UnitSt → UnitSt) (b : Nat) : cell (updUnit k f s) b = cell s b := rfl
@[simp] theorem scr_updUnit (k : Nat) (f : UnitSt → UnitSt) (b : Nat) : scr (updUnit k f s) b = scr s b := rfl
@[simp] theorem sample_updUnit (k : Nat) (f : UnitSt → UnitSt) (b : Nat) : sample (updUnit k f s) b = sample s b := rfl
@[simp] theorem latched_updUnit (k : Nat) (f : UnitSt → UnitSt) (b : Nat) : latched (updUnit k f s) b = latched s b := rfl
@[simp] theorem pairState_updUnit (k : Nat) (f : UnitSt → UnitSt) (b : Nat) : pairState (updUnit k f s) b = pairState s b := rfl
@[simp] theorem ticking_updUnit (k : Nat) (f : UnitSt → UnitSt) : ticking (updUnit k f s) = ticking s := rfl
@[simp] theorem is9610_updUnit (k : Nat) (f : UnitSt → UnitSt) : is9610 (updUnit k f s) = is9610 s := rfl
@[simp] theorem hasUnit_updUnit (k : Nat) (f : UnitSt → UnitSt) (b : Nat) : hasUnit (updUnit k f s) b = hasUnit s b := rfl
@[simp] theorem hasLeg_updUnit (k : Nat) (f : UnitSt → UnitSt) (b : Nat) : hasLeg (updUnit k f s) b = hasLeg s b := rfl
@[simp] theorem hasCluster_updUnit (k : Nat) (f : UnitSt → UnitSt) (b : Nat) : hasCluster (updUnit k f s) b = hasCluster s b := rfl
@[simp] theorem hasBs_updUnit (k : Nat) (f : UnitSt → UnitSt) (b : Nat) : hasBs (updUnit k f s) b = hasBs s b := rfl
@[simp] theorem hasClk_updUnit (k : Nat) (f : UnitSt → UnitSt) (b : Nat) : hasClk (updUnit k f s) b = hasClk s b := rfl
@[simp] theorem hasPort_updUnit (k : Nat) (f : UnitSt → UnitSt) (b : Nat) : hasPort (updUnit k f s) b = hasPort s b := rfl
@[simp] theorem hasSp_updUnit (k : Nat) (f : UnitSt → UnitSt) (b : Nat) : hasSp (updUnit k f s) b = hasSp s b := rfl
@[simp] theorem hasCan_updUnit (k : Nat) (f : UnitSt → UnitSt) (b : Nat) : hasCan (updUnit k f s) b = hasCan s b := rfl
@[simp] theorem deadEvent_updUnit (k : Nat) (f : UnitSt → UnitSt) (b : Nat) : deadEvent (updUnit k f s) b = deadEvent s b := rfl

@[simp] theorem reg_updLeg (k : Nat) (f : LegSt → LegSt) (b : Nat) : reg (updLeg k f s) b = reg s b := rfl
@[simp] theorem fld_updLeg (k : Nat) (f : LegSt → LegSt) (g : Fld) : fld (updLeg k f s) g = fld s g := rfl
@[simp] theorem shad_updLeg (k : Nat) (f : LegSt → LegSt) (b : Nat) : shad (updLeg k f s) b = shad s b := rfl
@[simp] theorem sfld_updLeg (k : Nat) (f : LegSt → LegSt) (g : Fld) : sfld (updLeg k f s) g = sfld s g := rfl
@[simp] theorem live_updLeg (k : Nat) (f : LegSt → LegSt) (b : Nat) : live (updLeg k f s) b = live s b := rfl
@[simp] theorem lfld_updLeg (k : Nat) (f : LegSt → LegSt) (g : Fld) : lfld (updLeg k f s) g = lfld s g := rfl
@[simp] theorem act_updLeg (k : Nat) (f : LegSt → LegSt) (b : Nat) : act (updLeg k f s) b = act s b := rfl
@[simp] theorem afld_updLeg (k : Nat) (f : LegSt → LegSt) (g : Fld) : afld (updLeg k f s) g = afld s g := rfl
@[simp] theorem rdByte_updLeg (k : Nat) (f : LegSt → LegSt) (b : Nat) : rdByte (updLeg k f s) b = rdByte s b := rfl
@[simp] theorem rdTcm_updLeg (k : Nat) (f : LegSt → LegSt) (b : Nat) : rdTcm (updLeg k f s) b = rdTcm s b := rfl
@[simp] theorem unit_updLeg (k : Nat) (f : LegSt → LegSt) (b : Nat) : unit (updLeg k f s) b = unit s b := rfl
@[simp] theorem grp_updLeg (k : Nat) (f : LegSt → LegSt) (b : Nat) : grp (updLeg k f s) b = grp s b := rfl
@[simp] theorem cl_updLeg (k : Nat) (f : LegSt → LegSt) (b : Nat) : cl (updLeg k f s) b = cl s b := rfl
@[simp] theorem chan_updLeg (k : Nat) (f : LegSt → LegSt) (b : Nat) : chan (updLeg k f s) b = chan s b := rfl
@[simp] theorem sar_updLeg (k : Nat) (f : LegSt → LegSt) (b : Nat) : sar (updLeg k f s) b = sar s b := rfl
@[simp] theorem slot_updLeg (k : Nat) (f : LegSt → LegSt) (b : Nat) : slot (updLeg k f s) b = slot s b := rfl
@[simp] theorem port_updLeg (k : Nat) (f : LegSt → LegSt) (b : Nat) : port (updLeg k f s) b = port s b := rfl
@[simp] theorem cmpo_updLeg (k : Nat) (f : LegSt → LegSt) (b : Nat) : cmpo (updLeg k f s) b = cmpo s b := rfl
@[simp] theorem em_updLeg (k : Nat) (f : LegSt → LegSt) (b : Nat) : em (updLeg k f s) b = em s b := rfl
@[simp] theorem pls_updLeg (k : Nat) (f : LegSt → LegSt) (b : Nat) : pls (updLeg k f s) b = pls s b := rfl
@[simp] theorem sin_updLeg (k : Nat) (f : LegSt → LegSt) (b : Nat) : sin (updLeg k f s) b = sin s b := rfl
@[simp] theorem sout_updLeg (k : Nat) (f : LegSt → LegSt) (b : Nat) : sout (updLeg k f s) b = sout s b := rfl
@[simp] theorem link_updLeg (k : Nat) (f : LegSt → LegSt) (b : Nat) : link (updLeg k f s) b = link s b := rfl
@[simp] theorem memb_updLeg (k : Nat) (f : LegSt → LegSt) (b : Nat) : memb (updLeg k f s) b = memb s b := rfl
@[simp] theorem spq_updLeg (k : Nat) (f : LegSt → LegSt) (b : Nat) : spq (updLeg k f s) b = spq s b := rfl
@[simp] theorem can_updLeg (k : Nat) (f : LegSt → LegSt) (b : Nat) : can (updLeg k f s) b = can s b := rfl
@[simp] theorem qsp_updLeg (k : Nat) (f : LegSt → LegSt) (b : Nat) : qsp (updLeg k f s) b = qsp s b := rfl
@[simp] theorem cell_updLeg (k : Nat) (f : LegSt → LegSt) (b : Nat) : cell (updLeg k f s) b = cell s b := rfl
@[simp] theorem scr_updLeg (k : Nat) (f : LegSt → LegSt) (b : Nat) : scr (updLeg k f s) b = scr s b := rfl
@[simp] theorem sample_updLeg (k : Nat) (f : LegSt → LegSt) (b : Nat) : sample (updLeg k f s) b = sample s b := rfl
@[simp] theorem latched_updLeg (k : Nat) (f : LegSt → LegSt) (b : Nat) : latched (updLeg k f s) b = latched s b := rfl
@[simp] theorem pairState_updLeg (k : Nat) (f : LegSt → LegSt) (b : Nat) : pairState (updLeg k f s) b = pairState s b := rfl
@[simp] theorem ticking_updLeg (k : Nat) (f : LegSt → LegSt) : ticking (updLeg k f s) = ticking s := rfl
@[simp] theorem is9610_updLeg (k : Nat) (f : LegSt → LegSt) : is9610 (updLeg k f s) = is9610 s := rfl
@[simp] theorem hasUnit_updLeg (k : Nat) (f : LegSt → LegSt) (b : Nat) : hasUnit (updLeg k f s) b = hasUnit s b := rfl
@[simp] theorem hasLeg_updLeg (k : Nat) (f : LegSt → LegSt) (b : Nat) : hasLeg (updLeg k f s) b = hasLeg s b := rfl
@[simp] theorem hasCluster_updLeg (k : Nat) (f : LegSt → LegSt) (b : Nat) : hasCluster (updLeg k f s) b = hasCluster s b := rfl
@[simp] theorem hasBs_updLeg (k : Nat) (f : LegSt → LegSt) (b : Nat) : hasBs (updLeg k f s) b = hasBs s b := rfl
@[simp] theorem hasClk_updLeg (k : Nat) (f : LegSt → LegSt) (b : Nat) : hasClk (updLeg k f s) b = hasClk s b := rfl
@[simp] theorem hasPort_updLeg (k : Nat) (f : LegSt → LegSt) (b : Nat) : hasPort (updLeg k f s) b = hasPort s b := rfl
@[simp] theorem hasSp_updLeg (k : Nat) (f : LegSt → LegSt) (b : Nat) : hasSp (updLeg k f s) b = hasSp s b := rfl
@[simp] theorem hasCan_updLeg (k : Nat) (f : LegSt → LegSt) (b : Nat) : hasCan (updLeg k f s) b = hasCan s b := rfl
@[simp] theorem deadEvent_updLeg (k : Nat) (f : LegSt → LegSt) (b : Nat) : deadEvent (updLeg k f s) b = deadEvent s b := rfl

@[simp] theorem reg_updGrp (k : Nat) (f : GrpSt → GrpSt) (b : Nat) : reg (updGrp k f s) b = reg s b := rfl
@[simp] theorem fld_updGrp (k : Nat) (f : GrpSt → GrpSt) (g : Fld) : fld (updGrp k f s) g = fld s g := rfl
@[simp] theorem shad_updGrp (k : Nat) (f : GrpSt → GrpSt) (b : Nat) : shad (updGrp k f s) b = shad s b := rfl
@[simp] theorem sfld_updGrp (k : Nat) (f : GrpSt → GrpSt) (g : Fld) : sfld (updGrp k f s) g = sfld s g := rfl
@[simp] theorem live_updGrp (k : Nat) (f : GrpSt → GrpSt) (b : Nat) : live (updGrp k f s) b = live s b := rfl
@[simp] theorem lfld_updGrp (k : Nat) (f : GrpSt → GrpSt) (g : Fld) : lfld (updGrp k f s) g = lfld s g := rfl
@[simp] theorem act_updGrp (k : Nat) (f : GrpSt → GrpSt) (b : Nat) : act (updGrp k f s) b = act s b := rfl
@[simp] theorem afld_updGrp (k : Nat) (f : GrpSt → GrpSt) (g : Fld) : afld (updGrp k f s) g = afld s g := rfl
@[simp] theorem rdByte_updGrp (k : Nat) (f : GrpSt → GrpSt) (b : Nat) : rdByte (updGrp k f s) b = rdByte s b := rfl
@[simp] theorem rdTcm_updGrp (k : Nat) (f : GrpSt → GrpSt) (b : Nat) : rdTcm (updGrp k f s) b = rdTcm s b := rfl
@[simp] theorem unit_updGrp (k : Nat) (f : GrpSt → GrpSt) (b : Nat) : unit (updGrp k f s) b = unit s b := rfl
@[simp] theorem leg_updGrp (k : Nat) (f : GrpSt → GrpSt) (b : Nat) : leg (updGrp k f s) b = leg s b := rfl
@[simp] theorem cl_updGrp (k : Nat) (f : GrpSt → GrpSt) (b : Nat) : cl (updGrp k f s) b = cl s b := rfl
@[simp] theorem chan_updGrp (k : Nat) (f : GrpSt → GrpSt) (b : Nat) : chan (updGrp k f s) b = chan s b := rfl
@[simp] theorem sar_updGrp (k : Nat) (f : GrpSt → GrpSt) (b : Nat) : sar (updGrp k f s) b = sar s b := rfl
@[simp] theorem slot_updGrp (k : Nat) (f : GrpSt → GrpSt) (b : Nat) : slot (updGrp k f s) b = slot s b := rfl
@[simp] theorem port_updGrp (k : Nat) (f : GrpSt → GrpSt) (b : Nat) : port (updGrp k f s) b = port s b := rfl
@[simp] theorem cmpo_updGrp (k : Nat) (f : GrpSt → GrpSt) (b : Nat) : cmpo (updGrp k f s) b = cmpo s b := rfl
@[simp] theorem em_updGrp (k : Nat) (f : GrpSt → GrpSt) (b : Nat) : em (updGrp k f s) b = em s b := rfl
@[simp] theorem pls_updGrp (k : Nat) (f : GrpSt → GrpSt) (b : Nat) : pls (updGrp k f s) b = pls s b := rfl
@[simp] theorem sin_updGrp (k : Nat) (f : GrpSt → GrpSt) (b : Nat) : sin (updGrp k f s) b = sin s b := rfl
@[simp] theorem sout_updGrp (k : Nat) (f : GrpSt → GrpSt) (b : Nat) : sout (updGrp k f s) b = sout s b := rfl
@[simp] theorem link_updGrp (k : Nat) (f : GrpSt → GrpSt) (b : Nat) : link (updGrp k f s) b = link s b := rfl
@[simp] theorem memb_updGrp (k : Nat) (f : GrpSt → GrpSt) (b : Nat) : memb (updGrp k f s) b = memb s b := rfl
@[simp] theorem spq_updGrp (k : Nat) (f : GrpSt → GrpSt) (b : Nat) : spq (updGrp k f s) b = spq s b := rfl
@[simp] theorem can_updGrp (k : Nat) (f : GrpSt → GrpSt) (b : Nat) : can (updGrp k f s) b = can s b := rfl
@[simp] theorem qsp_updGrp (k : Nat) (f : GrpSt → GrpSt) (b : Nat) : qsp (updGrp k f s) b = qsp s b := rfl
@[simp] theorem cell_updGrp (k : Nat) (f : GrpSt → GrpSt) (b : Nat) : cell (updGrp k f s) b = cell s b := rfl
@[simp] theorem scr_updGrp (k : Nat) (f : GrpSt → GrpSt) (b : Nat) : scr (updGrp k f s) b = scr s b := rfl
@[simp] theorem sample_updGrp (k : Nat) (f : GrpSt → GrpSt) (b : Nat) : sample (updGrp k f s) b = sample s b := rfl
@[simp] theorem latched_updGrp (k : Nat) (f : GrpSt → GrpSt) (b : Nat) : latched (updGrp k f s) b = latched s b := rfl
@[simp] theorem pairState_updGrp (k : Nat) (f : GrpSt → GrpSt) (b : Nat) : pairState (updGrp k f s) b = pairState s b := rfl
@[simp] theorem ticking_updGrp (k : Nat) (f : GrpSt → GrpSt) : ticking (updGrp k f s) = ticking s := rfl
@[simp] theorem is9610_updGrp (k : Nat) (f : GrpSt → GrpSt) : is9610 (updGrp k f s) = is9610 s := rfl
@[simp] theorem hasUnit_updGrp (k : Nat) (f : GrpSt → GrpSt) (b : Nat) : hasUnit (updGrp k f s) b = hasUnit s b := rfl
@[simp] theorem hasLeg_updGrp (k : Nat) (f : GrpSt → GrpSt) (b : Nat) : hasLeg (updGrp k f s) b = hasLeg s b := rfl
@[simp] theorem hasCluster_updGrp (k : Nat) (f : GrpSt → GrpSt) (b : Nat) : hasCluster (updGrp k f s) b = hasCluster s b := rfl
@[simp] theorem hasBs_updGrp (k : Nat) (f : GrpSt → GrpSt) (b : Nat) : hasBs (updGrp k f s) b = hasBs s b := rfl
@[simp] theorem hasClk_updGrp (k : Nat) (f : GrpSt → GrpSt) (b : Nat) : hasClk (updGrp k f s) b = hasClk s b := rfl
@[simp] theorem hasPort_updGrp (k : Nat) (f : GrpSt → GrpSt) (b : Nat) : hasPort (updGrp k f s) b = hasPort s b := rfl
@[simp] theorem hasSp_updGrp (k : Nat) (f : GrpSt → GrpSt) (b : Nat) : hasSp (updGrp k f s) b = hasSp s b := rfl
@[simp] theorem hasCan_updGrp (k : Nat) (f : GrpSt → GrpSt) (b : Nat) : hasCan (updGrp k f s) b = hasCan s b := rfl
@[simp] theorem deadEvent_updGrp (k : Nat) (f : GrpSt → GrpSt) (b : Nat) : deadEvent (updGrp k f s) b = deadEvent s b := rfl

@[simp] theorem reg_updCl (k : Nat) (f : ClSt → ClSt) (b : Nat) : reg (updCl k f s) b = reg s b := rfl
@[simp] theorem fld_updCl (k : Nat) (f : ClSt → ClSt) (g : Fld) : fld (updCl k f s) g = fld s g := rfl
@[simp] theorem shad_updCl (k : Nat) (f : ClSt → ClSt) (b : Nat) : shad (updCl k f s) b = shad s b := rfl
@[simp] theorem sfld_updCl (k : Nat) (f : ClSt → ClSt) (g : Fld) : sfld (updCl k f s) g = sfld s g := rfl
@[simp] theorem live_updCl (k : Nat) (f : ClSt → ClSt) (b : Nat) : live (updCl k f s) b = live s b := rfl
@[simp] theorem lfld_updCl (k : Nat) (f : ClSt → ClSt) (g : Fld) : lfld (updCl k f s) g = lfld s g := rfl
@[simp] theorem act_updCl (k : Nat) (f : ClSt → ClSt) (b : Nat) : act (updCl k f s) b = act s b := rfl
@[simp] theorem afld_updCl (k : Nat) (f : ClSt → ClSt) (g : Fld) : afld (updCl k f s) g = afld s g := rfl
@[simp] theorem rdByte_updCl (k : Nat) (f : ClSt → ClSt) (b : Nat) : rdByte (updCl k f s) b = rdByte s b := rfl
@[simp] theorem rdTcm_updCl (k : Nat) (f : ClSt → ClSt) (b : Nat) : rdTcm (updCl k f s) b = rdTcm s b := rfl
@[simp] theorem unit_updCl (k : Nat) (f : ClSt → ClSt) (b : Nat) : unit (updCl k f s) b = unit s b := rfl
@[simp] theorem leg_updCl (k : Nat) (f : ClSt → ClSt) (b : Nat) : leg (updCl k f s) b = leg s b := rfl
@[simp] theorem grp_updCl (k : Nat) (f : ClSt → ClSt) (b : Nat) : grp (updCl k f s) b = grp s b := rfl
@[simp] theorem chan_updCl (k : Nat) (f : ClSt → ClSt) (b : Nat) : chan (updCl k f s) b = chan s b := rfl
@[simp] theorem sar_updCl (k : Nat) (f : ClSt → ClSt) (b : Nat) : sar (updCl k f s) b = sar s b := rfl
@[simp] theorem slot_updCl (k : Nat) (f : ClSt → ClSt) (b : Nat) : slot (updCl k f s) b = slot s b := rfl
@[simp] theorem port_updCl (k : Nat) (f : ClSt → ClSt) (b : Nat) : port (updCl k f s) b = port s b := rfl
@[simp] theorem cmpo_updCl (k : Nat) (f : ClSt → ClSt) (b : Nat) : cmpo (updCl k f s) b = cmpo s b := rfl
@[simp] theorem em_updCl (k : Nat) (f : ClSt → ClSt) (b : Nat) : em (updCl k f s) b = em s b := rfl
@[simp] theorem pls_updCl (k : Nat) (f : ClSt → ClSt) (b : Nat) : pls (updCl k f s) b = pls s b := rfl
@[simp] theorem sin_updCl (k : Nat) (f : ClSt → ClSt) (b : Nat) : sin (updCl k f s) b = sin s b := rfl
@[simp] theorem sout_updCl (k : Nat) (f : ClSt → ClSt) (b : Nat) : sout (updCl k f s) b = sout s b := rfl
@[simp] theorem link_updCl (k : Nat) (f : ClSt → ClSt) (b : Nat) : link (updCl k f s) b = link s b := rfl
@[simp] theorem memb_updCl (k : Nat) (f : ClSt → ClSt) (b : Nat) : memb (updCl k f s) b = memb s b := rfl
@[simp] theorem spq_updCl (k : Nat) (f : ClSt → ClSt) (b : Nat) : spq (updCl k f s) b = spq s b := rfl
@[simp] theorem can_updCl (k : Nat) (f : ClSt → ClSt) (b : Nat) : can (updCl k f s) b = can s b := rfl
@[simp] theorem qsp_updCl (k : Nat) (f : ClSt → ClSt) (b : Nat) : qsp (updCl k f s) b = qsp s b := rfl
@[simp] theorem cell_updCl (k : Nat) (f : ClSt → ClSt) (b : Nat) : cell (updCl k f s) b = cell s b := rfl
@[simp] theorem scr_updCl (k : Nat) (f : ClSt → ClSt) (b : Nat) : scr (updCl k f s) b = scr s b := rfl
@[simp] theorem sample_updCl (k : Nat) (f : ClSt → ClSt) (b : Nat) : sample (updCl k f s) b = sample s b := rfl
@[simp] theorem latched_updCl (k : Nat) (f : ClSt → ClSt) (b : Nat) : latched (updCl k f s) b = latched s b := rfl
@[simp] theorem pairState_updCl (k : Nat) (f : ClSt → ClSt) (b : Nat) : pairState (updCl k f s) b = pairState s b := rfl
@[simp] theorem ticking_updCl (k : Nat) (f : ClSt → ClSt) : ticking (updCl k f s) = ticking s := rfl
@[simp] theorem is9610_updCl (k : Nat) (f : ClSt → ClSt) : is9610 (updCl k f s) = is9610 s := rfl
@[simp] theorem hasUnit_updCl (k : Nat) (f : ClSt → ClSt) (b : Nat) : hasUnit (updCl k f s) b = hasUnit s b := rfl
@[simp] theorem hasLeg_updCl (k : Nat) (f : ClSt → ClSt) (b : Nat) : hasLeg (updCl k f s) b = hasLeg s b := rfl
@[simp] theorem hasCluster_updCl (k : Nat) (f : ClSt → ClSt) (b : Nat) : hasCluster (updCl k f s) b = hasCluster s b := rfl
@[simp] theorem hasBs_updCl (k : Nat) (f : ClSt → ClSt) (b : Nat) : hasBs (updCl k f s) b = hasBs s b := rfl
@[simp] theorem hasClk_updCl (k : Nat) (f : ClSt → ClSt) (b : Nat) : hasClk (updCl k f s) b = hasClk s b := rfl
@[simp] theorem hasPort_updCl (k : Nat) (f : ClSt → ClSt) (b : Nat) : hasPort (updCl k f s) b = hasPort s b := rfl
@[simp] theorem hasSp_updCl (k : Nat) (f : ClSt → ClSt) (b : Nat) : hasSp (updCl k f s) b = hasSp s b := rfl
@[simp] theorem hasCan_updCl (k : Nat) (f : ClSt → ClSt) (b : Nat) : hasCan (updCl k f s) b = hasCan s b := rfl
@[simp] theorem deadEvent_updCl (k : Nat) (f : ClSt → ClSt) (b : Nat) : deadEvent (updCl k f s) b = deadEvent s b := rfl

@[simp] theorem reg_updChan (k : Nat) (f : ChSt → ChSt) (b : Nat) : reg (updChan k f s) b = reg s b := rfl
@[simp] theorem fld_updChan (k : Nat) (f : ChSt → ChSt) (g : Fld) : fld (updChan k f s) g = fld s g := rfl
@[simp] theorem shad_updChan (k : Nat) (f : ChSt → ChSt) (b : Nat) : shad (updChan k f s) b = shad s b := rfl
@[simp] theorem sfld_updChan (k : Nat) (f : ChSt → ChSt) (g : Fld) : sfld (updChan k f s) g = sfld s g := rfl
@[simp] theorem live_updChan (k : Nat) (f : ChSt → ChSt) (b : Nat) : live (updChan k f s) b = live s b := rfl
@[simp] theorem lfld_updChan (k : Nat) (f : ChSt → ChSt) (g : Fld) : lfld (updChan k f s) g = lfld s g := rfl
@[simp] theorem act_updChan (k : Nat) (f : ChSt → ChSt) (b : Nat) : act (updChan k f s) b = act s b := rfl
@[simp] theorem afld_updChan (k : Nat) (f : ChSt → ChSt) (g : Fld) : afld (updChan k f s) g = afld s g := rfl
@[simp] theorem rdByte_updChan (k : Nat) (f : ChSt → ChSt) (b : Nat) : rdByte (updChan k f s) b = rdByte s b := rfl
@[simp] theorem rdTcm_updChan (k : Nat) (f : ChSt → ChSt) (b : Nat) : rdTcm (updChan k f s) b = rdTcm s b := rfl
@[simp] theorem unit_updChan (k : Nat) (f : ChSt → ChSt) (b : Nat) : unit (updChan k f s) b = unit s b := rfl
@[simp] theorem leg_updChan (k : Nat) (f : ChSt → ChSt) (b : Nat) : leg (updChan k f s) b = leg s b := rfl
@[simp] theorem grp_updChan (k : Nat) (f : ChSt → ChSt) (b : Nat) : grp (updChan k f s) b = grp s b := rfl
@[simp] theorem cl_updChan (k : Nat) (f : ChSt → ChSt) (b : Nat) : cl (updChan k f s) b = cl s b := rfl
@[simp] theorem sar_updChan (k : Nat) (f : ChSt → ChSt) (b : Nat) : sar (updChan k f s) b = sar s b := rfl
@[simp] theorem slot_updChan (k : Nat) (f : ChSt → ChSt) (b : Nat) : slot (updChan k f s) b = slot s b := rfl
@[simp] theorem port_updChan (k : Nat) (f : ChSt → ChSt) (b : Nat) : port (updChan k f s) b = port s b := rfl
@[simp] theorem cmpo_updChan (k : Nat) (f : ChSt → ChSt) (b : Nat) : cmpo (updChan k f s) b = cmpo s b := rfl
@[simp] theorem em_updChan (k : Nat) (f : ChSt → ChSt) (b : Nat) : em (updChan k f s) b = em s b := rfl
@[simp] theorem pls_updChan (k : Nat) (f : ChSt → ChSt) (b : Nat) : pls (updChan k f s) b = pls s b := rfl
@[simp] theorem sin_updChan (k : Nat) (f : ChSt → ChSt) (b : Nat) : sin (updChan k f s) b = sin s b := rfl
@[simp] theorem sout_updChan (k : Nat) (f : ChSt → ChSt) (b : Nat) : sout (updChan k f s) b = sout s b := rfl
@[simp] theorem link_updChan (k : Nat) (f : ChSt → ChSt) (b : Nat) : link (updChan k f s) b = link s b := rfl
@[simp] theorem memb_updChan (k : Nat) (f : ChSt → ChSt) (b : Nat) : memb (updChan k f s) b = memb s b := rfl
@[simp] theorem spq_updChan (k : Nat) (f : ChSt → ChSt) (b : Nat) : spq (updChan k f s) b = spq s b := rfl
@[simp] theorem can_updChan (k : Nat) (f : ChSt → ChSt) (b : Nat) : can (updChan k f s) b = can s b := rfl
@[simp] theorem qsp_updChan (k : Nat) (f : ChSt → ChSt) (b : Nat) : qsp (updChan k f s) b = qsp s b := rfl
@[simp] theorem cell_updChan (k : Nat) (f : ChSt → ChSt) (b : Nat) : cell (updChan k f s) b = cell s b := rfl
@[simp] theorem scr_updChan (k : Nat) (f : ChSt → ChSt) (b : Nat) : scr (updChan k f s) b = scr s b := rfl
@[simp] theorem sample_updChan (k : Nat) (f : ChSt → ChSt) (b : Nat) : sample (updChan k f s) b = sample s b := rfl
@[simp] theorem latched_updChan (k : Nat) (f : ChSt → ChSt) (b : Nat) : latched (updChan k f s) b = latched s b := rfl
@[simp] theorem pairState_updChan (k : Nat) (f : ChSt → ChSt) (b : Nat) : pairState (updChan k f s) b = pairState s b := rfl
@[simp] theorem ticking_updChan (k : Nat) (f : ChSt → ChSt) : ticking (updChan k f s) = ticking s := rfl
@[simp] theorem is9610_updChan (k : Nat) (f : ChSt → ChSt) : is9610 (updChan k f s) = is9610 s := rfl
@[simp] theorem hasUnit_updChan (k : Nat) (f : ChSt → ChSt) (b : Nat) : hasUnit (updChan k f s) b = hasUnit s b := rfl
@[simp] theorem hasLeg_updChan (k : Nat) (f : ChSt → ChSt) (b : Nat) : hasLeg (updChan k f s) b = hasLeg s b := rfl
@[simp] theorem hasCluster_updChan (k : Nat) (f : ChSt → ChSt) (b : Nat) : hasCluster (updChan k f s) b = hasCluster s b := rfl
@[simp] theorem hasBs_updChan (k : Nat) (f : ChSt → ChSt) (b : Nat) : hasBs (updChan k f s) b = hasBs s b := rfl
@[simp] theorem hasClk_updChan (k : Nat) (f : ChSt → ChSt) (b : Nat) : hasClk (updChan k f s) b = hasClk s b := rfl
@[simp] theorem hasPort_updChan (k : Nat) (f : ChSt → ChSt) (b : Nat) : hasPort (updChan k f s) b = hasPort s b := rfl
@[simp] theorem hasSp_updChan (k : Nat) (f : ChSt → ChSt) (b : Nat) : hasSp (updChan k f s) b = hasSp s b := rfl
@[simp] theorem hasCan_updChan (k : Nat) (f : ChSt → ChSt) (b : Nat) : hasCan (updChan k f s) b = hasCan s b := rfl
@[simp] theorem deadEvent_updChan (k : Nat) (f : ChSt → ChSt) (b : Nat) : deadEvent (updChan k f s) b = deadEvent s b := rfl

@[simp] theorem reg_updSar (k : Nat) (f : SarSt → SarSt) (b : Nat) : reg (updSar k f s) b = reg s b := rfl
@[simp] theorem fld_updSar (k : Nat) (f : SarSt → SarSt) (g : Fld) : fld (updSar k f s) g = fld s g := rfl
@[simp] theorem shad_updSar (k : Nat) (f : SarSt → SarSt) (b : Nat) : shad (updSar k f s) b = shad s b := rfl
@[simp] theorem sfld_updSar (k : Nat) (f : SarSt → SarSt) (g : Fld) : sfld (updSar k f s) g = sfld s g := rfl
@[simp] theorem live_updSar (k : Nat) (f : SarSt → SarSt) (b : Nat) : live (updSar k f s) b = live s b := rfl
@[simp] theorem lfld_updSar (k : Nat) (f : SarSt → SarSt) (g : Fld) : lfld (updSar k f s) g = lfld s g := rfl
@[simp] theorem act_updSar (k : Nat) (f : SarSt → SarSt) (b : Nat) : act (updSar k f s) b = act s b := rfl
@[simp] theorem afld_updSar (k : Nat) (f : SarSt → SarSt) (g : Fld) : afld (updSar k f s) g = afld s g := rfl
@[simp] theorem rdByte_updSar (k : Nat) (f : SarSt → SarSt) (b : Nat) : rdByte (updSar k f s) b = rdByte s b := rfl
@[simp] theorem rdTcm_updSar (k : Nat) (f : SarSt → SarSt) (b : Nat) : rdTcm (updSar k f s) b = rdTcm s b := rfl
@[simp] theorem unit_updSar (k : Nat) (f : SarSt → SarSt) (b : Nat) : unit (updSar k f s) b = unit s b := rfl
@[simp] theorem leg_updSar (k : Nat) (f : SarSt → SarSt) (b : Nat) : leg (updSar k f s) b = leg s b := rfl
@[simp] theorem grp_updSar (k : Nat) (f : SarSt → SarSt) (b : Nat) : grp (updSar k f s) b = grp s b := rfl
@[simp] theorem cl_updSar (k : Nat) (f : SarSt → SarSt) (b : Nat) : cl (updSar k f s) b = cl s b := rfl
@[simp] theorem chan_updSar (k : Nat) (f : SarSt → SarSt) (b : Nat) : chan (updSar k f s) b = chan s b := rfl
@[simp] theorem slot_updSar (k : Nat) (f : SarSt → SarSt) (b : Nat) : slot (updSar k f s) b = slot s b := rfl
@[simp] theorem port_updSar (k : Nat) (f : SarSt → SarSt) (b : Nat) : port (updSar k f s) b = port s b := rfl
@[simp] theorem cmpo_updSar (k : Nat) (f : SarSt → SarSt) (b : Nat) : cmpo (updSar k f s) b = cmpo s b := rfl
@[simp] theorem em_updSar (k : Nat) (f : SarSt → SarSt) (b : Nat) : em (updSar k f s) b = em s b := rfl
@[simp] theorem pls_updSar (k : Nat) (f : SarSt → SarSt) (b : Nat) : pls (updSar k f s) b = pls s b := rfl
@[simp] theorem sin_updSar (k : Nat) (f : SarSt → SarSt) (b : Nat) : sin (updSar k f s) b = sin s b := rfl
@[simp] theorem sout_updSar (k : Nat) (f : SarSt → SarSt) (b : Nat) : sout (updSar k f s) b = sout s b := rfl
@[simp] theorem link_updSar (k : Nat) (f : SarSt → SarSt) (b : Nat) : link (updSar k f s) b = link s b := rfl
@[simp] theorem memb_updSar (k : Nat) (f : SarSt → SarSt) (b : Nat) : memb (updSar k f s) b = memb s b := rfl
@[simp] theorem spq_updSar (k : Nat) (f : SarSt → SarSt) (b : Nat) : spq (updSar k f s) b = spq s b := rfl
@[simp] theorem can_updSar (k : Nat) (f : SarSt → SarSt) (b : Nat) : can (updSar k f s) b = can s b := rfl
@[simp] theorem qsp_updSar (k : Nat) (f : SarSt → SarSt) (b : Nat) : qsp (updSar k f s) b = qsp s b := rfl
@[simp] theorem cell_updSar (k : Nat) (f : SarSt → SarSt) (b : Nat) : cell (updSar k f s) b = cell s b := rfl
@[simp] theorem scr_updSar (k : Nat) (f : SarSt → SarSt) (b : Nat) : scr (updSar k f s) b = scr s b := rfl
@[simp] theorem sample_updSar (k : Nat) (f : SarSt → SarSt) (b : Nat) : sample (updSar k f s) b = sample s b := rfl
@[simp] theorem latched_updSar (k : Nat) (f : SarSt → SarSt) (b : Nat) : latched (updSar k f s) b = latched s b := rfl
@[simp] theorem pairState_updSar (k : Nat) (f : SarSt → SarSt) (b : Nat) : pairState (updSar k f s) b = pairState s b := rfl
@[simp] theorem ticking_updSar (k : Nat) (f : SarSt → SarSt) : ticking (updSar k f s) = ticking s := rfl
@[simp] theorem is9610_updSar (k : Nat) (f : SarSt → SarSt) : is9610 (updSar k f s) = is9610 s := rfl
@[simp] theorem hasUnit_updSar (k : Nat) (f : SarSt → SarSt) (b : Nat) : hasUnit (updSar k f s) b = hasUnit s b := rfl
@[simp] theorem hasLeg_updSar (k : Nat) (f : SarSt → SarSt) (b : Nat) : hasLeg (updSar k f s) b = hasLeg s b := rfl
@[simp] theorem hasCluster_updSar (k : Nat) (f : SarSt → SarSt) (b : Nat) : hasCluster (updSar k f s) b = hasCluster s b := rfl
@[simp] theorem hasBs_updSar (k : Nat) (f : SarSt → SarSt) (b : Nat) : hasBs (updSar k f s) b = hasBs s b := rfl
@[simp] theorem hasClk_updSar (k : Nat) (f : SarSt → SarSt) (b : Nat) : hasClk (updSar k f s) b = hasClk s b := rfl
@[simp] theorem hasPort_updSar (k : Nat) (f : SarSt → SarSt) (b : Nat) : hasPort (updSar k f s) b = hasPort s b := rfl
@[simp] theorem hasSp_updSar (k : Nat) (f : SarSt → SarSt) (b : Nat) : hasSp (updSar k f s) b = hasSp s b := rfl
@[simp] theorem hasCan_updSar (k : Nat) (f : SarSt → SarSt) (b : Nat) : hasCan (updSar k f s) b = hasCan s b := rfl
@[simp] theorem deadEvent_updSar (k : Nat) (f : SarSt → SarSt) (b : Nat) : deadEvent (updSar k f s) b = deadEvent s b := rfl

@[simp] theorem reg_updSlot (k : Nat) (f : SlotSt → SlotSt) (b : Nat) : reg (updSlot k f s) b = reg s b := rfl
@[simp] theorem fld_updSlot (k : Nat) (f : SlotSt → SlotSt) (g : Fld) : fld (updSlot k f s) g = fld s g := rfl
@[simp] theorem shad_updSlot (k : Nat) (f : SlotSt → SlotSt) (b : Nat) : shad (updSlot k f s) b = shad s b := rfl
@[simp] theorem sfld_updSlot (k : Nat) (f : SlotSt → SlotSt) (g : Fld) : sfld (updSlot k f s) g = sfld s g := rfl
@[simp] theorem live_updSlot (k : Nat) (f : SlotSt → SlotSt) (b : Nat) : live (updSlot k f s) b = live s b := rfl
@[simp] theorem lfld_updSlot (k : Nat) (f : SlotSt → SlotSt) (g : Fld) : lfld (updSlot k f s) g = lfld s g := rfl
@[simp] theorem act_updSlot (k : Nat) (f : SlotSt → SlotSt) (b : Nat) : act (updSlot k f s) b = act s b := rfl
@[simp] theorem afld_updSlot (k : Nat) (f : SlotSt → SlotSt) (g : Fld) : afld (updSlot k f s) g = afld s g := rfl
@[simp] theorem rdByte_updSlot (k : Nat) (f : SlotSt → SlotSt) (b : Nat) : rdByte (updSlot k f s) b = rdByte s b := rfl
@[simp] theorem rdTcm_updSlot (k : Nat) (f : SlotSt → SlotSt) (b : Nat) : rdTcm (updSlot k f s) b = rdTcm s b := rfl
@[simp] theorem unit_updSlot (k : Nat) (f : SlotSt → SlotSt) (b : Nat) : unit (updSlot k f s) b = unit s b := rfl
@[simp] theorem leg_updSlot (k : Nat) (f : SlotSt → SlotSt) (b : Nat) : leg (updSlot k f s) b = leg s b := rfl
@[simp] theorem grp_updSlot (k : Nat) (f : SlotSt → SlotSt) (b : Nat) : grp (updSlot k f s) b = grp s b := rfl
@[simp] theorem cl_updSlot (k : Nat) (f : SlotSt → SlotSt) (b : Nat) : cl (updSlot k f s) b = cl s b := rfl
@[simp] theorem chan_updSlot (k : Nat) (f : SlotSt → SlotSt) (b : Nat) : chan (updSlot k f s) b = chan s b := rfl
@[simp] theorem sar_updSlot (k : Nat) (f : SlotSt → SlotSt) (b : Nat) : sar (updSlot k f s) b = sar s b := rfl
@[simp] theorem port_updSlot (k : Nat) (f : SlotSt → SlotSt) (b : Nat) : port (updSlot k f s) b = port s b := rfl
@[simp] theorem cmpo_updSlot (k : Nat) (f : SlotSt → SlotSt) (b : Nat) : cmpo (updSlot k f s) b = cmpo s b := rfl
@[simp] theorem em_updSlot (k : Nat) (f : SlotSt → SlotSt) (b : Nat) : em (updSlot k f s) b = em s b := rfl
@[simp] theorem pls_updSlot (k : Nat) (f : SlotSt → SlotSt) (b : Nat) : pls (updSlot k f s) b = pls s b := rfl
@[simp] theorem sin_updSlot (k : Nat) (f : SlotSt → SlotSt) (b : Nat) : sin (updSlot k f s) b = sin s b := rfl
@[simp] theorem sout_updSlot (k : Nat) (f : SlotSt → SlotSt) (b : Nat) : sout (updSlot k f s) b = sout s b := rfl
@[simp] theorem link_updSlot (k : Nat) (f : SlotSt → SlotSt) (b : Nat) : link (updSlot k f s) b = link s b := rfl
@[simp] theorem memb_updSlot (k : Nat) (f : SlotSt → SlotSt) (b : Nat) : memb (updSlot k f s) b = memb s b := rfl
@[simp] theorem spq_updSlot (k : Nat) (f : SlotSt → SlotSt) (b : Nat) : spq (updSlot k f s) b = spq s b := rfl
@[simp] theorem can_updSlot (k : Nat) (f : SlotSt → SlotSt) (b : Nat) : can (updSlot k f s) b = can s b := rfl
@[simp] theorem qsp_updSlot (k : Nat) (f : SlotSt → SlotSt) (b : Nat) : qsp (updSlot k f s) b = qsp s b := rfl
@[simp] theorem cell_updSlot (k : Nat) (f : SlotSt → SlotSt) (b : Nat) : cell (updSlot k f s) b = cell s b := rfl
@[simp] theorem scr_updSlot (k : Nat) (f : SlotSt → SlotSt) (b : Nat) : scr (updSlot k f s) b = scr s b := rfl
@[simp] theorem sample_updSlot (k : Nat) (f : SlotSt → SlotSt) (b : Nat) : sample (updSlot k f s) b = sample s b := rfl
@[simp] theorem latched_updSlot (k : Nat) (f : SlotSt → SlotSt) (b : Nat) : latched (updSlot k f s) b = latched s b := rfl
@[simp] theorem pairState_updSlot (k : Nat) (f : SlotSt → SlotSt) (b : Nat) : pairState (updSlot k f s) b = pairState s b := rfl
@[simp] theorem ticking_updSlot (k : Nat) (f : SlotSt → SlotSt) : ticking (updSlot k f s) = ticking s := rfl
@[simp] theorem is9610_updSlot (k : Nat) (f : SlotSt → SlotSt) : is9610 (updSlot k f s) = is9610 s := rfl
@[simp] theorem hasUnit_updSlot (k : Nat) (f : SlotSt → SlotSt) (b : Nat) : hasUnit (updSlot k f s) b = hasUnit s b := rfl
@[simp] theorem hasLeg_updSlot (k : Nat) (f : SlotSt → SlotSt) (b : Nat) : hasLeg (updSlot k f s) b = hasLeg s b := rfl
@[simp] theorem hasCluster_updSlot (k : Nat) (f : SlotSt → SlotSt) (b : Nat) : hasCluster (updSlot k f s) b = hasCluster s b := rfl
@[simp] theorem hasBs_updSlot (k : Nat) (f : SlotSt → SlotSt) (b : Nat) : hasBs (updSlot k f s) b = hasBs s b := rfl
@[simp] theorem hasClk_updSlot (k : Nat) (f : SlotSt → SlotSt) (b : Nat) : hasClk (updSlot k f s) b = hasClk s b := rfl
@[simp] theorem hasPort_updSlot (k : Nat) (f : SlotSt → SlotSt) (b : Nat) : hasPort (updSlot k f s) b = hasPort s b := rfl
@[simp] theorem hasSp_updSlot (k : Nat) (f : SlotSt → SlotSt) (b : Nat) : hasSp (updSlot k f s) b = hasSp s b := rfl
@[simp] theorem hasCan_updSlot (k : Nat) (f : SlotSt → SlotSt) (b : Nat) : hasCan (updSlot k f s) b = hasCan s b := rfl
@[simp] theorem deadEvent_updSlot (k : Nat) (f : SlotSt → SlotSt) (b : Nat) : deadEvent (updSlot k f s) b = deadEvent s b := rfl

@[simp] theorem reg_updPort (k : Nat) (f : PortSt → PortSt) (b : Nat) : reg (updPort k f s) b = reg s b := rfl
@[simp] theorem fld_updPort (k : Nat) (f : PortSt → PortSt) (g : Fld) : fld (updPort k f s) g = fld s g := rfl
@[simp] theorem shad_updPort (k : Nat) (f : PortSt → PortSt) (b : Nat) : shad (updPort k f s) b = shad s b := rfl
@[simp] theorem sfld_updPort (k : Nat) (f : PortSt → PortSt) (g : Fld) : sfld (updPort k f s) g = sfld s g := rfl
@[simp] theorem live_updPort (k : Nat) (f : PortSt → PortSt) (b : Nat) : live (updPort k f s) b = live s b := rfl
@[simp] theorem lfld_updPort (k : Nat) (f : PortSt → PortSt) (g : Fld) : lfld (updPort k f s) g = lfld s g := rfl
@[simp] theorem act_updPort (k : Nat) (f : PortSt → PortSt) (b : Nat) : act (updPort k f s) b = act s b := rfl
@[simp] theorem afld_updPort (k : Nat) (f : PortSt → PortSt) (g : Fld) : afld (updPort k f s) g = afld s g := rfl
@[simp] theorem rdByte_updPort (k : Nat) (f : PortSt → PortSt) (b : Nat) : rdByte (updPort k f s) b = rdByte s b := rfl
@[simp] theorem rdTcm_updPort (k : Nat) (f : PortSt → PortSt) (b : Nat) : rdTcm (updPort k f s) b = rdTcm s b := rfl
@[simp] theorem unit_updPort (k : Nat) (f : PortSt → PortSt) (b : Nat) : unit (updPort k f s) b = unit s b := rfl
@[simp] theorem leg_updPort (k : Nat) (f : PortSt → PortSt) (b : Nat) : leg (updPort k f s) b = leg s b := rfl
@[simp] theorem grp_updPort (k : Nat) (f : PortSt → PortSt) (b : Nat) : grp (updPort k f s) b = grp s b := rfl
@[simp] theorem cl_updPort (k : Nat) (f : PortSt → PortSt) (b : Nat) : cl (updPort k f s) b = cl s b := rfl
@[simp] theorem chan_updPort (k : Nat) (f : PortSt → PortSt) (b : Nat) : chan (updPort k f s) b = chan s b := rfl
@[simp] theorem sar_updPort (k : Nat) (f : PortSt → PortSt) (b : Nat) : sar (updPort k f s) b = sar s b := rfl
@[simp] theorem slot_updPort (k : Nat) (f : PortSt → PortSt) (b : Nat) : slot (updPort k f s) b = slot s b := rfl
@[simp] theorem cmpo_updPort (k : Nat) (f : PortSt → PortSt) (b : Nat) : cmpo (updPort k f s) b = cmpo s b := rfl
@[simp] theorem em_updPort (k : Nat) (f : PortSt → PortSt) (b : Nat) : em (updPort k f s) b = em s b := rfl
@[simp] theorem pls_updPort (k : Nat) (f : PortSt → PortSt) (b : Nat) : pls (updPort k f s) b = pls s b := rfl
@[simp] theorem sin_updPort (k : Nat) (f : PortSt → PortSt) (b : Nat) : sin (updPort k f s) b = sin s b := rfl
@[simp] theorem sout_updPort (k : Nat) (f : PortSt → PortSt) (b : Nat) : sout (updPort k f s) b = sout s b := rfl
@[simp] theorem link_updPort (k : Nat) (f : PortSt → PortSt) (b : Nat) : link (updPort k f s) b = link s b := rfl
@[simp] theorem memb_updPort (k : Nat) (f : PortSt → PortSt) (b : Nat) : memb (updPort k f s) b = memb s b := rfl
@[simp] theorem spq_updPort (k : Nat) (f : PortSt → PortSt) (b : Nat) : spq (updPort k f s) b = spq s b := rfl
@[simp] theorem can_updPort (k : Nat) (f : PortSt → PortSt) (b : Nat) : can (updPort k f s) b = can s b := rfl
@[simp] theorem qsp_updPort (k : Nat) (f : PortSt → PortSt) (b : Nat) : qsp (updPort k f s) b = qsp s b := rfl
@[simp] theorem cell_updPort (k : Nat) (f : PortSt → PortSt) (b : Nat) : cell (updPort k f s) b = cell s b := rfl
@[simp] theorem scr_updPort (k : Nat) (f : PortSt → PortSt) (b : Nat) : scr (updPort k f s) b = scr s b := rfl
@[simp] theorem sample_updPort (k : Nat) (f : PortSt → PortSt) (b : Nat) : sample (updPort k f s) b = sample s b := rfl
@[simp] theorem latched_updPort (k : Nat) (f : PortSt → PortSt) (b : Nat) : latched (updPort k f s) b = latched s b := rfl
@[simp] theorem pairState_updPort (k : Nat) (f : PortSt → PortSt) (b : Nat) : pairState (updPort k f s) b = pairState s b := rfl
@[simp] theorem ticking_updPort (k : Nat) (f : PortSt → PortSt) : ticking (updPort k f s) = ticking s := rfl
@[simp] theorem is9610_updPort (k : Nat) (f : PortSt → PortSt) : is9610 (updPort k f s) = is9610 s := rfl
@[simp] theorem hasUnit_updPort (k : Nat) (f : PortSt → PortSt) (b : Nat) : hasUnit (updPort k f s) b = hasUnit s b := rfl
@[simp] theorem hasLeg_updPort (k : Nat) (f : PortSt → PortSt) (b : Nat) : hasLeg (updPort k f s) b = hasLeg s b := rfl
@[simp] theorem hasCluster_updPort (k : Nat) (f : PortSt → PortSt) (b : Nat) : hasCluster (updPort k f s) b = hasCluster s b := rfl
@[simp] theorem hasBs_updPort (k : Nat) (f : PortSt → PortSt) (b : Nat) : hasBs (updPort k f s) b = hasBs s b := rfl
@[simp] theorem hasClk_updPort (k : Nat) (f : PortSt → PortSt) (b : Nat) : hasClk (updPort k f s) b = hasClk s b := rfl
@[simp] theorem hasPort_updPort (k : Nat) (f : PortSt → PortSt) (b : Nat) : hasPort (updPort k f s) b = hasPort s b := rfl
@[simp] theorem hasSp_updPort (k : Nat) (f : PortSt → PortSt) (b : Nat) : hasSp (updPort k f s) b = hasSp s b := rfl
@[simp] theorem hasCan_updPort (k : Nat) (f : PortSt → PortSt) (b : Nat) : hasCan (updPort k f s) b = hasCan s b := rfl
@[simp] theorem deadEvent_updPort (k : Nat) (f : PortSt → PortSt) (b : Nat) : deadEvent (updPort k f s) b = deadEvent s b := rfl

@[simp] theorem reg_updCmp (k : Nat) (f : CmpSt → CmpSt) (b : Nat) : reg (updCmp k f s) b = reg s b := rfl
@[simp] theorem fld_updCmp (k : Nat) (f : CmpSt → CmpSt) (g : Fld) : fld (updCmp k f s) g = fld s g := rfl
@[simp] theorem shad_updCmp (k : Nat) (f : CmpSt → CmpSt) (b : Nat) : shad (updCmp k f s) b = shad s b := rfl
@[simp] theorem sfld_updCmp (k : Nat) (f : CmpSt → CmpSt) (g : Fld) : sfld (updCmp k f s) g = sfld s g := rfl
@[simp] theorem live_updCmp (k : Nat) (f : CmpSt → CmpSt) (b : Nat) : live (updCmp k f s) b = live s b := rfl
@[simp] theorem lfld_updCmp (k : Nat) (f : CmpSt → CmpSt) (g : Fld) : lfld (updCmp k f s) g = lfld s g := rfl
@[simp] theorem act_updCmp (k : Nat) (f : CmpSt → CmpSt) (b : Nat) : act (updCmp k f s) b = act s b := rfl
@[simp] theorem afld_updCmp (k : Nat) (f : CmpSt → CmpSt) (g : Fld) : afld (updCmp k f s) g = afld s g := rfl
@[simp] theorem rdByte_updCmp (k : Nat) (f : CmpSt → CmpSt) (b : Nat) : rdByte (updCmp k f s) b = rdByte s b := rfl
@[simp] theorem rdTcm_updCmp (k : Nat) (f : CmpSt → CmpSt) (b : Nat) : rdTcm (updCmp k f s) b = rdTcm s b := rfl
@[simp] theorem unit_updCmp (k : Nat) (f : CmpSt → CmpSt) (b : Nat) : unit (updCmp k f s) b = unit s b := rfl
@[simp] theorem leg_updCmp (k : Nat) (f : CmpSt → CmpSt) (b : Nat) : leg (updCmp k f s) b = leg s b := rfl
@[simp] theorem grp_updCmp (k : Nat) (f : CmpSt → CmpSt) (b : Nat) : grp (updCmp k f s) b = grp s b := rfl
@[simp] theorem cl_updCmp (k : Nat) (f : CmpSt → CmpSt) (b : Nat) : cl (updCmp k f s) b = cl s b := rfl
@[simp] theorem chan_updCmp (k : Nat) (f : CmpSt → CmpSt) (b : Nat) : chan (updCmp k f s) b = chan s b := rfl
@[simp] theorem sar_updCmp (k : Nat) (f : CmpSt → CmpSt) (b : Nat) : sar (updCmp k f s) b = sar s b := rfl
@[simp] theorem slot_updCmp (k : Nat) (f : CmpSt → CmpSt) (b : Nat) : slot (updCmp k f s) b = slot s b := rfl
@[simp] theorem port_updCmp (k : Nat) (f : CmpSt → CmpSt) (b : Nat) : port (updCmp k f s) b = port s b := rfl
@[simp] theorem em_updCmp (k : Nat) (f : CmpSt → CmpSt) (b : Nat) : em (updCmp k f s) b = em s b := rfl
@[simp] theorem pls_updCmp (k : Nat) (f : CmpSt → CmpSt) (b : Nat) : pls (updCmp k f s) b = pls s b := rfl
@[simp] theorem sin_updCmp (k : Nat) (f : CmpSt → CmpSt) (b : Nat) : sin (updCmp k f s) b = sin s b := rfl
@[simp] theorem sout_updCmp (k : Nat) (f : CmpSt → CmpSt) (b : Nat) : sout (updCmp k f s) b = sout s b := rfl
@[simp] theorem link_updCmp (k : Nat) (f : CmpSt → CmpSt) (b : Nat) : link (updCmp k f s) b = link s b := rfl
@[simp] theorem memb_updCmp (k : Nat) (f : CmpSt → CmpSt) (b : Nat) : memb (updCmp k f s) b = memb s b := rfl
@[simp] theorem spq_updCmp (k : Nat) (f : CmpSt → CmpSt) (b : Nat) : spq (updCmp k f s) b = spq s b := rfl
@[simp] theorem can_updCmp (k : Nat) (f : CmpSt → CmpSt) (b : Nat) : can (updCmp k f s) b = can s b := rfl
@[simp] theorem qsp_updCmp (k : Nat) (f : CmpSt → CmpSt) (b : Nat) : qsp (updCmp k f s) b = qsp s b := rfl
@[simp] theorem cell_updCmp (k : Nat) (f : CmpSt → CmpSt) (b : Nat) : cell (updCmp k f s) b = cell s b := rfl
@[simp] theorem scr_updCmp (k : Nat) (f : CmpSt → CmpSt) (b : Nat) : scr (updCmp k f s) b = scr s b := rfl
@[simp] theorem sample_updCmp (k : Nat) (f : CmpSt → CmpSt) (b : Nat) : sample (updCmp k f s) b = sample s b := rfl
@[simp] theorem latched_updCmp (k : Nat) (f : CmpSt → CmpSt) (b : Nat) : latched (updCmp k f s) b = latched s b := rfl
@[simp] theorem pairState_updCmp (k : Nat) (f : CmpSt → CmpSt) (b : Nat) : pairState (updCmp k f s) b = pairState s b := rfl
@[simp] theorem ticking_updCmp (k : Nat) (f : CmpSt → CmpSt) : ticking (updCmp k f s) = ticking s := rfl
@[simp] theorem is9610_updCmp (k : Nat) (f : CmpSt → CmpSt) : is9610 (updCmp k f s) = is9610 s := rfl
@[simp] theorem hasUnit_updCmp (k : Nat) (f : CmpSt → CmpSt) (b : Nat) : hasUnit (updCmp k f s) b = hasUnit s b := rfl
@[simp] theorem hasLeg_updCmp (k : Nat) (f : CmpSt → CmpSt) (b : Nat) : hasLeg (updCmp k f s) b = hasLeg s b := rfl
@[simp] theorem hasCluster_updCmp (k : Nat) (f : CmpSt → CmpSt) (b : Nat) : hasCluster (updCmp k f s) b = hasCluster s b := rfl
@[simp] theorem hasBs_updCmp (k : Nat) (f : CmpSt → CmpSt) (b : Nat) : hasBs (updCmp k f s) b = hasBs s b := rfl
@[simp] theorem hasClk_updCmp (k : Nat) (f : CmpSt → CmpSt) (b : Nat) : hasClk (updCmp k f s) b = hasClk s b := rfl
@[simp] theorem hasPort_updCmp (k : Nat) (f : CmpSt → CmpSt) (b : Nat) : hasPort (updCmp k f s) b = hasPort s b := rfl
@[simp] theorem hasSp_updCmp (k : Nat) (f : CmpSt → CmpSt) (b : Nat) : hasSp (updCmp k f s) b = hasSp s b := rfl
@[simp] theorem hasCan_updCmp (k : Nat) (f : CmpSt → CmpSt) (b : Nat) : hasCan (updCmp k f s) b = hasCan s b := rfl
@[simp] theorem deadEvent_updCmp (k : Nat) (f : CmpSt → CmpSt) (b : Nat) : deadEvent (updCmp k f s) b = deadEvent s b := rfl

@[simp] theorem reg_updEm (k : Nat) (f : EmSt → EmSt) (b : Nat) : reg (updEm k f s) b = reg s b := rfl
@[simp] theorem fld_updEm (k : Nat) (f : EmSt → EmSt) (g : Fld) : fld (updEm k f s) g = fld s g := rfl
@[simp] theorem shad_updEm (k : Nat) (f : EmSt → EmSt) (b : Nat) : shad (updEm k f s) b = shad s b := rfl
@[simp] theorem sfld_updEm (k : Nat) (f : EmSt → EmSt) (g : Fld) : sfld (updEm k f s) g = sfld s g := rfl
@[simp] theorem live_updEm (k : Nat) (f : EmSt → EmSt) (b : Nat) : live (updEm k f s) b = live s b := rfl
@[simp] theorem lfld_updEm (k : Nat) (f : EmSt → EmSt) (g : Fld) : lfld (updEm k f s) g = lfld s g := rfl
@[simp] theorem act_updEm (k : Nat) (f : EmSt → EmSt) (b : Nat) : act (updEm k f s) b = act s b := rfl
@[simp] theorem afld_updEm (k : Nat) (f : EmSt → EmSt) (g : Fld) : afld (updEm k f s) g = afld s g := rfl
@[simp] theorem rdByte_updEm (k : Nat) (f : EmSt → EmSt) (b : Nat) : rdByte (updEm k f s) b = rdByte s b := rfl
@[simp] theorem rdTcm_updEm (k : Nat) (f : EmSt → EmSt) (b : Nat) : rdTcm (updEm k f s) b = rdTcm s b := rfl
@[simp] theorem unit_updEm (k : Nat) (f : EmSt → EmSt) (b : Nat) : unit (updEm k f s) b = unit s b := rfl
@[simp] theorem leg_updEm (k : Nat) (f : EmSt → EmSt) (b : Nat) : leg (updEm k f s) b = leg s b := rfl
@[simp] theorem grp_updEm (k : Nat) (f : EmSt → EmSt) (b : Nat) : grp (updEm k f s) b = grp s b := rfl
@[simp] theorem cl_updEm (k : Nat) (f : EmSt → EmSt) (b : Nat) : cl (updEm k f s) b = cl s b := rfl
@[simp] theorem chan_updEm (k : Nat) (f : EmSt → EmSt) (b : Nat) : chan (updEm k f s) b = chan s b := rfl
@[simp] theorem sar_updEm (k : Nat) (f : EmSt → EmSt) (b : Nat) : sar (updEm k f s) b = sar s b := rfl
@[simp] theorem slot_updEm (k : Nat) (f : EmSt → EmSt) (b : Nat) : slot (updEm k f s) b = slot s b := rfl
@[simp] theorem port_updEm (k : Nat) (f : EmSt → EmSt) (b : Nat) : port (updEm k f s) b = port s b := rfl
@[simp] theorem cmpo_updEm (k : Nat) (f : EmSt → EmSt) (b : Nat) : cmpo (updEm k f s) b = cmpo s b := rfl
@[simp] theorem pls_updEm (k : Nat) (f : EmSt → EmSt) (b : Nat) : pls (updEm k f s) b = pls s b := rfl
@[simp] theorem sin_updEm (k : Nat) (f : EmSt → EmSt) (b : Nat) : sin (updEm k f s) b = sin s b := rfl
@[simp] theorem sout_updEm (k : Nat) (f : EmSt → EmSt) (b : Nat) : sout (updEm k f s) b = sout s b := rfl
@[simp] theorem link_updEm (k : Nat) (f : EmSt → EmSt) (b : Nat) : link (updEm k f s) b = link s b := rfl
@[simp] theorem memb_updEm (k : Nat) (f : EmSt → EmSt) (b : Nat) : memb (updEm k f s) b = memb s b := rfl
@[simp] theorem spq_updEm (k : Nat) (f : EmSt → EmSt) (b : Nat) : spq (updEm k f s) b = spq s b := rfl
@[simp] theorem can_updEm (k : Nat) (f : EmSt → EmSt) (b : Nat) : can (updEm k f s) b = can s b := rfl
@[simp] theorem qsp_updEm (k : Nat) (f : EmSt → EmSt) (b : Nat) : qsp (updEm k f s) b = qsp s b := rfl
@[simp] theorem cell_updEm (k : Nat) (f : EmSt → EmSt) (b : Nat) : cell (updEm k f s) b = cell s b := rfl
@[simp] theorem scr_updEm (k : Nat) (f : EmSt → EmSt) (b : Nat) : scr (updEm k f s) b = scr s b := rfl
@[simp] theorem sample_updEm (k : Nat) (f : EmSt → EmSt) (b : Nat) : sample (updEm k f s) b = sample s b := rfl
@[simp] theorem latched_updEm (k : Nat) (f : EmSt → EmSt) (b : Nat) : latched (updEm k f s) b = latched s b := rfl
@[simp] theorem pairState_updEm (k : Nat) (f : EmSt → EmSt) (b : Nat) : pairState (updEm k f s) b = pairState s b := rfl
@[simp] theorem ticking_updEm (k : Nat) (f : EmSt → EmSt) : ticking (updEm k f s) = ticking s := rfl
@[simp] theorem is9610_updEm (k : Nat) (f : EmSt → EmSt) : is9610 (updEm k f s) = is9610 s := rfl
@[simp] theorem hasUnit_updEm (k : Nat) (f : EmSt → EmSt) (b : Nat) : hasUnit (updEm k f s) b = hasUnit s b := rfl
@[simp] theorem hasLeg_updEm (k : Nat) (f : EmSt → EmSt) (b : Nat) : hasLeg (updEm k f s) b = hasLeg s b := rfl
@[simp] theorem hasCluster_updEm (k : Nat) (f : EmSt → EmSt) (b : Nat) : hasCluster (updEm k f s) b = hasCluster s b := rfl
@[simp] theorem hasBs_updEm (k : Nat) (f : EmSt → EmSt) (b : Nat) : hasBs (updEm k f s) b = hasBs s b := rfl
@[simp] theorem hasClk_updEm (k : Nat) (f : EmSt → EmSt) (b : Nat) : hasClk (updEm k f s) b = hasClk s b := rfl
@[simp] theorem hasPort_updEm (k : Nat) (f : EmSt → EmSt) (b : Nat) : hasPort (updEm k f s) b = hasPort s b := rfl
@[simp] theorem hasSp_updEm (k : Nat) (f : EmSt → EmSt) (b : Nat) : hasSp (updEm k f s) b = hasSp s b := rfl
@[simp] theorem hasCan_updEm (k : Nat) (f : EmSt → EmSt) (b : Nat) : hasCan (updEm k f s) b = hasCan s b := rfl
@[simp] theorem deadEvent_updEm (k : Nat) (f : EmSt → EmSt) (b : Nat) : deadEvent (updEm k f s) b = deadEvent s b := rfl

@[simp] theorem reg_updPls (k : Nat) (f : PlsSt → PlsSt) (b : Nat) : reg (updPls k f s) b = reg s b := rfl
@[simp] theorem fld_updPls (k : Nat) (f : PlsSt → PlsSt) (g : Fld) : fld (updPls k f s) g = fld s g := rfl
@[simp] theorem shad_updPls (k : Nat) (f : PlsSt → PlsSt) (b : Nat) : shad (updPls k f s) b = shad s b := rfl
@[simp] theorem sfld_updPls (k : Nat) (f : PlsSt → PlsSt) (g : Fld) : sfld (updPls k f s) g = sfld s g := rfl
@[simp] theorem live_updPls (k : Nat) (f : PlsSt → PlsSt) (b : Nat) : live (updPls k f s) b = live s b := rfl
@[simp] theorem lfld_updPls (k : Nat) (f : PlsSt → PlsSt) (g : Fld) : lfld (updPls k f s) g = lfld s g := rfl
@[simp] theorem act_updPls (k : Nat) (f : PlsSt → PlsSt) (b : Nat) : act (updPls k f s) b = act s b := rfl
@[simp] theorem afld_updPls (k : Nat) (f : PlsSt → PlsSt) (g : Fld) : afld (updPls k f s) g = afld s g := rfl
@[simp] theorem rdByte_updPls (k : Nat) (f : PlsSt → PlsSt) (b : Nat) : rdByte (updPls k f s) b = rdByte s b := rfl
@[simp] theorem rdTcm_updPls (k : Nat) (f : PlsSt → PlsSt) (b : Nat) : rdTcm (updPls k f s) b = rdTcm s b := rfl
@[simp] theorem unit_updPls (k : Nat) (f : PlsSt → PlsSt) (b : Nat) : unit (updPls k f s) b = unit s b := rfl
@[simp] theorem leg_updPls (k : Nat) (f : PlsSt → PlsSt) (b : Nat) : leg (updPls k f s) b = leg s b := rfl
@[simp] theorem grp_updPls (k : Nat) (f : PlsSt → PlsSt) (b : Nat) : grp (updPls k f s) b = grp s b := rfl
@[simp] theorem cl_updPls (k : Nat) (f : PlsSt → PlsSt) (b : Nat) : cl (updPls k f s) b = cl s b := rfl
@[simp] theorem chan_updPls (k : Nat) (f : PlsSt → PlsSt) (b : Nat) : chan (updPls k f s) b = chan s b := rfl
@[simp] theorem sar_updPls (k : Nat) (f : PlsSt → PlsSt) (b : Nat) : sar (updPls k f s) b = sar s b := rfl
@[simp] theorem slot_updPls (k : Nat) (f : PlsSt → PlsSt) (b : Nat) : slot (updPls k f s) b = slot s b := rfl
@[simp] theorem port_updPls (k : Nat) (f : PlsSt → PlsSt) (b : Nat) : port (updPls k f s) b = port s b := rfl
@[simp] theorem cmpo_updPls (k : Nat) (f : PlsSt → PlsSt) (b : Nat) : cmpo (updPls k f s) b = cmpo s b := rfl
@[simp] theorem em_updPls (k : Nat) (f : PlsSt → PlsSt) (b : Nat) : em (updPls k f s) b = em s b := rfl
@[simp] theorem sin_updPls (k : Nat) (f : PlsSt → PlsSt) (b : Nat) : sin (updPls k f s) b = sin s b := rfl
@[simp] theorem sout_updPls (k : Nat) (f : PlsSt → PlsSt) (b : Nat) : sout (updPls k f s) b = sout s b := rfl
@[simp] theorem link_updPls (k : Nat) (f : PlsSt → PlsSt) (b : Nat) : link (updPls k f s) b = link s b := rfl
@[simp] theorem memb_updPls (k : Nat) (f : PlsSt → PlsSt) (b : Nat) : memb (updPls k f s) b = memb s b := rfl
@[simp] theorem spq_updPls (k : Nat) (f : PlsSt → PlsSt) (b : Nat) : spq (updPls k f s) b = spq s b := rfl
@[simp] theorem can_updPls (k : Nat) (f : PlsSt → PlsSt) (b : Nat) : can (updPls k f s) b = can s b := rfl
@[simp] theorem qsp_updPls (k : Nat) (f : PlsSt → PlsSt) (b : Nat) : qsp (updPls k f s) b = qsp s b := rfl
@[simp] theorem cell_updPls (k : Nat) (f : PlsSt → PlsSt) (b : Nat) : cell (updPls k f s) b = cell s b := rfl
@[simp] theorem scr_updPls (k : Nat) (f : PlsSt → PlsSt) (b : Nat) : scr (updPls k f s) b = scr s b := rfl
@[simp] theorem sample_updPls (k : Nat) (f : PlsSt → PlsSt) (b : Nat) : sample (updPls k f s) b = sample s b := rfl
@[simp] theorem latched_updPls (k : Nat) (f : PlsSt → PlsSt) (b : Nat) : latched (updPls k f s) b = latched s b := rfl
@[simp] theorem pairState_updPls (k : Nat) (f : PlsSt → PlsSt) (b : Nat) : pairState (updPls k f s) b = pairState s b := rfl
@[simp] theorem ticking_updPls (k : Nat) (f : PlsSt → PlsSt) : ticking (updPls k f s) = ticking s := rfl
@[simp] theorem is9610_updPls (k : Nat) (f : PlsSt → PlsSt) : is9610 (updPls k f s) = is9610 s := rfl
@[simp] theorem hasUnit_updPls (k : Nat) (f : PlsSt → PlsSt) (b : Nat) : hasUnit (updPls k f s) b = hasUnit s b := rfl
@[simp] theorem hasLeg_updPls (k : Nat) (f : PlsSt → PlsSt) (b : Nat) : hasLeg (updPls k f s) b = hasLeg s b := rfl
@[simp] theorem hasCluster_updPls (k : Nat) (f : PlsSt → PlsSt) (b : Nat) : hasCluster (updPls k f s) b = hasCluster s b := rfl
@[simp] theorem hasBs_updPls (k : Nat) (f : PlsSt → PlsSt) (b : Nat) : hasBs (updPls k f s) b = hasBs s b := rfl
@[simp] theorem hasClk_updPls (k : Nat) (f : PlsSt → PlsSt) (b : Nat) : hasClk (updPls k f s) b = hasClk s b := rfl
@[simp] theorem hasPort_updPls (k : Nat) (f : PlsSt → PlsSt) (b : Nat) : hasPort (updPls k f s) b = hasPort s b := rfl
@[simp] theorem hasSp_updPls (k : Nat) (f : PlsSt → PlsSt) (b : Nat) : hasSp (updPls k f s) b = hasSp s b := rfl
@[simp] theorem hasCan_updPls (k : Nat) (f : PlsSt → PlsSt) (b : Nat) : hasCan (updPls k f s) b = hasCan s b := rfl
@[simp] theorem deadEvent_updPls (k : Nat) (f : PlsSt → PlsSt) (b : Nat) : deadEvent (updPls k f s) b = deadEvent s b := rfl

@[simp] theorem reg_updSin (k : Nat) (f : SinSt → SinSt) (b : Nat) : reg (updSin k f s) b = reg s b := rfl
@[simp] theorem fld_updSin (k : Nat) (f : SinSt → SinSt) (g : Fld) : fld (updSin k f s) g = fld s g := rfl
@[simp] theorem shad_updSin (k : Nat) (f : SinSt → SinSt) (b : Nat) : shad (updSin k f s) b = shad s b := rfl
@[simp] theorem sfld_updSin (k : Nat) (f : SinSt → SinSt) (g : Fld) : sfld (updSin k f s) g = sfld s g := rfl
@[simp] theorem live_updSin (k : Nat) (f : SinSt → SinSt) (b : Nat) : live (updSin k f s) b = live s b := rfl
@[simp] theorem lfld_updSin (k : Nat) (f : SinSt → SinSt) (g : Fld) : lfld (updSin k f s) g = lfld s g := rfl
@[simp] theorem act_updSin (k : Nat) (f : SinSt → SinSt) (b : Nat) : act (updSin k f s) b = act s b := rfl
@[simp] theorem afld_updSin (k : Nat) (f : SinSt → SinSt) (g : Fld) : afld (updSin k f s) g = afld s g := rfl
@[simp] theorem rdByte_updSin (k : Nat) (f : SinSt → SinSt) (b : Nat) : rdByte (updSin k f s) b = rdByte s b := rfl
@[simp] theorem rdTcm_updSin (k : Nat) (f : SinSt → SinSt) (b : Nat) : rdTcm (updSin k f s) b = rdTcm s b := rfl
@[simp] theorem unit_updSin (k : Nat) (f : SinSt → SinSt) (b : Nat) : unit (updSin k f s) b = unit s b := rfl
@[simp] theorem leg_updSin (k : Nat) (f : SinSt → SinSt) (b : Nat) : leg (updSin k f s) b = leg s b := rfl
@[simp] theorem grp_updSin (k : Nat) (f : SinSt → SinSt) (b : Nat) : grp (updSin k f s) b = grp s b := rfl
@[simp] theorem cl_updSin (k : Nat) (f : SinSt → SinSt) (b : Nat) : cl (updSin k f s) b = cl s b := rfl
@[simp] theorem chan_updSin (k : Nat) (f : SinSt → SinSt) (b : Nat) : chan (updSin k f s) b = chan s b := rfl
@[simp] theorem sar_updSin (k : Nat) (f : SinSt → SinSt) (b : Nat) : sar (updSin k f s) b = sar s b := rfl
@[simp] theorem slot_updSin (k : Nat) (f : SinSt → SinSt) (b : Nat) : slot (updSin k f s) b = slot s b := rfl
@[simp] theorem port_updSin (k : Nat) (f : SinSt → SinSt) (b : Nat) : port (updSin k f s) b = port s b := rfl
@[simp] theorem cmpo_updSin (k : Nat) (f : SinSt → SinSt) (b : Nat) : cmpo (updSin k f s) b = cmpo s b := rfl
@[simp] theorem em_updSin (k : Nat) (f : SinSt → SinSt) (b : Nat) : em (updSin k f s) b = em s b := rfl
@[simp] theorem pls_updSin (k : Nat) (f : SinSt → SinSt) (b : Nat) : pls (updSin k f s) b = pls s b := rfl
@[simp] theorem link_updSin (k : Nat) (f : SinSt → SinSt) (b : Nat) : link (updSin k f s) b = link s b := rfl
@[simp] theorem memb_updSin (k : Nat) (f : SinSt → SinSt) (b : Nat) : memb (updSin k f s) b = memb s b := rfl
@[simp] theorem spq_updSin (k : Nat) (f : SinSt → SinSt) (b : Nat) : spq (updSin k f s) b = spq s b := rfl
@[simp] theorem can_updSin (k : Nat) (f : SinSt → SinSt) (b : Nat) : can (updSin k f s) b = can s b := rfl
@[simp] theorem qsp_updSin (k : Nat) (f : SinSt → SinSt) (b : Nat) : qsp (updSin k f s) b = qsp s b := rfl
@[simp] theorem cell_updSin (k : Nat) (f : SinSt → SinSt) (b : Nat) : cell (updSin k f s) b = cell s b := rfl
@[simp] theorem scr_updSin (k : Nat) (f : SinSt → SinSt) (b : Nat) : scr (updSin k f s) b = scr s b := rfl
@[simp] theorem sample_updSin (k : Nat) (f : SinSt → SinSt) (b : Nat) : sample (updSin k f s) b = sample s b := rfl
@[simp] theorem latched_updSin (k : Nat) (f : SinSt → SinSt) (b : Nat) : latched (updSin k f s) b = latched s b := rfl
@[simp] theorem pairState_updSin (k : Nat) (f : SinSt → SinSt) (b : Nat) : pairState (updSin k f s) b = pairState s b := rfl
@[simp] theorem ticking_updSin (k : Nat) (f : SinSt → SinSt) : ticking (updSin k f s) = ticking s := rfl
@[simp] theorem is9610_updSin (k : Nat) (f : SinSt → SinSt) : is9610 (updSin k f s) = is9610 s := rfl
@[simp] theorem hasUnit_updSin (k : Nat) (f : SinSt → SinSt) (b : Nat) : hasUnit (updSin k f s) b = hasUnit s b := rfl
@[simp] theorem hasLeg_updSin (k : Nat) (f : SinSt → SinSt) (b : Nat) : hasLeg (updSin k f s) b = hasLeg s b := rfl
@[simp] theorem hasCluster_updSin (k : Nat) (f : SinSt → SinSt) (b : Nat) : hasCluster (updSin k f s) b = hasCluster s b := rfl
@[simp] theorem hasBs_updSin (k : Nat) (f : SinSt → SinSt) (b : Nat) : hasBs (updSin k f s) b = hasBs s b := rfl
@[simp] theorem hasClk_updSin (k : Nat) (f : SinSt → SinSt) (b : Nat) : hasClk (updSin k f s) b = hasClk s b := rfl
@[simp] theorem hasPort_updSin (k : Nat) (f : SinSt → SinSt) (b : Nat) : hasPort (updSin k f s) b = hasPort s b := rfl
@[simp] theorem hasSp_updSin (k : Nat) (f : SinSt → SinSt) (b : Nat) : hasSp (updSin k f s) b = hasSp s b := rfl
@[simp] theorem hasCan_updSin (k : Nat) (f : SinSt → SinSt) (b : Nat) : hasCan (updSin k f s) b = hasCan s b := rfl
@[simp] theorem deadEvent_updSin (k : Nat) (f : SinSt → SinSt) (b : Nat) : deadEvent (updSin k f s) b = deadEvent s b := rfl

@[simp] theorem reg_updSout (k : Nat) (f : SoutSt → SoutSt) (b : Nat) : reg (updSout k f s) b = reg s b := rfl
@[simp] theorem fld_updSout (k : Nat) (f : SoutSt → SoutSt) (g : Fld) : fld (updSout k f s) g = fld s g := rfl
@[simp] theorem shad_updSout (k : Nat) (f : SoutSt → SoutSt) (b : Nat) : shad (updSout k f s) b = shad s b := rfl
@[simp] theorem sfld_updSout (k : Nat) (f : SoutSt → SoutSt) (g : Fld) : sfld (updSout k f s) g = sfld s g := rfl
@[simp] theorem live_updSout (k : Nat) (f : SoutSt → SoutSt) (b : Nat) : live (updSout k f s) b = live s b := rfl
@[simp] theorem lfld_updSout (k : Nat) (f : SoutSt → SoutSt) (g : Fld) : lfld (updSout k f s) g = lfld s g := rfl
@[simp] theorem act_updSout (k : Nat) (f : SoutSt → SoutSt) (b : Nat) : act (updSout k f s) b = act s b := rfl
@[simp] theorem afld_updSout (k : Nat) (f : SoutSt → SoutSt) (g : Fld) : afld (updSout k f s) g = afld s g := rfl
@[simp] theorem rdByte_updSout (k : Nat) (f : SoutSt → SoutSt) (b : Nat) : rdByte (updSout k f s) b = rdByte s b := rfl
@[simp] theorem rdTcm_updSout (k : Nat) (f : SoutSt → SoutSt) (b : Nat) : rdTcm (updSout k f s) b = rdTcm s b := rfl
@[simp] theorem unit_updSout (k : Nat) (f : SoutSt → SoutSt) (b : Nat) : unit (updSout k f s) b = unit s b := rfl
@[simp] theorem leg_updSout (k : Nat) (f : SoutSt → SoutSt) (b : Nat) : leg (updSout k f s) b = leg s b := rfl
@[simp] theorem grp_updSout (k : Nat) (f : SoutSt → SoutSt) (b : Nat) : grp (updSout k f s) b = grp s b := rfl
@[simp] theorem cl_updSout (k : Nat) (f : SoutSt → SoutSt) (b : Nat) : cl (updSout k f s) b = cl s b := rfl
@[simp] theorem chan_updSout (k : Nat) (f : SoutSt → SoutSt) (b : Nat) : chan (updSout k f s) b = chan s b := rfl
@[simp] theorem sar_updSout (k : Nat) (f : SoutSt → SoutSt) (b : Nat) : sar (updSout k f s) b = sar s b := rfl
@[simp] theorem slot_updSout (k : Nat) (f : SoutSt → SoutSt) (b : Nat) : slot (updSout k f s) b = slot s b := rfl
@[simp] theorem port_updSout (k : Nat) (f : SoutSt → SoutSt) (b : Nat) : port (updSout k f s) b = port s b := rfl
@[simp] theorem cmpo_updSout (k : Nat) (f : SoutSt → SoutSt) (b : Nat) : cmpo (updSout k f s) b = cmpo s b := rfl
@[simp] theorem em_updSout (k : Nat) (f : SoutSt → SoutSt) (b : Nat) : em (updSout k f s) b = em s b := rfl
@[simp] theorem pls_updSout (k : Nat) (f : SoutSt → SoutSt) (b : Nat) : pls (updSout k f s) b = pls s b := rfl
@[simp] theorem link_updSout (k : Nat) (f : SoutSt → SoutSt) (b : Nat) : link (updSout k f s) b = link s b := rfl
@[simp] theorem memb_updSout (k : Nat) (f : SoutSt → SoutSt) (b : Nat) : memb (updSout k f s) b = memb s b := rfl
@[simp] theorem spq_updSout (k : Nat) (f : SoutSt → SoutSt) (b : Nat) : spq (updSout k f s) b = spq s b := rfl
@[simp] theorem can_updSout (k : Nat) (f : SoutSt → SoutSt) (b : Nat) : can (updSout k f s) b = can s b := rfl
@[simp] theorem qsp_updSout (k : Nat) (f : SoutSt → SoutSt) (b : Nat) : qsp (updSout k f s) b = qsp s b := rfl
@[simp] theorem cell_updSout (k : Nat) (f : SoutSt → SoutSt) (b : Nat) : cell (updSout k f s) b = cell s b := rfl
@[simp] theorem scr_updSout (k : Nat) (f : SoutSt → SoutSt) (b : Nat) : scr (updSout k f s) b = scr s b := rfl
@[simp] theorem sample_updSout (k : Nat) (f : SoutSt → SoutSt) (b : Nat) : sample (updSout k f s) b = sample s b := rfl
@[simp] theorem latched_updSout (k : Nat) (f : SoutSt → SoutSt) (b : Nat) : latched (updSout k f s) b = latched s b := rfl
@[simp] theorem pairState_updSout (k : Nat) (f : SoutSt → SoutSt) (b : Nat) : pairState (updSout k f s) b = pairState s b := rfl
@[simp] theorem ticking_updSout (k : Nat) (f : SoutSt → SoutSt) : ticking (updSout k f s) = ticking s := rfl
@[simp] theorem is9610_updSout (k : Nat) (f : SoutSt → SoutSt) : is9610 (updSout k f s) = is9610 s := rfl
@[simp] theorem hasUnit_updSout (k : Nat) (f : SoutSt → SoutSt) (b : Nat) : hasUnit (updSout k f s) b = hasUnit s b := rfl
@[simp] theorem hasLeg_updSout (k : Nat) (f : SoutSt → SoutSt) (b : Nat) : hasLeg (updSout k f s) b = hasLeg s b := rfl
@[simp] theorem hasCluster_updSout (k : Nat) (f : SoutSt → SoutSt) (b : Nat) : hasCluster (updSout k f s) b = hasCluster s b := rfl
@[simp] theorem hasBs_updSout (k : Nat) (f : SoutSt → SoutSt) (b : Nat) : hasBs (updSout k f s) b = hasBs s b := rfl
@[simp] theorem hasClk_updSout (k : Nat) (f : SoutSt → SoutSt) (b : Nat) : hasClk (updSout k f s) b = hasClk s b := rfl
@[simp] theorem hasPort_updSout (k : Nat) (f : SoutSt → SoutSt) (b : Nat) : hasPort (updSout k f s) b = hasPort s b := rfl
@[simp] theorem hasSp_updSout (k : Nat) (f : SoutSt → SoutSt) (b : Nat) : hasSp (updSout k f s) b = hasSp s b := rfl
@[simp] theorem hasCan_updSout (k : Nat) (f : SoutSt → SoutSt) (b : Nat) : hasCan (updSout k f s) b = hasCan s b := rfl
@[simp] theorem deadEvent_updSout (k : Nat) (f : SoutSt → SoutSt) (b : Nat) : deadEvent (updSout k f s) b = deadEvent s b := rfl

@[simp] theorem reg_updLink (k : Nat) (f : LinkSt → LinkSt) (b : Nat) : reg (updLink k f s) b = reg s b := rfl
@[simp] theorem fld_updLink (k : Nat) (f : LinkSt → LinkSt) (g : Fld) : fld (updLink k f s) g = fld s g := rfl
@[simp] theorem shad_updLink (k : Nat) (f : LinkSt → LinkSt) (b : Nat) : shad (updLink k f s) b = shad s b := rfl
@[simp] theorem sfld_updLink (k : Nat) (f : LinkSt → LinkSt) (g : Fld) : sfld (updLink k f s) g = sfld s g := rfl
@[simp] theorem live_updLink (k : Nat) (f : LinkSt → LinkSt) (b : Nat) : live (updLink k f s) b = live s b := rfl
@[simp] theorem lfld_updLink (k : Nat) (f : LinkSt → LinkSt) (g : Fld) : lfld (updLink k f s) g = lfld s g := rfl
@[simp] theorem act_updLink (k : Nat) (f : LinkSt → LinkSt) (b : Nat) : act (updLink k f s) b = act s b := rfl
@[simp] theorem afld_updLink (k : Nat) (f : LinkSt → LinkSt) (g : Fld) : afld (updLink k f s) g = afld s g := rfl
@[simp] theorem rdByte_updLink (k : Nat) (f : LinkSt → LinkSt) (b : Nat) : rdByte (updLink k f s) b = rdByte s b := rfl
@[simp] theorem rdTcm_updLink (k : Nat) (f : LinkSt → LinkSt) (b : Nat) : rdTcm (updLink k f s) b = rdTcm s b := rfl
@[simp] theorem unit_updLink (k : Nat) (f : LinkSt → LinkSt) (b : Nat) : unit (updLink k f s) b = unit s b := rfl
@[simp] theorem leg_updLink (k : Nat) (f : LinkSt → LinkSt) (b : Nat) : leg (updLink k f s) b = leg s b := rfl
@[simp] theorem grp_updLink (k : Nat) (f : LinkSt → LinkSt) (b : Nat) : grp (updLink k f s) b = grp s b := rfl
@[simp] theorem cl_updLink (k : Nat) (f : LinkSt → LinkSt) (b : Nat) : cl (updLink k f s) b = cl s b := rfl
@[simp] theorem chan_updLink (k : Nat) (f : LinkSt → LinkSt) (b : Nat) : chan (updLink k f s) b = chan s b := rfl
@[simp] theorem sar_updLink (k : Nat) (f : LinkSt → LinkSt) (b : Nat) : sar (updLink k f s) b = sar s b := rfl
@[simp] theorem slot_updLink (k : Nat) (f : LinkSt → LinkSt) (b : Nat) : slot (updLink k f s) b = slot s b := rfl
@[simp] theorem port_updLink (k : Nat) (f : LinkSt → LinkSt) (b : Nat) : port (updLink k f s) b = port s b := rfl
@[simp] theorem cmpo_updLink (k : Nat) (f : LinkSt → LinkSt) (b : Nat) : cmpo (updLink k f s) b = cmpo s b := rfl
@[simp] theorem em_updLink (k : Nat) (f : LinkSt → LinkSt) (b : Nat) : em (updLink k f s) b = em s b := rfl
@[simp] theorem pls_updLink (k : Nat) (f : LinkSt → LinkSt) (b : Nat) : pls (updLink k f s) b = pls s b := rfl
@[simp] theorem sin_updLink (k : Nat) (f : LinkSt → LinkSt) (b : Nat) : sin (updLink k f s) b = sin s b := rfl
@[simp] theorem sout_updLink (k : Nat) (f : LinkSt → LinkSt) (b : Nat) : sout (updLink k f s) b = sout s b := rfl
@[simp] theorem can_updLink (k : Nat) (f : LinkSt → LinkSt) (b : Nat) : can (updLink k f s) b = can s b := rfl
@[simp] theorem qsp_updLink (k : Nat) (f : LinkSt → LinkSt) (b : Nat) : qsp (updLink k f s) b = qsp s b := rfl
@[simp] theorem cell_updLink (k : Nat) (f : LinkSt → LinkSt) (b : Nat) : cell (updLink k f s) b = cell s b := rfl
@[simp] theorem scr_updLink (k : Nat) (f : LinkSt → LinkSt) (b : Nat) : scr (updLink k f s) b = scr s b := rfl
@[simp] theorem sample_updLink (k : Nat) (f : LinkSt → LinkSt) (b : Nat) : sample (updLink k f s) b = sample s b := rfl
@[simp] theorem latched_updLink (k : Nat) (f : LinkSt → LinkSt) (b : Nat) : latched (updLink k f s) b = latched s b := rfl
@[simp] theorem pairState_updLink (k : Nat) (f : LinkSt → LinkSt) (b : Nat) : pairState (updLink k f s) b = pairState s b := rfl
@[simp] theorem ticking_updLink (k : Nat) (f : LinkSt → LinkSt) : ticking (updLink k f s) = ticking s := rfl
@[simp] theorem is9610_updLink (k : Nat) (f : LinkSt → LinkSt) : is9610 (updLink k f s) = is9610 s := rfl
@[simp] theorem hasUnit_updLink (k : Nat) (f : LinkSt → LinkSt) (b : Nat) : hasUnit (updLink k f s) b = hasUnit s b := rfl
@[simp] theorem hasLeg_updLink (k : Nat) (f : LinkSt → LinkSt) (b : Nat) : hasLeg (updLink k f s) b = hasLeg s b := rfl
@[simp] theorem hasCluster_updLink (k : Nat) (f : LinkSt → LinkSt) (b : Nat) : hasCluster (updLink k f s) b = hasCluster s b := rfl
@[simp] theorem hasBs_updLink (k : Nat) (f : LinkSt → LinkSt) (b : Nat) : hasBs (updLink k f s) b = hasBs s b := rfl
@[simp] theorem hasClk_updLink (k : Nat) (f : LinkSt → LinkSt) (b : Nat) : hasClk (updLink k f s) b = hasClk s b := rfl
@[simp] theorem hasPort_updLink (k : Nat) (f : LinkSt → LinkSt) (b : Nat) : hasPort (updLink k f s) b = hasPort s b := rfl
@[simp] theorem hasSp_updLink (k : Nat) (f : LinkSt → LinkSt) (b : Nat) : hasSp (updLink k f s) b = hasSp s b := rfl
@[simp] theorem hasCan_updLink (k : Nat) (f : LinkSt → LinkSt) (b : Nat) : hasCan (updLink k f s) b = hasCan s b := rfl
@[simp] theorem deadEvent_updLink (k : Nat) (f : LinkSt → LinkSt) (b : Nat) : deadEvent (updLink k f s) b = deadEvent s b := rfl

@[simp] theorem reg_updMemb (k : Nat) (f : MembSt → MembSt) (b : Nat) : reg (updMemb k f s) b = reg s b := rfl
@[simp] theorem fld_updMemb (k : Nat) (f : MembSt → MembSt) (g : Fld) : fld (updMemb k f s) g = fld s g := rfl
@[simp] theorem shad_updMemb (k : Nat) (f : MembSt → MembSt) (b : Nat) : shad (updMemb k f s) b = shad s b := rfl
@[simp] theorem sfld_updMemb (k : Nat) (f : MembSt → MembSt) (g : Fld) : sfld (updMemb k f s) g = sfld s g := rfl
@[simp] theorem live_updMemb (k : Nat) (f : MembSt → MembSt) (b : Nat) : live (updMemb k f s) b = live s b := rfl
@[simp] theorem lfld_updMemb (k : Nat) (f : MembSt → MembSt) (g : Fld) : lfld (updMemb k f s) g = lfld s g := rfl
@[simp] theorem act_updMemb (k : Nat) (f : MembSt → MembSt) (b : Nat) : act (updMemb k f s) b = act s b := rfl
@[simp] theorem afld_updMemb (k : Nat) (f : MembSt → MembSt) (g : Fld) : afld (updMemb k f s) g = afld s g := rfl
@[simp] theorem rdByte_updMemb (k : Nat) (f : MembSt → MembSt) (b : Nat) : rdByte (updMemb k f s) b = rdByte s b := rfl
@[simp] theorem rdTcm_updMemb (k : Nat) (f : MembSt → MembSt) (b : Nat) : rdTcm (updMemb k f s) b = rdTcm s b := rfl
@[simp] theorem unit_updMemb (k : Nat) (f : MembSt → MembSt) (b : Nat) : unit (updMemb k f s) b = unit s b := rfl
@[simp] theorem leg_updMemb (k : Nat) (f : MembSt → MembSt) (b : Nat) : leg (updMemb k f s) b = leg s b := rfl
@[simp] theorem grp_updMemb (k : Nat) (f : MembSt → MembSt) (b : Nat) : grp (updMemb k f s) b = grp s b := rfl
@[simp] theorem cl_updMemb (k : Nat) (f : MembSt → MembSt) (b : Nat) : cl (updMemb k f s) b = cl s b := rfl
@[simp] theorem chan_updMemb (k : Nat) (f : MembSt → MembSt) (b : Nat) : chan (updMemb k f s) b = chan s b := rfl
@[simp] theorem sar_updMemb (k : Nat) (f : MembSt → MembSt) (b : Nat) : sar (updMemb k f s) b = sar s b := rfl
@[simp] theorem slot_updMemb (k : Nat) (f : MembSt → MembSt) (b : Nat) : slot (updMemb k f s) b = slot s b := rfl
@[simp] theorem port_updMemb (k : Nat) (f : MembSt → MembSt) (b : Nat) : port (updMemb k f s) b = port s b := rfl
@[simp] theorem cmpo_updMemb (k : Nat) (f : MembSt → MembSt) (b : Nat) : cmpo (updMemb k f s) b = cmpo s b := rfl
@[simp] theorem em_updMemb (k : Nat) (f : MembSt → MembSt) (b : Nat) : em (updMemb k f s) b = em s b := rfl
@[simp] theorem pls_updMemb (k : Nat) (f : MembSt → MembSt) (b : Nat) : pls (updMemb k f s) b = pls s b := rfl
@[simp] theorem sin_updMemb (k : Nat) (f : MembSt → MembSt) (b : Nat) : sin (updMemb k f s) b = sin s b := rfl
@[simp] theorem sout_updMemb (k : Nat) (f : MembSt → MembSt) (b : Nat) : sout (updMemb k f s) b = sout s b := rfl
@[simp] theorem can_updMemb (k : Nat) (f : MembSt → MembSt) (b : Nat) : can (updMemb k f s) b = can s b := rfl
@[simp] theorem qsp_updMemb (k : Nat) (f : MembSt → MembSt) (b : Nat) : qsp (updMemb k f s) b = qsp s b := rfl
@[simp] theorem cell_updMemb (k : Nat) (f : MembSt → MembSt) (b : Nat) : cell (updMemb k f s) b = cell s b := rfl
@[simp] theorem scr_updMemb (k : Nat) (f : MembSt → MembSt) (b : Nat) : scr (updMemb k f s) b = scr s b := rfl
@[simp] theorem sample_updMemb (k : Nat) (f : MembSt → MembSt) (b : Nat) : sample (updMemb k f s) b = sample s b := rfl
@[simp] theorem latched_updMemb (k : Nat) (f : MembSt → MembSt) (b : Nat) : latched (updMemb k f s) b = latched s b := rfl
@[simp] theorem pairState_updMemb (k : Nat) (f : MembSt → MembSt) (b : Nat) : pairState (updMemb k f s) b = pairState s b := rfl
@[simp] theorem ticking_updMemb (k : Nat) (f : MembSt → MembSt) : ticking (updMemb k f s) = ticking s := rfl
@[simp] theorem is9610_updMemb (k : Nat) (f : MembSt → MembSt) : is9610 (updMemb k f s) = is9610 s := rfl
@[simp] theorem hasUnit_updMemb (k : Nat) (f : MembSt → MembSt) (b : Nat) : hasUnit (updMemb k f s) b = hasUnit s b := rfl
@[simp] theorem hasLeg_updMemb (k : Nat) (f : MembSt → MembSt) (b : Nat) : hasLeg (updMemb k f s) b = hasLeg s b := rfl
@[simp] theorem hasCluster_updMemb (k : Nat) (f : MembSt → MembSt) (b : Nat) : hasCluster (updMemb k f s) b = hasCluster s b := rfl
@[simp] theorem hasBs_updMemb (k : Nat) (f : MembSt → MembSt) (b : Nat) : hasBs (updMemb k f s) b = hasBs s b := rfl
@[simp] theorem hasClk_updMemb (k : Nat) (f : MembSt → MembSt) (b : Nat) : hasClk (updMemb k f s) b = hasClk s b := rfl
@[simp] theorem hasPort_updMemb (k : Nat) (f : MembSt → MembSt) (b : Nat) : hasPort (updMemb k f s) b = hasPort s b := rfl
@[simp] theorem hasSp_updMemb (k : Nat) (f : MembSt → MembSt) (b : Nat) : hasSp (updMemb k f s) b = hasSp s b := rfl
@[simp] theorem hasCan_updMemb (k : Nat) (f : MembSt → MembSt) (b : Nat) : hasCan (updMemb k f s) b = hasCan s b := rfl
@[simp] theorem deadEvent_updMemb (k : Nat) (f : MembSt → MembSt) (b : Nat) : deadEvent (updMemb k f s) b = deadEvent s b := rfl

@[simp] theorem reg_updSpq (k : Nat) (f : QSt → QSt) (b : Nat) : reg (updSpq k f s) b = reg s b := rfl
@[simp] theorem fld_updSpq (k : Nat) (f : QSt → QSt) (g : Fld) : fld (updSpq k f s) g = fld s g := rfl
@[simp] theorem shad_updSpq (k : Nat) (f : QSt → QSt) (b : Nat) : shad (updSpq k f s) b = shad s b := rfl
@[simp] theorem sfld_updSpq (k : Nat) (f : QSt → QSt) (g : Fld) : sfld (updSpq k f s) g = sfld s g := rfl
@[simp] theorem live_updSpq (k : Nat) (f : QSt → QSt) (b : Nat) : live (updSpq k f s) b = live s b := rfl
@[simp] theorem lfld_updSpq (k : Nat) (f : QSt → QSt) (g : Fld) : lfld (updSpq k f s) g = lfld s g := rfl
@[simp] theorem act_updSpq (k : Nat) (f : QSt → QSt) (b : Nat) : act (updSpq k f s) b = act s b := rfl
@[simp] theorem afld_updSpq (k : Nat) (f : QSt → QSt) (g : Fld) : afld (updSpq k f s) g = afld s g := rfl
@[simp] theorem rdByte_updSpq (k : Nat) (f : QSt → QSt) (b : Nat) : rdByte (updSpq k f s) b = rdByte s b := rfl
@[simp] theorem rdTcm_updSpq (k : Nat) (f : QSt → QSt) (b : Nat) : rdTcm (updSpq k f s) b = rdTcm s b := rfl
@[simp] theorem unit_updSpq (k : Nat) (f : QSt → QSt) (b : Nat) : unit (updSpq k f s) b = unit s b := rfl
@[simp] theorem leg_updSpq (k : Nat) (f : QSt → QSt) (b : Nat) : leg (updSpq k f s) b = leg s b := rfl
@[simp] theorem grp_updSpq (k : Nat) (f : QSt → QSt) (b : Nat) : grp (updSpq k f s) b = grp s b := rfl
@[simp] theorem cl_updSpq (k : Nat) (f : QSt → QSt) (b : Nat) : cl (updSpq k f s) b = cl s b := rfl
@[simp] theorem chan_updSpq (k : Nat) (f : QSt → QSt) (b : Nat) : chan (updSpq k f s) b = chan s b := rfl
@[simp] theorem sar_updSpq (k : Nat) (f : QSt → QSt) (b : Nat) : sar (updSpq k f s) b = sar s b := rfl
@[simp] theorem slot_updSpq (k : Nat) (f : QSt → QSt) (b : Nat) : slot (updSpq k f s) b = slot s b := rfl
@[simp] theorem port_updSpq (k : Nat) (f : QSt → QSt) (b : Nat) : port (updSpq k f s) b = port s b := rfl
@[simp] theorem cmpo_updSpq (k : Nat) (f : QSt → QSt) (b : Nat) : cmpo (updSpq k f s) b = cmpo s b := rfl
@[simp] theorem em_updSpq (k : Nat) (f : QSt → QSt) (b : Nat) : em (updSpq k f s) b = em s b := rfl
@[simp] theorem pls_updSpq (k : Nat) (f : QSt → QSt) (b : Nat) : pls (updSpq k f s) b = pls s b := rfl
@[simp] theorem sin_updSpq (k : Nat) (f : QSt → QSt) (b : Nat) : sin (updSpq k f s) b = sin s b := rfl
@[simp] theorem sout_updSpq (k : Nat) (f : QSt → QSt) (b : Nat) : sout (updSpq k f s) b = sout s b := rfl
@[simp] theorem can_updSpq (k : Nat) (f : QSt → QSt) (b : Nat) : can (updSpq k f s) b = can s b := rfl
@[simp] theorem qsp_updSpq (k : Nat) (f : QSt → QSt) (b : Nat) : qsp (updSpq k f s) b = qsp s b := rfl
@[simp] theorem cell_updSpq (k : Nat) (f : QSt → QSt) (b : Nat) : cell (updSpq k f s) b = cell s b := rfl
@[simp] theorem scr_updSpq (k : Nat) (f : QSt → QSt) (b : Nat) : scr (updSpq k f s) b = scr s b := rfl
@[simp] theorem sample_updSpq (k : Nat) (f : QSt → QSt) (b : Nat) : sample (updSpq k f s) b = sample s b := rfl
@[simp] theorem latched_updSpq (k : Nat) (f : QSt → QSt) (b : Nat) : latched (updSpq k f s) b = latched s b := rfl
@[simp] theorem pairState_updSpq (k : Nat) (f : QSt → QSt) (b : Nat) : pairState (updSpq k f s) b = pairState s b := rfl
@[simp] theorem ticking_updSpq (k : Nat) (f : QSt → QSt) : ticking (updSpq k f s) = ticking s := rfl
@[simp] theorem is9610_updSpq (k : Nat) (f : QSt → QSt) : is9610 (updSpq k f s) = is9610 s := rfl
@[simp] theorem hasUnit_updSpq (k : Nat) (f : QSt → QSt) (b : Nat) : hasUnit (updSpq k f s) b = hasUnit s b := rfl
@[simp] theorem hasLeg_updSpq (k : Nat) (f : QSt → QSt) (b : Nat) : hasLeg (updSpq k f s) b = hasLeg s b := rfl
@[simp] theorem hasCluster_updSpq (k : Nat) (f : QSt → QSt) (b : Nat) : hasCluster (updSpq k f s) b = hasCluster s b := rfl
@[simp] theorem hasBs_updSpq (k : Nat) (f : QSt → QSt) (b : Nat) : hasBs (updSpq k f s) b = hasBs s b := rfl
@[simp] theorem hasClk_updSpq (k : Nat) (f : QSt → QSt) (b : Nat) : hasClk (updSpq k f s) b = hasClk s b := rfl
@[simp] theorem hasPort_updSpq (k : Nat) (f : QSt → QSt) (b : Nat) : hasPort (updSpq k f s) b = hasPort s b := rfl
@[simp] theorem hasSp_updSpq (k : Nat) (f : QSt → QSt) (b : Nat) : hasSp (updSpq k f s) b = hasSp s b := rfl
@[simp] theorem hasCan_updSpq (k : Nat) (f : QSt → QSt) (b : Nat) : hasCan (updSpq k f s) b = hasCan s b := rfl
@[simp] theorem deadEvent_updSpq (k : Nat) (f : QSt → QSt) (b : Nat) : deadEvent (updSpq k f s) b = deadEvent s b := rfl

@[simp] theorem reg_updCan (k : Nat) (f : CanSt → CanSt) (b : Nat) : reg (updCan k f s) b = reg s b := rfl
@[simp] theorem fld_updCan (k : Nat) (f : CanSt → CanSt) (g : Fld) : fld (updCan k f s) g = fld s g := rfl
@[simp] theorem shad_updCan (k : Nat) (f : CanSt → CanSt) (b : Nat) : shad (updCan k f s) b = shad s b := rfl
@[simp] theorem sfld_updCan (k : Nat) (f : CanSt → CanSt) (g : Fld) : sfld (updCan k f s) g = sfld s g := rfl
@[simp] theorem live_updCan (k : Nat) (f : CanSt → CanSt) (b : Nat) : live (updCan k f s) b = live s b := rfl
@[simp] theorem lfld_updCan (k : Nat) (f : CanSt → CanSt) (g : Fld) : lfld (updCan k f s) g = lfld s g := rfl
@[simp] theorem act_updCan (k : Nat) (f : CanSt → CanSt) (b : Nat) : act (updCan k f s) b = act s b := rfl
@[simp] theorem afld_updCan (k : Nat) (f : CanSt → CanSt) (g : Fld) : afld (updCan k f s) g = afld s g := rfl
@[simp] theorem rdByte_updCan (k : Nat) (f : CanSt → CanSt) (b : Nat) : rdByte (updCan k f s) b = rdByte s b := rfl
@[simp] theorem rdTcm_updCan (k : Nat) (f : CanSt → CanSt) (b : Nat) : rdTcm (updCan k f s) b = rdTcm s b := rfl
@[simp] theorem unit_updCan (k : Nat) (f : CanSt → CanSt) (b : Nat) : unit (updCan k f s) b = unit s b := rfl
@[simp] theorem leg_updCan (k : Nat) (f : CanSt → CanSt) (b : Nat) : leg (updCan k f s) b = leg s b := rfl
@[simp] theorem grp_updCan (k : Nat) (f : CanSt → CanSt) (b : Nat) : grp (updCan k f s) b = grp s b := rfl
@[simp] theorem cl_updCan (k : Nat) (f : CanSt → CanSt) (b : Nat) : cl (updCan k f s) b = cl s b := rfl
@[simp] theorem chan_updCan (k : Nat) (f : CanSt → CanSt) (b : Nat) : chan (updCan k f s) b = chan s b := rfl
@[simp] theorem sar_updCan (k : Nat) (f : CanSt → CanSt) (b : Nat) : sar (updCan k f s) b = sar s b := rfl
@[simp] theorem slot_updCan (k : Nat) (f : CanSt → CanSt) (b : Nat) : slot (updCan k f s) b = slot s b := rfl
@[simp] theorem port_updCan (k : Nat) (f : CanSt → CanSt) (b : Nat) : port (updCan k f s) b = port s b := rfl
@[simp] theorem cmpo_updCan (k : Nat) (f : CanSt → CanSt) (b : Nat) : cmpo (updCan k f s) b = cmpo s b := rfl
@[simp] theorem em_updCan (k : Nat) (f : CanSt → CanSt) (b : Nat) : em (updCan k f s) b = em s b := rfl
@[simp] theorem pls_updCan (k : Nat) (f : CanSt → CanSt) (b : Nat) : pls (updCan k f s) b = pls s b := rfl
@[simp] theorem sin_updCan (k : Nat) (f : CanSt → CanSt) (b : Nat) : sin (updCan k f s) b = sin s b := rfl
@[simp] theorem sout_updCan (k : Nat) (f : CanSt → CanSt) (b : Nat) : sout (updCan k f s) b = sout s b := rfl
@[simp] theorem link_updCan (k : Nat) (f : CanSt → CanSt) (b : Nat) : link (updCan k f s) b = link s b := rfl
@[simp] theorem memb_updCan (k : Nat) (f : CanSt → CanSt) (b : Nat) : memb (updCan k f s) b = memb s b := rfl
@[simp] theorem spq_updCan (k : Nat) (f : CanSt → CanSt) (b : Nat) : spq (updCan k f s) b = spq s b := rfl
@[simp] theorem qsp_updCan (k : Nat) (f : CanSt → CanSt) (b : Nat) : qsp (updCan k f s) b = qsp s b := rfl
@[simp] theorem cell_updCan (k : Nat) (f : CanSt → CanSt) (b : Nat) : cell (updCan k f s) b = cell s b := rfl
@[simp] theorem scr_updCan (k : Nat) (f : CanSt → CanSt) (b : Nat) : scr (updCan k f s) b = scr s b := rfl
@[simp] theorem sample_updCan (k : Nat) (f : CanSt → CanSt) (b : Nat) : sample (updCan k f s) b = sample s b := rfl
@[simp] theorem latched_updCan (k : Nat) (f : CanSt → CanSt) (b : Nat) : latched (updCan k f s) b = latched s b := rfl
@[simp] theorem pairState_updCan (k : Nat) (f : CanSt → CanSt) (b : Nat) : pairState (updCan k f s) b = pairState s b := rfl
@[simp] theorem ticking_updCan (k : Nat) (f : CanSt → CanSt) : ticking (updCan k f s) = ticking s := rfl
@[simp] theorem is9610_updCan (k : Nat) (f : CanSt → CanSt) : is9610 (updCan k f s) = is9610 s := rfl
@[simp] theorem hasUnit_updCan (k : Nat) (f : CanSt → CanSt) (b : Nat) : hasUnit (updCan k f s) b = hasUnit s b := rfl
@[simp] theorem hasLeg_updCan (k : Nat) (f : CanSt → CanSt) (b : Nat) : hasLeg (updCan k f s) b = hasLeg s b := rfl
@[simp] theorem hasCluster_updCan (k : Nat) (f : CanSt → CanSt) (b : Nat) : hasCluster (updCan k f s) b = hasCluster s b := rfl
@[simp] theorem hasBs_updCan (k : Nat) (f : CanSt → CanSt) (b : Nat) : hasBs (updCan k f s) b = hasBs s b := rfl
@[simp] theorem hasClk_updCan (k : Nat) (f : CanSt → CanSt) (b : Nat) : hasClk (updCan k f s) b = hasClk s b := rfl
@[simp] theorem hasPort_updCan (k : Nat) (f : CanSt → CanSt) (b : Nat) : hasPort (updCan k f s) b = hasPort s b := rfl
@[simp] theorem hasSp_updCan (k : Nat) (f : CanSt → CanSt) (b : Nat) : hasSp (updCan k f s) b = hasSp s b := rfl
@[simp] theorem hasCan_updCan (k : Nat) (f : CanSt → CanSt) (b : Nat) : hasCan (updCan k f s) b = hasCan s b := rfl
@[simp] theorem deadEvent_updCan (k : Nat) (f : CanSt → CanSt) (b : Nat) : deadEvent (updCan k f s) b = deadEvent s b := rfl

@[simp] theorem reg_updQsp (k : Nat) (f : QspSt → QspSt) (b : Nat) : reg (updQsp k f s) b = reg s b := rfl
@[simp] theorem fld_updQsp (k : Nat) (f : QspSt → QspSt) (g : Fld) : fld (updQsp k f s) g = fld s g := rfl
@[simp] theorem shad_updQsp (k : Nat) (f : QspSt → QspSt) (b : Nat) : shad (updQsp k f s) b = shad s b := rfl
@[simp] theorem sfld_updQsp (k : Nat) (f : QspSt → QspSt) (g : Fld) : sfld (updQsp k f s) g = sfld s g := rfl
@[simp] theorem live_updQsp (k : Nat) (f : QspSt → QspSt) (b : Nat) : live (updQsp k f s) b = live s b := rfl
@[simp] theorem lfld_updQsp (k : Nat) (f : QspSt → QspSt) (g : Fld) : lfld (updQsp k f s) g = lfld s g := rfl
@[simp] theorem act_updQsp (k : Nat) (f : QspSt → QspSt) (b : Nat) : act (updQsp k f s) b = act s b := rfl
@[simp] theorem afld_updQsp (k : Nat) (f : QspSt → QspSt) (g : Fld) : afld (updQsp k f s) g = afld s g := rfl
@[simp] theorem rdByte_updQsp (k : Nat) (f : QspSt → QspSt) (b : Nat) : rdByte (updQsp k f s) b = rdByte s b := rfl
@[simp] theorem rdTcm_updQsp (k : Nat) (f : QspSt → QspSt) (b : Nat) : rdTcm (updQsp k f s) b = rdTcm s b := rfl
@[simp] theorem unit_updQsp (k : Nat) (f : QspSt → QspSt) (b : Nat) : unit (updQsp k f s) b = unit s b := rfl
@[simp] theorem leg_updQsp (k : Nat) (f : QspSt → QspSt) (b : Nat) : leg (updQsp k f s) b = leg s b := rfl
@[simp] theorem grp_updQsp (k : Nat) (f : QspSt → QspSt) (b : Nat) : grp (updQsp k f s) b = grp s b := rfl
@[simp] theorem cl_updQsp (k : Nat) (f : QspSt → QspSt) (b : Nat) : cl (updQsp k f s) b = cl s b := rfl
@[simp] theorem chan_updQsp (k : Nat) (f : QspSt → QspSt) (b : Nat) : chan (updQsp k f s) b = chan s b := rfl
@[simp] theorem sar_updQsp (k : Nat) (f : QspSt → QspSt) (b : Nat) : sar (updQsp k f s) b = sar s b := rfl
@[simp] theorem slot_updQsp (k : Nat) (f : QspSt → QspSt) (b : Nat) : slot (updQsp k f s) b = slot s b := rfl
@[simp] theorem port_updQsp (k : Nat) (f : QspSt → QspSt) (b : Nat) : port (updQsp k f s) b = port s b := rfl
@[simp] theorem cmpo_updQsp (k : Nat) (f : QspSt → QspSt) (b : Nat) : cmpo (updQsp k f s) b = cmpo s b := rfl
@[simp] theorem em_updQsp (k : Nat) (f : QspSt → QspSt) (b : Nat) : em (updQsp k f s) b = em s b := rfl
@[simp] theorem pls_updQsp (k : Nat) (f : QspSt → QspSt) (b : Nat) : pls (updQsp k f s) b = pls s b := rfl
@[simp] theorem sin_updQsp (k : Nat) (f : QspSt → QspSt) (b : Nat) : sin (updQsp k f s) b = sin s b := rfl
@[simp] theorem sout_updQsp (k : Nat) (f : QspSt → QspSt) (b : Nat) : sout (updQsp k f s) b = sout s b := rfl
@[simp] theorem link_updQsp (k : Nat) (f : QspSt → QspSt) (b : Nat) : link (updQsp k f s) b = link s b := rfl
@[simp] theorem memb_updQsp (k : Nat) (f : QspSt → QspSt) (b : Nat) : memb (updQsp k f s) b = memb s b := rfl
@[simp] theorem spq_updQsp (k : Nat) (f : QspSt → QspSt) (b : Nat) : spq (updQsp k f s) b = spq s b := rfl
@[simp] theorem can_updQsp (k : Nat) (f : QspSt → QspSt) (b : Nat) : can (updQsp k f s) b = can s b := rfl
@[simp] theorem cell_updQsp (k : Nat) (f : QspSt → QspSt) (b : Nat) : cell (updQsp k f s) b = cell s b := rfl
@[simp] theorem scr_updQsp (k : Nat) (f : QspSt → QspSt) (b : Nat) : scr (updQsp k f s) b = scr s b := rfl
@[simp] theorem sample_updQsp (k : Nat) (f : QspSt → QspSt) (b : Nat) : sample (updQsp k f s) b = sample s b := rfl
@[simp] theorem latched_updQsp (k : Nat) (f : QspSt → QspSt) (b : Nat) : latched (updQsp k f s) b = latched s b := rfl
@[simp] theorem pairState_updQsp (k : Nat) (f : QspSt → QspSt) (b : Nat) : pairState (updQsp k f s) b = pairState s b := rfl
@[simp] theorem ticking_updQsp (k : Nat) (f : QspSt → QspSt) : ticking (updQsp k f s) = ticking s := rfl
@[simp] theorem is9610_updQsp (k : Nat) (f : QspSt → QspSt) : is9610 (updQsp k f s) = is9610 s := rfl
@[simp] theorem hasUnit_updQsp (k : Nat) (f : QspSt → QspSt) (b : Nat) : hasUnit (updQsp k f s) b = hasUnit s b := rfl
@[simp] theorem hasLeg_updQsp (k : Nat) (f : QspSt → QspSt) (b : Nat) : hasLeg (updQsp k f s) b = hasLeg s b := rfl
@[simp] theorem hasCluster_updQsp (k : Nat) (f : QspSt → QspSt) (b : Nat) : hasCluster (updQsp k f s) b = hasCluster s b := rfl
@[simp] theorem hasBs_updQsp (k : Nat) (f : QspSt → QspSt) (b : Nat) : hasBs (updQsp k f s) b = hasBs s b := rfl
@[simp] theorem hasClk_updQsp (k : Nat) (f : QspSt → QspSt) (b : Nat) : hasClk (updQsp k f s) b = hasClk s b := rfl
@[simp] theorem hasPort_updQsp (k : Nat) (f : QspSt → QspSt) (b : Nat) : hasPort (updQsp k f s) b = hasPort s b := rfl
@[simp] theorem hasSp_updQsp (k : Nat) (f : QspSt → QspSt) (b : Nat) : hasSp (updQsp k f s) b = hasSp s b := rfl
@[simp] theorem hasCan_updQsp (k : Nat) (f : QspSt → QspSt) (b : Nat) : hasCan (updQsp k f s) b = hasCan s b := rfl
@[simp] theorem deadEvent_updQsp (k : Nat) (f : QspSt → QspSt) (b : Nat) : deadEvent (updQsp k f s) b = deadEvent s b := rfl

@[simp] theorem reg_updTick (f : TickSt → TickSt) (b : Nat) : reg (updTick f s) b = reg s b := rfl
@[simp] theorem fld_updTick (f : TickSt → TickSt) (g : Fld) : fld (updTick f s) g = fld s g := rfl
@[simp] theorem shad_updTick (f : TickSt → TickSt) (b : Nat) : shad (updTick f s) b = shad s b := rfl
@[simp] theorem sfld_updTick (f : TickSt → TickSt) (g : Fld) : sfld (updTick f s) g = sfld s g := rfl
@[simp] theorem live_updTick (f : TickSt → TickSt) (b : Nat) : live (updTick f s) b = live s b := rfl
@[simp] theorem lfld_updTick (f : TickSt → TickSt) (g : Fld) : lfld (updTick f s) g = lfld s g := rfl
@[simp] theorem act_updTick (f : TickSt → TickSt) (b : Nat) : act (updTick f s) b = act s b := rfl
@[simp] theorem afld_updTick (f : TickSt → TickSt) (g : Fld) : afld (updTick f s) g = afld s g := rfl
@[simp] theorem rdByte_updTick (f : TickSt → TickSt) (b : Nat) : rdByte (updTick f s) b = rdByte s b := rfl
@[simp] theorem rdTcm_updTick (f : TickSt → TickSt) (b : Nat) : rdTcm (updTick f s) b = rdTcm s b := rfl
@[simp] theorem unit_updTick (f : TickSt → TickSt) (b : Nat) : unit (updTick f s) b = unit s b := rfl
@[simp] theorem leg_updTick (f : TickSt → TickSt) (b : Nat) : leg (updTick f s) b = leg s b := rfl
@[simp] theorem grp_updTick (f : TickSt → TickSt) (b : Nat) : grp (updTick f s) b = grp s b := rfl
@[simp] theorem cl_updTick (f : TickSt → TickSt) (b : Nat) : cl (updTick f s) b = cl s b := rfl
@[simp] theorem chan_updTick (f : TickSt → TickSt) (b : Nat) : chan (updTick f s) b = chan s b := rfl
@[simp] theorem sar_updTick (f : TickSt → TickSt) (b : Nat) : sar (updTick f s) b = sar s b := rfl
@[simp] theorem slot_updTick (f : TickSt → TickSt) (b : Nat) : slot (updTick f s) b = slot s b := rfl
@[simp] theorem port_updTick (f : TickSt → TickSt) (b : Nat) : port (updTick f s) b = port s b := rfl
@[simp] theorem cmpo_updTick (f : TickSt → TickSt) (b : Nat) : cmpo (updTick f s) b = cmpo s b := rfl
@[simp] theorem em_updTick (f : TickSt → TickSt) (b : Nat) : em (updTick f s) b = em s b := rfl
@[simp] theorem pls_updTick (f : TickSt → TickSt) (b : Nat) : pls (updTick f s) b = pls s b := rfl
@[simp] theorem sin_updTick (f : TickSt → TickSt) (b : Nat) : sin (updTick f s) b = sin s b := rfl
@[simp] theorem sout_updTick (f : TickSt → TickSt) (b : Nat) : sout (updTick f s) b = sout s b := rfl
@[simp] theorem link_updTick (f : TickSt → TickSt) (b : Nat) : link (updTick f s) b = link s b := rfl
@[simp] theorem memb_updTick (f : TickSt → TickSt) (b : Nat) : memb (updTick f s) b = memb s b := rfl
@[simp] theorem spq_updTick (f : TickSt → TickSt) (b : Nat) : spq (updTick f s) b = spq s b := rfl
@[simp] theorem can_updTick (f : TickSt → TickSt) (b : Nat) : can (updTick f s) b = can s b := rfl
@[simp] theorem qsp_updTick (f : TickSt → TickSt) (b : Nat) : qsp (updTick f s) b = qsp s b := rfl
@[simp] theorem cell_updTick (f : TickSt → TickSt) (b : Nat) : cell (updTick f s) b = cell s b := rfl
@[simp] theorem scr_updTick (f : TickSt → TickSt) (b : Nat) : scr (updTick f s) b = scr s b := rfl
@[simp] theorem sample_updTick (f : TickSt → TickSt) (b : Nat) : sample (updTick f s) b = sample s b := rfl
@[simp] theorem latched_updTick (f : TickSt → TickSt) (b : Nat) : latched (updTick f s) b = latched s b := rfl
@[simp] theorem pairState_updTick (f : TickSt → TickSt) (b : Nat) : pairState (updTick f s) b = pairState s b := rfl
@[simp] theorem is9610_updTick (f : TickSt → TickSt) : is9610 (updTick f s) = is9610 s := rfl
@[simp] theorem hasUnit_updTick (f : TickSt → TickSt) (b : Nat) : hasUnit (updTick f s) b = hasUnit s b := rfl
@[simp] theorem hasLeg_updTick (f : TickSt → TickSt) (b : Nat) : hasLeg (updTick f s) b = hasLeg s b := rfl
@[simp] theorem hasCluster_updTick (f : TickSt → TickSt) (b : Nat) : hasCluster (updTick f s) b = hasCluster s b := rfl
@[simp] theorem hasBs_updTick (f : TickSt → TickSt) (b : Nat) : hasBs (updTick f s) b = hasBs s b := rfl
@[simp] theorem hasClk_updTick (f : TickSt → TickSt) (b : Nat) : hasClk (updTick f s) b = hasClk s b := rfl
@[simp] theorem hasPort_updTick (f : TickSt → TickSt) (b : Nat) : hasPort (updTick f s) b = hasPort s b := rfl
@[simp] theorem hasSp_updTick (f : TickSt → TickSt) (b : Nat) : hasSp (updTick f s) b = hasSp s b := rfl
@[simp] theorem hasCan_updTick (f : TickSt → TickSt) (b : Nat) : hasCan (updTick f s) b = hasCan s b := rfl
@[simp] theorem deadEvent_updTick (f : TickSt → TickSt) (b : Nat) : deadEvent (updTick f s) b = deadEvent s b := rfl

@[simp] theorem reg_updPrc (f : PrcSt → PrcSt) (b : Nat) : reg (updPrc f s) b = reg s b := rfl
@[simp] theorem fld_updPrc (f : PrcSt → PrcSt) (g : Fld) : fld (updPrc f s) g = fld s g := rfl
@[simp] theorem shad_updPrc (f : PrcSt → PrcSt) (b : Nat) : shad (updPrc f s) b = shad s b := rfl
@[simp] theorem sfld_updPrc (f : PrcSt → PrcSt) (g : Fld) : sfld (updPrc f s) g = sfld s g := rfl
@[simp] theorem live_updPrc (f : PrcSt → PrcSt) (b : Nat) : live (updPrc f s) b = live s b := rfl
@[simp] theorem lfld_updPrc (f : PrcSt → PrcSt) (g : Fld) : lfld (updPrc f s) g = lfld s g := rfl
@[simp] theorem act_updPrc (f : PrcSt → PrcSt) (b : Nat) : act (updPrc f s) b = act s b := rfl
@[simp] theorem afld_updPrc (f : PrcSt → PrcSt) (g : Fld) : afld (updPrc f s) g = afld s g := rfl
@[simp] theorem rdByte_updPrc (f : PrcSt → PrcSt) (b : Nat) : rdByte (updPrc f s) b = rdByte s b := rfl
@[simp] theorem rdTcm_updPrc (f : PrcSt → PrcSt) (b : Nat) : rdTcm (updPrc f s) b = rdTcm s b := rfl
@[simp] theorem unit_updPrc (f : PrcSt → PrcSt) (b : Nat) : unit (updPrc f s) b = unit s b := rfl
@[simp] theorem leg_updPrc (f : PrcSt → PrcSt) (b : Nat) : leg (updPrc f s) b = leg s b := rfl
@[simp] theorem grp_updPrc (f : PrcSt → PrcSt) (b : Nat) : grp (updPrc f s) b = grp s b := rfl
@[simp] theorem cl_updPrc (f : PrcSt → PrcSt) (b : Nat) : cl (updPrc f s) b = cl s b := rfl
@[simp] theorem chan_updPrc (f : PrcSt → PrcSt) (b : Nat) : chan (updPrc f s) b = chan s b := rfl
@[simp] theorem sar_updPrc (f : PrcSt → PrcSt) (b : Nat) : sar (updPrc f s) b = sar s b := rfl
@[simp] theorem slot_updPrc (f : PrcSt → PrcSt) (b : Nat) : slot (updPrc f s) b = slot s b := rfl
@[simp] theorem port_updPrc (f : PrcSt → PrcSt) (b : Nat) : port (updPrc f s) b = port s b := rfl
@[simp] theorem cmpo_updPrc (f : PrcSt → PrcSt) (b : Nat) : cmpo (updPrc f s) b = cmpo s b := rfl
@[simp] theorem em_updPrc (f : PrcSt → PrcSt) (b : Nat) : em (updPrc f s) b = em s b := rfl
@[simp] theorem pls_updPrc (f : PrcSt → PrcSt) (b : Nat) : pls (updPrc f s) b = pls s b := rfl
@[simp] theorem sin_updPrc (f : PrcSt → PrcSt) (b : Nat) : sin (updPrc f s) b = sin s b := rfl
@[simp] theorem sout_updPrc (f : PrcSt → PrcSt) (b : Nat) : sout (updPrc f s) b = sout s b := rfl
@[simp] theorem link_updPrc (f : PrcSt → PrcSt) (b : Nat) : link (updPrc f s) b = link s b := rfl
@[simp] theorem memb_updPrc (f : PrcSt → PrcSt) (b : Nat) : memb (updPrc f s) b = memb s b := rfl
@[simp] theorem spq_updPrc (f : PrcSt → PrcSt) (b : Nat) : spq (updPrc f s) b = spq s b := rfl
@[simp] theorem can_updPrc (f : PrcSt → PrcSt) (b : Nat) : can (updPrc f s) b = can s b := rfl
@[simp] theorem qsp_updPrc (f : PrcSt → PrcSt) (b : Nat) : qsp (updPrc f s) b = qsp s b := rfl
@[simp] theorem cell_updPrc (f : PrcSt → PrcSt) (b : Nat) : cell (updPrc f s) b = cell s b := rfl
@[simp] theorem scr_updPrc (f : PrcSt → PrcSt) (b : Nat) : scr (updPrc f s) b = scr s b := rfl
@[simp] theorem sample_updPrc (f : PrcSt → PrcSt) (b : Nat) : sample (updPrc f s) b = sample s b := rfl
@[simp] theorem latched_updPrc (f : PrcSt → PrcSt) (b : Nat) : latched (updPrc f s) b = latched s b := rfl
@[simp] theorem pairState_updPrc (f : PrcSt → PrcSt) (b : Nat) : pairState (updPrc f s) b = pairState s b := rfl
@[simp] theorem ticking_updPrc (f : PrcSt → PrcSt) : ticking (updPrc f s) = ticking s := rfl
@[simp] theorem is9610_updPrc (f : PrcSt → PrcSt) : is9610 (updPrc f s) = is9610 s := rfl
@[simp] theorem hasUnit_updPrc (f : PrcSt → PrcSt) (b : Nat) : hasUnit (updPrc f s) b = hasUnit s b := rfl
@[simp] theorem hasLeg_updPrc (f : PrcSt → PrcSt) (b : Nat) : hasLeg (updPrc f s) b = hasLeg s b := rfl
@[simp] theorem hasCluster_updPrc (f : PrcSt → PrcSt) (b : Nat) : hasCluster (updPrc f s) b = hasCluster s b := rfl
@[simp] theorem hasBs_updPrc (f : PrcSt → PrcSt) (b : Nat) : hasBs (updPrc f s) b = hasBs s b := rfl
@[simp] theorem hasClk_updPrc (f : PrcSt → PrcSt) (b : Nat) : hasClk (updPrc f s) b = hasClk s b := rfl
@[simp] theorem hasPort_updPrc (f : PrcSt → PrcSt) (b : Nat) : hasPort (updPrc f s) b = hasPort s b := rfl
@[simp] theorem hasSp_updPrc (f : PrcSt → PrcSt) (b : Nat) : hasSp (updPrc f s) b = hasSp s b := rfl
@[simp] theorem hasCan_updPrc (f : PrcSt → PrcSt) (b : Nat) : hasCan (updPrc f s) b = hasCan s b := rfl
@[simp] theorem deadEvent_updPrc (f : PrcSt → PrcSt) (b : Nat) : deadEvent (updPrc f s) b = deadEvent s b := rfl

@[simp] theorem reg_updEng (f : EngSt → EngSt) (b : Nat) : reg (updEng f s) b = reg s b := rfl
@[simp] theorem fld_updEng (f : EngSt → EngSt) (g : Fld) : fld (updEng f s) g = fld s g := rfl
@[simp] theorem shad_updEng (f : EngSt → EngSt) (b : Nat) : shad (updEng f s) b = shad s b := rfl
@[simp] theorem sfld_updEng (f : EngSt → EngSt) (g : Fld) : sfld (updEng f s) g = sfld s g := rfl
@[simp] theorem live_updEng (f : EngSt → EngSt) (b : Nat) : live (updEng f s) b = live s b := rfl
@[simp] theorem lfld_updEng (f : EngSt → EngSt) (g : Fld) : lfld (updEng f s) g = lfld s g := rfl
@[simp] theorem act_updEng (f : EngSt → EngSt) (b : Nat) : act (updEng f s) b = act s b := rfl
@[simp] theorem afld_updEng (f : EngSt → EngSt) (g : Fld) : afld (updEng f s) g = afld s g := rfl
@[simp] theorem rdByte_updEng (f : EngSt → EngSt) (b : Nat) : rdByte (updEng f s) b = rdByte s b := rfl
@[simp] theorem rdTcm_updEng (f : EngSt → EngSt) (b : Nat) : rdTcm (updEng f s) b = rdTcm s b := rfl
@[simp] theorem unit_updEng (f : EngSt → EngSt) (b : Nat) : unit (updEng f s) b = unit s b := rfl
@[simp] theorem leg_updEng (f : EngSt → EngSt) (b : Nat) : leg (updEng f s) b = leg s b := rfl
@[simp] theorem grp_updEng (f : EngSt → EngSt) (b : Nat) : grp (updEng f s) b = grp s b := rfl
@[simp] theorem cl_updEng (f : EngSt → EngSt) (b : Nat) : cl (updEng f s) b = cl s b := rfl
@[simp] theorem chan_updEng (f : EngSt → EngSt) (b : Nat) : chan (updEng f s) b = chan s b := rfl
@[simp] theorem sar_updEng (f : EngSt → EngSt) (b : Nat) : sar (updEng f s) b = sar s b := rfl
@[simp] theorem slot_updEng (f : EngSt → EngSt) (b : Nat) : slot (updEng f s) b = slot s b := rfl
@[simp] theorem port_updEng (f : EngSt → EngSt) (b : Nat) : port (updEng f s) b = port s b := rfl
@[simp] theorem cmpo_updEng (f : EngSt → EngSt) (b : Nat) : cmpo (updEng f s) b = cmpo s b := rfl
@[simp] theorem em_updEng (f : EngSt → EngSt) (b : Nat) : em (updEng f s) b = em s b := rfl
@[simp] theorem pls_updEng (f : EngSt → EngSt) (b : Nat) : pls (updEng f s) b = pls s b := rfl
@[simp] theorem sin_updEng (f : EngSt → EngSt) (b : Nat) : sin (updEng f s) b = sin s b := rfl
@[simp] theorem sout_updEng (f : EngSt → EngSt) (b : Nat) : sout (updEng f s) b = sout s b := rfl
@[simp] theorem link_updEng (f : EngSt → EngSt) (b : Nat) : link (updEng f s) b = link s b := rfl
@[simp] theorem memb_updEng (f : EngSt → EngSt) (b : Nat) : memb (updEng f s) b = memb s b := rfl
@[simp] theorem spq_updEng (f : EngSt → EngSt) (b : Nat) : spq (updEng f s) b = spq s b := rfl
@[simp] theorem can_updEng (f : EngSt → EngSt) (b : Nat) : can (updEng f s) b = can s b := rfl
@[simp] theorem qsp_updEng (f : EngSt → EngSt) (b : Nat) : qsp (updEng f s) b = qsp s b := rfl
@[simp] theorem pairState_updEng (f : EngSt → EngSt) (b : Nat) : pairState (updEng f s) b = pairState s b := rfl
@[simp] theorem ticking_updEng (f : EngSt → EngSt) : ticking (updEng f s) = ticking s := rfl
@[simp] theorem is9610_updEng (f : EngSt → EngSt) : is9610 (updEng f s) = is9610 s := rfl
@[simp] theorem hasUnit_updEng (f : EngSt → EngSt) (b : Nat) : hasUnit (updEng f s) b = hasUnit s b := rfl
@[simp] theorem hasLeg_updEng (f : EngSt → EngSt) (b : Nat) : hasLeg (updEng f s) b = hasLeg s b := rfl
@[simp] theorem hasCluster_updEng (f : EngSt → EngSt) (b : Nat) : hasCluster (updEng f s) b = hasCluster s b := rfl
@[simp] theorem hasBs_updEng (f : EngSt → EngSt) (b : Nat) : hasBs (updEng f s) b = hasBs s b := rfl
@[simp] theorem hasClk_updEng (f : EngSt → EngSt) (b : Nat) : hasClk (updEng f s) b = hasClk s b := rfl
@[simp] theorem hasPort_updEng (f : EngSt → EngSt) (b : Nat) : hasPort (updEng f s) b = hasPort s b := rfl
@[simp] theorem hasSp_updEng (f : EngSt → EngSt) (b : Nat) : hasSp (updEng f s) b = hasSp s b := rfl
@[simp] theorem hasCan_updEng (f : EngSt → EngSt) (b : Nat) : hasCan (updEng f s) b = hasCan s b := rfl
@[simp] theorem deadEvent_updEng (f : EngSt → EngSt) (b : Nat) : deadEvent (updEng f s) b = deadEvent s b := rfl

@[simp] theorem reg_updSaf (f : SafSt → SafSt) (b : Nat) : reg (updSaf f s) b = reg s b := rfl
@[simp] theorem fld_updSaf (f : SafSt → SafSt) (g : Fld) : fld (updSaf f s) g = fld s g := rfl
@[simp] theorem shad_updSaf (f : SafSt → SafSt) (b : Nat) : shad (updSaf f s) b = shad s b := rfl
@[simp] theorem sfld_updSaf (f : SafSt → SafSt) (g : Fld) : sfld (updSaf f s) g = sfld s g := rfl
@[simp] theorem live_updSaf (f : SafSt → SafSt) (b : Nat) : live (updSaf f s) b = live s b := rfl
@[simp] theorem lfld_updSaf (f : SafSt → SafSt) (g : Fld) : lfld (updSaf f s) g = lfld s g := rfl
@[simp] theorem act_updSaf (f : SafSt → SafSt) (b : Nat) : act (updSaf f s) b = act s b := rfl
@[simp] theorem afld_updSaf (f : SafSt → SafSt) (g : Fld) : afld (updSaf f s) g = afld s g := rfl
@[simp] theorem rdByte_updSaf (f : SafSt → SafSt) (b : Nat) : rdByte (updSaf f s) b = rdByte s b := rfl
@[simp] theorem rdTcm_updSaf (f : SafSt → SafSt) (b : Nat) : rdTcm (updSaf f s) b = rdTcm s b := rfl
@[simp] theorem unit_updSaf (f : SafSt → SafSt) (b : Nat) : unit (updSaf f s) b = unit s b := rfl
@[simp] theorem leg_updSaf (f : SafSt → SafSt) (b : Nat) : leg (updSaf f s) b = leg s b := rfl
@[simp] theorem grp_updSaf (f : SafSt → SafSt) (b : Nat) : grp (updSaf f s) b = grp s b := rfl
@[simp] theorem cl_updSaf (f : SafSt → SafSt) (b : Nat) : cl (updSaf f s) b = cl s b := rfl
@[simp] theorem chan_updSaf (f : SafSt → SafSt) (b : Nat) : chan (updSaf f s) b = chan s b := rfl
@[simp] theorem sar_updSaf (f : SafSt → SafSt) (b : Nat) : sar (updSaf f s) b = sar s b := rfl
@[simp] theorem slot_updSaf (f : SafSt → SafSt) (b : Nat) : slot (updSaf f s) b = slot s b := rfl
@[simp] theorem port_updSaf (f : SafSt → SafSt) (b : Nat) : port (updSaf f s) b = port s b := rfl
@[simp] theorem cmpo_updSaf (f : SafSt → SafSt) (b : Nat) : cmpo (updSaf f s) b = cmpo s b := rfl
@[simp] theorem em_updSaf (f : SafSt → SafSt) (b : Nat) : em (updSaf f s) b = em s b := rfl
@[simp] theorem pls_updSaf (f : SafSt → SafSt) (b : Nat) : pls (updSaf f s) b = pls s b := rfl
@[simp] theorem link_updSaf (f : SafSt → SafSt) (b : Nat) : link (updSaf f s) b = link s b := rfl
@[simp] theorem memb_updSaf (f : SafSt → SafSt) (b : Nat) : memb (updSaf f s) b = memb s b := rfl
@[simp] theorem spq_updSaf (f : SafSt → SafSt) (b : Nat) : spq (updSaf f s) b = spq s b := rfl
@[simp] theorem can_updSaf (f : SafSt → SafSt) (b : Nat) : can (updSaf f s) b = can s b := rfl
@[simp] theorem qsp_updSaf (f : SafSt → SafSt) (b : Nat) : qsp (updSaf f s) b = qsp s b := rfl
@[simp] theorem cell_updSaf (f : SafSt → SafSt) (b : Nat) : cell (updSaf f s) b = cell s b := rfl
@[simp] theorem scr_updSaf (f : SafSt → SafSt) (b : Nat) : scr (updSaf f s) b = scr s b := rfl
@[simp] theorem sample_updSaf (f : SafSt → SafSt) (b : Nat) : sample (updSaf f s) b = sample s b := rfl
@[simp] theorem latched_updSaf (f : SafSt → SafSt) (b : Nat) : latched (updSaf f s) b = latched s b := rfl
@[simp] theorem pairState_updSaf (f : SafSt → SafSt) (b : Nat) : pairState (updSaf f s) b = pairState s b := rfl
@[simp] theorem ticking_updSaf (f : SafSt → SafSt) : ticking (updSaf f s) = ticking s := rfl
@[simp] theorem is9610_updSaf (f : SafSt → SafSt) : is9610 (updSaf f s) = is9610 s := rfl
@[simp] theorem hasUnit_updSaf (f : SafSt → SafSt) (b : Nat) : hasUnit (updSaf f s) b = hasUnit s b := rfl
@[simp] theorem hasLeg_updSaf (f : SafSt → SafSt) (b : Nat) : hasLeg (updSaf f s) b = hasLeg s b := rfl
@[simp] theorem hasCluster_updSaf (f : SafSt → SafSt) (b : Nat) : hasCluster (updSaf f s) b = hasCluster s b := rfl
@[simp] theorem hasBs_updSaf (f : SafSt → SafSt) (b : Nat) : hasBs (updSaf f s) b = hasBs s b := rfl
@[simp] theorem hasClk_updSaf (f : SafSt → SafSt) (b : Nat) : hasClk (updSaf f s) b = hasClk s b := rfl
@[simp] theorem hasPort_updSaf (f : SafSt → SafSt) (b : Nat) : hasPort (updSaf f s) b = hasPort s b := rfl
@[simp] theorem hasSp_updSaf (f : SafSt → SafSt) (b : Nat) : hasSp (updSaf f s) b = hasSp s b := rfl
@[simp] theorem hasCan_updSaf (f : SafSt → SafSt) (b : Nat) : hasCan (updSaf f s) b = hasCan s b := rfl
@[simp] theorem deadEvent_updSaf (f : SafSt → SafSt) (b : Nat) : deadEvent (updSaf f s) b = deadEvent s b := rfl

@[simp] theorem reg_updSpn (f : SpnSt → SpnSt) (b : Nat) : reg (updSpn f s) b = reg s b := rfl
@[simp] theorem fld_updSpn (f : SpnSt → SpnSt) (g : Fld) : fld (updSpn f s) g = fld s g := rfl
@[simp] theorem shad_updSpn (f : SpnSt → SpnSt) (b : Nat) : shad (updSpn f s) b = shad s b := rfl
@[simp] theorem sfld_updSpn (f : SpnSt → SpnSt) (g : Fld) : sfld (updSpn f s) g = sfld s g := rfl
@[simp] theorem live_updSpn (f : SpnSt → SpnSt) (b : Nat) : live (updSpn f s) b = live s b := rfl
@[simp] theorem lfld_updSpn (f : SpnSt → SpnSt) (g : Fld) : lfld (updSpn f s) g = lfld s g := rfl
@[simp] theorem act_updSpn (f : SpnSt → SpnSt) (b : Nat) : act (updSpn f s) b = act s b := rfl
@[simp] theorem afld_updSpn (f : SpnSt → SpnSt) (g : Fld) : afld (updSpn f s) g = afld s g := rfl
@[simp] theorem rdByte_updSpn (f : SpnSt → SpnSt) (b : Nat) : rdByte (updSpn f s) b = rdByte s b := rfl
@[simp] theorem rdTcm_updSpn (f : SpnSt → SpnSt) (b : Nat) : rdTcm (updSpn f s) b = rdTcm s b := rfl
@[simp] theorem unit_updSpn (f : SpnSt → SpnSt) (b : Nat) : unit (updSpn f s) b = unit s b := rfl
@[simp] theorem leg_updSpn (f : SpnSt → SpnSt) (b : Nat) : leg (updSpn f s) b = leg s b := rfl
@[simp] theorem grp_updSpn (f : SpnSt → SpnSt) (b : Nat) : grp (updSpn f s) b = grp s b := rfl
@[simp] theorem cl_updSpn (f : SpnSt → SpnSt) (b : Nat) : cl (updSpn f s) b = cl s b := rfl
@[simp] theorem chan_updSpn (f : SpnSt → SpnSt) (b : Nat) : chan (updSpn f s) b = chan s b := rfl
@[simp] theorem sar_updSpn (f : SpnSt → SpnSt) (b : Nat) : sar (updSpn f s) b = sar s b := rfl
@[simp] theorem slot_updSpn (f : SpnSt → SpnSt) (b : Nat) : slot (updSpn f s) b = slot s b := rfl
@[simp] theorem port_updSpn (f : SpnSt → SpnSt) (b : Nat) : port (updSpn f s) b = port s b := rfl
@[simp] theorem cmpo_updSpn (f : SpnSt → SpnSt) (b : Nat) : cmpo (updSpn f s) b = cmpo s b := rfl
@[simp] theorem em_updSpn (f : SpnSt → SpnSt) (b : Nat) : em (updSpn f s) b = em s b := rfl
@[simp] theorem pls_updSpn (f : SpnSt → SpnSt) (b : Nat) : pls (updSpn f s) b = pls s b := rfl
@[simp] theorem sin_updSpn (f : SpnSt → SpnSt) (b : Nat) : sin (updSpn f s) b = sin s b := rfl
@[simp] theorem sout_updSpn (f : SpnSt → SpnSt) (b : Nat) : sout (updSpn f s) b = sout s b := rfl
@[simp] theorem can_updSpn (f : SpnSt → SpnSt) (b : Nat) : can (updSpn f s) b = can s b := rfl
@[simp] theorem qsp_updSpn (f : SpnSt → SpnSt) (b : Nat) : qsp (updSpn f s) b = qsp s b := rfl
@[simp] theorem cell_updSpn (f : SpnSt → SpnSt) (b : Nat) : cell (updSpn f s) b = cell s b := rfl
@[simp] theorem scr_updSpn (f : SpnSt → SpnSt) (b : Nat) : scr (updSpn f s) b = scr s b := rfl
@[simp] theorem sample_updSpn (f : SpnSt → SpnSt) (b : Nat) : sample (updSpn f s) b = sample s b := rfl
@[simp] theorem latched_updSpn (f : SpnSt → SpnSt) (b : Nat) : latched (updSpn f s) b = latched s b := rfl
@[simp] theorem pairState_updSpn (f : SpnSt → SpnSt) (b : Nat) : pairState (updSpn f s) b = pairState s b := rfl
@[simp] theorem ticking_updSpn (f : SpnSt → SpnSt) : ticking (updSpn f s) = ticking s := rfl
@[simp] theorem is9610_updSpn (f : SpnSt → SpnSt) : is9610 (updSpn f s) = is9610 s := rfl
@[simp] theorem hasUnit_updSpn (f : SpnSt → SpnSt) (b : Nat) : hasUnit (updSpn f s) b = hasUnit s b := rfl
@[simp] theorem hasLeg_updSpn (f : SpnSt → SpnSt) (b : Nat) : hasLeg (updSpn f s) b = hasLeg s b := rfl
@[simp] theorem hasCluster_updSpn (f : SpnSt → SpnSt) (b : Nat) : hasCluster (updSpn f s) b = hasCluster s b := rfl
@[simp] theorem hasBs_updSpn (f : SpnSt → SpnSt) (b : Nat) : hasBs (updSpn f s) b = hasBs s b := rfl
@[simp] theorem hasClk_updSpn (f : SpnSt → SpnSt) (b : Nat) : hasClk (updSpn f s) b = hasClk s b := rfl
@[simp] theorem hasPort_updSpn (f : SpnSt → SpnSt) (b : Nat) : hasPort (updSpn f s) b = hasPort s b := rfl
@[simp] theorem hasSp_updSpn (f : SpnSt → SpnSt) (b : Nat) : hasSp (updSpn f s) b = hasSp s b := rfl
@[simp] theorem hasCan_updSpn (f : SpnSt → SpnSt) (b : Nat) : hasCan (updSpn f s) b = hasCan s b := rfl
@[simp] theorem deadEvent_updSpn (f : SpnSt → SpnSt) (b : Nat) : deadEvent (updSpn f s) b = deadEvent s b := rfl

@[simp] theorem reg_updTru (f : TruSt → TruSt) (b : Nat) : reg (updTru f s) b = reg s b := rfl
@[simp] theorem fld_updTru (f : TruSt → TruSt) (g : Fld) : fld (updTru f s) g = fld s g := rfl
@[simp] theorem shad_updTru (f : TruSt → TruSt) (b : Nat) : shad (updTru f s) b = shad s b := rfl
@[simp] theorem sfld_updTru (f : TruSt → TruSt) (g : Fld) : sfld (updTru f s) g = sfld s g := rfl
@[simp] theorem live_updTru (f : TruSt → TruSt) (b : Nat) : live (updTru f s) b = live s b := rfl
@[simp] theorem lfld_updTru (f : TruSt → TruSt) (g : Fld) : lfld (updTru f s) g = lfld s g := rfl
@[simp] theorem act_updTru (f : TruSt → TruSt) (b : Nat) : act (updTru f s) b = act s b := rfl
@[simp] theorem afld_updTru (f : TruSt → TruSt) (g : Fld) : afld (updTru f s) g = afld s g := rfl
@[simp] theorem rdByte_updTru (f : TruSt → TruSt) (b : Nat) : rdByte (updTru f s) b = rdByte s b := rfl
@[simp] theorem rdTcm_updTru (f : TruSt → TruSt) (b : Nat) : rdTcm (updTru f s) b = rdTcm s b := rfl
@[simp] theorem unit_updTru (f : TruSt → TruSt) (b : Nat) : unit (updTru f s) b = unit s b := rfl
@[simp] theorem leg_updTru (f : TruSt → TruSt) (b : Nat) : leg (updTru f s) b = leg s b := rfl
@[simp] theorem grp_updTru (f : TruSt → TruSt) (b : Nat) : grp (updTru f s) b = grp s b := rfl
@[simp] theorem cl_updTru (f : TruSt → TruSt) (b : Nat) : cl (updTru f s) b = cl s b := rfl
@[simp] theorem chan_updTru (f : TruSt → TruSt) (b : Nat) : chan (updTru f s) b = chan s b := rfl
@[simp] theorem sar_updTru (f : TruSt → TruSt) (b : Nat) : sar (updTru f s) b = sar s b := rfl
@[simp] theorem slot_updTru (f : TruSt → TruSt) (b : Nat) : slot (updTru f s) b = slot s b := rfl
@[simp] theorem port_updTru (f : TruSt → TruSt) (b : Nat) : port (updTru f s) b = port s b := rfl
@[simp] theorem cmpo_updTru (f : TruSt → TruSt) (b : Nat) : cmpo (updTru f s) b = cmpo s b := rfl
@[simp] theorem em_updTru (f : TruSt → TruSt) (b : Nat) : em (updTru f s) b = em s b := rfl
@[simp] theorem pls_updTru (f : TruSt → TruSt) (b : Nat) : pls (updTru f s) b = pls s b := rfl
@[simp] theorem sin_updTru (f : TruSt → TruSt) (b : Nat) : sin (updTru f s) b = sin s b := rfl
@[simp] theorem sout_updTru (f : TruSt → TruSt) (b : Nat) : sout (updTru f s) b = sout s b := rfl
@[simp] theorem link_updTru (f : TruSt → TruSt) (b : Nat) : link (updTru f s) b = link s b := rfl
@[simp] theorem memb_updTru (f : TruSt → TruSt) (b : Nat) : memb (updTru f s) b = memb s b := rfl
@[simp] theorem spq_updTru (f : TruSt → TruSt) (b : Nat) : spq (updTru f s) b = spq s b := rfl
@[simp] theorem can_updTru (f : TruSt → TruSt) (b : Nat) : can (updTru f s) b = can s b := rfl
@[simp] theorem qsp_updTru (f : TruSt → TruSt) (b : Nat) : qsp (updTru f s) b = qsp s b := rfl
@[simp] theorem cell_updTru (f : TruSt → TruSt) (b : Nat) : cell (updTru f s) b = cell s b := rfl
@[simp] theorem scr_updTru (f : TruSt → TruSt) (b : Nat) : scr (updTru f s) b = scr s b := rfl
@[simp] theorem sample_updTru (f : TruSt → TruSt) (b : Nat) : sample (updTru f s) b = sample s b := rfl
@[simp] theorem latched_updTru (f : TruSt → TruSt) (b : Nat) : latched (updTru f s) b = latched s b := rfl
@[simp] theorem pairState_updTru (f : TruSt → TruSt) (b : Nat) : pairState (updTru f s) b = pairState s b := rfl
@[simp] theorem ticking_updTru (f : TruSt → TruSt) : ticking (updTru f s) = ticking s := rfl
@[simp] theorem is9610_updTru (f : TruSt → TruSt) : is9610 (updTru f s) = is9610 s := rfl
@[simp] theorem hasUnit_updTru (f : TruSt → TruSt) (b : Nat) : hasUnit (updTru f s) b = hasUnit s b := rfl
@[simp] theorem hasLeg_updTru (f : TruSt → TruSt) (b : Nat) : hasLeg (updTru f s) b = hasLeg s b := rfl
@[simp] theorem hasCluster_updTru (f : TruSt → TruSt) (b : Nat) : hasCluster (updTru f s) b = hasCluster s b := rfl
@[simp] theorem hasBs_updTru (f : TruSt → TruSt) (b : Nat) : hasBs (updTru f s) b = hasBs s b := rfl
@[simp] theorem hasClk_updTru (f : TruSt → TruSt) (b : Nat) : hasClk (updTru f s) b = hasClk s b := rfl
@[simp] theorem hasPort_updTru (f : TruSt → TruSt) (b : Nat) : hasPort (updTru f s) b = hasPort s b := rfl
@[simp] theorem hasSp_updTru (f : TruSt → TruSt) (b : Nat) : hasSp (updTru f s) b = hasSp s b := rfl
@[simp] theorem hasCan_updTru (f : TruSt → TruSt) (b : Nat) : hasCan (updTru f s) b = hasCan s b := rfl
@[simp] theorem deadEvent_updTru (f : TruSt → TruSt) (b : Nat) : deadEvent (updTru f s) b = deadEvent s b := rfl

@[simp] theorem reg_updPwr (f : PwrSt → PwrSt) (b : Nat) : reg (updPwr f s) b = reg s b := rfl
@[simp] theorem fld_updPwr (f : PwrSt → PwrSt) (g : Fld) : fld (updPwr f s) g = fld s g := rfl
@[simp] theorem shad_updPwr (f : PwrSt → PwrSt) (b : Nat) : shad (updPwr f s) b = shad s b := rfl
@[simp] theorem sfld_updPwr (f : PwrSt → PwrSt) (g : Fld) : sfld (updPwr f s) g = sfld s g := rfl
@[simp] theorem live_updPwr (f : PwrSt → PwrSt) (b : Nat) : live (updPwr f s) b = live s b := rfl
@[simp] theorem lfld_updPwr (f : PwrSt → PwrSt) (g : Fld) : lfld (updPwr f s) g = lfld s g := rfl
@[simp] theorem act_updPwr (f : PwrSt → PwrSt) (b : Nat) : act (updPwr f s) b = act s b := rfl
@[simp] theorem afld_updPwr (f : PwrSt → PwrSt) (g : Fld) : afld (updPwr f s) g = afld s g := rfl
@[simp] theorem rdByte_updPwr (f : PwrSt → PwrSt) (b : Nat) : rdByte (updPwr f s) b = rdByte s b := rfl
@[simp] theorem rdTcm_updPwr (f : PwrSt → PwrSt) (b : Nat) : rdTcm (updPwr f s) b = rdTcm s b := rfl
@[simp] theorem unit_updPwr (f : PwrSt → PwrSt) (b : Nat) : unit (updPwr f s) b = unit s b := rfl
@[simp] theorem leg_updPwr (f : PwrSt → PwrSt) (b : Nat) : leg (updPwr f s) b = leg s b := rfl
@[simp] theorem grp_updPwr (f : PwrSt → PwrSt) (b : Nat) : grp (updPwr f s) b = grp s b := rfl
@[simp] theorem cl_updPwr (f : PwrSt → PwrSt) (b : Nat) : cl (updPwr f s) b = cl s b := rfl
@[simp] theorem chan_updPwr (f : PwrSt → PwrSt) (b : Nat) : chan (updPwr f s) b = chan s b := rfl
@[simp] theorem sar_updPwr (f : PwrSt → PwrSt) (b : Nat) : sar (updPwr f s) b = sar s b := rfl
@[simp] theorem slot_updPwr (f : PwrSt → PwrSt) (b : Nat) : slot (updPwr f s) b = slot s b := rfl
@[simp] theorem port_updPwr (f : PwrSt → PwrSt) (b : Nat) : port (updPwr f s) b = port s b := rfl
@[simp] theorem cmpo_updPwr (f : PwrSt → PwrSt) (b : Nat) : cmpo (updPwr f s) b = cmpo s b := rfl
@[simp] theorem em_updPwr (f : PwrSt → PwrSt) (b : Nat) : em (updPwr f s) b = em s b := rfl
@[simp] theorem pls_updPwr (f : PwrSt → PwrSt) (b : Nat) : pls (updPwr f s) b = pls s b := rfl
@[simp] theorem sin_updPwr (f : PwrSt → PwrSt) (b : Nat) : sin (updPwr f s) b = sin s b := rfl
@[simp] theorem sout_updPwr (f : PwrSt → PwrSt) (b : Nat) : sout (updPwr f s) b = sout s b := rfl
@[simp] theorem link_updPwr (f : PwrSt → PwrSt) (b : Nat) : link (updPwr f s) b = link s b := rfl
@[simp] theorem memb_updPwr (f : PwrSt → PwrSt) (b : Nat) : memb (updPwr f s) b = memb s b := rfl
@[simp] theorem spq_updPwr (f : PwrSt → PwrSt) (b : Nat) : spq (updPwr f s) b = spq s b := rfl
@[simp] theorem can_updPwr (f : PwrSt → PwrSt) (b : Nat) : can (updPwr f s) b = can s b := rfl
@[simp] theorem qsp_updPwr (f : PwrSt → PwrSt) (b : Nat) : qsp (updPwr f s) b = qsp s b := rfl
@[simp] theorem cell_updPwr (f : PwrSt → PwrSt) (b : Nat) : cell (updPwr f s) b = cell s b := rfl
@[simp] theorem scr_updPwr (f : PwrSt → PwrSt) (b : Nat) : scr (updPwr f s) b = scr s b := rfl
@[simp] theorem sample_updPwr (f : PwrSt → PwrSt) (b : Nat) : sample (updPwr f s) b = sample s b := rfl
@[simp] theorem latched_updPwr (f : PwrSt → PwrSt) (b : Nat) : latched (updPwr f s) b = latched s b := rfl
@[simp] theorem pairState_updPwr (f : PwrSt → PwrSt) (b : Nat) : pairState (updPwr f s) b = pairState s b := rfl
@[simp] theorem ticking_updPwr (f : PwrSt → PwrSt) : ticking (updPwr f s) = ticking s := rfl
@[simp] theorem is9610_updPwr (f : PwrSt → PwrSt) : is9610 (updPwr f s) = is9610 s := rfl
@[simp] theorem hasUnit_updPwr (f : PwrSt → PwrSt) (b : Nat) : hasUnit (updPwr f s) b = hasUnit s b := rfl
@[simp] theorem hasLeg_updPwr (f : PwrSt → PwrSt) (b : Nat) : hasLeg (updPwr f s) b = hasLeg s b := rfl
@[simp] theorem hasCluster_updPwr (f : PwrSt → PwrSt) (b : Nat) : hasCluster (updPwr f s) b = hasCluster s b := rfl
@[simp] theorem hasBs_updPwr (f : PwrSt → PwrSt) (b : Nat) : hasBs (updPwr f s) b = hasBs s b := rfl
@[simp] theorem hasClk_updPwr (f : PwrSt → PwrSt) (b : Nat) : hasClk (updPwr f s) b = hasClk s b := rfl
@[simp] theorem hasPort_updPwr (f : PwrSt → PwrSt) (b : Nat) : hasPort (updPwr f s) b = hasPort s b := rfl
@[simp] theorem hasSp_updPwr (f : PwrSt → PwrSt) (b : Nat) : hasSp (updPwr f s) b = hasSp s b := rfl
@[simp] theorem hasCan_updPwr (f : PwrSt → PwrSt) (b : Nat) : hasCan (updPwr f s) b = hasCan s b := rfl
@[simp] theorem deadEvent_updPwr (f : PwrSt → PwrSt) (b : Nat) : deadEvent (updPwr f s) b = deadEvent s b := rfl

@[simp] theorem reg_wrByte (a : Nat) (b : Byte) (c : Nat) : reg (wrByte a b s) c = reg s c := rfl
@[simp] theorem fld_wrByte (a : Nat) (b : Byte) (g : Fld) : fld (wrByte a b s) g = fld s g := rfl
@[simp] theorem shad_wrByte (a : Nat) (b : Byte) (c : Nat) : shad (wrByte a b s) c = shad s c := rfl
@[simp] theorem sfld_wrByte (a : Nat) (b : Byte) (g : Fld) : sfld (wrByte a b s) g = sfld s g := rfl
@[simp] theorem live_wrByte (a : Nat) (b : Byte) (c : Nat) : live (wrByte a b s) c = live s c := rfl
@[simp] theorem lfld_wrByte (a : Nat) (b : Byte) (g : Fld) : lfld (wrByte a b s) g = lfld s g := rfl
@[simp] theorem act_wrByte (a : Nat) (b : Byte) (c : Nat) : act (wrByte a b s) c = act s c := rfl
@[simp] theorem afld_wrByte (a : Nat) (b : Byte) (g : Fld) : afld (wrByte a b s) g = afld s g := rfl
@[simp] theorem rdTcm_wrByte (a : Nat) (b : Byte) (c : Nat) : rdTcm (wrByte a b s) c = rdTcm s c := rfl
@[simp] theorem unit_wrByte (a : Nat) (b : Byte) (c : Nat) : unit (wrByte a b s) c = unit s c := rfl
@[simp] theorem leg_wrByte (a : Nat) (b : Byte) (c : Nat) : leg (wrByte a b s) c = leg s c := rfl
@[simp] theorem grp_wrByte (a : Nat) (b : Byte) (c : Nat) : grp (wrByte a b s) c = grp s c := rfl
@[simp] theorem cl_wrByte (a : Nat) (b : Byte) (c : Nat) : cl (wrByte a b s) c = cl s c := rfl
@[simp] theorem chan_wrByte (a : Nat) (b : Byte) (c : Nat) : chan (wrByte a b s) c = chan s c := rfl
@[simp] theorem sar_wrByte (a : Nat) (b : Byte) (c : Nat) : sar (wrByte a b s) c = sar s c := rfl
@[simp] theorem slot_wrByte (a : Nat) (b : Byte) (c : Nat) : slot (wrByte a b s) c = slot s c := rfl
@[simp] theorem port_wrByte (a : Nat) (b : Byte) (c : Nat) : port (wrByte a b s) c = port s c := rfl
@[simp] theorem cmpo_wrByte (a : Nat) (b : Byte) (c : Nat) : cmpo (wrByte a b s) c = cmpo s c := rfl
@[simp] theorem em_wrByte (a : Nat) (b : Byte) (c : Nat) : em (wrByte a b s) c = em s c := rfl
@[simp] theorem pls_wrByte (a : Nat) (b : Byte) (c : Nat) : pls (wrByte a b s) c = pls s c := rfl
@[simp] theorem sin_wrByte (a : Nat) (b : Byte) (c : Nat) : sin (wrByte a b s) c = sin s c := rfl
@[simp] theorem sout_wrByte (a : Nat) (b : Byte) (c : Nat) : sout (wrByte a b s) c = sout s c := rfl
@[simp] theorem link_wrByte (a : Nat) (b : Byte) (c : Nat) : link (wrByte a b s) c = link s c := rfl
@[simp] theorem memb_wrByte (a : Nat) (b : Byte) (c : Nat) : memb (wrByte a b s) c = memb s c := rfl
@[simp] theorem spq_wrByte (a : Nat) (b : Byte) (c : Nat) : spq (wrByte a b s) c = spq s c := rfl
@[simp] theorem can_wrByte (a : Nat) (b : Byte) (c : Nat) : can (wrByte a b s) c = can s c := rfl
@[simp] theorem qsp_wrByte (a : Nat) (b : Byte) (c : Nat) : qsp (wrByte a b s) c = qsp s c := rfl
@[simp] theorem cell_wrByte (a : Nat) (b : Byte) (c : Nat) : cell (wrByte a b s) c = cell s c := rfl
@[simp] theorem scr_wrByte (a : Nat) (b : Byte) (c : Nat) : scr (wrByte a b s) c = scr s c := rfl
@[simp] theorem sample_wrByte (a : Nat) (b : Byte) (c : Nat) : sample (wrByte a b s) c = sample s c := rfl
@[simp] theorem latched_wrByte (a : Nat) (b : Byte) (c : Nat) : latched (wrByte a b s) c = latched s c := rfl
@[simp] theorem pairState_wrByte (a : Nat) (b : Byte) (c : Nat) : pairState (wrByte a b s) c = pairState s c := rfl
@[simp] theorem ticking_wrByte (a : Nat) (b : Byte) : ticking (wrByte a b s) = ticking s := rfl
@[simp] theorem is9610_wrByte (a : Nat) (b : Byte) : is9610 (wrByte a b s) = is9610 s := rfl
@[simp] theorem hasUnit_wrByte (a : Nat) (b : Byte) (c : Nat) : hasUnit (wrByte a b s) c = hasUnit s c := rfl
@[simp] theorem hasLeg_wrByte (a : Nat) (b : Byte) (c : Nat) : hasLeg (wrByte a b s) c = hasLeg s c := rfl
@[simp] theorem hasCluster_wrByte (a : Nat) (b : Byte) (c : Nat) : hasCluster (wrByte a b s) c = hasCluster s c := rfl
@[simp] theorem hasBs_wrByte (a : Nat) (b : Byte) (c : Nat) : hasBs (wrByte a b s) c = hasBs s c := rfl
@[simp] theorem hasClk_wrByte (a : Nat) (b : Byte) (c : Nat) : hasClk (wrByte a b s) c = hasClk s c := rfl
@[simp] theorem hasPort_wrByte (a : Nat) (b : Byte) (c : Nat) : hasPort (wrByte a b s) c = hasPort s c := rfl
@[simp] theorem hasSp_wrByte (a : Nat) (b : Byte) (c : Nat) : hasSp (wrByte a b s) c = hasSp s c := rfl
@[simp] theorem hasCan_wrByte (a : Nat) (b : Byte) (c : Nat) : hasCan (wrByte a b s) c = hasCan s c := rfl
@[simp] theorem deadEvent_wrByte (a : Nat) (b : Byte) (c : Nat) : deadEvent (wrByte a b s) c = deadEvent s c := rfl

@[simp] theorem reg_wrTcm (a : Nat) (b : Byte) (c : Nat) : reg (wrTcm a b s) c = reg s c := rfl
@[simp] theorem fld_wrTcm (a : Nat) (b : Byte) (g : Fld) : fld (wrTcm a b s) g = fld s g := rfl
@[simp] theorem shad_wrTcm (a : Nat) (b : Byte) (c : Nat) : shad (wrTcm a b s) c = shad s c := rfl
@[simp] theorem sfld_wrTcm (a : Nat) (b : Byte) (g : Fld) : sfld (wrTcm a b s) g = sfld s g := rfl
@[simp] theorem live_wrTcm (a : Nat) (b : Byte) (c : Nat) : live (wrTcm a b s) c = live s c := rfl
@[simp] theorem lfld_wrTcm (a : Nat) (b : Byte) (g : Fld) : lfld (wrTcm a b s) g = lfld s g := rfl
@[simp] theorem act_wrTcm (a : Nat) (b : Byte) (c : Nat) : act (wrTcm a b s) c = act s c := rfl
@[simp] theorem afld_wrTcm (a : Nat) (b : Byte) (g : Fld) : afld (wrTcm a b s) g = afld s g := rfl
@[simp] theorem rdByte_wrTcm (a : Nat) (b : Byte) (c : Nat) : rdByte (wrTcm a b s) c = rdByte s c := rfl
@[simp] theorem unit_wrTcm (a : Nat) (b : Byte) (c : Nat) : unit (wrTcm a b s) c = unit s c := rfl
@[simp] theorem leg_wrTcm (a : Nat) (b : Byte) (c : Nat) : leg (wrTcm a b s) c = leg s c := rfl
@[simp] theorem grp_wrTcm (a : Nat) (b : Byte) (c : Nat) : grp (wrTcm a b s) c = grp s c := rfl
@[simp] theorem cl_wrTcm (a : Nat) (b : Byte) (c : Nat) : cl (wrTcm a b s) c = cl s c := rfl
@[simp] theorem chan_wrTcm (a : Nat) (b : Byte) (c : Nat) : chan (wrTcm a b s) c = chan s c := rfl
@[simp] theorem sar_wrTcm (a : Nat) (b : Byte) (c : Nat) : sar (wrTcm a b s) c = sar s c := rfl
@[simp] theorem slot_wrTcm (a : Nat) (b : Byte) (c : Nat) : slot (wrTcm a b s) c = slot s c := rfl
@[simp] theorem port_wrTcm (a : Nat) (b : Byte) (c : Nat) : port (wrTcm a b s) c = port s c := rfl
@[simp] theorem cmpo_wrTcm (a : Nat) (b : Byte) (c : Nat) : cmpo (wrTcm a b s) c = cmpo s c := rfl
@[simp] theorem em_wrTcm (a : Nat) (b : Byte) (c : Nat) : em (wrTcm a b s) c = em s c := rfl
@[simp] theorem pls_wrTcm (a : Nat) (b : Byte) (c : Nat) : pls (wrTcm a b s) c = pls s c := rfl
@[simp] theorem sin_wrTcm (a : Nat) (b : Byte) (c : Nat) : sin (wrTcm a b s) c = sin s c := rfl
@[simp] theorem sout_wrTcm (a : Nat) (b : Byte) (c : Nat) : sout (wrTcm a b s) c = sout s c := rfl
@[simp] theorem link_wrTcm (a : Nat) (b : Byte) (c : Nat) : link (wrTcm a b s) c = link s c := rfl
@[simp] theorem memb_wrTcm (a : Nat) (b : Byte) (c : Nat) : memb (wrTcm a b s) c = memb s c := rfl
@[simp] theorem spq_wrTcm (a : Nat) (b : Byte) (c : Nat) : spq (wrTcm a b s) c = spq s c := rfl
@[simp] theorem can_wrTcm (a : Nat) (b : Byte) (c : Nat) : can (wrTcm a b s) c = can s c := rfl
@[simp] theorem qsp_wrTcm (a : Nat) (b : Byte) (c : Nat) : qsp (wrTcm a b s) c = qsp s c := rfl
@[simp] theorem cell_wrTcm (a : Nat) (b : Byte) (c : Nat) : cell (wrTcm a b s) c = cell s c := rfl
@[simp] theorem scr_wrTcm (a : Nat) (b : Byte) (c : Nat) : scr (wrTcm a b s) c = scr s c := rfl
@[simp] theorem sample_wrTcm (a : Nat) (b : Byte) (c : Nat) : sample (wrTcm a b s) c = sample s c := rfl
@[simp] theorem latched_wrTcm (a : Nat) (b : Byte) (c : Nat) : latched (wrTcm a b s) c = latched s c := rfl
@[simp] theorem pairState_wrTcm (a : Nat) (b : Byte) (c : Nat) : pairState (wrTcm a b s) c = pairState s c := rfl
@[simp] theorem ticking_wrTcm (a : Nat) (b : Byte) : ticking (wrTcm a b s) = ticking s := rfl
@[simp] theorem is9610_wrTcm (a : Nat) (b : Byte) : is9610 (wrTcm a b s) = is9610 s := rfl
@[simp] theorem hasUnit_wrTcm (a : Nat) (b : Byte) (c : Nat) : hasUnit (wrTcm a b s) c = hasUnit s c := rfl
@[simp] theorem hasLeg_wrTcm (a : Nat) (b : Byte) (c : Nat) : hasLeg (wrTcm a b s) c = hasLeg s c := rfl
@[simp] theorem hasCluster_wrTcm (a : Nat) (b : Byte) (c : Nat) : hasCluster (wrTcm a b s) c = hasCluster s c := rfl
@[simp] theorem hasBs_wrTcm (a : Nat) (b : Byte) (c : Nat) : hasBs (wrTcm a b s) c = hasBs s c := rfl
@[simp] theorem hasClk_wrTcm (a : Nat) (b : Byte) (c : Nat) : hasClk (wrTcm a b s) c = hasClk s c := rfl
@[simp] theorem hasPort_wrTcm (a : Nat) (b : Byte) (c : Nat) : hasPort (wrTcm a b s) c = hasPort s c := rfl
@[simp] theorem hasSp_wrTcm (a : Nat) (b : Byte) (c : Nat) : hasSp (wrTcm a b s) c = hasSp s c := rfl
@[simp] theorem hasCan_wrTcm (a : Nat) (b : Byte) (c : Nat) : hasCan (wrTcm a b s) c = hasCan s c := rfl
@[simp] theorem deadEvent_wrTcm (a : Nat) (b : Byte) (c : Nat) : deadEvent (wrTcm a b s) c = deadEvent s c := rfl

@[simp] theorem shad_setFld (f : Fld) (v : Nat) (b : Nat) : shad (setFld f v s) b = shad s b := rfl
@[simp] theorem sfld_setFld (f : Fld) (v : Nat) (g : Fld) : sfld (setFld f v s) g = sfld s g := rfl
@[simp] theorem live_setFld (f : Fld) (v : Nat) (b : Nat) : live (setFld f v s) b = live s b := rfl
@[simp] theorem lfld_setFld (f : Fld) (v : Nat) (g : Fld) : lfld (setFld f v s) g = lfld s g := rfl
@[simp] theorem act_setFld (f : Fld) (v : Nat) (b : Nat) : act (setFld f v s) b = act s b := rfl
@[simp] theorem afld_setFld (f : Fld) (v : Nat) (g : Fld) : afld (setFld f v s) g = afld s g := rfl
@[simp] theorem rdByte_setFld (f : Fld) (v : Nat) (b : Nat) : rdByte (setFld f v s) b = rdByte s b := rfl
@[simp] theorem rdTcm_setFld (f : Fld) (v : Nat) (b : Nat) : rdTcm (setFld f v s) b = rdTcm s b := rfl
@[simp] theorem unit_setFld (f : Fld) (v : Nat) (b : Nat) : unit (setFld f v s) b = unit s b := rfl
@[simp] theorem leg_setFld (f : Fld) (v : Nat) (b : Nat) : leg (setFld f v s) b = leg s b := rfl
@[simp] theorem grp_setFld (f : Fld) (v : Nat) (b : Nat) : grp (setFld f v s) b = grp s b := rfl
@[simp] theorem cl_setFld (f : Fld) (v : Nat) (b : Nat) : cl (setFld f v s) b = cl s b := rfl
@[simp] theorem chan_setFld (f : Fld) (v : Nat) (b : Nat) : chan (setFld f v s) b = chan s b := rfl
@[simp] theorem sar_setFld (f : Fld) (v : Nat) (b : Nat) : sar (setFld f v s) b = sar s b := rfl
@[simp] theorem slot_setFld (f : Fld) (v : Nat) (b : Nat) : slot (setFld f v s) b = slot s b := rfl
@[simp] theorem port_setFld (f : Fld) (v : Nat) (b : Nat) : port (setFld f v s) b = port s b := rfl
@[simp] theorem cmpo_setFld (f : Fld) (v : Nat) (b : Nat) : cmpo (setFld f v s) b = cmpo s b := rfl
@[simp] theorem em_setFld (f : Fld) (v : Nat) (b : Nat) : em (setFld f v s) b = em s b := rfl
@[simp] theorem pls_setFld (f : Fld) (v : Nat) (b : Nat) : pls (setFld f v s) b = pls s b := rfl
@[simp] theorem sin_setFld (f : Fld) (v : Nat) (b : Nat) : sin (setFld f v s) b = sin s b := rfl
@[simp] theorem sout_setFld (f : Fld) (v : Nat) (b : Nat) : sout (setFld f v s) b = sout s b := rfl
@[simp] theorem link_setFld (f : Fld) (v : Nat) (b : Nat) : link (setFld f v s) b = link s b := rfl
@[simp] theorem memb_setFld (f : Fld) (v : Nat) (b : Nat) : memb (setFld f v s) b = memb s b := rfl
@[simp] theorem spq_setFld (f : Fld) (v : Nat) (b : Nat) : spq (setFld f v s) b = spq s b := rfl
@[simp] theorem can_setFld (f : Fld) (v : Nat) (b : Nat) : can (setFld f v s) b = can s b := rfl
@[simp] theorem qsp_setFld (f : Fld) (v : Nat) (b : Nat) : qsp (setFld f v s) b = qsp s b := rfl
@[simp] theorem cell_setFld (f : Fld) (v : Nat) (b : Nat) : cell (setFld f v s) b = cell s b := rfl
@[simp] theorem scr_setFld (f : Fld) (v : Nat) (b : Nat) : scr (setFld f v s) b = scr s b := rfl
@[simp] theorem sample_setFld (f : Fld) (v : Nat) (b : Nat) : sample (setFld f v s) b = sample s b := rfl
@[simp] theorem latched_setFld (f : Fld) (v : Nat) (b : Nat) : latched (setFld f v s) b = latched s b := rfl
@[simp] theorem ticking_setFld (f : Fld) (v : Nat) : ticking (setFld f v s) = ticking s := rfl
@[simp] theorem is9610_setFld (f : Fld) (v : Nat) : is9610 (setFld f v s) = is9610 s := rfl
@[simp] theorem hasUnit_setFld (f : Fld) (v : Nat) (b : Nat) : hasUnit (setFld f v s) b = hasUnit s b := rfl
@[simp] theorem hasLeg_setFld (f : Fld) (v : Nat) (b : Nat) : hasLeg (setFld f v s) b = hasLeg s b := rfl
@[simp] theorem hasCluster_setFld (f : Fld) (v : Nat) (b : Nat) : hasCluster (setFld f v s) b = hasCluster s b := rfl
@[simp] theorem hasBs_setFld (f : Fld) (v : Nat) (b : Nat) : hasBs (setFld f v s) b = hasBs s b := rfl
@[simp] theorem hasClk_setFld (f : Fld) (v : Nat) (b : Nat) : hasClk (setFld f v s) b = hasClk s b := rfl
@[simp] theorem hasPort_setFld (f : Fld) (v : Nat) (b : Nat) : hasPort (setFld f v s) b = hasPort s b := rfl
@[simp] theorem hasSp_setFld (f : Fld) (v : Nat) (b : Nat) : hasSp (setFld f v s) b = hasSp s b := rfl
@[simp] theorem hasCan_setFld (f : Fld) (v : Nat) (b : Nat) : hasCan (setFld f v s) b = hasCan s b := rfl
@[simp] theorem deadEvent_setFld (f : Fld) (v : Nat) (b : Nat) : deadEvent (setFld f v s) b = deadEvent s b := rfl

@[simp] theorem shad_setFldBit (f : Fld) (i : Nat) (v : Bool) (b : Nat) : shad (setFldBit f i v s) b = shad s b := rfl
@[simp] theorem sfld_setFldBit (f : Fld) (i : Nat) (v : Bool) (g : Fld) : sfld (setFldBit f i v s) g = sfld s g := rfl
@[simp] theorem live_setFldBit (f : Fld) (i : Nat) (v : Bool) (b : Nat) : live (setFldBit f i v s) b = live s b := rfl
@[simp] theorem lfld_setFldBit (f : Fld) (i : Nat) (v : Bool) (g : Fld) : lfld (setFldBit f i v s) g = lfld s g := rfl
@[simp] theorem act_setFldBit (f : Fld) (i : Nat) (v : Bool) (b : Nat) : act (setFldBit f i v s) b = act s b := rfl
@[simp] theorem afld_setFldBit (f : Fld) (i : Nat) (v : Bool) (g : Fld) : afld (setFldBit f i v s) g = afld s g := rfl
@[simp] theorem rdByte_setFldBit (f : Fld) (i : Nat) (v : Bool) (b : Nat) : rdByte (setFldBit f i v s) b = rdByte s b := rfl
@[simp] theorem rdTcm_setFldBit (f : Fld) (i : Nat) (v : Bool) (b : Nat) : rdTcm (setFldBit f i v s) b = rdTcm s b := rfl
@[simp] theorem unit_setFldBit (f : Fld) (i : Nat) (v : Bool) (b : Nat) : unit (setFldBit f i v s) b = unit s b := rfl
@[simp] theorem leg_setFldBit (f : Fld) (i : Nat) (v : Bool) (b : Nat) : leg (setFldBit f i v s) b = leg s b := rfl
@[simp] theorem grp_setFldBit (f : Fld) (i : Nat) (v : Bool) (b : Nat) : grp (setFldBit f i v s) b = grp s b := rfl
@[simp] theorem cl_setFldBit (f : Fld) (i : Nat) (v : Bool) (b : Nat) : cl (setFldBit f i v s) b = cl s b := rfl
@[simp] theorem chan_setFldBit (f : Fld) (i : Nat) (v : Bool) (b : Nat) : chan (setFldBit f i v s) b = chan s b := rfl
@[simp] theorem sar_setFldBit (f : Fld) (i : Nat) (v : Bool) (b : Nat) : sar (setFldBit f i v s) b = sar s b := rfl
@[simp] theorem slot_setFldBit (f : Fld) (i : Nat) (v : Bool) (b : Nat) : slot (setFldBit f i v s) b = slot s b := rfl
@[simp] theorem port_setFldBit (f : Fld) (i : Nat) (v : Bool) (b : Nat) : port (setFldBit f i v s) b = port s b := rfl
@[simp] theorem cmpo_setFldBit (f : Fld) (i : Nat) (v : Bool) (b : Nat) : cmpo (setFldBit f i v s) b = cmpo s b := rfl
@[simp] theorem em_setFldBit (f : Fld) (i : Nat) (v : Bool) (b : Nat) : em (setFldBit f i v s) b = em s b := rfl
@[simp] theorem pls_setFldBit (f : Fld) (i : Nat) (v : Bool) (b : Nat) : pls (setFldBit f i v s) b = pls s b := rfl
@[simp] theorem sin_setFldBit (f : Fld) (i : Nat) (v : Bool) (b : Nat) : sin (setFldBit f i v s) b = sin s b := rfl
@[simp] theorem sout_setFldBit (f : Fld) (i : Nat) (v : Bool) (b : Nat) : sout (setFldBit f i v s) b = sout s b := rfl
@[simp] theorem link_setFldBit (f : Fld) (i : Nat) (v : Bool) (b : Nat) : link (setFldBit f i v s) b = link s b := rfl
@[simp] theorem memb_setFldBit (f : Fld) (i : Nat) (v : Bool) (b : Nat) : memb (setFldBit f i v s) b = memb s b := rfl
@[simp] theorem spq_setFldBit (f : Fld) (i : Nat) (v : Bool) (b : Nat) : spq (setFldBit f i v s) b = spq s b := rfl
@[simp] theorem can_setFldBit (f : Fld) (i : Nat) (v : Bool) (b : Nat) : can (setFldBit f i v s) b = can s b := rfl
@[simp] theorem qsp_setFldBit (f : Fld) (i : Nat) (v : Bool) (b : Nat) : qsp (setFldBit f i v s) b = qsp s b := rfl
@[simp] theorem cell_setFldBit (f : Fld) (i : Nat) (v : Bool) (b : Nat) : cell (setFldBit f i v s) b = cell s b := rfl
@[simp] theorem scr_setFldBit (f : Fld) (i : Nat) (v : Bool) (b : Nat) : scr (setFldBit f i v s) b = scr s b := rfl
@[simp] theorem sample_setFldBit (f : Fld) (i : Nat) (v : Bool) (b : Nat) : sample (setFldBit f i v s) b = sample s b := rfl
@[simp] theorem latched_setFldBit (f : Fld) (i : Nat) (v : Bool) (b : Nat) : latched (setFldBit f i v s) b = latched s b := rfl
@[simp] theorem ticking_setFldBit (f : Fld) (i : Nat) (v : Bool) : ticking (setFldBit f i v s) = ticking s := rfl
@[simp] theorem is9610_setFldBit (f : Fld) (i : Nat) (v : Bool) : is9610 (setFldBit f i v s) = is9610 s := rfl
@[simp] theorem hasUnit_setFldBit (f : Fld) (i : Nat) (v : Bool) (b : Nat) : hasUnit (setFldBit f i v s) b = hasUnit s b := rfl
@[simp] theorem hasLeg_setFldBit (f : Fld) (i : Nat) (v : Bool) (b : Nat) : hasLeg (setFldBit f i v s) b = hasLeg s b := rfl
@[simp] theorem hasCluster_setFldBit (f : Fld) (i : Nat) (v : Bool) (b : Nat) : hasCluster (setFldBit f i v s) b = hasCluster s b := rfl
@[simp] theorem hasBs_setFldBit (f : Fld) (i : Nat) (v : Bool) (b : Nat) : hasBs (setFldBit f i v s) b = hasBs s b := rfl
@[simp] theorem hasClk_setFldBit (f : Fld) (i : Nat) (v : Bool) (b : Nat) : hasClk (setFldBit f i v s) b = hasClk s b := rfl
@[simp] theorem hasPort_setFldBit (f : Fld) (i : Nat) (v : Bool) (b : Nat) : hasPort (setFldBit f i v s) b = hasPort s b := rfl
@[simp] theorem hasSp_setFldBit (f : Fld) (i : Nat) (v : Bool) (b : Nat) : hasSp (setFldBit f i v s) b = hasSp s b := rfl
@[simp] theorem hasCan_setFldBit (f : Fld) (i : Nat) (v : Bool) (b : Nat) : hasCan (setFldBit f i v s) b = hasCan s b := rfl
@[simp] theorem deadEvent_setFldBit (f : Fld) (i : Nat) (v : Bool) (b : Nat) : deadEvent (setFldBit f i v s) b = deadEvent s b := rfl

@[simp] theorem shad_incFld (f : Fld) (b : Nat) : shad (incFld f s) b = shad s b := rfl
@[simp] theorem sfld_incFld (f : Fld) (g : Fld) : sfld (incFld f s) g = sfld s g := rfl
@[simp] theorem live_incFld (f : Fld) (b : Nat) : live (incFld f s) b = live s b := rfl
@[simp] theorem lfld_incFld (f : Fld) (g : Fld) : lfld (incFld f s) g = lfld s g := rfl
@[simp] theorem act_incFld (f : Fld) (b : Nat) : act (incFld f s) b = act s b := rfl
@[simp] theorem afld_incFld (f : Fld) (g : Fld) : afld (incFld f s) g = afld s g := rfl
@[simp] theorem rdByte_incFld (f : Fld) (b : Nat) : rdByte (incFld f s) b = rdByte s b := rfl
@[simp] theorem rdTcm_incFld (f : Fld) (b : Nat) : rdTcm (incFld f s) b = rdTcm s b := rfl
@[simp] theorem unit_incFld (f : Fld) (b : Nat) : unit (incFld f s) b = unit s b := rfl
@[simp] theorem leg_incFld (f : Fld) (b : Nat) : leg (incFld f s) b = leg s b := rfl
@[simp] theorem grp_incFld (f : Fld) (b : Nat) : grp (incFld f s) b = grp s b := rfl
@[simp] theorem cl_incFld (f : Fld) (b : Nat) : cl (incFld f s) b = cl s b := rfl
@[simp] theorem chan_incFld (f : Fld) (b : Nat) : chan (incFld f s) b = chan s b := rfl
@[simp] theorem sar_incFld (f : Fld) (b : Nat) : sar (incFld f s) b = sar s b := rfl
@[simp] theorem slot_incFld (f : Fld) (b : Nat) : slot (incFld f s) b = slot s b := rfl
@[simp] theorem port_incFld (f : Fld) (b : Nat) : port (incFld f s) b = port s b := rfl
@[simp] theorem cmpo_incFld (f : Fld) (b : Nat) : cmpo (incFld f s) b = cmpo s b := rfl
@[simp] theorem em_incFld (f : Fld) (b : Nat) : em (incFld f s) b = em s b := rfl
@[simp] theorem pls_incFld (f : Fld) (b : Nat) : pls (incFld f s) b = pls s b := rfl
@[simp] theorem sin_incFld (f : Fld) (b : Nat) : sin (incFld f s) b = sin s b := rfl
@[simp] theorem sout_incFld (f : Fld) (b : Nat) : sout (incFld f s) b = sout s b := rfl
@[simp] theorem link_incFld (f : Fld) (b : Nat) : link (incFld f s) b = link s b := rfl
@[simp] theorem memb_incFld (f : Fld) (b : Nat) : memb (incFld f s) b = memb s b := rfl
@[simp] theorem spq_incFld (f : Fld) (b : Nat) : spq (incFld f s) b = spq s b := rfl
@[simp] theorem can_incFld (f : Fld) (b : Nat) : can (incFld f s) b = can s b := rfl
@[simp] theorem qsp_incFld (f : Fld) (b : Nat) : qsp (incFld f s) b = qsp s b := rfl
@[simp] theorem cell_incFld (f : Fld) (b : Nat) : cell (incFld f s) b = cell s b := rfl
@[simp] theorem scr_incFld (f : Fld) (b : Nat) : scr (incFld f s) b = scr s b := rfl
@[simp] theorem sample_incFld (f : Fld) (b : Nat) : sample (incFld f s) b = sample s b := rfl
@[simp] theorem latched_incFld (f : Fld) (b : Nat) : latched (incFld f s) b = latched s b := rfl
@[simp] theorem ticking_incFld (f : Fld) : ticking (incFld f s) = ticking s := rfl
@[simp] theorem is9610_incFld (f : Fld) : is9610 (incFld f s) = is9610 s := rfl
@[simp] theorem hasUnit_incFld (f : Fld) (b : Nat) : hasUnit (incFld f s) b = hasUnit s b := rfl
@[simp] theorem hasLeg_incFld (f : Fld) (b : Nat) : hasLeg (incFld f s) b = hasLeg s b := rfl
@[simp] theorem hasCluster_incFld (f : Fld) (b : Nat) : hasCluster (incFld f s) b = hasCluster s b := rfl
@[simp] theorem hasBs_incFld (f : Fld) (b : Nat) : hasBs (incFld f s) b = hasBs s b := rfl
@[simp] theorem hasClk_incFld (f : Fld) (b : Nat) : hasClk (incFld f s) b = hasClk s b := rfl
@[simp] theorem hasPort_incFld (f : Fld) (b : Nat) : hasPort (incFld f s) b = hasPort s b := rfl
@[simp] theorem hasSp_incFld (f : Fld) (b : Nat) : hasSp (incFld f s) b = hasSp s b := rfl
@[simp] theorem hasCan_incFld (f : Fld) (b : Nat) : hasCan (incFld f s) b = hasCan s b := rfl
@[simp] theorem deadEvent_incFld (f : Fld) (b : Nat) : deadEvent (incFld f s) b = deadEvent s b := rfl

@[simp] theorem shad_maxFld (f : Fld) (v : Nat) (b : Nat) : shad (maxFld f v s) b = shad s b := rfl
@[simp] theorem sfld_maxFld (f : Fld) (v : Nat) (g : Fld) : sfld (maxFld f v s) g = sfld s g := rfl
@[simp] theorem live_maxFld (f : Fld) (v : Nat) (b : Nat) : live (maxFld f v s) b = live s b := rfl
@[simp] theorem lfld_maxFld (f : Fld) (v : Nat) (g : Fld) : lfld (maxFld f v s) g = lfld s g := rfl
@[simp] theorem act_maxFld (f : Fld) (v : Nat) (b : Nat) : act (maxFld f v s) b = act s b := rfl
@[simp] theorem afld_maxFld (f : Fld) (v : Nat) (g : Fld) : afld (maxFld f v s) g = afld s g := rfl
@[simp] theorem rdByte_maxFld (f : Fld) (v : Nat) (b : Nat) : rdByte (maxFld f v s) b = rdByte s b := rfl
@[simp] theorem rdTcm_maxFld (f : Fld) (v : Nat) (b : Nat) : rdTcm (maxFld f v s) b = rdTcm s b := rfl
@[simp] theorem unit_maxFld (f : Fld) (v : Nat) (b : Nat) : unit (maxFld f v s) b = unit s b := rfl
@[simp] theorem leg_maxFld (f : Fld) (v : Nat) (b : Nat) : leg (maxFld f v s) b = leg s b := rfl
@[simp] theorem grp_maxFld (f : Fld) (v : Nat) (b : Nat) : grp (maxFld f v s) b = grp s b := rfl
@[simp] theorem cl_maxFld (f : Fld) (v : Nat) (b : Nat) : cl (maxFld f v s) b = cl s b := rfl
@[simp] theorem chan_maxFld (f : Fld) (v : Nat) (b : Nat) : chan (maxFld f v s) b = chan s b := rfl
@[simp] theorem sar_maxFld (f : Fld) (v : Nat) (b : Nat) : sar (maxFld f v s) b = sar s b := rfl
@[simp] theorem slot_maxFld (f : Fld) (v : Nat) (b : Nat) : slot (maxFld f v s) b = slot s b := rfl
@[simp] theorem port_maxFld (f : Fld) (v : Nat) (b : Nat) : port (maxFld f v s) b = port s b := rfl
@[simp] theorem cmpo_maxFld (f : Fld) (v : Nat) (b : Nat) : cmpo (maxFld f v s) b = cmpo s b := rfl
@[simp] theorem em_maxFld (f : Fld) (v : Nat) (b : Nat) : em (maxFld f v s) b = em s b := rfl
@[simp] theorem pls_maxFld (f : Fld) (v : Nat) (b : Nat) : pls (maxFld f v s) b = pls s b := rfl
@[simp] theorem sin_maxFld (f : Fld) (v : Nat) (b : Nat) : sin (maxFld f v s) b = sin s b := rfl
@[simp] theorem sout_maxFld (f : Fld) (v : Nat) (b : Nat) : sout (maxFld f v s) b = sout s b := rfl
@[simp] theorem link_maxFld (f : Fld) (v : Nat) (b : Nat) : link (maxFld f v s) b = link s b := rfl
@[simp] theorem memb_maxFld (f : Fld) (v : Nat) (b : Nat) : memb (maxFld f v s) b = memb s b := rfl
@[simp] theorem spq_maxFld (f : Fld) (v : Nat) (b : Nat) : spq (maxFld f v s) b = spq s b := rfl
@[simp] theorem can_maxFld (f : Fld) (v : Nat) (b : Nat) : can (maxFld f v s) b = can s b := rfl
@[simp] theorem qsp_maxFld (f : Fld) (v : Nat) (b : Nat) : qsp (maxFld f v s) b = qsp s b := rfl
@[simp] theorem cell_maxFld (f : Fld) (v : Nat) (b : Nat) : cell (maxFld f v s) b = cell s b := rfl
@[simp] theorem scr_maxFld (f : Fld) (v : Nat) (b : Nat) : scr (maxFld f v s) b = scr s b := rfl
@[simp] theorem sample_maxFld (f : Fld) (v : Nat) (b : Nat) : sample (maxFld f v s) b = sample s b := rfl
@[simp] theorem latched_maxFld (f : Fld) (v : Nat) (b : Nat) : latched (maxFld f v s) b = latched s b := rfl
@[simp] theorem ticking_maxFld (f : Fld) (v : Nat) : ticking (maxFld f v s) = ticking s := rfl
@[simp] theorem is9610_maxFld (f : Fld) (v : Nat) : is9610 (maxFld f v s) = is9610 s := rfl
@[simp] theorem hasUnit_maxFld (f : Fld) (v : Nat) (b : Nat) : hasUnit (maxFld f v s) b = hasUnit s b := rfl
@[simp] theorem hasLeg_maxFld (f : Fld) (v : Nat) (b : Nat) : hasLeg (maxFld f v s) b = hasLeg s b := rfl
@[simp] theorem hasCluster_maxFld (f : Fld) (v : Nat) (b : Nat) : hasCluster (maxFld f v s) b = hasCluster s b := rfl
@[simp] theorem hasBs_maxFld (f : Fld) (v : Nat) (b : Nat) : hasBs (maxFld f v s) b = hasBs s b := rfl
@[simp] theorem hasClk_maxFld (f : Fld) (v : Nat) (b : Nat) : hasClk (maxFld f v s) b = hasClk s b := rfl
@[simp] theorem hasPort_maxFld (f : Fld) (v : Nat) (b : Nat) : hasPort (maxFld f v s) b = hasPort s b := rfl
@[simp] theorem hasSp_maxFld (f : Fld) (v : Nat) (b : Nat) : hasSp (maxFld f v s) b = hasSp s b := rfl
@[simp] theorem hasCan_maxFld (f : Fld) (v : Nat) (b : Nat) : hasCan (maxFld f v s) b = hasCan s b := rfl
@[simp] theorem deadEvent_maxFld (f : Fld) (v : Nat) (b : Nat) : deadEvent (maxFld f v s) b = deadEvent s b := rfl

@[simp] theorem shad_putCl (a : Nat) (v : Word) (b : Nat) : shad (putCl a v s) b = shad s b := rfl
@[simp] theorem sfld_putCl (a : Nat) (v : Word) (g : Fld) : sfld (putCl a v s) g = sfld s g := rfl
@[simp] theorem live_putCl (a : Nat) (v : Word) (b : Nat) : live (putCl a v s) b = live s b := rfl
@[simp] theorem lfld_putCl (a : Nat) (v : Word) (g : Fld) : lfld (putCl a v s) g = lfld s g := rfl
@[simp] theorem act_putCl (a : Nat) (v : Word) (b : Nat) : act (putCl a v s) b = act s b := rfl
@[simp] theorem afld_putCl (a : Nat) (v : Word) (g : Fld) : afld (putCl a v s) g = afld s g := rfl
@[simp] theorem rdByte_putCl (a : Nat) (v : Word) (b : Nat) : rdByte (putCl a v s) b = rdByte s b := rfl
@[simp] theorem rdTcm_putCl (a : Nat) (v : Word) (b : Nat) : rdTcm (putCl a v s) b = rdTcm s b := rfl
@[simp] theorem unit_putCl (a : Nat) (v : Word) (b : Nat) : unit (putCl a v s) b = unit s b := rfl
@[simp] theorem leg_putCl (a : Nat) (v : Word) (b : Nat) : leg (putCl a v s) b = leg s b := rfl
@[simp] theorem grp_putCl (a : Nat) (v : Word) (b : Nat) : grp (putCl a v s) b = grp s b := rfl
@[simp] theorem cl_putCl (a : Nat) (v : Word) (b : Nat) : cl (putCl a v s) b = cl s b := rfl
@[simp] theorem chan_putCl (a : Nat) (v : Word) (b : Nat) : chan (putCl a v s) b = chan s b := rfl
@[simp] theorem sar_putCl (a : Nat) (v : Word) (b : Nat) : sar (putCl a v s) b = sar s b := rfl
@[simp] theorem slot_putCl (a : Nat) (v : Word) (b : Nat) : slot (putCl a v s) b = slot s b := rfl
@[simp] theorem port_putCl (a : Nat) (v : Word) (b : Nat) : port (putCl a v s) b = port s b := rfl
@[simp] theorem cmpo_putCl (a : Nat) (v : Word) (b : Nat) : cmpo (putCl a v s) b = cmpo s b := rfl
@[simp] theorem em_putCl (a : Nat) (v : Word) (b : Nat) : em (putCl a v s) b = em s b := rfl
@[simp] theorem pls_putCl (a : Nat) (v : Word) (b : Nat) : pls (putCl a v s) b = pls s b := rfl
@[simp] theorem sin_putCl (a : Nat) (v : Word) (b : Nat) : sin (putCl a v s) b = sin s b := rfl
@[simp] theorem sout_putCl (a : Nat) (v : Word) (b : Nat) : sout (putCl a v s) b = sout s b := rfl
@[simp] theorem link_putCl (a : Nat) (v : Word) (b : Nat) : link (putCl a v s) b = link s b := rfl
@[simp] theorem memb_putCl (a : Nat) (v : Word) (b : Nat) : memb (putCl a v s) b = memb s b := rfl
@[simp] theorem spq_putCl (a : Nat) (v : Word) (b : Nat) : spq (putCl a v s) b = spq s b := rfl
@[simp] theorem can_putCl (a : Nat) (v : Word) (b : Nat) : can (putCl a v s) b = can s b := rfl
@[simp] theorem qsp_putCl (a : Nat) (v : Word) (b : Nat) : qsp (putCl a v s) b = qsp s b := rfl
@[simp] theorem cell_putCl (a : Nat) (v : Word) (b : Nat) : cell (putCl a v s) b = cell s b := rfl
@[simp] theorem scr_putCl (a : Nat) (v : Word) (b : Nat) : scr (putCl a v s) b = scr s b := rfl
@[simp] theorem sample_putCl (a : Nat) (v : Word) (b : Nat) : sample (putCl a v s) b = sample s b := rfl
@[simp] theorem latched_putCl (a : Nat) (v : Word) (b : Nat) : latched (putCl a v s) b = latched s b := rfl
@[simp] theorem ticking_putCl (a : Nat) (v : Word) : ticking (putCl a v s) = ticking s := rfl
@[simp] theorem is9610_putCl (a : Nat) (v : Word) : is9610 (putCl a v s) = is9610 s := rfl
@[simp] theorem hasUnit_putCl (a : Nat) (v : Word) (b : Nat) : hasUnit (putCl a v s) b = hasUnit s b := rfl
@[simp] theorem hasLeg_putCl (a : Nat) (v : Word) (b : Nat) : hasLeg (putCl a v s) b = hasLeg s b := rfl
@[simp] theorem hasCluster_putCl (a : Nat) (v : Word) (b : Nat) : hasCluster (putCl a v s) b = hasCluster s b := rfl
@[simp] theorem hasBs_putCl (a : Nat) (v : Word) (b : Nat) : hasBs (putCl a v s) b = hasBs s b := rfl
@[simp] theorem hasClk_putCl (a : Nat) (v : Word) (b : Nat) : hasClk (putCl a v s) b = hasClk s b := rfl
@[simp] theorem hasPort_putCl (a : Nat) (v : Word) (b : Nat) : hasPort (putCl a v s) b = hasPort s b := rfl
@[simp] theorem hasSp_putCl (a : Nat) (v : Word) (b : Nat) : hasSp (putCl a v s) b = hasSp s b := rfl
@[simp] theorem hasCan_putCl (a : Nat) (v : Word) (b : Nat) : hasCan (putCl a v s) b = hasCan s b := rfl
@[simp] theorem deadEvent_putCl (a : Nat) (v : Word) (b : Nat) : deadEvent (putCl a v s) b = deadEvent s b := rfl

@[simp] theorem shad_latchEvent (a i : Nat) (b : Nat) : shad (latchEvent a i s) b = shad s b := rfl
@[simp] theorem sfld_latchEvent (a i : Nat) (g : Fld) : sfld (latchEvent a i s) g = sfld s g := rfl
@[simp] theorem live_latchEvent (a i : Nat) (b : Nat) : live (latchEvent a i s) b = live s b := rfl
@[simp] theorem lfld_latchEvent (a i : Nat) (g : Fld) : lfld (latchEvent a i s) g = lfld s g := rfl
@[simp] theorem act_latchEvent (a i : Nat) (b : Nat) : act (latchEvent a i s) b = act s b := rfl
@[simp] theorem afld_latchEvent (a i : Nat) (g : Fld) : afld (latchEvent a i s) g = afld s g := rfl
@[simp] theorem rdByte_latchEvent (a i : Nat) (b : Nat) : rdByte (latchEvent a i s) b = rdByte s b := rfl
@[simp] theorem rdTcm_latchEvent (a i : Nat) (b : Nat) : rdTcm (latchEvent a i s) b = rdTcm s b := rfl
@[simp] theorem unit_latchEvent (a i : Nat) (b : Nat) : unit (latchEvent a i s) b = unit s b := rfl
@[simp] theorem leg_latchEvent (a i : Nat) (b : Nat) : leg (latchEvent a i s) b = leg s b := rfl
@[simp] theorem grp_latchEvent (a i : Nat) (b : Nat) : grp (latchEvent a i s) b = grp s b := rfl
@[simp] theorem cl_latchEvent (a i : Nat) (b : Nat) : cl (latchEvent a i s) b = cl s b := rfl
@[simp] theorem chan_latchEvent (a i : Nat) (b : Nat) : chan (latchEvent a i s) b = chan s b := rfl
@[simp] theorem sar_latchEvent (a i : Nat) (b : Nat) : sar (latchEvent a i s) b = sar s b := rfl
@[simp] theorem slot_latchEvent (a i : Nat) (b : Nat) : slot (latchEvent a i s) b = slot s b := rfl
@[simp] theorem port_latchEvent (a i : Nat) (b : Nat) : port (latchEvent a i s) b = port s b := rfl
@[simp] theorem cmpo_latchEvent (a i : Nat) (b : Nat) : cmpo (latchEvent a i s) b = cmpo s b := rfl
@[simp] theorem em_latchEvent (a i : Nat) (b : Nat) : em (latchEvent a i s) b = em s b := rfl
@[simp] theorem pls_latchEvent (a i : Nat) (b : Nat) : pls (latchEvent a i s) b = pls s b := rfl
@[simp] theorem sin_latchEvent (a i : Nat) (b : Nat) : sin (latchEvent a i s) b = sin s b := rfl
@[simp] theorem sout_latchEvent (a i : Nat) (b : Nat) : sout (latchEvent a i s) b = sout s b := rfl
@[simp] theorem link_latchEvent (a i : Nat) (b : Nat) : link (latchEvent a i s) b = link s b := rfl
@[simp] theorem memb_latchEvent (a i : Nat) (b : Nat) : memb (latchEvent a i s) b = memb s b := rfl
@[simp] theorem spq_latchEvent (a i : Nat) (b : Nat) : spq (latchEvent a i s) b = spq s b := rfl
@[simp] theorem can_latchEvent (a i : Nat) (b : Nat) : can (latchEvent a i s) b = can s b := rfl
@[simp] theorem qsp_latchEvent (a i : Nat) (b : Nat) : qsp (latchEvent a i s) b = qsp s b := rfl
@[simp] theorem cell_latchEvent (a i : Nat) (b : Nat) : cell (latchEvent a i s) b = cell s b := rfl
@[simp] theorem scr_latchEvent (a i : Nat) (b : Nat) : scr (latchEvent a i s) b = scr s b := rfl
@[simp] theorem sample_latchEvent (a i : Nat) (b : Nat) : sample (latchEvent a i s) b = sample s b := rfl
@[simp] theorem latched_latchEvent (a i : Nat) (b : Nat) : latched (latchEvent a i s) b = latched s b := rfl
@[simp] theorem ticking_latchEvent (a i : Nat) : ticking (latchEvent a i s) = ticking s := rfl
@[simp] theorem is9610_latchEvent (a i : Nat) : is9610 (latchEvent a i s) = is9610 s := rfl
@[simp] theorem hasUnit_latchEvent (a i : Nat) (b : Nat) : hasUnit (latchEvent a i s) b = hasUnit s b := rfl
@[simp] theorem hasLeg_latchEvent (a i : Nat) (b : Nat) : hasLeg (latchEvent a i s) b = hasLeg s b := rfl
@[simp] theorem hasCluster_latchEvent (a i : Nat) (b : Nat) : hasCluster (latchEvent a i s) b = hasCluster s b := rfl
@[simp] theorem hasBs_latchEvent (a i : Nat) (b : Nat) : hasBs (latchEvent a i s) b = hasBs s b := rfl
@[simp] theorem hasClk_latchEvent (a i : Nat) (b : Nat) : hasClk (latchEvent a i s) b = hasClk s b := rfl
@[simp] theorem hasPort_latchEvent (a i : Nat) (b : Nat) : hasPort (latchEvent a i s) b = hasPort s b := rfl
@[simp] theorem hasSp_latchEvent (a i : Nat) (b : Nat) : hasSp (latchEvent a i s) b = hasSp s b := rfl
@[simp] theorem hasCan_latchEvent (a i : Nat) (b : Nat) : hasCan (latchEvent a i s) b = hasCan s b := rfl
@[simp] theorem deadEvent_latchEvent (a i : Nat) (b : Nat) : deadEvent (latchEvent a i s) b = deadEvent s b := rfl

@[simp] theorem reg_updCell (k : Nat) (f : Cell → Cell) (b : Nat) : reg (updCell k f s) b = reg s b := rfl
@[simp] theorem fld_updCell (k : Nat) (f : Cell → Cell) (g : Fld) : fld (updCell k f s) g = fld s g := rfl
@[simp] theorem shad_updCell (k : Nat) (f : Cell → Cell) (b : Nat) : shad (updCell k f s) b = shad s b := rfl
@[simp] theorem sfld_updCell (k : Nat) (f : Cell → Cell) (g : Fld) : sfld (updCell k f s) g = sfld s g := rfl
@[simp] theorem live_updCell (k : Nat) (f : Cell → Cell) (b : Nat) : live (updCell k f s) b = live s b := rfl
@[simp] theorem lfld_updCell (k : Nat) (f : Cell → Cell) (g : Fld) : lfld (updCell k f s) g = lfld s g := rfl
@[simp] theorem act_updCell (k : Nat) (f : Cell → Cell) (b : Nat) : act (updCell k f s) b = act s b := rfl
@[simp] theorem afld_updCell (k : Nat) (f : Cell → Cell) (g : Fld) : afld (updCell k f s) g = afld s g := rfl
@[simp] theorem rdByte_updCell (k : Nat) (f : Cell → Cell) (b : Nat) : rdByte (updCell k f s) b = rdByte s b := rfl
@[simp] theorem rdTcm_updCell (k : Nat) (f : Cell → Cell) (b : Nat) : rdTcm (updCell k f s) b = rdTcm s b := rfl
@[simp] theorem unit_updCell (k : Nat) (f : Cell → Cell) (b : Nat) : unit (updCell k f s) b = unit s b := rfl
@[simp] theorem leg_updCell (k : Nat) (f : Cell → Cell) (b : Nat) : leg (updCell k f s) b = leg s b := rfl
@[simp] theorem grp_updCell (k : Nat) (f : Cell → Cell) (b : Nat) : grp (updCell k f s) b = grp s b := rfl
@[simp] theorem cl_updCell (k : Nat) (f : Cell → Cell) (b : Nat) : cl (updCell k f s) b = cl s b := rfl
@[simp] theorem chan_updCell (k : Nat) (f : Cell → Cell) (b : Nat) : chan (updCell k f s) b = chan s b := rfl
@[simp] theorem sar_updCell (k : Nat) (f : Cell → Cell) (b : Nat) : sar (updCell k f s) b = sar s b := rfl
@[simp] theorem slot_updCell (k : Nat) (f : Cell → Cell) (b : Nat) : slot (updCell k f s) b = slot s b := rfl
@[simp] theorem port_updCell (k : Nat) (f : Cell → Cell) (b : Nat) : port (updCell k f s) b = port s b := rfl
@[simp] theorem cmpo_updCell (k : Nat) (f : Cell → Cell) (b : Nat) : cmpo (updCell k f s) b = cmpo s b := rfl
@[simp] theorem em_updCell (k : Nat) (f : Cell → Cell) (b : Nat) : em (updCell k f s) b = em s b := rfl
@[simp] theorem pls_updCell (k : Nat) (f : Cell → Cell) (b : Nat) : pls (updCell k f s) b = pls s b := rfl
@[simp] theorem sin_updCell (k : Nat) (f : Cell → Cell) (b : Nat) : sin (updCell k f s) b = sin s b := rfl
@[simp] theorem sout_updCell (k : Nat) (f : Cell → Cell) (b : Nat) : sout (updCell k f s) b = sout s b := rfl
@[simp] theorem link_updCell (k : Nat) (f : Cell → Cell) (b : Nat) : link (updCell k f s) b = link s b := rfl
@[simp] theorem memb_updCell (k : Nat) (f : Cell → Cell) (b : Nat) : memb (updCell k f s) b = memb s b := rfl
@[simp] theorem spq_updCell (k : Nat) (f : Cell → Cell) (b : Nat) : spq (updCell k f s) b = spq s b := rfl
@[simp] theorem can_updCell (k : Nat) (f : Cell → Cell) (b : Nat) : can (updCell k f s) b = can s b := rfl
@[simp] theorem qsp_updCell (k : Nat) (f : Cell → Cell) (b : Nat) : qsp (updCell k f s) b = qsp s b := rfl
@[simp] theorem pairState_updCell (k : Nat) (f : Cell → Cell) (b : Nat) : pairState (updCell k f s) b = pairState s b := rfl
@[simp] theorem ticking_updCell (k : Nat) (f : Cell → Cell) : ticking (updCell k f s) = ticking s := rfl
@[simp] theorem is9610_updCell (k : Nat) (f : Cell → Cell) : is9610 (updCell k f s) = is9610 s := rfl
@[simp] theorem hasUnit_updCell (k : Nat) (f : Cell → Cell) (b : Nat) : hasUnit (updCell k f s) b = hasUnit s b := rfl
@[simp] theorem hasLeg_updCell (k : Nat) (f : Cell → Cell) (b : Nat) : hasLeg (updCell k f s) b = hasLeg s b := rfl
@[simp] theorem hasCluster_updCell (k : Nat) (f : Cell → Cell) (b : Nat) : hasCluster (updCell k f s) b = hasCluster s b := rfl
@[simp] theorem hasBs_updCell (k : Nat) (f : Cell → Cell) (b : Nat) : hasBs (updCell k f s) b = hasBs s b := rfl
@[simp] theorem hasClk_updCell (k : Nat) (f : Cell → Cell) (b : Nat) : hasClk (updCell k f s) b = hasClk s b := rfl
@[simp] theorem hasPort_updCell (k : Nat) (f : Cell → Cell) (b : Nat) : hasPort (updCell k f s) b = hasPort s b := rfl
@[simp] theorem hasSp_updCell (k : Nat) (f : Cell → Cell) (b : Nat) : hasSp (updCell k f s) b = hasSp s b := rfl
@[simp] theorem hasCan_updCell (k : Nat) (f : Cell → Cell) (b : Nat) : hasCan (updCell k f s) b = hasCan s b := rfl
@[simp] theorem deadEvent_updCell (k : Nat) (f : Cell → Cell) (b : Nat) : deadEvent (updCell k f s) b = deadEvent s b := rfl

@[simp] theorem reg_updScr (k : Nat) (f : Scr → Scr) (b : Nat) : reg (updScr k f s) b = reg s b := rfl
@[simp] theorem fld_updScr (k : Nat) (f : Scr → Scr) (g : Fld) : fld (updScr k f s) g = fld s g := rfl
@[simp] theorem shad_updScr (k : Nat) (f : Scr → Scr) (b : Nat) : shad (updScr k f s) b = shad s b := rfl
@[simp] theorem sfld_updScr (k : Nat) (f : Scr → Scr) (g : Fld) : sfld (updScr k f s) g = sfld s g := rfl
@[simp] theorem live_updScr (k : Nat) (f : Scr → Scr) (b : Nat) : live (updScr k f s) b = live s b := rfl
@[simp] theorem lfld_updScr (k : Nat) (f : Scr → Scr) (g : Fld) : lfld (updScr k f s) g = lfld s g := rfl
@[simp] theorem act_updScr (k : Nat) (f : Scr → Scr) (b : Nat) : act (updScr k f s) b = act s b := rfl
@[simp] theorem afld_updScr (k : Nat) (f : Scr → Scr) (g : Fld) : afld (updScr k f s) g = afld s g := rfl
@[simp] theorem rdByte_updScr (k : Nat) (f : Scr → Scr) (b : Nat) : rdByte (updScr k f s) b = rdByte s b := rfl
@[simp] theorem rdTcm_updScr (k : Nat) (f : Scr → Scr) (b : Nat) : rdTcm (updScr k f s) b = rdTcm s b := rfl
@[simp] theorem unit_updScr (k : Nat) (f : Scr → Scr) (b : Nat) : unit (updScr k f s) b = unit s b := rfl
@[simp] theorem leg_updScr (k : Nat) (f : Scr → Scr) (b : Nat) : leg (updScr k f s) b = leg s b := rfl
@[simp] theorem grp_updScr (k : Nat) (f : Scr → Scr) (b : Nat) : grp (updScr k f s) b = grp s b := rfl
@[simp] theorem cl_updScr (k : Nat) (f : Scr → Scr) (b : Nat) : cl (updScr k f s) b = cl s b := rfl
@[simp] theorem chan_updScr (k : Nat) (f : Scr → Scr) (b : Nat) : chan (updScr k f s) b = chan s b := rfl
@[simp] theorem sar_updScr (k : Nat) (f : Scr → Scr) (b : Nat) : sar (updScr k f s) b = sar s b := rfl
@[simp] theorem slot_updScr (k : Nat) (f : Scr → Scr) (b : Nat) : slot (updScr k f s) b = slot s b := rfl
@[simp] theorem port_updScr (k : Nat) (f : Scr → Scr) (b : Nat) : port (updScr k f s) b = port s b := rfl
@[simp] theorem cmpo_updScr (k : Nat) (f : Scr → Scr) (b : Nat) : cmpo (updScr k f s) b = cmpo s b := rfl
@[simp] theorem em_updScr (k : Nat) (f : Scr → Scr) (b : Nat) : em (updScr k f s) b = em s b := rfl
@[simp] theorem pls_updScr (k : Nat) (f : Scr → Scr) (b : Nat) : pls (updScr k f s) b = pls s b := rfl
@[simp] theorem sin_updScr (k : Nat) (f : Scr → Scr) (b : Nat) : sin (updScr k f s) b = sin s b := rfl
@[simp] theorem sout_updScr (k : Nat) (f : Scr → Scr) (b : Nat) : sout (updScr k f s) b = sout s b := rfl
@[simp] theorem link_updScr (k : Nat) (f : Scr → Scr) (b : Nat) : link (updScr k f s) b = link s b := rfl
@[simp] theorem memb_updScr (k : Nat) (f : Scr → Scr) (b : Nat) : memb (updScr k f s) b = memb s b := rfl
@[simp] theorem spq_updScr (k : Nat) (f : Scr → Scr) (b : Nat) : spq (updScr k f s) b = spq s b := rfl
@[simp] theorem can_updScr (k : Nat) (f : Scr → Scr) (b : Nat) : can (updScr k f s) b = can s b := rfl
@[simp] theorem qsp_updScr (k : Nat) (f : Scr → Scr) (b : Nat) : qsp (updScr k f s) b = qsp s b := rfl
@[simp] theorem pairState_updScr (k : Nat) (f : Scr → Scr) (b : Nat) : pairState (updScr k f s) b = pairState s b := rfl
@[simp] theorem ticking_updScr (k : Nat) (f : Scr → Scr) : ticking (updScr k f s) = ticking s := rfl
@[simp] theorem is9610_updScr (k : Nat) (f : Scr → Scr) : is9610 (updScr k f s) = is9610 s := rfl
@[simp] theorem hasUnit_updScr (k : Nat) (f : Scr → Scr) (b : Nat) : hasUnit (updScr k f s) b = hasUnit s b := rfl
@[simp] theorem hasLeg_updScr (k : Nat) (f : Scr → Scr) (b : Nat) : hasLeg (updScr k f s) b = hasLeg s b := rfl
@[simp] theorem hasCluster_updScr (k : Nat) (f : Scr → Scr) (b : Nat) : hasCluster (updScr k f s) b = hasCluster s b := rfl
@[simp] theorem hasBs_updScr (k : Nat) (f : Scr → Scr) (b : Nat) : hasBs (updScr k f s) b = hasBs s b := rfl
@[simp] theorem hasClk_updScr (k : Nat) (f : Scr → Scr) (b : Nat) : hasClk (updScr k f s) b = hasClk s b := rfl
@[simp] theorem hasPort_updScr (k : Nat) (f : Scr → Scr) (b : Nat) : hasPort (updScr k f s) b = hasPort s b := rfl
@[simp] theorem hasSp_updScr (k : Nat) (f : Scr → Scr) (b : Nat) : hasSp (updScr k f s) b = hasSp s b := rfl
@[simp] theorem hasCan_updScr (k : Nat) (f : Scr → Scr) (b : Nat) : hasCan (updScr k f s) b = hasCan s b := rfl
@[simp] theorem deadEvent_updScr (k : Nat) (f : Scr → Scr) (b : Nat) : deadEvent (updScr k f s) b = deadEvent s b := rfl

end Sys2Proof.Machine
end

