-- ==== Sys2Proof/Laws/Raise.lean ====
section
/-! SUPPORT. Raising an event leaves everything alone but EVR's registers, the observed marks and the spine. -/

namespace Sys2Proof.Machine
open Sys2Proof

variable (s : State) (e : Nat)

@[simp] theorem raise_pending : (raise e s).pending = s.pending := by
  obtain ⟨r, o, n, h⟩ := raise_frame e s; rw [h]
@[simp] theorem raise_variant : (raise e s).variant = s.variant := by
  obtain ⟨r, o, n, h⟩ := raise_frame e s; rw [h]
@[simp] theorem raise_now : (raise e s).now = s.now := by
  obtain ⟨r, o, n, h⟩ := raise_frame e s; rw [h]
@[simp] theorem raise_free : (raise e s).free = s.free := by
  obtain ⟨r, o, n, h⟩ := raise_frame e s; rw [h]
@[simp] theorem raise_shadow : (raise e s).shadow = s.shadow := by
  obtain ⟨r, o, n, h⟩ := raise_frame e s; rw [h]
@[simp] theorem raise_live : (raise e s).live = s.live := by
  obtain ⟨r, o, n, h⟩ := raise_frame e s; rw [h]
@[simp] theorem raise_act : (raise e s).act = s.act := by
  obtain ⟨r, o, n, h⟩ := raise_frame e s; rw [h]
@[simp] theorem raise_toAct : (raise e s).toAct = s.toAct := by
  obtain ⟨r, o, n, h⟩ := raise_frame e s; rw [h]
@[simp] theorem raise_mem : (raise e s).mem = s.mem := by
  obtain ⟨r, o, n, h⟩ := raise_frame e s; rw [h]
@[simp] theorem raise_tcm : (raise e s).tcm = s.tcm := by
  obtain ⟨r, o, n, h⟩ := raise_frame e s; rw [h]
@[simp] theorem raise_eccBad : (raise e s).eccBad = s.eccBad := by
  obtain ⟨r, o, n, h⟩ := raise_frame e s; rw [h]
@[simp] theorem raise_tick : (raise e s).tick = s.tick := by
  obtain ⟨r, o, n, h⟩ := raise_frame e s; rw [h]
@[simp] theorem raise_units : (raise e s).units = s.units := by
  obtain ⟨r, o, n, h⟩ := raise_frame e s; rw [h]
@[simp] theorem raise_col : (raise e s).col = s.col := by
  obtain ⟨r, o, n, h⟩ := raise_frame e s; rw [h]
@[simp] theorem raise_prc : (raise e s).prc = s.prc := by
  obtain ⟨r, o, n, h⟩ := raise_frame e s; rw [h]
@[simp] theorem raise_eng : (raise e s).eng = s.eng := by
  obtain ⟨r, o, n, h⟩ := raise_frame e s; rw [h]
@[simp] theorem raise_legs : (raise e s).legs = s.legs := by
  obtain ⟨r, o, n, h⟩ := raise_frame e s; rw [h]
@[simp] theorem raise_grps : (raise e s).grps = s.grps := by
  obtain ⟨r, o, n, h⟩ := raise_frame e s; rw [h]
@[simp] theorem raise_cls : (raise e s).cls = s.cls := by
  obtain ⟨r, o, n, h⟩ := raise_frame e s; rw [h]
@[simp] theorem raise_tbLost : (raise e s).tbLost = s.tbLost := by
  obtain ⟨r, o, n, h⟩ := raise_frame e s; rw [h]
@[simp] theorem raise_engHalt : (raise e s).engHalt = s.engHalt := by
  obtain ⟨r, o, n, h⟩ := raise_frame e s; rw [h]
@[simp] theorem raise_chans : (raise e s).chans = s.chans := by
  obtain ⟨r, o, n, h⟩ := raise_frame e s; rw [h]
@[simp] theorem raise_clkLost : (raise e s).clkLost = s.clkLost := by
  obtain ⟨r, o, n, h⟩ := raise_frame e s; rw [h]
@[simp] theorem raise_clkAt : (raise e s).clkAt = s.clkAt := by
  obtain ⟨r, o, n, h⟩ := raise_frame e s; rw [h]
@[simp] theorem raise_cal : (raise e s).cal = s.cal := by
  obtain ⟨r, o, n, h⟩ := raise_frame e s; rw [h]
@[simp] theorem raise_rel : (raise e s).rel = s.rel := by
  obtain ⟨r, o, n, h⟩ := raise_frame e s; rw [h]
@[simp] theorem raise_sars : (raise e s).sars = s.sars := by
  obtain ⟨r, o, n, h⟩ := raise_frame e s; rw [h]
@[simp] theorem raise_slots : (raise e s).slots = s.slots := by
  obtain ⟨r, o, n, h⟩ := raise_frame e s; rw [h]
@[simp] theorem raise_refFrom : (raise e s).refFrom = s.refFrom := by
  obtain ⟨r, o, n, h⟩ := raise_frame e s; rw [h]
@[simp] theorem raise_refAt : (raise e s).refAt = s.refAt := by
  obtain ⟨r, o, n, h⟩ := raise_frame e s; rw [h]
@[simp] theorem raise_ports : (raise e s).ports = s.ports := by
  obtain ⟨r, o, n, h⟩ := raise_frame e s; rw [h]
@[simp] theorem raise_cmps : (raise e s).cmps = s.cmps := by
  obtain ⟨r, o, n, h⟩ := raise_frame e s; rw [h]
@[simp] theorem raise_ems : (raise e s).ems = s.ems := by
  obtain ⟨r, o, n, h⟩ := raise_frame e s; rw [h]
@[simp] theorem raise_plss : (raise e s).plss = s.plss := by
  obtain ⟨r, o, n, h⟩ := raise_frame e s; rw [h]
@[simp] theorem raise_saf : (raise e s).saf = s.saf := by
  obtain ⟨r, o, n, h⟩ := raise_frame e s; rw [h]
@[simp] theorem raise_aux : (raise e s).aux = s.aux := by
  obtain ⟨r, o, n, h⟩ := raise_frame e s; rw [h]
@[simp] theorem raise_cans : (raise e s).cans = s.cans := by
  obtain ⟨r, o, n, h⟩ := raise_frame e s; rw [h]
@[simp] theorem raise_qsps : (raise e s).qsps = s.qsps := by
  obtain ⟨r, o, n, h⟩ := raise_frame e s; rw [h]
@[simp] theorem raise_tru : (raise e s).tru = s.tru := by
  obtain ⟨r, o, n, h⟩ := raise_frame e s; rw [h]
@[simp] theorem raise_tst : (raise e s).tst = s.tst := by
  obtain ⟨r, o, n, h⟩ := raise_frame e s; rw [h]
@[simp] theorem raise_pwr : (raise e s).pwr = s.pwr := by
  obtain ⟨r, o, n, h⟩ := raise_frame e s; rw [h]
@[simp] theorem raiseTkc_pending : (raiseTkc e s).pending = s.pending := by simp [raiseTkc]
@[simp] theorem raiseIf_pending (c : Bool) : (raiseIf c e s).pending = s.pending := by unfold raiseIf; split <;> simp
@[simp] theorem raiseTkc_variant : (raiseTkc e s).variant = s.variant := by simp [raiseTkc]
@[simp] theorem raiseIf_variant (c : Bool) : (raiseIf c e s).variant = s.variant := by unfold raiseIf; split <;> simp
@[simp] theorem raiseTkc_now : (raiseTkc e s).now = s.now := by simp [raiseTkc]
@[simp] theorem raiseIf_now (c : Bool) : (raiseIf c e s).now = s.now := by unfold raiseIf; split <;> simp
@[simp] theorem raiseTkc_free : (raiseTkc e s).free = s.free := by simp [raiseTkc]
@[simp] theorem raiseIf_free (c : Bool) : (raiseIf c e s).free = s.free := by unfold raiseIf; split <;> simp
@[simp] theorem raiseTkc_shadow : (raiseTkc e s).shadow = s.shadow := by simp [raiseTkc]
@[simp] theorem raiseIf_shadow (c : Bool) : (raiseIf c e s).shadow = s.shadow := by unfold raiseIf; split <;> simp
@[simp] theorem raiseTkc_live : (raiseTkc e s).live = s.live := by simp [raiseTkc]
@[simp] theorem raiseIf_live (c : Bool) : (raiseIf c e s).live = s.live := by unfold raiseIf; split <;> simp
@[simp] theorem raiseTkc_act : (raiseTkc e s).act = s.act := by simp [raiseTkc]
@[simp] theorem raiseIf_act (c : Bool) : (raiseIf c e s).act = s.act := by unfold raiseIf; split <;> simp
@[simp] theorem raiseTkc_toAct : (raiseTkc e s).toAct = s.toAct := by simp [raiseTkc]
@[simp] theorem raiseIf_toAct (c : Bool) : (raiseIf c e s).toAct = s.toAct := by unfold raiseIf; split <;> simp
@[simp] theorem raiseTkc_mem : (raiseTkc e s).mem = s.mem := by simp [raiseTkc]
@[simp] theorem raiseIf_mem (c : Bool) : (raiseIf c e s).mem = s.mem := by unfold raiseIf; split <;> simp
@[simp] theorem raiseTkc_tcm : (raiseTkc e s).tcm = s.tcm := by simp [raiseTkc]
@[simp] theorem raiseIf_tcm (c : Bool) : (raiseIf c e s).tcm = s.tcm := by unfold raiseIf; split <;> simp
@[simp] theorem raiseTkc_eccBad : (raiseTkc e s).eccBad = s.eccBad := by simp [raiseTkc]
@[simp] theorem raiseIf_eccBad (c : Bool) : (raiseIf c e s).eccBad = s.eccBad := by unfold raiseIf; split <;> simp
@[simp] theorem raiseTkc_tick : (raiseTkc e s).tick = s.tick := by simp [raiseTkc]
@[simp] theorem raiseIf_tick (c : Bool) : (raiseIf c e s).tick = s.tick := by unfold raiseIf; split <;> simp
@[simp] theorem raiseTkc_units : (raiseTkc e s).units = s.units := by simp [raiseTkc]
@[simp] theorem raiseIf_units (c : Bool) : (raiseIf c e s).units = s.units := by unfold raiseIf; split <;> simp
@[simp] theorem raiseTkc_col : (raiseTkc e s).col = s.col := by simp [raiseTkc]
@[simp] theorem raiseIf_col (c : Bool) : (raiseIf c e s).col = s.col := by unfold raiseIf; split <;> simp
@[simp] theorem raiseTkc_prc : (raiseTkc e s).prc = s.prc := by simp [raiseTkc]
@[simp] theorem raiseIf_prc (c : Bool) : (raiseIf c e s).prc = s.prc := by unfold raiseIf; split <;> simp
@[simp] theorem raiseTkc_eng : (raiseTkc e s).eng = s.eng := by simp [raiseTkc]
@[simp] theorem raiseIf_eng (c : Bool) : (raiseIf c e s).eng = s.eng := by unfold raiseIf; split <;> simp
@[simp] theorem raiseTkc_legs : (raiseTkc e s).legs = s.legs := by simp [raiseTkc]
@[simp] theorem raiseIf_legs (c : Bool) : (raiseIf c e s).legs = s.legs := by unfold raiseIf; split <;> simp
@[simp] theorem raiseTkc_grps : (raiseTkc e s).grps = s.grps := by simp [raiseTkc]
@[simp] theorem raiseIf_grps (c : Bool) : (raiseIf c e s).grps = s.grps := by unfold raiseIf; split <;> simp
@[simp] theorem raiseTkc_cls : (raiseTkc e s).cls = s.cls := by simp [raiseTkc]
@[simp] theorem raiseIf_cls (c : Bool) : (raiseIf c e s).cls = s.cls := by unfold raiseIf; split <;> simp
@[simp] theorem raiseTkc_tbLost : (raiseTkc e s).tbLost = s.tbLost := by simp [raiseTkc]
@[simp] theorem raiseIf_tbLost (c : Bool) : (raiseIf c e s).tbLost = s.tbLost := by unfold raiseIf; split <;> simp
@[simp] theorem raiseTkc_engHalt : (raiseTkc e s).engHalt = s.engHalt := by simp [raiseTkc]
@[simp] theorem raiseIf_engHalt (c : Bool) : (raiseIf c e s).engHalt = s.engHalt := by unfold raiseIf; split <;> simp
@[simp] theorem raiseTkc_chans : (raiseTkc e s).chans = s.chans := by simp [raiseTkc]
@[simp] theorem raiseIf_chans (c : Bool) : (raiseIf c e s).chans = s.chans := by unfold raiseIf; split <;> simp
@[simp] theorem raiseTkc_clkLost : (raiseTkc e s).clkLost = s.clkLost := by simp [raiseTkc]
@[simp] theorem raiseIf_clkLost (c : Bool) : (raiseIf c e s).clkLost = s.clkLost := by unfold raiseIf; split <;> simp
@[simp] theorem raiseTkc_clkAt : (raiseTkc e s).clkAt = s.clkAt := by simp [raiseTkc]
@[simp] theorem raiseIf_clkAt (c : Bool) : (raiseIf c e s).clkAt = s.clkAt := by unfold raiseIf; split <;> simp
@[simp] theorem raiseTkc_cal : (raiseTkc e s).cal = s.cal := by simp [raiseTkc]
@[simp] theorem raiseIf_cal (c : Bool) : (raiseIf c e s).cal = s.cal := by unfold raiseIf; split <;> simp
@[simp] theorem raiseTkc_rel : (raiseTkc e s).rel = s.rel := by simp [raiseTkc]
@[simp] theorem raiseIf_rel (c : Bool) : (raiseIf c e s).rel = s.rel := by unfold raiseIf; split <;> simp
@[simp] theorem raiseTkc_sars : (raiseTkc e s).sars = s.sars := by simp [raiseTkc]
@[simp] theorem raiseIf_sars (c : Bool) : (raiseIf c e s).sars = s.sars := by unfold raiseIf; split <;> simp
@[simp] theorem raiseTkc_slots : (raiseTkc e s).slots = s.slots := by simp [raiseTkc]
@[simp] theorem raiseIf_slots (c : Bool) : (raiseIf c e s).slots = s.slots := by unfold raiseIf; split <;> simp
@[simp] theorem raiseTkc_refFrom : (raiseTkc e s).refFrom = s.refFrom := by simp [raiseTkc]
@[simp] theorem raiseIf_refFrom (c : Bool) : (raiseIf c e s).refFrom = s.refFrom := by unfold raiseIf; split <;> simp
@[simp] theorem raiseTkc_refAt : (raiseTkc e s).refAt = s.refAt := by simp [raiseTkc]
@[simp] theorem raiseIf_refAt (c : Bool) : (raiseIf c e s).refAt = s.refAt := by unfold raiseIf; split <;> simp
@[simp] theorem raiseTkc_ports : (raiseTkc e s).ports = s.ports := by simp [raiseTkc]
@[simp] theorem raiseIf_ports (c : Bool) : (raiseIf c e s).ports = s.ports := by unfold raiseIf; split <;> simp
@[simp] theorem raiseTkc_cmps : (raiseTkc e s).cmps = s.cmps := by simp [raiseTkc]
@[simp] theorem raiseIf_cmps (c : Bool) : (raiseIf c e s).cmps = s.cmps := by unfold raiseIf; split <;> simp
@[simp] theorem raiseTkc_ems : (raiseTkc e s).ems = s.ems := by simp [raiseTkc]
@[simp] theorem raiseIf_ems (c : Bool) : (raiseIf c e s).ems = s.ems := by unfold raiseIf; split <;> simp
@[simp] theorem raiseTkc_plss : (raiseTkc e s).plss = s.plss := by simp [raiseTkc]
@[simp] theorem raiseIf_plss (c : Bool) : (raiseIf c e s).plss = s.plss := by unfold raiseIf; split <;> simp
@[simp] theorem raiseTkc_saf : (raiseTkc e s).saf = s.saf := by simp [raiseTkc]
@[simp] theorem raiseIf_saf (c : Bool) : (raiseIf c e s).saf = s.saf := by unfold raiseIf; split <;> simp
@[simp] theorem raiseTkc_aux : (raiseTkc e s).aux = s.aux := by simp [raiseTkc]
@[simp] theorem raiseIf_aux (c : Bool) : (raiseIf c e s).aux = s.aux := by unfold raiseIf; split <;> simp
@[simp] theorem raiseTkc_cans : (raiseTkc e s).cans = s.cans := by simp [raiseTkc]
@[simp] theorem raiseIf_cans (c : Bool) : (raiseIf c e s).cans = s.cans := by unfold raiseIf; split <;> simp
@[simp] theorem raiseTkc_qsps : (raiseTkc e s).qsps = s.qsps := by simp [raiseTkc]
@[simp] theorem raiseIf_qsps (c : Bool) : (raiseIf c e s).qsps = s.qsps := by unfold raiseIf; split <;> simp
@[simp] theorem raiseTkc_tru : (raiseTkc e s).tru = s.tru := by simp [raiseTkc]
@[simp] theorem raiseIf_tru (c : Bool) : (raiseIf c e s).tru = s.tru := by unfold raiseIf; split <;> simp
@[simp] theorem raiseTkc_tst : (raiseTkc e s).tst = s.tst := by simp [raiseTkc]
@[simp] theorem raiseIf_tst (c : Bool) : (raiseIf c e s).tst = s.tst := by unfold raiseIf; split <;> simp
@[simp] theorem raiseTkc_pwr : (raiseTkc e s).pwr = s.pwr := by simp [raiseTkc]
@[simp] theorem raiseIf_pwr (c : Bool) : (raiseIf c e s).pwr = s.pwr := by unfold raiseIf; split <;> simp
@[simp] theorem shad_raise (b : Nat) : shad (raise e s) b = shad s b := by simp [shad]
@[simp] theorem shad_raiseTkc (b : Nat) : shad (raiseTkc e s) b = shad s b := by simp [shad]
@[simp] theorem shad_raiseIf (c : Bool) (b : Nat) : shad (raiseIf c e s) b = shad s b := by simp [shad]
@[simp] theorem sfld_raise (g : Fld) : sfld (raise e s) g = sfld s g := by simp [sfld, shad]
@[simp] theorem sfld_raiseTkc (g : Fld) : sfld (raiseTkc e s) g = sfld s g := by simp [sfld, shad]
@[simp] theorem sfld_raiseIf (c : Bool) (g : Fld) : sfld (raiseIf c e s) g = sfld s g := by simp [sfld, shad]
@[simp] theorem live_raise (b : Nat) : live (raise e s) b = live s b := by simp [live]
@[simp] theorem live_raiseTkc (b : Nat) : live (raiseTkc e s) b = live s b := by simp [live]
@[simp] theorem live_raiseIf (c : Bool) (b : Nat) : live (raiseIf c e s) b = live s b := by simp [live]
@[simp] theorem lfld_raise (g : Fld) : lfld (raise e s) g = lfld s g := by simp [lfld, live]
@[simp] theorem lfld_raiseTkc (g : Fld) : lfld (raiseTkc e s) g = lfld s g := by simp [lfld, live]
@[simp] theorem lfld_raiseIf (c : Bool) (g : Fld) : lfld (raiseIf c e s) g = lfld s g := by simp [lfld, live]
@[simp] theorem act_raise (b : Nat) : act (raise e s) b = act s b := by simp [act]
@[simp] theorem act_raiseTkc (b : Nat) : act (raiseTkc e s) b = act s b := by simp [act]
@[simp] theorem act_raiseIf (c : Bool) (b : Nat) : act (raiseIf c e s) b = act s b := by simp [act]
@[simp] theorem afld_raise (g : Fld) : afld (raise e s) g = afld s g := by simp [afld, act]
@[simp] theorem afld_raiseTkc (g : Fld) : afld (raiseTkc e s) g = afld s g := by simp [afld, act]
@[simp] theorem afld_raiseIf (c : Bool) (g : Fld) : afld (raiseIf c e s) g = afld s g := by simp [afld, act]
@[simp] theorem rdByte_raise (b : Nat) : rdByte (raise e s) b = rdByte s b := by simp [rdByte]
@[simp] theorem rdByte_raiseTkc (b : Nat) : rdByte (raiseTkc e s) b = rdByte s b := by simp [rdByte]
@[simp] theorem rdByte_raiseIf (c : Bool) (b : Nat) : rdByte (raiseIf c e s) b = rdByte s b := by simp [rdByte]
@[simp] theorem rdTcm_raise (b : Nat) : rdTcm (raise e s) b = rdTcm s b := by simp [rdTcm]
@[simp] theorem rdTcm_raiseTkc (b : Nat) : rdTcm (raiseTkc e s) b = rdTcm s b := by simp [rdTcm]
@[simp] theorem rdTcm_raiseIf (c : Bool) (b : Nat) : rdTcm (raiseIf c e s) b = rdTcm s b := by simp [rdTcm]
@[simp] theorem unit_raise (b : Nat) : unit (raise e s) b = unit s b := by simp [unit]
@[simp] theorem unit_raiseTkc (b : Nat) : unit (raiseTkc e s) b = unit s b := by simp [unit]
@[simp] theorem unit_raiseIf (c : Bool) (b : Nat) : unit (raiseIf c e s) b = unit s b := by simp [unit]
@[simp] theorem leg_raise (b : Nat) : leg (raise e s) b = leg s b := by simp [leg]
@[simp] theorem leg_raiseTkc (b : Nat) : leg (raiseTkc e s) b = leg s b := by simp [leg]
@[simp] theorem leg_raiseIf (c : Bool) (b : Nat) : leg (raiseIf c e s) b = leg s b := by simp [leg]
@[simp] theorem grp_raise (b : Nat) : grp (raise e s) b = grp s b := by simp [grp]
@[simp] theorem grp_raiseTkc (b : Nat) : grp (raiseTkc e s) b = grp s b := by simp [grp]
@[simp] theorem grp_raiseIf (c : Bool) (b : Nat) : grp (raiseIf c e s) b = grp s b := by simp [grp]
@[simp] theorem cl_raise (b : Nat) : cl (raise e s) b = cl s b := by simp [cl]
@[simp] theorem cl_raiseTkc (b : Nat) : cl (raiseTkc e s) b = cl s b := by simp [cl]
@[simp] theorem cl_raiseIf (c : Bool) (b : Nat) : cl (raiseIf c e s) b = cl s b := by simp [cl]
@[simp] theorem chan_raise (b : Nat) : chan (raise e s) b = chan s b := by simp [chan]
@[simp] theorem chan_raiseTkc (b : Nat) : chan (raiseTkc e s) b = chan s b := by simp [chan]
@[simp] theorem chan_raiseIf (c : Bool) (b : Nat) : chan (raiseIf c e s) b = chan s b := by simp [chan]
@[simp] theorem sar_raise (b : Nat) : sar (raise e s) b = sar s b := by simp [sar]
@[simp] theorem sar_raiseTkc (b : Nat) : sar (raiseTkc e s) b = sar s b := by simp [sar]
@[simp] theorem sar_raiseIf (c : Bool) (b : Nat) : sar (raiseIf c e s) b = sar s b := by simp [sar]
@[simp] theorem slot_raise (b : Nat) : slot (raise e s) b = slot s b := by simp [slot]
@[simp] theorem slot_raiseTkc (b : Nat) : slot (raiseTkc e s) b = slot s b := by simp [slot]
@[simp] theorem slot_raiseIf (c : Bool) (b : Nat) : slot (raiseIf c e s) b = slot s b := by simp [slot]
@[simp] theorem port_raise (b : Nat) : port (raise e s) b = port s b := by simp [port]
@[simp] theorem port_raiseTkc (b : Nat) : port (raiseTkc e s) b = port s b := by simp [port]
@[simp] theorem port_raiseIf (c : Bool) (b : Nat) : port (raiseIf c e s) b = port s b := by simp [port]
@[simp] theorem cmpo_raise (b : Nat) : cmpo (raise e s) b = cmpo s b := by simp [cmpo]
@[simp] theorem cmpo_raiseTkc (b : Nat) : cmpo (raiseTkc e s) b = cmpo s b := by simp [cmpo]
@[simp] theorem cmpo_raiseIf (c : Bool) (b : Nat) : cmpo (raiseIf c e s) b = cmpo s b := by simp [cmpo]
@[simp] theorem em_raise (b : Nat) : em (raise e s) b = em s b := by simp [em]
@[simp] theorem em_raiseTkc (b : Nat) : em (raiseTkc e s) b = em s b := by simp [em]
@[simp] theorem em_raiseIf (c : Bool) (b : Nat) : em (raiseIf c e s) b = em s b := by simp [em]
@[simp] theorem pls_raise (b : Nat) : pls (raise e s) b = pls s b := by simp [pls]
@[simp] theorem pls_raiseTkc (b : Nat) : pls (raiseTkc e s) b = pls s b := by simp [pls]
@[simp] theorem pls_raiseIf (c : Bool) (b : Nat) : pls (raiseIf c e s) b = pls s b := by simp [pls]
@[simp] theorem sin_raise (b : Nat) : sin (raise e s) b = sin s b := by simp [sin]
@[simp] theorem sin_raiseTkc (b : Nat) : sin (raiseTkc e s) b = sin s b := by simp [sin]
@[simp] theorem sin_raiseIf (c : Bool) (b : Nat) : sin (raiseIf c e s) b = sin s b := by simp [sin]
@[simp] theorem sout_raise (b : Nat) : sout (raise e s) b = sout s b := by simp [sout]
@[simp] theorem sout_raiseTkc (b : Nat) : sout (raiseTkc e s) b = sout s b := by simp [sout]
@[simp] theorem sout_raiseIf (c : Bool) (b : Nat) : sout (raiseIf c e s) b = sout s b := by simp [sout]
@[simp] theorem can_raise (b : Nat) : can (raise e s) b = can s b := by simp [can]
@[simp] theorem can_raiseTkc (b : Nat) : can (raiseTkc e s) b = can s b := by simp [can]
@[simp] theorem can_raiseIf (c : Bool) (b : Nat) : can (raiseIf c e s) b = can s b := by simp [can]
@[simp] theorem qsp_raise (b : Nat) : qsp (raise e s) b = qsp s b := by simp [qsp]
@[simp] theorem qsp_raiseTkc (b : Nat) : qsp (raiseTkc e s) b = qsp s b := by simp [qsp]
@[simp] theorem qsp_raiseIf (c : Bool) (b : Nat) : qsp (raiseIf c e s) b = qsp s b := by simp [qsp]
@[simp] theorem cell_raise (b : Nat) : cell (raise e s) b = cell s b := by simp [cell]
@[simp] theorem cell_raiseTkc (b : Nat) : cell (raiseTkc e s) b = cell s b := by simp [cell]
@[simp] theorem cell_raiseIf (c : Bool) (b : Nat) : cell (raiseIf c e s) b = cell s b := by simp [cell]
@[simp] theorem scr_raise (b : Nat) : scr (raise e s) b = scr s b := by simp [scr]
@[simp] theorem scr_raiseTkc (b : Nat) : scr (raiseTkc e s) b = scr s b := by simp [scr]
@[simp] theorem scr_raiseIf (c : Bool) (b : Nat) : scr (raiseIf c e s) b = scr s b := by simp [scr]
@[simp] theorem sample_raise (b : Nat) : sample (raise e s) b = sample s b := by simp [sample]
@[simp] theorem sample_raiseTkc (b : Nat) : sample (raiseTkc e s) b = sample s b := by simp [sample]
@[simp] theorem sample_raiseIf (c : Bool) (b : Nat) : sample (raiseIf c e s) b = sample s b := by simp [sample]
@[simp] theorem latched_raise (b : Nat) : latched (raise e s) b = latched s b := by simp [latched]
@[simp] theorem latched_raiseTkc (b : Nat) : latched (raiseTkc e s) b = latched s b := by simp [latched]
@[simp] theorem latched_raiseIf (c : Bool) (b : Nat) : latched (raiseIf c e s) b = latched s b := by simp [latched]
@[simp] theorem ticking_raise : ticking (raise e s) = ticking s := by simp [ticking]
@[simp] theorem ticking_raiseTkc : ticking (raiseTkc e s) = ticking s := by simp [ticking]
@[simp] theorem ticking_raiseIf (c : Bool) : ticking (raiseIf c e s) = ticking s := by simp [ticking]
@[simp] theorem is9610_raise : is9610 (raise e s) = is9610 s := by simp [is9610]
@[simp] theorem is9610_raiseTkc : is9610 (raiseTkc e s) = is9610 s := by simp [is9610]
@[simp] theorem is9610_raiseIf (c : Bool) : is9610 (raiseIf c e s) = is9610 s := by simp [is9610]
@[simp] theorem hasUnit_raise (b : Nat) : hasUnit (raise e s) b = hasUnit s b := by simp [hasUnit]
@[simp] theorem hasUnit_raiseTkc (b : Nat) : hasUnit (raiseTkc e s) b = hasUnit s b := by simp [hasUnit]
@[simp] theorem hasUnit_raiseIf (c : Bool) (b : Nat) : hasUnit (raiseIf c e s) b = hasUnit s b := by simp [hasUnit]
@[simp] theorem hasLeg_raise (b : Nat) : hasLeg (raise e s) b = hasLeg s b := by simp [hasLeg]
@[simp] theorem hasLeg_raiseTkc (b : Nat) : hasLeg (raiseTkc e s) b = hasLeg s b := by simp [hasLeg]
@[simp] theorem hasLeg_raiseIf (c : Bool) (b : Nat) : hasLeg (raiseIf c e s) b = hasLeg s b := by simp [hasLeg]
@[simp] theorem hasCluster_raise (b : Nat) : hasCluster (raise e s) b = hasCluster s b := by simp [hasCluster]
@[simp] theorem hasCluster_raiseTkc (b : Nat) : hasCluster (raiseTkc e s) b = hasCluster s b := by simp [hasCluster]
@[simp] theorem hasCluster_raiseIf (c : Bool) (b : Nat) : hasCluster (raiseIf c e s) b = hasCluster s b := by simp [hasCluster]
@[simp] theorem hasBs_raise (b : Nat) : hasBs (raise e s) b = hasBs s b := by simp [hasBs]
@[simp] theorem hasBs_raiseTkc (b : Nat) : hasBs (raiseTkc e s) b = hasBs s b := by simp [hasBs]
@[simp] theorem hasBs_raiseIf (c : Bool) (b : Nat) : hasBs (raiseIf c e s) b = hasBs s b := by simp [hasBs]
@[simp] theorem hasClk_raise (b : Nat) : hasClk (raise e s) b = hasClk s b := by simp [hasClk]
@[simp] theorem hasClk_raiseTkc (b : Nat) : hasClk (raiseTkc e s) b = hasClk s b := by simp [hasClk]
@[simp] theorem hasClk_raiseIf (c : Bool) (b : Nat) : hasClk (raiseIf c e s) b = hasClk s b := by simp [hasClk]
@[simp] theorem hasPort_raise (b : Nat) : hasPort (raise e s) b = hasPort s b := by simp [hasPort]
@[simp] theorem hasPort_raiseTkc (b : Nat) : hasPort (raiseTkc e s) b = hasPort s b := by simp [hasPort]
@[simp] theorem hasPort_raiseIf (c : Bool) (b : Nat) : hasPort (raiseIf c e s) b = hasPort s b := by simp [hasPort]
@[simp] theorem hasSp_raise (b : Nat) : hasSp (raise e s) b = hasSp s b := by simp [hasSp]
@[simp] theorem hasSp_raiseTkc (b : Nat) : hasSp (raiseTkc e s) b = hasSp s b := by simp [hasSp]
@[simp] theorem hasSp_raiseIf (c : Bool) (b : Nat) : hasSp (raiseIf c e s) b = hasSp s b := by simp [hasSp]
@[simp] theorem hasCan_raise (b : Nat) : hasCan (raise e s) b = hasCan s b := by simp [hasCan]
@[simp] theorem hasCan_raiseTkc (b : Nat) : hasCan (raiseTkc e s) b = hasCan s b := by simp [hasCan]
@[simp] theorem hasCan_raiseIf (c : Bool) (b : Nat) : hasCan (raiseIf c e s) b = hasCan s b := by simp [hasCan]
@[simp] theorem deadEvent_raise (b : Nat) : deadEvent (raise e s) b = deadEvent s b := by simp [deadEvent]
@[simp] theorem deadEvent_raiseTkc (b : Nat) : deadEvent (raiseTkc e s) b = deadEvent s b := by simp [deadEvent]
@[simp] theorem deadEvent_raiseIf (c : Bool) (b : Nat) : deadEvent (raiseIf c e s) b = deadEvent s b := by simp [deadEvent]

/-- A field outside EVR and SPN keeps its value when a TKC event is raised, but for the event's flag. -/
theorem fld_raiseTkc (f : Fld) (h3 : f.reg / 0x10000 ≠ 0x4003) (hd : f.reg ≠ SPN_CNT2) (hf : f.reg ≠ TKC_EVT) :
    fld (raiseTkc e s) f = fld s f := by
  rw [raiseTkc, fld_raise _ _ _ h3 hd, setFldBit, fld_setFld_reg _ _ _ _ (by simpa [TKC_EVT_FLAG] using hf)]
theorem reg_raiseTkc (a : Nat) (h3 : a / 0x10000 ≠ 0x4003) (hd : a ≠ SPN_CNT2) (hf : a ≠ TKC_EVT) :
    reg (raiseTkc e s) a = reg s a := by
  rw [raiseTkc, reg_raise _ _ _ h3 hd, setFldBit, reg_setFld_ne _ _ _ _ (by simpa [TKC_EVT_FLAG] using hf)]
theorem fld_raiseIf (c : Bool) (f : Fld) (h3 : f.reg / 0x10000 ≠ 0x4003) (hd : f.reg ≠ SPN_CNT2) :
    fld (raiseIf c e s) f = fld s f := by
  unfold raiseIf; split
  · exact fld_raise _ _ _ h3 hd
  · rfl

end Sys2Proof.Machine
end

