-- ==== Sys2Proof/Laws/Stores.lean ====
section
/-! SUPPORT. Stores: what a store of a unit at work does when nothing stops it, by the kind of its target. -/

namespace Sys2Proof.Machine
open Sys2Proof

theorem leBytes_length (n v : Nat) : (leBytes n v).length = n := by
  induction n generalizing v with
  | zero => rfl
  | succ n ih => simp [leBytes, ih]

/-! ### The journal -/

@[simp] theorem journal_mem (w : Who) (r : Undo) (s : State) : (journal w r s).mem = s.mem := by
  unfold journal; split <;> simp [showJrn]
@[simp] theorem journal_tcm (w : Who) (r : Undo) (s : State) : (journal w r s).tcm = s.tcm := by
  unfold journal; split <;> simp [showJrn]
@[simp] theorem journal_tick (w : Who) (r : Undo) (s : State) : (journal w r s).tick = s.tick := by
  unfold journal; split <;> simp [showJrn]
@[simp] theorem journal_eng (w : Who) (r : Undo) (s : State) : (journal w r s).eng = s.eng := by
  unfold journal; split <;> simp [showJrn]
@[simp] theorem journal_shadow (w : Who) (r : Undo) (s : State) : (journal w r s).shadow = s.shadow := by
  unfold journal; split <;> simp [showJrn]
@[simp] theorem journal_live (w : Who) (r : Undo) (s : State) : (journal w r s).live = s.live := by
  unfold journal; split <;> simp [showJrn]
theorem journal_idle (w : Who) (r : Undo) (s : State) (h : ticking s = false) : journal w r s = s := by
  simp [journal, h]
/-- While the tick runs the record is the newest of the unit's journal. -/
theorem journal_jrn (w : Who) (r : Undo) (s : State) (h : ticking s = true) :
    (unit (journal w r s) w.key).jrn = r :: (unit s w.key).jrn := by
  simp [journal, showJrn, h, maxFld, unit_updUnit]
theorem jrnFull_upto (t : Time) (s : State) (w : Who) : jrnFull (upto t s) w = jrnFull s w := by simp [jrnFull, jrnCap]

/-! ### Runs of bytes -/

@[simp] theorem wrBytes_units (bs : List Byte) : ∀ (a : Nat) (s : State), (wrBytes a bs s).units = s.units := by
  induction bs with
  | nil => intro a s; rfl
  | cons b r ih => intro a s; simpa [wrBytes] using ih (a + 1) (wrByte a b s)
@[simp] theorem wrBytes_tcm (bs : List Byte) : ∀ (a : Nat) (s : State), (wrBytes a bs s).tcm = s.tcm := by
  induction bs with
  | nil => intro a s; rfl
  | cons b r ih => intro a s; simpa [wrBytes] using ih (a + 1) (wrByte a b s)
@[simp] theorem wrBytes_regs (bs : List Byte) : ∀ (a : Nat) (s : State), (wrBytes a bs s).regs = s.regs := by
  induction bs with
  | nil => intro a s; rfl
  | cons b r ih => intro a s; simpa [wrBytes] using ih (a + 1) (wrByte a b s)
@[simp] theorem wrTcms_mem (bs : List Byte) : ∀ (a : Nat) (s : State), (wrTcms a bs s).mem = s.mem := by
  induction bs with
  | nil => intro a s; rfl
  | cons b r ih => intro a s; simpa [wrTcms] using ih (a + 1) (wrTcm a b s)

/-- A byte of a TCM after a run of bytes has been written. -/
theorem rdTcm_wrTcms (bs : List Byte) : ∀ (s : State) (a b : Nat), rdTcm (wrTcms a bs s) b =
    if a ≤ b ∧ b < a + bs.length then bs.getD (b - a) 0#8 else rdTcm s b := by
  induction bs with
  | nil => intro s a b; simp [wrTcms]
  | cons v r ih =>
    intro s a b
    rw [wrTcms, ih]
    by_cases h : a + 1 ≤ b ∧ b < a + 1 + r.length
    · have e : b - a = b - (a + 1) + 1 := by omega
      have h' : a ≤ b ∧ b < a + (v :: r).length := by simp; omega
      rw [if_pos h, if_pos h', e, List.getD_cons_succ]
    · rw [if_neg h, rdTcm_wrTcm]
      by_cases hb : b = a
      · subst hb; simp
      · have h' : ¬ (a ≤ b ∧ b < a + (v :: r).length) := by simp; omega
        rw [if_neg hb, if_neg h']

/-! ### Masks -/

theorem storeMask_word (n : Nat) (h : n % 4 = 0) : storeMask n .sw = 0xF#4 := by simp [storeMask, h, Size.bytes]
theorem storeWord_word (n : Nat) (d : Word) (h : n % 4 = 0) : storeWord n d = d := by simp [storeWord, h]
theorem mergeBits_full (o d : Word) : mergeBits o d (maskBits 0xF#4) = d := by
  have e : maskBits 0xF#4 = 2 ^ 32 - 1 := by decide
  simp only [mergeBits, e, Nat.and_two_pow_sub_one_eq_mod]
  have h1 := o.isLt
  have h2 := d.isLt
  rw [Nat.mod_eq_of_lt h1, Nat.mod_eq_of_lt h2]
  simp

/-! ### Stores to registers -/

/-- An access that goes through has its effect. -/
theorem atWork_access (w : Who) (k : Access) (a : Word) (z : Nat) (f : State → State) (s : State) (h : goes s w k a z = true) :
    atWork w (access w k a z f) s = f s := by
  simp only [goes, Bool.and_eq_true, decide_eq_true_eq, beq_iff_eq, Option.isNone_iff_eq_none] at h
  obtain ⟨⟨⟨⟨hw, hs⟩, hi⟩, ha⟩, hp⟩ := h
  have hu : upto (unit s w.key).startAt s = s := by simp [upto, Nat.max_eq_left hs]
  simp [atWork, access, deliver, hw, hu, hi, ha, hp]

/-- A store that goes through to a register is the field-by-field store. -/
theorem store_block (w : Who) (a d : Word) (s : State) (i : Nat) (h : goes s w .store a 4 = true)
    (ht : target a.toNat = .block i) : store w a .sw d s = regStore w a 0xF#4 d s := by
  have ha : a.toNat % 4 = 0 := by
    simp only [goes, Bool.and_eq_true, beq_iff_eq] at h; exact h.1.2
  simp only [store, Size.bytes, atWork_access _ _ _ _ _ _ h, ht]
  simp [ha, storeMask_word _ ha, storeWord_word _ _ ha]

/-- What stops a store does not depend on the instant. -/
theorem regStop_upto (t : Time) (s : State) (w : Who) (a : Nat) (m : Mask) (d : Word) (r : RegRow) :
    regStop (upto t s) w a m d r = regStop s w a m d r := rfl

/-- A store that nothing stops writes field by field: RWS and RW at once, then the clear queue, then the colophon. -/
theorem regStore_passes (w : Who) (a : Word) (m : Mask) (d : Word) (s : State) (r : RegRow)
    (hab : absent s a.toNat = false) (hw : ¬ (winOf a.toNat = 5 ∨ winOf a.toNat = 6))
    (hr : regRow? a.toNat = some r) (hn : a.toNat ≠ TKC_CBAR) (hs : regStop s w a.toNat m d r = none) :
    regStore w a m d s =
      (fun s2 => if covers m r.cl then storeCl w a.toNat m d s2 else s2)
      ((fun s1 => if covers m (clearMask r) then storeClear w a.toNat m d s1 else s1)
      (storeRws w a.toNat (maskBits m &&& r.rws) d (storeRw w a.toNat (maskBits m &&& rwBits s r) d s))) := by
  unfold regStore
  simp only [hab, Bool.false_eq_true, if_false]
  rw [if_neg (fun h => hw h.1)]
  simp only [hr, hn, if_false, hs]

/-- A store that something stops has the effect of the stop alone. -/
theorem regStore_stops (w : Who) (a : Word) (m : Mask) (d : Word) (s : State) (r : RegRow) (k : Stop)
    (hab : absent s a.toNat = false) (hw : ¬ (winOf a.toNat = 5 ∨ winOf a.toNat = 6))
    (hr : regRow? a.toNat = some r) (hn : a.toNat ≠ TKC_CBAR) (hs : regStop s w a.toNat m d r = some k) :
    regStore w a m d s = stopped w (a + BitVec.ofNat 32 (maskLow m)) k s := by
  unfold regStore
  simp only [hab, Bool.false_eq_true, if_false]
  rw [if_neg (fun h => hw h.1)]
  simp only [hr, hn, if_false, hs]

/-- An array register's number is found only at its address. -/
theorem indexIn_some {base step n a i : Nat} (h : indexIn base step n a = some i) : i < n ∧ a = base + step * i := by
  unfold indexIn at h
  have h1 := List.mem_of_find?_eq_some h
  have h2 := List.find?_some h
  exact ⟨List.mem_range.mp h1, (by simpa using h2 : base + step * i = a).symm⟩

/-- Outside PRC, and but for TST_MTIV, the RW value of a register brings nothing else with it. -/
theorem rwPut_plain (a : Nat) (v : Word) (s : State) (h : winOf a ≠ 2) (hm : a ≠ TST_MTIV) : rwPut a v s = setReg a v s := by
  have hn : ∀ (base : Nat), base / 65536 % 16384 = 2 → base % 65536 + 256 ≤ 65536 → indexIn base 16 16 a = none := by
    intro base hb hl
    cases hi : indexIn base 16 16 a with
    | none => rfl
    | some i =>
      obtain ⟨h1, h2⟩ := indexIn_some hi
      exfalso
      apply h
      unfold winOf
      omega
  unfold rwPut
  rw [if_neg hm, hn (PRC_DUTY_CFG 0) (by decide) (by decide), hn (PRC_DUTY_REG 0) (by decide) (by decide),
    hn (PRC_DUTY_SIZE 0) (by decide) (by decide)]

end Sys2Proof.Machine
end

