-- ==== Sys2Proof/Laws/Loads.lean ====
section
/-! SUPPORT. Traps and loads: what a trap writes, and what a load of a unit at work does when it goes through, by the kind
of its target. -/

namespace Sys2Proof.Machine
open Sys2Proof

/-! ### Traps -/

@[simp] theorem trap_regs (w : Who) (c v : Word) (s : State) : (trap w c v s).regs = s.regs := rfl
@[simp] theorem trap_mem (w : Who) (c v : Word) (s : State) : (trap w c v s).mem = s.mem := rfl
@[simp] theorem trap_tcm (w : Who) (c v : Word) (s : State) : (trap w c v s).tcm = s.tcm := rfl
@[simp] theorem trap_eng (w : Who) (c v : Word) (s : State) : (trap w c v s).eng = s.eng := rfl
@[simp] theorem trap_tick (w : Who) (c v : Word) (s : State) : (trap w c v s).tick = s.tick := rfl

/-- A trap changes its own unit alone, and of that unit the state of its core. -/
theorem unit_trap (w : Who) (c v : Word) (s : State) (j : Nat) : unit (trap w c v s) j =
    if j = w.key then { unit s j with arch := (unit s j).arch.trap c v (freeWord s &&& ~~~1#32) } else unit s j := by
  have h : unit (trap w c v s) j =
      unit (updUnit w.key (fun u => { u with arch := u.arch.trap c v (freeWord s &&& ~~~1#32) }) s) j := rfl
  rw [h, unit_updUnit]
  split
  · next e => subst e; rfl
  · rfl

/-! ### Loads -/

/-- A load of a register that goes through and is permitted gives its unit the bytes of what the read returns. -/
theorem load_block (w : Who) (a : Word) (z : Size) (s : State) (k : Nat) (h : goes s w .load a z.bytes = true)
    (ht : target a.toNat = .block k) (hm : mayRead s w (a.toNat - a.toNat % 4) = true) : load w a z s =
    updUnit w.key (fun u => { u with rdata := pick a.toNat z.bytes (regLoad w (a.toNat - a.toNat % 4) s).1 })
      (regLoad w (a.toNat - a.toNat % 4) s).2 := by
  simp only [load, atWork_access _ _ _ _ _ _ h, loadAt, ht, hm, if_true]

/-- A load of a memory that goes through gives its unit the bytes of the word, which comes after the waits of the load. -/
theorem load_memory (w : Who) (a : Word) (z : Size) (s : State) (v : Word) (h : goes s w .load a z.bytes = true)
    (hb : ∀ k, target a.toNat ≠ .block k) (hx : target a.toNat ≠ .xip)
    (he : (eccMem w a.toNat && SMap.get falseD s.eccBad (a.toNat / 8)) = false)
    (hv : memLoad (memWaits w (a.toNat - a.toNat % 4) s) w (a.toNat - a.toNat % 4) = some v) :
    load w a z s = updUnit w.key (fun u => { u with rdata := pick a.toNat z.bytes v })
      (memWaits w (a.toNat - a.toNat % 4) s) := by
  simp only [load, atWork_access _ _ _ _ _ _ h, loadAt]
  cases ht : target a.toNat <;> simp_all

/-- A load that goes through and finds no word for its unit is a load-access fault. -/
theorem load_none (w : Who) (a : Word) (z : Size) (s : State) (h : goes s w .load a z.bytes = true)
    (hb : ∀ k, target a.toNat ≠ .block k) (hx : target a.toNat ≠ .xip)
    (he : (eccMem w a.toNat && SMap.get falseD s.eccBad (a.toNat / 8)) = false)
    (hv : memLoad (memWaits w (a.toNat - a.toNat % 4) s) w (a.toNat - a.toNat % 4) = none) :
    load w a z s = loadFault w a (memWaits w (a.toNat - a.toNat % 4) s) := by
  simp only [load, atWork_access _ _ _ _ _ _ h, loadAt]
  cases ht : target a.toNat <;> simp_all

/-! ### Registers as they are read -/

theorem and_toNat (o : Word) (m : Nat) : o.toNat &&& m = (o &&& BitVec.ofNat 32 m).toNat := by
  rw [BitVec.toNat_and, BitVec.toNat_ofNat]
  apply Nat.eq_of_testBit_eq
  intro i
  rw [Nat.testBit_and, Nat.testBit_and, Nat.testBit_mod_two_pow]
  by_cases h : i < 32
  · simp [h]
  · have := Nat.testBit_lt_two_pow (Nat.lt_of_lt_of_le o.isLt (Nat.pow_le_pow_right (by decide) (Nat.le_of_not_lt h)))
    simp [this]

/-- A merge takes the bits of the mask from the second word and the others from the first. -/
theorem mergeBits_eq (o v : Word) (m : Nat) :
    mergeBits o v m = (o &&& ~~~(BitVec.ofNat 32 m)) ||| (v &&& BitVec.ofNat 32 m) := by
  have h1 : (o &&& ~~~(BitVec.ofNat 32 m)) &&& (v &&& BitVec.ofNat 32 m) = 0#32 := by
    ext i; simp; intro _ h; simp [h]
  have h2 : (o &&& ~~~(BitVec.ofNat 32 m)) &&& (o &&& BitVec.ofNat 32 m) = 0#32 := by
    ext i; simp; intro _ h; simp [h]
  have h3 : o = (o &&& ~~~(BitVec.ofNat 32 m)) + (o &&& BitVec.ofNat 32 m) := by
    rw [BitVec.add_eq_or_of_and_eq_zero _ _ h2]; ext i; simp; cases o[i] <;> simp
  rw [← BitVec.add_eq_or_of_and_eq_zero _ _ h1]
  have h4 : o - (o &&& BitVec.ofNat 32 m) = o &&& ~~~(BitVec.ofNat 32 m) := by
    rw [BitVec.sub_eq_iff_eq_add]; exact h3
  rw [← h4]
  apply BitVec.eq_of_toNat_eq
  have hle : (o &&& BitVec.ofNat 32 m).toNat ≤ o.toNat := by
    rw [BitVec.toNat_and]; exact Nat.and_le_left
  simp only [mergeBits, and_toNat, BitVec.toNat_ofNat, BitVec.toNat_add, BitVec.toNat_sub]
  have := o.isLt
  omega

/-- A register as its row gives it: each bit by its access code. -/
theorem rowWord_bit (s : State) (w : Who) (a : Nat) (r : RegRow) (b : Nat) (hb : b < 32)
    (hn : (unit s w.key).snap = []) : (rowWord s w a r).getLsbD b =
    (if r.wo.testBit b then false
      else if r.rws.testBit b then (shad s a).getLsbD b
      else if r.keep.testBit b then (reg s a).getLsbD b else false) := by
  have hl : (unit s w.key).snap.lookup a = none := by rw [hn]; rfl
  simp only [rowWord, hl, mergeBits_eq, BitVec.getLsbD_and, BitVec.getLsbD_or, BitVec.getLsbD_not, BitVec.getLsbD_ofNat,
    hb, decide_true, Bool.true_and]
  cases r.wo.testBit b <;> cases r.rws.testBit b <;> cases r.keep.testBit b <;> simp

end Sys2Proof.Machine
end

