-- ==== Sys2Proof/Laws/Spine.lean ====
section
/-! SUPPORT. What the operations on the outputs of the spine, the placing of a boundary and the steering can do: an output
changes the ring's own state and no other field, and steering the legs and the ring's own state. -/

namespace Sys2Proof.Machine
open Sys2Proof

/-- An output taken changes its link alone. -/
theorem takeOutput_frame (p : Nat) (a : Time) (n : Nat) (s : State) :
    ∃ x, takeOutput p a n s = { s with spn := x } := ⟨_, rfl⟩

/-- A waiting signature that starts changes the ring's own state alone. -/
theorem startOne_frame (p : Nat) (a : Time) (w : Waiting) (s : State) :
    ∃ x, startOne p a w s = { s with spn := x } := ⟨_, rfl⟩

/-- The waiting signatures of an output change the ring's own state alone. -/
theorem startWaits_frame (p : Nat) (t : Time) (ws : List Waiting) :
    ∀ s : State, ∃ x, startWaits p t ws s = { s with spn := x } := by
  induction ws with
  | nil => exact fun s => ⟨_, rfl⟩
  | cons w r ih =>
    intro s
    unfold startWaits
    simp only
    split
    · obtain ⟨x, hx⟩ := ih (startOne p (mayStart s w (max w.ready (link s p).busyTo)) w s)
      exact ⟨x, hx.trans rfl⟩
    · exact ⟨_, rfl⟩

/-- A field that is the same whatever the ring's own state is stays the same when what waits starts. -/
theorem settle_same {β : Type} (g : State → β) (hg : ∀ s x, g { s with spn := x } = g s) (t : Time) (s : State) :
    g (settle t s) = g s := by
  refine forAll_same g _ _ (fun p _ y => ?_) s
  obtain ⟨x, hx⟩ := startWaits_frame p t (link y p).waits y
  rw [hx]
  exact hg _ _

@[simp] theorem settle_regs (t : Time) (s : State) : (settle t s).regs = s.regs := settle_same State.regs (fun _ _ => rfl) t s
@[simp] theorem settle_mem (t : Time) (s : State) : (settle t s).mem = s.mem := settle_same State.mem (fun _ _ => rfl) t s
@[simp] theorem settle_tcm (t : Time) (s : State) : (settle t s).tcm = s.tcm := settle_same State.tcm (fun _ _ => rfl) t s
@[simp] theorem settle_live (t : Time) (s : State) : (settle t s).live = s.live := settle_same State.live (fun _ _ => rfl) t s
@[simp] theorem settle_tick (t : Time) (s : State) : (settle t s).tick = s.tick := settle_same State.tick (fun _ _ => rfl) t s
@[simp] theorem settle_now (t : Time) (s : State) : (settle t s).now = s.now := settle_same State.now (fun _ _ => rfl) t s
@[simp] theorem settle_pending (t : Time) (s : State) : (settle t s).pending = s.pending :=
  settle_same State.pending (fun _ _ => rfl) t s
@[simp] theorem settle_legs (t : Time) (s : State) : (settle t s).legs = s.legs := settle_same State.legs (fun _ _ => rfl) t s
@[simp] theorem settle_grps (t : Time) (s : State) : (settle t s).grps = s.grps := settle_same State.grps (fun _ _ => rfl) t s

/-- What an emission does: it joins what waits at each output, and the ring's own state alone changes. -/
theorem emit_same {β : Type} (g : State → β) (hg : ∀ s x, g { s with spn := x } = g s) (ps : List (Nat × Bool)) (t : Time)
    (h : Header) (pay : List Byte) (s : State) : g (emit ps t h pay s) = g s := by
  refine forAll_same g _ _ (fun p _ y => ?_) s
  obtain ⟨x, hx⟩ := startWaits_frame p.1 t
    (link (updLink p.1 (fun l => { l with waits := insertWait ⟨t, { h with w := p.2 }, pay⟩ l.waits }) y) p.1).waits
    (updLink p.1 (fun l => { l with waits := insertWait ⟨t, { h with w := p.2 }, pay⟩ l.waits }) y)
  simp only [hx]
  rw [hg]
  exact hg _ _

/-- A deviation kept within a limit. -/
theorem within_le (lim : Nat) (d : Int) : within lim d ≤ lim := by unfold within; split <;> [skip; split] <;> omega
theorem le_within (lim : Nat) (d : Int) : -(lim : Int) ≤ within lim d := by unfold within; split <;> [skip; split] <;> omega

/-- Moving a leg's carrier leaves its gates alone. -/
@[simp] theorem moveLeg_h (d : Int) (x : LegSt) : (moveLeg d x).h = x.h := rfl
@[simp] theorem moveLeg_l (d : Int) (x : LegSt) : (moveLeg d x).l = x.l := rfl

/-- Steering changes the legs and the ring's own state alone. -/
theorem steerBy_same {β : Type} (g : State → β) (hg : ∀ s x y, g { s with legs := x, spn := y } = g s) (d : Int)
    (s : State) : g (steerBy d s) = g s := by
  have h : ∀ (ls : List Nat) (c : Int) (y : State), g (forAll ls (fun l => updLeg l (moveLeg c)) y) = g y :=
    fun ls c y => forAll_same g ls _ (fun l _ z => hg z _ z.spn) y
  exact (hg _ (forAll (those 96 fun l => legOn s l) (fun l => updLeg l (moveLeg (within (s.tick.period * tb / 10000 : Nat)
    (s.spn.lag + d)))) s).legs _).trans (h _ _ s)

end Sys2Proof.Machine
end

