-- ==== Sys2Proof/WellFormed.lean ====
section
/-! DEFINITION. Which commands are well formed: the relations between the operands of a command that its types leave
open. A sender sends only well-formed commands; the meanings are defined on all. -/

namespace Sys2Proof

/-- The payload is as long as the header's LEN says, a multiple of 8 of at most 1,056 bytes, and the header is of the
row's KIND and comes from no device's own generator with reserved bits set (R374, R375). -/
def sigOk (kind : BitVec 2) (x : Sig) : Bool :=
  x.hdr.kind == kind && (x.payload.length == x.hdr.len.toNat || x.err && decide (x.payload.length < x.hdr.len.toNat))

/-- The data bytes of a CAN frame by its format and its data length code (ISO 11898-1, R407). -/
def frameBytes (fr : CanFrame) : Nat :=
  let d := fr.dlc.toNat
  if fr.rtr then 0
  else if d ≤ 8 then d
  else if !fr.fdf then 8
  else [12, 16, 20, 24, 32, 48, 64].getD (d - 9) 0

/-- A CAN frame holds the data that its code names; a base identifier has 11 bits, and only an FD frame has BRS or
ESI and no remote form. -/
def frameOk (fr : CanFrame) : Bool :=
  fr.data.length == frameBytes fr && (fr.ide || decide (fr.ident.toNat < 2048)) &&
  (if fr.fdf then !fr.rtr else !fr.brs && !fr.esi)

/-- A command is well formed. -/
def Instr.wf : Instr → Bool
  | .tickSignature x _ => sigOk 0 x && x.hdr.bc && x.payload.length == 48
  | .statusSignature x _ => sigOk 1 x && x.hdr.bc && decide (32 ≤ x.payload.length) && decide (x.payload.length ≤ 96)
  | .periodicSignature x _ => sigOk 1 x && x.hdr.bc && decide (x.payload.length ≤ 512)
  | .asyncSignature x _ => sigOk 2 x
  | .managementSignature x _ => sigOk 3 x
  | .canRxFrame _ fr _ => frameOk fr
  | .canBusError _ e _ => e.lec != 0#3 && e.lec != 7#3
  | .xipRead _ _ _ blk _ => blk.length == 32
  | .registerWrite _ a m _ => a.toNat % 4 == 0 && m != 0#4
  | .tickBoundary | .commitWindowOpen | .tkcBudgetWarn _ _ | .tkcCbar _ _ | .cbarDrainComplete _ _ => true
  | .clStore _ _ _ _ | .clearQueueStore _ _ _ _ | .tkcRun _ | .tkcQuotaWrite _ _ _ | .tcntLRead _ _ => true
  | .rebindRequest _ _ | .rebindAttempt | .rebindTimeout | .shadowRefillDone _ _ | .pairStore _ _ _ _ => true
  | .stateMemoryStore _ _ _ _ | .limpResultStore _ _ _ _ | .uncEccAccess _ _ _ | .pairReplay _ _ _ _ => true
  | .prcPermFault _ _ _ | .mirrorTransferDone _ _ | .prcStart _ | .prcHoreq _ _ | .handoverTakeEffect => true
  | .prcSplit _ | .prcRejoin _ | .leaseAcquire _ _ | .leaseRenew _ _ | .leaseRelease _ _ | .leaseRevoke _ _ => true
  | .leaseExpire _ | .engPermFault _ _ | .evrTopRead _ _ _ | .evrPendRead _ _ _ _ | .passComplete _ => true
  | .passBudgetAbort | .engineRerun _ | .nop _ | .endP _ | .bru _ | .loop _ | .fenceC _ | .fenceR _ => true
  | .fenceS _ | .evt _ | .lds _ | .sts _ | .ldx _ | .str _ | .ldt _ | .ldc _ | .stc _ | .fadd _ | .fsub _ => true
  | .fmul _ | .fma _ | .fnma _ | .fmin _ | .fmax _ | .fabs _ | .fneg _ | .fclamp _ | .fcmp _ | .frcp _ => true
  | .frsq _ | .fcvt _ | .qadd _ | .qmul _ | .qmac _ | .qshr _ | .qsat _ | .qcvt _ | .sincos _ | .atan2 _ => true
  | .wrap _ | .tlu _ | .hys _ | .clk3 _ | .prk _ | .iprk _ | .svm _ | .pis _ | .msel _ | .lpf _ | .bcast _ => true
  | .shfl _ | .reduce _ | .laneid _ | .inj _ | .cap _ | .trap _ | .igStart _ _ _ | .igStop _ _ _ => true
  | .igPrbsAdvance _ | .engIgDone _ | .carrierUpdatePoint _ _ | .modEdge _ | .deadTimeExpire _ _ _ => true
  | .statusInputEdge _ _ _ _ | .confirmTimeout _ _ _ | .stuckGate _ _ _ | .samplingInstant _ _ | .modUndiag _ => true
  | .diagPulseInsert _ | .debugHalt _ _ | .timebaseLoss _ | .fltFall _ _ | .fltRise _ _ | .fltHard _ _ => true
  | .faultPollRepeat _ _ | .periodicPoll _ | .statusRequest _ _ _ | .edgeProfile _ _ _ => true
  | .configurationFrame _ _ | .pollReply _ _ _ _ | .pollComplete _ _ | .ascTurnOn _ _ | .ascVerifyTimeout _ _ => true
  | .safRelease _ | .holdLeaveComplete _ _ | .holdLeaveTimeout _ _ | .mainResult _ _ _ | .fastResult _ _ _ => true
  | .bsckLost _ _ | .bsckRecover _ _ | .calRequest _ _ | .calTimeout | .reliefStart | .reliefCompare _ _ => true
  | .filterSelftestDone _ _ _ | .sarSeqStart _ _ _ | .sarSeqGo _ _ | .sarUrgentRequest _ _ _ => true
  | .sarSlotResult _ _ _ | .sarRefSettled _ | .fbPinEdge _ _ _ | .fbEdgeAccept _ _ | .cmpPulseEnd _ _ => true
  | .fbStandstill _ _ | .fbkLposRead _ _ | .serialReadStart _ _ | .serialReading _ _ _ | .recap _ | .cmpArm _ => true
  | .cmpDisarm _ | .emOutputEdge _ _ | .fbkPlsTmo _ _ | .auxClassify _ | .auxBrakeEnd _ | .auxLock _ => true
  | .auxStartFail _ _ | .auxBackoffExpire _ | .stoPinFall _ _ | .stoPinRise _ _ | .safStoDisc _ => true
  | .safeInputDemand _ _ _ _ | .sinDiscrepancy _ _ | .soutSet _ _ | .soutTestPulse _ _ => true
  | .soutFault _ _ | .sbcDeenergise _ _ | .ss1Expire _ _ | .grpreqClear _ | .grpreqHold _ | .grpreqAsc _ => true
  | .grpreqAllOff _ | .grpreqSto _ | .grpreqSs1Start _ | .grpreqSs1Stop _ | .safReqErr _ | .safFrozen => true
  | .safUnfreeze | .latchClearStodisc | .latchClearSind _ | .latchClearSoutf _ | .latchClearDisflt => true
  | .dischargeStart | .dischargeStop | .dischDone | .dischFault _ | .tickSignatureSend _ | .spnLock => true
  | .spnHoldover _ | .timeResyncStep | .statusSignatureSend _ | .asyncSend _ _ _ | .rxRecordLoad _ _ _ => true
  | .txqStoreComplete _ _ | .spnTxqWp _ _ _ | .spnRxqRp _ _ _ | .linkLoss _ _ | .spnLinkUp _ _ _ => true
  | .spnMemberLost _ | .announce _ _ | .ringForm _ | .leadTakeover | .leadHandoff | .spnJoin _ => true
  | .joinSignature _ _ _ | .memberAdmit | .spnLeave | .leaveEffect _ | .spnPlock | .canTxDoorbell _ _ _ _ => true
  | .canTxComplete _ _ | .canTxFail _ _ _ | .canBorec _ | .canRecovered _ _ | .canFlush _ _ | .canRxrp _ _ _ => true
  | .canDetreq _ _ _ | .canDetWindow _ _ _ | .qspDbwp _ _ _ | .qspResume _ | .qspTransactionStart _ _ => true
  | .qspTransactionDone _ _ _ _ | .qspMmf _ _ | .qspTargetSelect _ _ _ | .qspTargetRelease _ _ => true
  | .qspTrp _ _ _ | .truInstallKey _ | .truPresentToken _ | .truLeaveService _ | .truStageBytes _ | .truSeal _ => true
  | .truOpenManifest _ | .truSwitch _ | .truReportOk _ | .truReportFailed _ | .truCommit _ | .truAbort _ => true
  | .truRollback _ | .truWriteCalRecord _ | .truLoadPair _ | .truCmdInvalid _ | .truCmdDone _ => true
  | .lcreqProvisioned | .lcreqField | .lcreqReturn | .lcreqScrapped | .returnEraseDone _ | .truRevoke _ => true
  | .truTokenEnd _ | .truProbTimeout | .gathTimeout _ | .memtestVisit _ _ _ | .blockTestRequest _ _ => true
  | .blockTestDone _ _ | .tstPad _ _ | .tstScanEnter | .resetAssert _ _ | .resetRelease _ => true
  | .bootComplete _ | .pwrBankBor _ _ | .okAccept _ _ _ | .hoReturnStart _ | .hoSwitch _ _ | .pwrHoDone _ => true
  | .thermAssert _ _ _ | .thermRelease _ _ _ _ _ | .debugResume _ | .safeInputDemandEnd _ _ => true
  | .safeStateWaitTimeout _ _ | .carrierPeriodStart _ _ | .joinTimeout _ | .gathRollbackTimeout _ => true
  | .singleBitEccError _ => true

end Sys2Proof
end

