-- ==== Sys2Proof/Tests/Slice0.lean ====
section
/-! SUPPORT. Tests: ill-formed commands, a few single commands with results that the spec states, and for every
statement with hypotheses theorems `met_<statement>`, one for each part of a statement of several, that show, clause by
clause, a state and operands that meet them. -/

set_option Elab.async false

namespace Sys2Proof.Tests
open Sys2Proof Sys2Proof.Machine Sys2Proof.Claim

/-! ### States that the witnesses are built from -/

/-- A field of the live page, of the acting page, and of a word set. -/
def lv (f : Fld) (v : Nat) (s : State) : State := setLive f.reg (f.put v (live s f.reg)) s
def av (f : Fld) (v : Nat) (s : State) : State :=
  { s with act := SMap.set regReset s.act f.reg (f.put v (act s f.reg)) }
def fw (f : Fld) (v : Nat) (w : Word) : Word := f.put v w
/-- The tick runs; AP0 and SV run in lockstep. -/
def w0 : State :=
  setFld (PRC_STAT_STATE 6) 1 (setFld (PRC_STAT_STATE 0) 1
    (updTick (fun k => { k with run := .running, next := 1000000 }) State.reset))
def ap0 : Who := ⟨0, false⟩
def sv6 : Who := ⟨6, false⟩
/-- A late instant. -/
def late : Time := 1000000000000
/-- Leg 0 is enabled in group 0, which is not held, its status inputs high. -/
def wLeg (f : LegSt → LegSt) : State :=
  updLeg 0 (fun x => f { x with h := { x.h with cfm := true }, l := { x.l with cfm := true } })
    (updGrp 0 (fun g => { g with hold := false, step := 0 }) (av (MOD_LEG_CFG_EN 0) 1 w0))
/-- The profile bus of cluster 0 runs. -/
def wBus (f : ClSt → ClSt) : State := updCl 0 f (av (GLK_CL_CFG_PBEN 0) 1 (wLeg id))
/-- A lease request of an operation on a class, and the state in which AP0 holds that lease in slot 0. -/
def lreq (op c : Nat) : Word := fw PRC_LREQ_OP op (fw PRC_LREQ_CLASS c (fw PRC_LREQ_TERM 5 0))
def wLease (c : Nat) : State := setReg (PRC_LSLOT 0) (slotWord ap0 (lreq 0 c)) w0
/-- Duty 0 is AP0's, with AP1 as its ready standby. -/
def wDuty : State :=
  setFld (PRC_STAT_STATE 1) 1 (setFld (PRC_DUTY_CFG_EN 0) 1 (setFld (PRC_DUTY_CFG_SREADY 0) 1
    (setFld (PRC_DUTY_CFG_STBY 0) 1 (setFld (PRC_DUTY_CFG_PRIM 0) 0 w0))))
/-- AP1 holds the duty's mirror at the start of its data TCM. -/
def wMir : State := setFld (PRC_DUTY_SIZE_SIZE 0) 16 wDuty
def wHo (k d p : Nat) (s : State) : State := updPrc (fun r => { r with ho := some ⟨k, d, p, 0⟩ }) s
def horeq : Word := fw PRC_HOREQ_GO 1 (fw PRC_HOREQ_PAIR 1 0)
/-- The engine runs pass 0 on two lanes, and the attempt's next instruction is `op` with fields `e`. -/
def wEng (op : Nat) (e : EngWord) (p : PassSt) : State :=
  updEng (fun x => { x with run := some p }) (lv (ENG_RT_A_COUNT 0) 2
    (lv (ENG_RT_B_LEN 0) 16 (lv (ENG_RT_B_BUDGET 0) 1000 (wrBytes 0x44000000 (leBytes 8 (engWord op e)) w0))))
/-- The fields of an instruction. -/
def ew (vd va vb vc : BitVec 5) (md : BitVec 3) (imm : Word) : EngWord := ⟨vd, va, vb, vc, 0, md, imm⟩
def p0 : PassSt := {}
/-- A BSI channel, a SAR sequence, a feedback port in a mode, a CAN controller and a serial port, each number 0 but the
last. -/
def wCh : State := lv (BSI_CH_CFG_EN 0) 1 w0
def wSar (f : SarSt → SarSt) : State := updSar 0 f (lv (SAR_SEQ_CFG_EN 0) 1 w0)
def wPort (mode : Nat) (f : PortSt → PortSt) : State :=
  updPort 0 f (lv (FBK_P_CFG_EN 0) 1 (lv (FBK_P_CFG_MODE 0) mode w0))
def wCan (f : CanSt → CanSt) : State := updCan 0 f (lv (CAN_CFG_EN 0) 1 (lv (CAN_CFG_MODE 0) 0 w0))
def wQsp (p : Nat) (f : QspSt → QspSt) : State := updQsp p f (lv (QSP_CFG_EN p) 1 w0)
/-- Words of bobbin 0's state memory. -/
def wAux (ws : List (Nat × Word)) : State :=
  ws.foldl (fun s e => updCell e.1 (fun c => { c with com := e.2 }) s) w0
/-- Bobbin 0's lane has run in this tick and keeps `v`. -/
def wLane (v : AuxVars) (ws : List (Nat × Word)) : State := updAux 0 (fun x => { x with new := some v }) (wAux ws)
/-- The group's HELD_NOW, as bobbin 0's supply word 6 names sample word 0, reads 1. -/
def held (s : State) : State := updEng (fun x => { x with sample := [(0, 1#32)] }) s
/-- A safe input with a FUNC, a running discharge, and a safe output. -/
def wSin (fn : Nat) (f : SinSt → SinSt) : State :=
  updSin 0 f (lv (SAF_SIN_CFG_EN 0) 1 (lv (SAF_SIN_CFG_FUNC 0) fn (lv (SAF_SIN_GRP_GROUPS 0) 1
    (updSaf (fun x => { x with sstate := 1 }) w0))))
def wDis : State := setFld SAF_DIS_ST_STATE 1 (updSaf (fun x => { x with sstate := 1, disN := 255 }) w0)
def wOut (f : SoutSt → SoutSt) : State :=
  updSout 0 f (lv (SAF_SOUT_CFG_EN 0) 1 (updSaf (fun x => { x with sstate := 1 }) w0))
/-- The spine, ports 0 and 1 enabled with their links up, member 1 in the ring. -/
def wSpn (f : SpnSt → SpnSt) : State :=
  updSpn f (updLink 0 (fun x => { x with up := true }) (updLink 1 (fun x => { x with up := true })
    (updMemb 1 (fun m => { m with isMember := true, granted := 1, credit := [(0, 9)] })
      (lv SPN_CTRL_EN 1 (lv SPN_CTRL_PEN 3 w0)))))
/-- A broadcast signature of member 1 of a KIND, on port 1, with good check codes. -/
def hdr1 (kind : BitVec 2) (n : Nat) : Header := 
  Machine.sealed ⟨kind, true, false, 0, false, 0, 1, BitVec.ofNat 12 n, 0, 0, 0, false, 0⟩
def sig1 (kind : BitVec 2) (bs : List Byte) : Sig :=
  ⟨1, hdr1 kind bs.length, bs, sigCrc (hdr1 kind bs.length) bs, false⟩
def peer2 : Peer := ⟨2, 0, 0, 0, 0, 0, 0, 0⟩
/-- A TRU command word, and command data of a length at the start of system SRAM. -/
def tcmd (op part : Nat) : Word := fw TRU_CMD_GO 1 (fw TRU_CMD_OP op (fw TRU_CMD_PART part 0))
def wTru (n : Nat) : State := setReg TRU_CMDADDR 0x20000000#32 (setReg TRU_CMDLEN (BitVec.ofNat 32 n) w0)
/-- A gathering is open in a STATE; a life-cycle state; the supplies with hand-over enabled. -/
def wGath (st : Nat) : State := setFld TRU_GATH_ID 1 (setFld TRU_GSTAT_STATE st (wTru 0))
def wLc (n : Nat) (f : TruSt → TruSt) : State := updTru f (setFld TRU_LC_STATE n w0)
def wPwr (f : PwrSt → PwrSt) : State := updPwr f (lv PWR_CTRL_HOEN 1 w0)
/-- The debug port acts: no image runs, in the first life-cycle state. -/
def wDbg : State := setFld TRU_BOOTST_CAUSE 2 (setFld TRU_LC_STATE 1 w0)
/-- The boot ROM runs. -/
def wBoot (s : State) : State := updPwr (fun p => { p with booting := true, inReset := false }) s
/-- A SAF shadow page that is ready. -/
def wSafe : State :=
  setShad SAF_CTRL (fw SAF_CTRL_HBT 2 (shad w0 SAF_CTRL)) (setShad SAF_STO (fw SAF_STO_SDISC 5 (shad w0 SAF_STO))
    (forAll (List.range 16) (fun g x => setShad (SAF_SS1T g) (fw (SAF_SS1T_SS1T g) 5 (shad x (SAF_SS1T g))) x) w0))
/-- The next state of an outcome. -/
def isNext (o : Host.Outcome State Fault Refusal) : Bool := match o with | .next _ => true | _ => false
def nextOf (o : Host.Outcome State Fault Refusal) : State := match o with | .next t => t | _ => State.reset
theorem eq_next_nextOf (o : Host.Outcome State Fault Refusal) (h : isNext o = true) : o = .next (nextOf o) := by
  cases o with
  | next t => rfl
  | fault r => cases h
  | refused r => cases h
/-- The row of a register. -/
def rowAt (a : Nat) : RegRow := (regRow? a).getD ⟨0, 0, 0, 0, 0, 0, 0, 0, 0, 0, 0, 0, 0, 0⟩
/-- Port 1 carries the class SPN-PEER under the lock. -/
def peerP (s : State) : State := setFld SPN_PLOCK_LOCK 1 (setFld (SPN_PCLS_CLASS 2) 2 s)
/-- Both key slots hold words that cannot be corrected, so that no key is valid. -/
def noKeys (s : State) : State :=
  { s with eccBad := [((keyAt 0 + 256) / 8, true), ((keyAt 1 + 256) / 8, true)] }
theorem endCount_lt : endCount (wEng 1 (ew 0 0 0 0 0 0) { p0 with ended := some 20 }) { p0 with ended := some 20 } 20 <
    passBudget (wEng 1 (ew 0 0 0 0 0 0) { p0 with ended := some 20 }) 0 := by
  have h : passBudget (wEng 1 (ew 0 0 0 0 0 0) { p0 with ended := some 20 }) 0 = 1000 := by decide +kernel
  rw [h]
  show 21 + Config.freeTime _ % (30 - 21) < 1000
  omega
/-- Operands of PIS that are all finite. -/
theorem ones_finite : ∀ w ∈ [0#32, 0#32, 0#32, 0#32, 0x3F800000#32, 0#32], isFin w = true := by
  intro w h
  simp only [List.mem_cons, List.not_mem_nil, or_false] at h
  rcases h with h | h | h | h | h | h <;> subst h <;> decide +kernel

/-! ### Well-formed commands: each check refuses a command that breaks it -/

def hdr (kind : BitVec 2) (len : BitVec 12) (bc : Bool) : Header :=
  { (sig1 kind []).hdr with len := len, bc := bc }
def sigOf (kind : BitVec 2) (len : BitVec 12) (bc : Bool) (n : Nat) : Sig :=
  ⟨1, hdr kind len bc, List.replicate n 0, 0, false⟩
theorem test_wf_tick_signature : (Instr.tickSignature (sigOf 0 48 true 48) 0).wf = true := by decide
theorem test_ill_formed_tick_kind : (Instr.tickSignature (sigOf 1 48 true 48) 0).wf = false := by decide
theorem test_ill_formed_tick_unicast : (Instr.tickSignature (sigOf 0 48 false 48) 0).wf = false := by decide
theorem test_ill_formed_tick_length : (Instr.tickSignature (sigOf 0 40 true 40) 0).wf = false := by decide
theorem test_ill_formed_status_length :
    (Instr.statusSignature (sigOf 1 24 true 24) 0).wf = false ∧
    (Instr.statusSignature (sigOf 1 104 true 104) 0).wf = false := by decide
theorem test_ill_formed_periodic_length : (Instr.periodicSignature (sigOf 1 520 true 520) 0).wf = false := by decide +kernel
theorem test_ill_formed_async_len : (Instr.asyncSignature (sigOf 2 16 true 8) 0).wf = false := by decide
/-- R374, R375: a header whose LEN is no multiple of 8, or above 1,056, or whose HCRC fails, is bad. -/
theorem test_bad_headers :
    hdrBad (Machine.sealed (hdr 3 12 true)) = true ∧ hdrBad (Machine.sealed (hdr 2 1064 true)) = true ∧
    hdrBad { hdr 2 16 true with hcrc := 0 } = true ∧ hdrBad (Machine.sealed (hdr 2 16 true)) = false := by decide +kernel
def frame (ide rtr fdf brs : Bool) (ident : BitVec 29) (dlc : BitVec 4) (n : Nat) : CanFrame :=
  ⟨ide, rtr, fdf, brs, false, ident, dlc, List.replicate n 0, 0⟩
theorem test_wf_can_frame : (Instr.canRxFrame 0 (frame false false true true 5 9 12) 0).wf = true := by decide
theorem test_ill_formed_frame_length : (Instr.canRxFrame 0 (frame false false false false 5 2 3) 0).wf = false := by decide
theorem test_ill_formed_frame_ident : (Instr.canRxFrame 0 (frame false false false false 2048 0 0) 0).wf = false := by decide
theorem test_ill_formed_frame_remote_fd : (Instr.canRxFrame 0 (frame false true true false 5 0 0) 0).wf = false := by decide
theorem test_ill_formed_frame_classic_brs : (Instr.canRxFrame 0 (frame false false false true 5 0 0) 0).wf = false := by decide
theorem test_ill_formed_bus_error :
    (Instr.canBusError 0 ⟨0, false, .frame⟩ 0).wf = false ∧ (Instr.canBusError 0 ⟨7, false, .frame⟩ 0).wf = false := by decide
theorem test_ill_formed_xip_block : (Instr.xipRead ap0 ⟨0x60000000, .sw⟩ false (List.replicate 31 0) 0).wf = false := by decide
theorem test_ill_formed_register_write :
    (Instr.registerWrite ap0 0x40000002 0xF#4 0).wf = false ∧ (Instr.registerWrite ap0 0x40000000 0#4 0).wf = false := by
  decide

/-! ### Single commands -/

/-- The table gives its rows no bits. -/
theorem test_no_table_words : decodeTableWord 32 0 = none := by decide
/-- Binary32 sums: 1 + 2 = 3 with no flag; the largest number twice overflows to +∞ (R164). -/
theorem test_fadd : (fAdd 0x3F800000#32 0x40000000#32).val = 0x40400000#32 := by decide +kernel
theorem test_fadd_overflow : (fAdd 0x7F7FFFFF#32 0x7F7FFFFF#32).val = 0x7F800000#32 := by decide +kernel
/-- R18: a result with no number is the one quiet NaN. -/
theorem test_fadd_infinities : (fAdd 0x7F800000#32 0xFF800000#32).val = 0x7FC00000#32 := by decide +kernel
/-- R58: a quota below SV's least is ignored and QERR is set. -/
theorem test_quota_refused : fld (nextOf (exec (.tkcQuotaWrite 6 0xF#4 31#32) w0)) TKC_STAT_QERR = 1 := by decide +kernel
/-- R42, R495: a store to system SRAM takes effect, low byte at the low address. -/
theorem test_sram_store :
    rdByte (nextOf (exec (.pairStore ap0 0x20000000#32 .sw 0x04030201#32) w0)) 0x20000003 = 4#8 := by decide +kernel
/-- R21: a store to state memory is pending, and the committed copy stays. -/
theorem test_state_store :
    (cell (nextOf (exec (.stateMemoryStore ap0 0x44100004#32 .sw 7#32) w0)) 1).com = 0#32 ∧
    (cell (nextOf (exec (.stateMemoryStore ap0 0x44100004#32 .sw 7#32) w0)) 1).pendVal = 7#32 := by decide +kernel
/-- R230: no gate rises while the other command is high. -/
theorem test_interlock :
    ((leg (nextOf (exec (.deadTimeExpire 0 .high late) (wLeg fun x =>
      { x with h := { x.h with want := some late }, l := { x.l with on := true } }))) 0).h).on = false := by decide +kernel
/-- R75: RUN starts the tick. -/
theorem test_run : (nextOf (exec (.tkcRun 0) State.reset)).tick.run = .starting := by decide +kernel
/-- R368: both STO pins demand at reset. -/
theorem test_reset_sto : State.reset.saf.stoA = true ∧ State.reset.saf.stoB = true := by decide
/-- The memories are in canonical form after reset, and no gate is on. -/
theorem test_reset_memories : MemWf State.reset := by decide
theorem test_reset_no_shoot_through : NoShootThrough State.reset := fun _ h =>
  absurd (show false = true from h.1) (by decide)

/-- R501: the spec's own example, the FBK and SPN entries of an HZ9605 and the end of the list. -/
theorem test_capability_list :
    [0x40000490, 0x40000494, 0x40000498, 0x4000049C].map (capWord .hz9605) =
      [some 0x00150100#32, some 0x10#32, some 6#32, some 0x844#32] ∧
    [0x400004B0, 0x400004B4, 0x400004B8, 0x400004BC].map (capWord .hz9605) =
      [some 0x00300100#32, some 0x10#32, some 2#32, some 0#32] ∧
    capWord .hz9605 0x40000504 = some 0#32 ∧ capWord .hz9605 0x40000510 = none := by decide
/-- R374's check codes on the nine bytes "123456789", with the check values that the standards of both give. -/
theorem test_check_codes :
    crc32 ((List.range 9).map fun k => BitVec.ofNat 8 (0x31 + k)) = 0xCBF43926 ∧
    crc16 ((List.range 9).map fun k => BitVec.ofNat 8 (0x31 + k)) = 0x29B1 := by decide +kernel
/-- R36: TCNT_L gives the low half of the tick number. -/
theorem test_tcnt : (unit (nextOf (exec (.tcntLRead ap0 false) (updTick (fun k => { k with tcnt := 7 }) w0))) 0).rdata = 7#32 := by
  decide +kernel
/-! ### Witnesses for the engine's forms: at each word the attempt of `wEng` issues it on two lanes -/

/-- The attempt of `wEng` issues the word, and its two lanes write. -/
abbrev IssuesHere (x : Nat × EngWord × Form) : Prop :=
  IssuesAt x.1 x.2.1 x.2.2 (wEng x.1 x.2.1 p0) p0 ∧ writing (wEng x.1 x.2.1 p0) p0 x.2.1 = [0, 1]
/-- A sample instruction on vector registers. -/
def e0 : EngWord := ew 2 4 6 8 0 0
def e1 : EngWord := ew 2 4 6 0 0 0
def e2 : EngWord := ew 2 4 0 0 0 0
def e3 : EngWord := ew 2 4 0 0 0 5
def e4 : EngWord := ew 2 0 0 0 0 0
def e5 : EngWord := ew 2 4 0 0 0 3
def e7 : EngWord := ew 2 0 0 0 0 3
def e8 : EngWord := ew 2 0 0 0 2 3
theorem met_EngineFloatingPointRuns_forms : ∀ x ∈ ([
    (0x10, e1, fp2Form e1 3), (0x11, e1, fp2Form e1 3), (0x12, e1, fp2Form e1 3), (0x15, e1, fp2Form e1 2),
    (0x16, e1, fp2Form e1 2), (0x13, e0, fp3Form e0 4), (0x14, e0, fp3Form e0 4), (0x19, e0, fp3Form e0 2),
    (0x17, e2, fp1Form e2 2), (0x18, e2, fp1Form e2 2), (0x1B, e2, fp1Form e2 8), (0x1C, e2, fp1Form e2 8),
    (0x1D, e2, { ok := mVal e2 < 2, vd := .v, va := .v, lat := 3 })] : List (Nat × EngWord × Form)),
    IssuesHere x := by decide +kernel
theorem met_EngineFixedFunctionAndLaneRuns_forms : ∀ x ∈ ([
    (0x20, e1, qForm e1 (mVal e1 < 4) false 2), (0x21, e1, qForm e1 (mVal e1 == 0 || mVal e1 == 2) false 3),
    (0x22, e0, qForm e0 (mVal e0 < 4) true 4), (0x23, e3, qShiftForm e3 (mVal e3 < 2) 2),
    (0x24, e3, qShiftForm e3 (mVal e3 == 0 && immBits e3 0 5 != 31) 2), (0x25, e3, qShiftForm e3 (mVal e3 < 2) 3),
    (0x28, e2, { ok := mVal e2 == 0, vd := .dst 2 true, va := .v, lat := 6 }),
    (0x29, e1, { ok := mVal e1 == 0, vd := .v, va := .v, vb := .v, lat := 10 }),
    (0x2A, e2, { ok := mVal e2 < 3, vd := .v, va := .v, imm := if mVal e2 = 2 then fullImm else 0, lat := 3 }),
    (0x2B, e2, { ok := mVal e2 < 2, vd := .v, va := .v, imm := 0x3F, lat := 5 }), (0x38, e2, bcastForm e2),
    (0x39, e1, { ok := mVal e1 < 3, vd := .v, va := .v, vb := if mVal e1 = 0 then .v else .none
                 imm := if mVal e1 = 0 then 0 else 0x1F, lat := 3 }),
    (0x3A, e2, { ok := mVal e2 < 3, vd := .v, va := .v, lat := 6 }),
    (0x3B, e4, { ok := mVal e4 < 2, vd := .v, lat := 1 }),
    (0x3C, e2, { ok := mVal e2 == 0, vd := .v, va := .v, imm := 0xFF, lat := 3 })] : List (Nat × EngWord × Form)),
    IssuesHere x := by decide +kernel
/-- TLU and HYS where table 0 is valid. -/
theorem met_tables_valid :
    IssuesAt 0x2B e2 { ok := mVal e2 < 2, vd := .v, va := .v, imm := 0x3F, lat := 5 }
      (lv (ENG_TD_A_VALID 0) 1 (wEng 0x2B e2 p0)) p0 ∧
    IssuesAt 0x2C e0 { ok := mVal e0 == 0, vd := .v, va := .v, vb := .v, vc := .v, imm := 0x01FF003F, lat := 6 }
      (lv (ENG_TD_A_VALID 0) 1 (wEng 0x2C e0 p0)) p0 ∧
    lflag (lv (ENG_TD_A_VALID 0) 1 (wEng 0x2B e2 p0)) (ENG_TD_A_VALID (immBits e2 0 6)) = true ∧
    lflag (lv (ENG_TD_A_VALID 0) 1 (wEng 0x2C e0 p0)) (ENG_TD_A_VALID (immBits e0 0 6)) = true := by decide +kernel
theorem met_EnginePrimitivesRun_forms : ∀ x ∈ ([
    (0x30, e0, { ok := mVal e0 < 2, vd := .dst 2 true, va := .v, vb := .v
                 vc := if mVal e0 = 0 then .v else .none, lat := 4 }),
    (0x31, e0, parkForm e0), (0x32, e0, parkForm e0),
    (0x33, e0, { ok := mVal e0 < 4, vd := .dst 3 false, va := .v, vb := .v, vc := .v, lat := 8 }),
    (0x35, e5, { ok := mVal e5 == 0 && decide (2 ≤ immBits e5 0 4) && decide (immBits e5 0 4 ≤ 8)
                 vd := .dst 2 false, va := .src (immBits e5 0 4), imm := 0xF, lat := 4 }),
    (0x34, e0, { ok := mVal e0 < 2, vd := .v, va := .v, vb := .src 2, vc := .src 2, imm := 0x1FF, lat := 6 }),
    (0x36, e1, { ok := mVal e1 < 2, vd := .v, va := .v, vb := .v, imm := 0x1FF, lat := 4 })] :
      List (Nat × EngWord × Form)), IssuesHere x := by decide +kernel
theorem met_EngineLoadsAndStores_loads :
    (∀ x ∈ ([(0x08, e7, memForm e7 true true), (0x08, e8, memForm e8 true true), (0x0A, e7, memForm e7 true false),
      (0x0C, e7, memForm e7 true false), (0x0D, e7, memForm e7 true false)] : List (Nat × EngWord × Form)),
      IssuesHere x) ∧ mBit e7 1 = false ∧ mBit e8 1 = true ∧
    (∀ l ∈ [0, 1], (stateIndex (wEng 0x08 e7 p0) e7 p0 l).isSome = true ∧
      (stateIndex (wEng 0x08 e8 p0) e8 p0 l).isSome = true ∧ memIndex e7 p0 l < 1024) ∧ p0.flight = [] := by decide +kernel

/-! ### Witnesses, one conjunct for each clause of the statement -/

theorem met_StepRunsFrontCommand_StepRunsFrontCommand :
    (∃ (c : Instr) (r : List Instr) (s : State), (s.pending = c :: r)) ∧
    (∃ (s : State), (s.pending = [])) :=
  ⟨⟨.tickBoundary, [], { State.reset with pending := [.tickBoundary] }, rfl⟩,
   ⟨State.reset, rfl⟩⟩

theorem met_BoundariesStartAndCountTheTick_BoundaryCountsTheTick :
    (∃ (s : State), (s.tick.run = .running) ∧ (s.spn.role ≠ 3)) :=
  ⟨w0, by decide +kernel⟩

theorem met_CommitTakesThePendingCopy :
    (∃ (s : State), (SMap.wf cellD s.eng.cells = true) ∧ (s.tick.run = .running) ∧ (s.tick.cw = true) ∧ (attemptDue
      s = false) ∧ (s.tick.flipped.getLsbD 2 = false)) ∧
    (∃ (c : Cell) (r : Nat) (v : Word), ((r, v) ∈ c.units) ∧ (∀ q ∈ c.units, q.1 < r ∨ q = (r, v))) ∧
    (∃ (c : Cell) (v : Word) (p : Nat), (c.units = []) ∧ (c.eng = some (v, p))) ∧
    (∃ (c : Cell), (c.units = []) ∧ (c.eng = none)) :=
  ⟨⟨updTick (fun k => { k with cw := true }) w0, by decide +kernel⟩,
   ⟨{ units := [(0, 7#32), (1, 5#32)] }, 1, 5#32, by decide +kernel⟩,
   ⟨{ eng := some (5#32, 0) }, 5#32, 0, by decide +kernel⟩,
   ⟨{ com := 5#32 }, by decide +kernel⟩⟩

theorem met_BoundariesStartAndCountTheTick_StartFailsWhenNotReady :
    (∃ (s : State), (s.tick.run = .starting) ∧ (notReady (upto s.tick.next s) (BitVec.allOnes 13) ≠ 0)) :=
  ⟨setShad ENG_CAPSIZE 0#32 (updTick (fun k => { k with run := .starting }) w0), by decide +kernel⟩

theorem met_TheCommitWindowHoldsTheLast_HoldLastRestoresTheCheckpoint :
    (∃ (s : State), (ticking s = true) ∧ (s.tick.cw = false)) :=
  ⟨w0, by decide +kernel⟩

theorem met_TheCommitWindowHoldsTheLast_BudgetAndBarrier :
    (∃ (u : Fin 8) (k : Nat) (t : Time) (s : State), (ticking s = true) ∧ (hasUnit s u.val = true) ∧ (pastBudget s
      u.val t = true) ∧ (k ∈ runKeys s u.val) ∧ (inFirstRun s k = true)) ∧
    (∃ (w : Who) (s : State), (working s w = true)) ∧
    (∃ (w : Who) (s : State), ((unit s w.key).phase = .drain)) :=
  ⟨⟨0, 0, late, updUnit 0 (fun u => { u with first := true }) w0, by decide +kernel⟩,
   ⟨ap0, w0, by decide +kernel⟩,
   ⟨ap0, updUnit 0 (fun u => { u with phase := .drain }) w0, by decide +kernel⟩⟩

theorem met_TickRegistersFollowTheirRules_CounterReadCapturesUpperHalf :
    (∃ (w : Who) (s : State), (goes s w .load (BitVec.ofNat 32 TKC_TCNT_L) 4 = true)) ∧
    (∃ (w : Who) (s : State), (goes s w .load (BitVec.ofNat 32 TKC_RBDONE_L) 4 = true) ∧ ((unit s w.key).snap = [])) ∧
    (∃ (w : Who) (t : Time) (s : State), (goes (upto t s) w .load (BitVec.ofNat 32 TKC_TCNT_H) 4 = true)) ∧
    (∃ (w : Who) (t : Time) (s : State), (goes (upto t s) w .load (BitVec.ofNat 32 TKC_RBDONE_H) 4 = true)) :=
  ⟨⟨ap0, w0, by decide +kernel⟩,
   ⟨ap0, w0, by decide +kernel⟩,
   ⟨ap0, 0, w0, by decide +kernel⟩,
   ⟨ap0, 0, w0, by decide +kernel⟩⟩

theorem met_TickRegistersFollowTheirRules_RunAndQuota :
    (∃ (s : State), (s.tick.run = .stopped) ∧ (s.pwr.inReset = false)) ∧
    (∃ (u : Fin 7) (m : Mask) (d : Word) (s : State), (hasUnit s u.val = true) ∧ (192 < quotaSum (putCl (TKC_QUOTA
      u.val) (clWord s (TKC_QUOTA u.val) m d) s) ∨ (u.val = 6 ∧ (TKC_QUOTA_QUOTA 6).of (clWord s (TKC_QUOTA 6) m d) <
      32))) ∧
    (∃ (u : Fin 7) (m : Mask) (d : Word) (s : State), (hasUnit s u.val = true) ∧ (quotaSum (putCl (TKC_QUOTA u.val)
      (clWord s (TKC_QUOTA u.val) m d) s) ≤ 192) ∧ (u.val = 6 → 32 ≤ (TKC_QUOTA_QUOTA 6).of (clWord s (TKC_QUOTA 6) m
      d)) ∧ ((TKC_QUOTA_QUOTA u.val).of (clWord s (TKC_QUOTA u.val) m d) < dutyQuota s u.val 16)) ∧
    (∃ (u : Fin 7) (m : Mask) (d : Word) (s : State), (hasUnit s u.val = true) ∧ (quotaSum (putCl (TKC_QUOTA u.val)
      (clWord s (TKC_QUOTA u.val) m d) s) ≤ 192) ∧ (u.val = 6 → 32 ≤ (TKC_QUOTA_QUOTA 6).of (clWord s (TKC_QUOTA 6) m
      d)) ∧ (dutyQuota s u.val 16 ≤ (TKC_QUOTA_QUOTA u.val).of (clWord s (TKC_QUOTA u.val) m d))) :=
  ⟨⟨State.reset, by decide +kernel⟩,
   ⟨6, 0xF#4, 0#32, w0, by decide +kernel⟩,
   ⟨0, 0xF#4, 5#32, (setFld (PRC_DUTY_CFG_QUOTA 0) 20 wDuty), by decide +kernel⟩,
   ⟨6, 0xF#4, 32#32, w0, by decide +kernel⟩⟩

theorem met_RebindingFlipsAllOrNone_RebindRequestAcceptedOrRejected :
    (∃ (m : Mask) (d : Word) (s : State) (v : Word) (n : Nat), (v = clWord s TKC_RBREQ m d) ∧ (n = (reg s
      TKC_RBTICK_H).toNat * 2 ^ 32 + (reg s TKC_RBTICK_L).toNat) ∧ (ticking s = true) ∧ (m.getLsbD 3 = true) ∧
      (TKC_RBREQ_GO.of v = 1) ∧ (s.prc.svStopped = false) ∧ (rbCode s n (TKC_RBREQ_PART.of v) (bits v.toNat 13 18 !=
      0) = 0)) ∧
    (∃ (m : Mask) (d : Word) (s : State) (v : Word) (n : Nat), (v = clWord s TKC_RBREQ m d) ∧ (n = (reg s
      TKC_RBTICK_H).toNat * 2 ^ 32 + (reg s TKC_RBTICK_L).toNat) ∧ (ticking s = true) ∧ (m.getLsbD 3 = true) ∧
      (TKC_RBREQ_GO.of v = 1) ∧ (s.prc.svStopped = false) ∧ (rbCode s n (TKC_RBREQ_PART.of v) (bits v.toNat 13 18 !=
      0) ≠ 0)) :=
  ⟨⟨0xF#4, (fw TKC_RBREQ_GO 1 (fw TKC_RBREQ_PART 2 0)), (setReg TKC_RBTICK_L 5#32 w0), clWord (setReg TKC_RBTICK_L
    5#32 w0) TKC_RBREQ 0xF#4 (fw TKC_RBREQ_GO 1 (fw TKC_RBREQ_PART 2 0)), 5, rfl, by decide +kernel⟩,
   ⟨0xF#4, (fw TKC_RBREQ_GO 1 (fw TKC_RBREQ_PART 2 0)), (setReg TKC_RBTICK_L 0#32 w0), clWord (setReg TKC_RBTICK_L
    0#32 w0) TKC_RBREQ 0xF#4 (fw TKC_RBREQ_GO 1 (fw TKC_RBREQ_PART 2 0)), 0, rfl, by decide +kernel⟩⟩

theorem met_RebindingFlipsAllOrNone_RebindFlipsAllOrNone :
    (∃ (s : State) (x : State), (attemptDue s = true) ∧ (x = capCommit (refillAll (upto s.tick.next (closeWindow
      s)))) ∧ (notReady x s.tick.rbPart ≠ 0)) ∧
    (∃ (s : State) (x : State), (attemptDue s = true) ∧ (x = capCommit (refillAll (upto s.tick.next (closeWindow
      s)))) ∧ (notReady x s.tick.rbPart = 0)) :=
  ⟨⟨(setShad ENG_CAPSIZE 0#32 (setFld TKC_RBSTAT_STATE 1 (updTick (fun k => { k with rbPart := 0x1FFF#13 }) w0))),
    capCommit (refillAll (upto (setShad ENG_CAPSIZE 0#32 (setFld TKC_RBSTAT_STATE 1 (updTick (fun k =>
    { k with rbPart := 0x1FFF#13 }) w0))).tick.next (closeWindow (setShad ENG_CAPSIZE 0#32 (setFld TKC_RBSTAT_STATE 1
    (updTick (fun k => { k with rbPart := 0x1FFF#13 }) w0)))))), by decide +kernel, rfl, by decide +kernel⟩,
   ⟨(setFld TKC_RBSTAT_STATE 1 (updTick (fun k => { k with rbPart := 2#13 }) w0)), capCommit (refillAll (upto (setFld
    TKC_RBSTAT_STATE 1 (updTick (fun k => { k with rbPart := 2#13 }) w0)).tick.next (closeWindow (setFld
    TKC_RBSTAT_STATE 1 (updTick (fun k => { k with rbPart := 2#13 }) w0))))), by decide +kernel, rfl,
    by decide +kernel⟩⟩

theorem met_RebindingFlipsAllOrNone_RebindEnds :
    (∃ (s : State), (fld s TKC_RBSTAT_STATE = 1) ∧ (64 ≤ fld s TKC_RBSTAT_ATTEMPT)) ∧
    (∃ (b : Fin 13) (s : State), (b.val ≠ 2) ∧ (s.tick.copying.getLsbD b.val = true)) ∧
    (∃ (s : State), (s.tick.copying.getLsbD 2 = true)) :=
  ⟨⟨setFld TKC_RBSTAT_ATTEMPT 64 (setFld TKC_RBSTAT_STATE 1 w0), by decide +kernel⟩,
   ⟨1, updTick (fun k => { k with copying := 6#13 }) w0, by decide +kernel⟩,
   ⟨updTick (fun k => { k with copying := 6#13 }) w0, by decide +kernel⟩⟩

theorem met_StoresReachTheirMemories_PairStoreWritesItsBytes :
    (∃ (w : Who) (a : Word) (z : Size) (s : State), (goes s w .store a z.bytes = true) ∧ (target a.toNat = .sram) ∧
      (SMap.get falseD s.eccBad (a.toNat / 8) = false) ∧ (jrnFull s w = false)) ∧
    (∃ (w : Who) (a : Word) (z : Size) (s : State), (goes s w .store a z.bytes = true) ∧ (target a.toNat = .sram) ∧
      (SMap.get falseD s.eccBad (a.toNat / 8) = true) ∧ (jrnFull s w = false)) ∧
    (∃ (w : Who) (a : Word) (z : Size) (s : State) (k : Nat), (goes s w .store a z.bytes = true) ∧ (target a.toNat =
      .tcm (a.toNat % 0x10000000)) ∧ (tcmKey s w (a.toNat % 0x10000000) = some k) ∧ (k % 0x100000 < 0x80000) ∧
      (s.prc.mirq = []) ∧ (jrnFull s w = false)) ∧
    (∃ (w : Who) (a : Word) (z : Size) (s : State) (k : Nat), (goes s w .store a z.bytes = true) ∧ (target a.toNat =
      .tcm (a.toNat % 0x10000000)) ∧ (tcmKey s w (a.toNat % 0x10000000) = some k) ∧ (0x80000 ≤ k % 0x100000) ∧
      (inMirror s w.unit.val (k % 0x80000) = false) ∧ (s.prc.mirq = []) ∧ (jrnFull s w = false)) ∧
    (∃ (w : Who) (a : Word) (z : Size) (s : State) (k : Nat), (goes s w .store a z.bytes = true) ∧ (target a.toNat =
      .tcm (a.toNat % 0x10000000)) ∧ (tcmKey s w (a.toNat % 0x10000000) = some k) ∧ (0x80000 ≤ k % 0x100000) ∧
      (inMirror s w.unit.val (k % 0x80000) = true)) ∧
    (∃ (w : Who) (a : Word) (z : Size) (s : State), (goes s w .store a z.bytes = true) ∧ (target a.toNat = .sram) ∧
      (jrnFull s w = true)) :=
  ⟨⟨ap0, 0x20000000#32, .sw, w0, by decide +kernel⟩,
   ⟨ap0, 0x20000000#32, .sw, { w0 with eccBad := [(0x4000000, true)] }, by decide +kernel⟩,
   ⟨ap0, 0x10000004#32, .sw, w0, 4, by decide +kernel⟩,
   ⟨ap0, 0x10080004#32, .sw, w0, 0x80004, by decide +kernel⟩,
   ⟨⟨1, false⟩, 0x10080004#32, .sw, wMir, 0x180004, by decide +kernel⟩,
   ⟨ap0, 0x20000000#32, .sw, updUnit 0 (fun u => { u with jrn := List.replicate 4096 (.bytes 0 []) }) w0,
    by decide +kernel⟩⟩

theorem met_StoresReachTheirMemories_StateStoreIsPending :
    (∃ (w : Who) (a : Word) (s : State) (k : Nat), (goes s w .store a 4 = true) ∧ (target a.toNat = .state k)) ∧
    (∃ (w : Who) (a : Word) (s : State) (k : Nat), (goes s w .store a 4 = true) ∧ (target a.toNat = .result k) ∧ (k
      < 416) ∧ (s.prc.limp = true) ∧ (w.unit.val = fld s PRC_LIMP_PA ∨ w.unit.val = fld s PRC_LIMP_PB)) :=
  ⟨⟨ap0, 0x44100004#32, w0, 1, by decide +kernel⟩,
   ⟨ap0, 0x441E0004#32, updPrc (fun r => { r with limp := true }) w0, 1, by decide +kernel⟩⟩

theorem met_RegisterStoreGoesWhereItsFieldsSay :
    (∃ (w : Who) (a : Word) (d : Word) (s : State) (r : RegRow), (Reaches s w a r) ∧ (ticking s = true) ∧ (covers
      0xF#4 r.cl = true) ∧ (r.rw = 0) ∧ (r.rwl = 0) ∧ (r.rws = 0) ∧ (Machine.clearMask r = 0) ∧ (regStop s w a.toNat
      0xF#4 d r = none) ∧ (merges s w a.toNat = false)) ∧
    (∃ (w : Who) (a : Word) (d : Word) (s : State) (r : RegRow), (Reaches s w a r) ∧ (ticking s = true) ∧ (covers
      0xF#4 (Machine.clearMask r) = true) ∧ (r.rw = 0) ∧ (r.rwl = 0) ∧ (r.rws = 0) ∧ (r.cl = 0) ∧ (regStop s w a.toNat
      0xF#4 d r = none)) ∧
    (∃ (w : Who) (a : Word) (m : Mask) (d : Word) (s : State) (r : RegRow), (Reaches s w a r) ∧ (ticking s = false)
      ∧ (winOf a.toNat ≠ 2) ∧ (a.toNat ≠ ENG_CAPRP) ∧ (r.rwl = 0) ∧ (r.rws = 0) ∧ (Machine.clearMask r = 0) ∧ (r.cl =
      0) ∧ (maskBits m &&& r.rw ≠ 0) ∧ (regStop s w a.toNat m d r = none)) ∧
    (∃ (w : Who) (a : Word) (m : Mask) (d : Word) (s : State) (r : RegRow), (Reaches s w a r) ∧ (∀ b, winPart (winOf
      a.toNat) = some b → s.tick.copying.getLsbD b = false) ∧ (r.rw = 0) ∧ (r.rwl = 0) ∧ (Machine.clearMask r = 0) ∧
      (r.cl = 0) ∧ (maskBits m &&& r.rws ≠ 0) ∧ (regStop s w a.toNat m d r = none)) :=
  ⟨⟨sv6, (BitVec.ofNat 32 (PRC_HOREQ)), 7#32, w0, rowAt PRC_HOREQ, by decide +kernel⟩,
   ⟨ap0, (BitVec.ofNat 32 (EVR_PEND 0 0)), 7#32, w0, rowAt (EVR_PEND 0 0), by decide +kernel⟩,
   ⟨ap0, (BitVec.ofNat 32 (EVR_THR 0)), 0xF#4, 7#32, updTick (fun k => { k with run := .stopped }) w0, rowAt (EVR_THR
    0), by decide +kernel⟩,
   ⟨sv6, (BitVec.ofNat 32 (EVR_ROUTE 0)), 0xF#4, 7#32, w0, rowAt (EVR_ROUTE 0), by decide +kernel, (by decide),
    by decide +kernel⟩⟩

theorem met_StoppedStoreLeavesTheRegister_StoppedStoreLeavesTheRegister :
    (∃ (w : Who) (a : Word) (m : Mask) (d : Word) (s : State) (r : RegRow) (k : Stop), (Reaches s w a r) ∧ (regStop
      s w a.toNat m d r = some k)) :=
  ⟨ap0, (BitVec.ofNat 32 (EVR_THR 1)), 0xF#4, 7#32, w0, rowAt (EVR_THR 1), .fault, by decide +kernel⟩

theorem met_StoresReachTheirMemories_StalledStoreCompletes :
    (∃ (w : Who) (s : State) (e : Entry), ((unit s w.key).stall = some e) ∧ (e.addr < 4294967296) ∧ (txWaits s
      (e.addr % 0x40000 / 0x10000) (e.addr % 0x10000) = false) ∧ (holds s w 2 (e.addr % 0x40000 / 0x10000) = true) ∧
      (jrnFull s w = false)) :=
  ⟨ap0, setReg (PRC_LSLOT 0) (slotWord ap0 (lreq 0 2)) (updUnit 0 (fun u =>
    { u with stall := some ⟨ap0, 0x48000000, 0, 0xF#4⟩ }) w0), ⟨ap0, 0x48000000, 0, 0xF#4⟩, by decide +kernel⟩

theorem met_TruCommandsStart :
    (∃ (d : Word) (s : State), (TruTakes 1 d s) ∧ (dataIn (cmdAddr s) 256 = true) ∧ (∀ k, k < 2 → keyValid s k =
      true → keySeq s k < leNat ((rdBytes s (cmdAddr s) 256).take 4)) ∧ (slotInUse s (installSlot s) = false)) ∧
    (∃ (d : Word) (s : State), (TruTakes 4 d s) ∧ (partState s (TRU_CMD_PART.of d) ≤ 1) ∧ (dataIn (cmdAddr s)
      (cmdLen s) = true) ∧ ((if partState s (TRU_CMD_PART.of d) = 1 then SMap.get natD s.tru.staged (TRU_CMD_PART.of
      d) else 0) + cmdLen s ≤ partSize (TRU_CMD_PART.of d))) ∧
    (∃ (d : Word) (s : State), (TruTakes 5 d s) ∧ (partState s (TRU_CMD_PART.of d) = 1) ∧ (dataIn (cmdAddr s) 32 =
      true)) ∧
    (∃ (d : Word) (s : State), (TruTakes 7 d s) ∧ (gathOpen s = true) ∧ (partState s (TRU_CMD_PART.of d) = 2) ∧
      (targetFree s (TRU_CMD_PART.of d) = true) ∧ (ticking s = true)) ∧
    (∃ (d : Word) (s : State), (TruTakes 12 d s) ∧ (partState s (TRU_CMD_PART.of d) = 5) ∧ (targetFree s
      (TRU_CMD_PART.of d) = true) ∧ (ticking s = true)) ∧
    (∃ (d : Word) (s : State), (TruTakes 13 d s) ∧ (lcState s = 1 ∨ lcState s = 4) ∧ (dataIn (cmdAddr s) (cmdLen s)
      = true) ∧ (calAt + cmdLen s ≤ 0x31E80000)) ∧
    (∃ (d : Word) (s : State), (TruTakes 14 d s) ∧ (TRU_CMD_PART.of d ≠ 0) ∧ (TRU_CMD_PART.of d ≤ 6) ∧ (hasUnit s
      (TRU_CMD_PART.of d - 1) = true) ∧ (lcState s ≤ 4) ∧ (pairState s (TRU_CMD_PART.of d - 1) = 0)) :=
  ⟨⟨tcmd 1 0, noKeys (wTru 256), by decide +kernel⟩,
   ⟨tcmd 4 0, wTru 64, by decide +kernel⟩,
   ⟨tcmd 5 0, setFld (TRU_PART_STATE 0) 1 (wTru 32), by decide +kernel⟩,
   ⟨tcmd 7 0, setFld (TRU_PART_STATE 0) 2 (wGath 1), by decide +kernel⟩,
   ⟨tcmd 12 0, setFld (TRU_PART_STATE 0) 5 w0, by decide +kernel⟩,
   ⟨tcmd 13 0, setFld TRU_LC_STATE 1 (wTru 64), by decide +kernel⟩,
   ⟨tcmd 14 2, w0, by decide +kernel⟩⟩

theorem met_TruCommandsActOrRefuse_TruCommandsAct :
    (∃ (d : Word) (s : State), (TruTakes 2 d s) ∧ (dataIn (cmdAddr s) 160 = true)) ∧
    (∃ (d : Word) (s : State), (TruTakes 3 d s) ∧ (lcState s = 4)) ∧
    (∃ (d : Word) (s : State), (TruTakes 8 d s) ∧ (gathOpen s = true) ∧ (partState s (TRU_CMD_PART.of d) = 5)) ∧
    (∃ (d : Word) (s : State), (TruTakes 9 d s) ∧ (gathOpen s = true)) ∧
    (∃ (d : Word) (s : State), (TruTakes 10 d s) ∧ (isFollower s = false) ∧ (gathOpen s = true) ∧ (fld s
      TRU_GSTAT_STATE = 2) ∧ (allReports s s.tru.succ = true)) ∧
    (∃ (d : Word) (s : State), (TruTakes 11 d s) ∧ (isFollower s = false) ∧ (gathOpen s = true)) :=
  ⟨⟨tcmd 2 0, wTru 160, by decide +kernel⟩,
   ⟨tcmd 3 0, wLc 4 id, by decide +kernel⟩,
   ⟨tcmd 8 0, setFld (TRU_PART_STATE 0) 5 (wGath 1), by decide +kernel⟩,
   ⟨tcmd 9 0, wGath 1, by decide +kernel⟩,
   ⟨tcmd 10 0, updTru (fun x => { x with succ := 1 }) (wGath 2), by decide +kernel⟩,
   ⟨tcmd 11 0, wGath 1, by decide +kernel⟩⟩

theorem met_TruCommandsActOrRefuse_TruGatheringOpensOrRefuses :
    (∃ (d : Word) (s : State) (m : List Byte), (m = rdBytes s (cmdAddr s) (cmdLen s)) ∧ (TruTakes 6 d s) ∧ (dataIn
      (cmdAddr s) (cmdLen s) = true) ∧ (fld s TRU_GATH_ID = 0) ∧ (isFollower s = false)) ∧
    (∃ (d : Word) (s : State), (TRU_CMD_GO.of d = 1) ∧ (TRU_CMD_OP.of d = 0 ∨ TRU_CMD_OP.of d = 15) ∧ (s.tru.run =
      none) ∧ (s.tru.auto_ = none)) ∧
    (∃ (d : Word) (s : State), (TRU_CMD_GO.of d = 1) ∧ (s.tru.run.isSome = true)) :=
  ⟨⟨tcmd 6 0, wTru 80, rdBytes (wTru 80) (cmdAddr (wTru 80)) (cmdLen (wTru 80)), rfl, by decide +kernel⟩,
   ⟨tcmd 15 0, w0, by decide +kernel⟩,
   ⟨tcmd 5 0, updTru (fun x => { x with run := some ⟨1, 0, 0, 0, 0, 9, []⟩ }) w0, by decide +kernel⟩⟩

theorem met_TruTimedEnds_TruCommandEnds :
    (∃ (t : Time) (s : State) (r : TruRun), (s.tru.auto_ = none) ∧ (s.tru.run = some r) ∧ (r.endAt ≤ t)) :=
  ⟨9, updTru (fun x => { x with run := some ⟨1, 0, 0, 0, 0, 9, []⟩ }) w0, ⟨1, 0, 0, 0, 0, 9, []⟩, by decide +kernel⟩

theorem met_TruTimedEnds_TruTimedEnds :
    (∃ (t : Time) (e : Time) (s : State), (s.tru.service = some e) ∧ (e ≤ t) ∧ (lcState s = 4)) ∧
    (∃ (t : Time) (e : Time) (s : State), (s.tru.debug = some e) ∧ (e ≤ t)) ∧
    (∃ (s : State), (partState s 0 = 5) ∧ (s.tru.auto_ = none) ∧ (ticking s = true) ∧ (s.prc.svFaulted = true ∨
      s.tru.svOk = false ∧ s.tru.svStart + fld s TRU_PROBT_VALUE ≤ s.tick.count)) ∧
    (∃ (t : Time) (a : Time) (s : State), (s.tru.aloneAt = some a) ∧ (s.spn.role = 0) ∧ (a + fld s TRU_GTMO_VALUE *
      ms ≤ t) ∧ (gathOpen s = true)) ∧
    (∃ (t : Time) (a : Time) (s : State), (s.tru.aloneAt = some a) ∧ (s.spn.role = 0) ∧ (a + fld s TRU_GTMO_VALUE *
      ms ≤ t) ∧ (fld s TRU_GSTAT_STATE = 4)) ∧
    (∃ (t : Time) (a : Time) (s : State), (s.tru.abortAt = some a) ∧ (a + fld s TRU_GTMO_VALUE * ms ≤ t)) :=
  ⟨⟨9, 9, wLc 4 fun x => { x with service := some 9 }, by decide +kernel⟩,
   ⟨9, 9, wLc 3 fun x => { x with debug := some 9 }, by decide +kernel⟩,
   ⟨updTick (fun k => { k with count := 100000000 }) (setFld (TRU_PART_STATE 0) 5 w0), by decide +kernel⟩,
   ⟨late * 1000, 0, updTru (fun x => { x with aloneAt := some 0 }) (wGath 1), by decide +kernel⟩,
   ⟨late * 1000, 0, updTru (fun x => { x with aloneAt := some 0 }) (wGath 4), by decide +kernel⟩,
   ⟨late * 1000, 0, updTru (fun x => { x with abortAt := some 0 }) (wGath 1), by decide +kernel⟩⟩

theorem met_LifeCycleSteps :
    (∃ (s : State) (e : Time), (lcState s = 3 ∨ lcState s = 4) ∧ (s.tru.ret = some e) ∧ (s.now < e)) ∧
    (∃ (t : Time) (s : State), (lcState s = 5) ∧ (s.tru.erased = false) ∧ (s.tru.eraseEnd ≤ t)) ∧
    (∃ (d : Word) (s : State), (BitVec.ofNat 2 (TRU_REVOKE_REV.of d) ≠ 0#2) ∧ (s.tru.prog &&& ~~~(s.tru.rev |||
      BitVec.ofNat 2 (TRU_REVOKE_REV.of d)) ≠ 0#2)) ∧
    (∃ (d : Word) (s : State), (BitVec.ofNat 2 (TRU_REVOKE_REV.of d) ≠ 0#2) ∧ (s.tru.prog &&& ~~~(s.tru.rev |||
      BitVec.ofNat 2 (TRU_REVOKE_REV.of d)) = 0#2)) :=
  ⟨⟨wLc 3 fun x => { x with ret := some 9 }, 9, by decide +kernel⟩,
   ⟨late, wLc 5 id, by decide +kernel⟩,
   ⟨fw TRU_REVOKE_REV 1 0, updTru (fun x => { x with prog := 3 }) w0, by decide +kernel⟩,
   ⟨fw TRU_REVOKE_REV 1 0, w0, by decide +kernel⟩⟩

theorem met_SelfTestAndEcc_SelfTestActs :
    (∃ (k : MemClass) (t : Time) (s : State), ((fld s TST_MT_EN).testBit (memBit k) = true) ∧ (∀ u, k = .tcm u →
      hasUnit s u.val = true) ∧ (s.pwr.inReset = false) ∧ (SMap.get natD s.tst.visitAt (memKey k) + memIv s k ≤ t)) ∧
    (∃ (t : Time) (s : State), ((fld s TST_MT_EN).testBit 1 = true) ∧ (s.pwr.inReset = false) ∧ (SMap.get natD
      s.tst.visitAt 7 + memIv s .sram ≤ t) ∧ (fld s TST_SPARE_SRAM < 64)) ∧
    (∃ (t : Time) (s : State), ((fld s TST_MT_EN).testBit 2 = true) ∧ (s.pwr.inReset = false) ∧ (fld s
      ENG_STAT_STATE ≠ 2) ∧ (SMap.get natD s.tst.visitAt 8 + memIv s .twin ≤ t)) ∧
    (∃ (l : Fin 96) (sd : Side) (level : Bool) (since : Time) (t : Time) (s : State), (flag s TST_ANA_PADEN = true)
      ∧ (hasLeg s l.val = true) ∧ ((if sd = .high then (leg s l.val).h else (leg s l.val).l).on = !level) ∧ (max since
      ((if sd = .high then (leg s l.val).h else (leg s l.val).l).edgeAt + 10 * ns) + fld s TST_ANA_PADT * ns < t)) ∧
    (∃ (s : State), (lcState s = 1 ∨ (lcState s = 5 ∧ s.tru.erased = true))) :=
  ⟨⟨.sram, late, setFld TST_MT_EN 15 w0, by decide +kernel, nofun, by decide +kernel⟩,
   ⟨late, setFld TST_MT_EN 15 w0, by decide +kernel⟩,
   ⟨late, setFld TST_MT_EN 15 w0, by decide +kernel⟩,
   ⟨0, .high, true, 0, late, setFld TST_ANA_PADEN 1 w0, by decide +kernel⟩,
   ⟨wLc 1 id, by decide +kernel⟩⟩

theorem met_SelfTestAndEcc_BlockTestsRunAndEnd :
    (∃ (d : Word) (t : Time) (dt : Time) (s : State), (TST_BTREQ_GO.of d = 1) ∧ (s.tst.bt = none) ∧ (btTime (upto t
      s) (TST_BTREQ_CLASS.of d) (TST_BTREQ_INST.of d) = some dt)) ∧
    (∃ (t : Time) (s : State) (r : BtRun), (s.tst.bt = some r) ∧ (r.cls ≠ 1) ∧ (r.inst < 26) ∧ (r.endAt ≤ t)) ∧
    (∃ (a : BitVec 14) (b : BitVec 14) (c : BitVec 14) (s : State) (r : BtRun), (s.tst.bt = some r) ∧ (r.cls = 1) ∧
      (r.stage = .checking) ∧ (ladderOk s a.toNat b.toNat c.toNat = true)) ∧
    (∃ (pass : Bool) (a : BitVec 14) (b : BitVec 14) (c : BitVec 14) (s : State) (r : BtRun), (s.tst.bt = some r) ∧
      (r.cls = 1) ∧ (r.stage = .checking) ∧ ((pass && ladderOk s a.toNat b.toNat c.toNat) = false)) ∧
    (∃ (t : Time) (s : State) (r : BtRun), (s.tst.bt = some r) ∧ (r.cls = 1) ∧ (r.stage = .returned ∨ r.stage =
      .failed) ∧ (r.endAt ≤ t)) :=
  ⟨⟨fw TST_BTREQ_GO 1 (fw TST_BTREQ_CLASS 1 0), 0, 2 * ms, w0, by decide +kernel⟩,
   ⟨9, { w0 with tst := { w0.tst with bt := some ⟨2, 0, 9, .joining⟩ } }, ⟨2, 0, 9, .joining⟩, by decide +kernel⟩,
   ⟨4096, 12288, 0, { w0 with tst := { w0.tst with bt := some ⟨1, 0, 9, .checking⟩ } }, ⟨1, 0, 9, .checking⟩,
    by decide +kernel⟩,
   ⟨false, 0, 0, 0, { w0 with tst := { w0.tst with bt := some ⟨1, 0, 9, .checking⟩ } }, ⟨1, 0, 9, .checking⟩,
    by decide +kernel⟩,
   ⟨9, { w0 with tst := { w0.tst with bt := some ⟨1, 0, 9, .failed⟩ } }, ⟨1, 0, 9, .failed⟩, by decide +kernel⟩⟩

theorem met_SelfTestAndEcc_EccErrors :
    (∃ (w : Who) (a : Word) (f : Bool) (s : State), (goes s w (if f then .fetch else .load) a (if f then 2 else 1) =
      true) ∧ (target a.toNat = .sram) ∧ (fld s TST_SPARE_SRAM < 64)) ∧
    (∃ (w : Who) (a : Word) (f : Bool) (s : State), (goes s w (if f then .fetch else .load) a (if f then 2 else 1) =
      true) ∧ (eccMem w a.toNat = true) ∧ (target a.toNat = .sram → 64 ≤ fld s TST_SPARE_SRAM)) ∧
    (∃ (u : Fin 7) (s : State), (hasUnit s u.val = true)) :=
  ⟨⟨ap0, 0x20000000#32, false, w0, by decide +kernel⟩,
   ⟨sv6, 0x31F00000#32, false, w0, by decide +kernel⟩,
   ⟨0, w0, by decide +kernel⟩⟩

theorem met_ResetAndBoot_ResetEntersAndLeaves :
    (∃ (s : State), (s.pwr.inReset = false)) ∧
    (∃ (s : State), (s.pwr.inReset = false) ∧ (∀ r, s.tru.run = some r → r.op ≠ 1 ∧ r.op ≠ 4 ∧ r.op ≠ 13)) ∧
    (∃ (s : State), (s.pwr.inReset = true)) ∧
    (∃ (e : Time) (t : Time) (s : State), (s.pwr.inReset = true) ∧ (s.pwr.resetEnd ≤ e + ms) ∧ (e + ms ≤ t)) :=
  ⟨⟨w0, by decide +kernel⟩,
   ⟨w0, by decide +kernel, (fun r h => by cases (show (none : Option TruRun) = some r from h))⟩,
   ⟨updPwr (fun p => { p with inReset := true }) w0, by decide +kernel⟩,
   ⟨0, ms, updPwr (fun p => { p with inReset := true }) w0, by decide +kernel⟩⟩

theorem met_ResetAndBoot_BootStartsOrStops :
    (∃ (t : Time) (s : State) (u : State) (v : State), (s.pwr.booting = true) ∧ (s.pwr.inReset = false) ∧ (¬
      (lcState s = 5 ∧ s.tru.erased = false)) ∧ (u = updPwr (fun p => { p with booting := false }) (upto t s)) ∧ (v =
      showLen 0 (copyMem (fallbackAt 0) (activeAt 0) (partSize 0) u)) ∧ (lcState s = 6)) ∧
    (∃ (t : Time) (s : State) (u : State) (v : State), (s.pwr.booting = true) ∧ (s.pwr.inReset = false) ∧ (¬
      (lcState s = 5 ∧ s.tru.erased = false)) ∧ (u = updPwr (fun p => { p with booting := false }) (upto t s)) ∧ (v =
      showLen 0 (copyMem (fallbackAt 0) (activeAt 0) (partSize 0) u)) ∧ (lcState s ≠ 6) ∧ (lcState s ≠ 1) ∧ (keyValid
      s 0 = false) ∧ (keyValid s 1 = false)) ∧
    (∃ (t : Time) (s : State) (u : State) (v : State), (s.pwr.booting = true) ∧ (s.pwr.inReset = false) ∧ (¬
      (lcState s = 5 ∧ s.tru.erased = false)) ∧ (u = updPwr (fun p => { p with booting := false }) (upto t s)) ∧ (v =
      showLen 0 (copyMem (fallbackAt 0) (activeAt 0) (partSize 0) u)) ∧ (lcState s ≠ 6) ∧ (lcState s = 1 ∨ keyValid s
      0 = true ∨ keyValid s 1 = true)) :=
  ⟨⟨0, (wBoot (wLc 6 id)), updPwr (fun p => { p with booting := false }) (upto 0 (wBoot (wLc 6 id))), showLen 0
    (copyMem (fallbackAt 0) (activeAt 0) (partSize 0) (updPwr (fun p => { p with booting := false }) (upto 0 (wBoot
    (wLc 6 id))))), by decide +kernel, by decide +kernel, by decide +kernel, rfl, rfl, by decide +kernel⟩,
   ⟨0, (wBoot (noKeys (wLc 3 id))), updPwr (fun p => { p with booting := false }) (upto 0 (wBoot (noKeys (wLc 3
    id)))), showLen 0 (copyMem (fallbackAt 0) (activeAt 0) (partSize 0) (updPwr (fun p => { p with booting := false })
    (upto 0 (wBoot (noKeys (wLc 3 id)))))), by decide +kernel, by decide +kernel, by decide +kernel, rfl, rfl,
    by decide +kernel⟩,
   ⟨0, (wBoot (wLc 1 id)), updPwr (fun p => { p with booting := false }) (upto 0 (wBoot (wLc 1 id))), showLen 0
    (copyMem (fallbackAt 0) (activeAt 0) (partSize 0) (updPwr (fun p => { p with booting := false }) (upto 0 (wBoot
    (wLc 1 id))))), by decide +kernel, by decide +kernel, by decide +kernel, rfl, rfl, by decide +kernel⟩⟩

theorem met_SuppliesAndTemperature_SupplyHandOver :
    (∃ (v : Bool) (e : Time) (t : Time) (s : State), (s.pwr.mainOk ≠ v) ∧ (okHeld s (max e s.pwr.railsFrom) t =
      true)) ∧
    (∃ (v : Bool) (e : Time) (t : Time) (s : State), (s.pwr.bkupOk ≠ v) ∧ (okHeld s (max e s.pwr.railsFrom) t =
      true)) ∧
    (∃ (e : Time) (t : Time) (s : State), (s.pwr.mainOk = true) ∧ (s.pwr.src = false) ∧ (hoEn s = true) ∧
      (s.pwr.stage = .idle) ∧ (okHeld s (max e s.pwr.railsFrom) t = true)) ∧
    (∃ (t : Time) (s : State), (hoEn s = true) ∧ (s.pwr.src = true) ∧ (s.pwr.stage = .idle) ∧ (dwelling s.pwr t =
      false) ∧ (good20 s.pwr t = true)) ∧
    (∃ (pin : Bool) (t : Time) (s : State), (hoEn s = true) ∧ (s.pwr.stage = .hold) ∧ (s.pwr.stageAt + lfld s
      PWR_CTRL_THLD * us ≤ t) ∧ (s.pwr.forced = true ∨ pin = true)) ∧
    (∃ (t : Time) (s : State), (hoEn s = true) ∧ (s.pwr.stage = .hold) ∧ (s.pwr.stageAt + lfld s PWR_CTRL_THLD * us
      ≤ t) ∧ (s.pwr.forced = false) ∧ (selOk s.pwr = true)) ∧
    (∃ (t : Time) (s : State), (hoEn s = true) ∧ (s.pwr.stage = .settle) ∧ (s.pwr.stageAt + (lfld s PWR_CTRL_THLD +
      lfld s PWR_CTRL_TSET) * us ≤ t) ∧ (selOk s.pwr = true)) :=
  ⟨⟨true, 0, late, w0, by decide +kernel⟩,
   ⟨true, 0, late, w0, by decide +kernel⟩,
   ⟨0, late, wPwr fun p => { p with mainOk := true, bkupOk := true }, by decide +kernel⟩,
   ⟨late, wPwr fun p => { p with src := true, mainOk := true, mainSince := some 0 }, by decide +kernel⟩,
   ⟨true, late, wPwr fun p => { p with stage := .hold }, by decide +kernel⟩,
   ⟨late, wPwr fun p => { p with stage := .hold, mainOk := true }, by decide +kernel⟩,
   ⟨late, wPwr fun p => { p with stage := .settle, mainOk := true }, by decide +kernel⟩⟩

theorem met_SuppliesAndTemperature_BankBrownOut :
    (∃ (c : Fin 16) (s : State), (hasCluster s c.val = true)) :=
  ⟨0, w0, by decide +kernel⟩

theorem met_SuppliesAndTemperature_TemperatureMovesThermN :
    (∃ (deg : BitVec 8) (s : State), (s.pwr.therm = false) ∧ (thermHi s < deg.toInt)) ∧
    (∃ (deg : BitVec 8) (s : State), (s.pwr.therm = true ∨ deg.toInt ≤ thermHi s)) ∧
    (∃ (a : BitVec 8) (b : BitVec 8) (c : BitVec 8) (d : BitVec 8) (s : State), (s.pwr.therm = true) ∧ (∀ v, v ∈ [a,
      b, c, d] → v.toInt < thermLo s)) ∧
    (∃ (a : BitVec 8) (b : BitVec 8) (c : BitVec 8) (d : BitVec 8) (s : State), (s.pwr.therm = false ∨ ∃ v, v ∈ [a,
      b, c, d] ∧ thermLo s ≤ v.toInt)) :=
  ⟨⟨120, w0, by decide +kernel⟩,
   ⟨128, w0, by decide +kernel⟩,
   ⟨128, 128, 128, 128, updPwr (fun p => { p with therm := true }) w0, by decide +kernel⟩,
   ⟨127, 0, 0, 0, w0, (Or.inl (by decide +kernel))⟩⟩

theorem met_CanEntriesAndBus_CanEntriesAct :
    (∃ (n : Fin 6) (f : Fin 3) (m : Mask) (d : Word) (s : State) (wp : Nat), (hasCan s n.val = true) ∧ (wp =
      (CAN_TXF_WP_PTR n.val f.val).of (clWord s (CAN_TXF_WP n.val f.val) m d)) ∧ (subMod wp (canTxRp s n.val f.val) 32
      ≤ 16)) ∧
    (∃ (n : Fin 6) (f : Fin 3) (m : Mask) (d : Word) (s : State) (wp : Nat), (hasCan s n.val = true) ∧ (wp =
      (CAN_TXF_WP_PTR n.val f.val).of (clWord s (CAN_TXF_WP n.val f.val) m d)) ∧ (16 < subMod wp (canTxRp s n.val
      f.val) 32)) ∧
    (∃ (n : Fin 6) (m : Mask) (d : Word) (s : State) (p : Nat), (hasCan s n.val = true) ∧ (p = (CAN_RXRP_PTR
      n.val).of (clWord s (CAN_RXRP n.val) m d)) ∧ (subMod p (can s n.val).rxRp 128 ≤ subMod (can s n.val).rxWp (can s
      n.val).rxRp 128)) ∧
    (∃ (n : Fin 6) (m : Mask) (d : Word) (s : State) (i : Nat), (hasCan s n.val = true) ∧ (m.getLsbD 3 = true) ∧
      ((CAN_DETREQ_GO n.val).of (clWord s (CAN_DETREQ n.val) m d) = 1) ∧ (candFrom (putCl (CAN_DETREQ n.val) (clWord s
      (CAN_DETREQ n.val) m d) s) n.val 0 = some i)) ∧
    (∃ (n : Fin 6) (s : State), ((can s n.val).busOff = true)) :=
  ⟨⟨0, 0, 0xF#4, 4#32, wCan id, 4, by decide +kernel⟩,
   ⟨0, 0, 0xF#4, 20#32, wCan id, 20, by decide +kernel⟩,
   ⟨0, 0xF#4, 0#32, wCan id, 0, by decide +kernel⟩,
   ⟨0, 0xF#4, fw (CAN_DETREQ_GO 0) 1 0, lv (CAN_CAND_NBT_BRP 0 0) 1 (wCan id), 0, by decide +kernel⟩,
   ⟨0, wCan fun c => { c with busOff := true }, by decide +kernel⟩⟩

theorem met_CanEntriesAndBus_CanBusActs :
    (∃ (n : Fin 6) (t : Time) (s : State) (f : Nat), ((can s n.val).sending = some f) ∧ (canSends s n.val = true) ∧
      ((CAN_CFG_MODE n.val).of (canCfg s n.val) ≠ 2) ∧ (f < 3) ∧ ((can s n.val).chosenAt + frameLeast s n.val
      (headFrame s n.val f) ≤ t)) ∧
    (∃ (n : Fin 6) (s : State) (f : Nat), ((can s n.val).sending = some f) ∧ (f < 3) ∧ (canSends s n.val = true) ∧
      (SMap.get natD (can s n.val).flushTo f = 0) ∧ (NoFd s n.val)) ∧
    (∃ (n : Fin 6) (fr : CanFrame) (s : State) (k : Nat), (canUp s n.val = true) ∧ (fr.fdf = false) ∧ ((CAN_CFG_MODE
      n.val).of (canCfg s n.val) ≠ 2) ∧ (canFilter s n.val fr = some k) ∧ (lfld s (CAN_FLT_ID_ACT n.val k) = 0) ∧
      (subMod (can s n.val).rxWp (can s n.val).rxRp 128 < 64) ∧ ((can s n.val).det = none)) ∧
    (∃ (n : Fin 6) (e : CanErr) (s : State) (tx : Bool) (d : Nat × Nat), (canUp s n.val = true) ∧ ((can s n.val).det
      = none) ∧ (tx = (e.tx && canSends s n.val && (can s n.val).sending.isSome)) ∧ (d = canSteps tx (canPassive (can
      s n.val)) e.kind)) ∧
    (∃ (n : Fin 6) (t : Time) (s : State), ((can s n.val).recovering = true) ∧ ((can s n.val).recAt + 128 * 11 *
      bitTime (canNbt s n.val) ≤ t)) ∧
    (∃ (n : Fin 6) (err : Bool) (t : Time) (s : State) (i : Nat) (j : Nat), ((can s n.val).det = some i) ∧ (err =
      true ∨ (can s n.val).detAt + orOne (fld s (CAN_DETREQ_WIN n.val)) * ms ≤ t) ∧ (candFrom s n.val (i + 1) = some
      j)) :=
  ⟨⟨0, late, wCan fun c => { c with sending := some 0 }, 0, by decide +kernel⟩,
   ⟨0, wCan fun c => { c with sending := some 0 }, 0, by decide +kernel⟩,
   ⟨0, ⟨false, false, false, false, false, 5, 0, [], 0⟩, lv (CAN_FLT_ID_EN 0 0) 1 (wCan id), 0, by decide +kernel⟩,
   ⟨0, ⟨1, false, .frame⟩, wCan id, false, canSteps false (canPassive (can (wCan id) 0)) .frame, by decide +kernel,
    by decide +kernel, by decide +kernel, rfl⟩,
   ⟨0, late, wCan fun c => { c with recovering := true }, by decide +kernel⟩,
   ⟨0, true, 0, setFld (CAN_DETREQ_NC 0) 1 (lv (CAN_CAND_NBT_BRP 0 1) 1 (wCan fun c => { c with det := some 0 })), 0,
    1, by decide +kernel⟩⟩

theorem met_SerialPortsAct_QspMasterActs :
    (∃ (p : Fin 4) (t : Time) (s : State), (qspOn s p.val = true) ∧ ((qsp s p.val).halted = false) ∧ ((qsp s
      p.val).busy = none) ∧ ((qsp s p.val).sel = false) ∧ (((qsp s p.val).low && lflag s (QSP_CFG_MM p.val)) = false)
      ∧ (qspWaiting (qsp s p.val) ≠ 0) ∧ ((qsp s p.val).freeAt ≤ t)) ∧
    (∃ (p : Fin 4) (t : Time) (s : State), (qspEnds (qsp s p.val) t = true) ∧ ((qsp s p.val).endAt = none) ∧ ((qsp s
      p.val).run.read = false)) ∧
    (∃ (p : Fin 4) (t : Time) (s : State), (qspEnds (qsp s p.val) t = true) ∧ ((qsp s p.val).endAt = none) ∧ ((qsp s
      p.val).run.read = true)) ∧
    (∃ (p : Fin 4) (t : Time) (e : Time) (s : State), (qspEnds (qsp s p.val) t = true) ∧ ((qsp s p.val).endAt = some
      e)) ∧
    (∃ (p : Fin 4) (u0 : Time) (s : State), ((qsp s p.val).busy = some u0) ∧ ((qsp s p.val).runMm = true) ∧ ((qsp s
      p.val).endAt = none)) :=
  ⟨⟨1, 0, wQsp 1 fun q => { q with wp := 1 }, by decide +kernel⟩,
   ⟨1, selTime (qsp (wQsp 1 fun q => { q with busy := some 0 }) 1).run.cycles (qsp (wQsp 1 fun q =>
    { q with busy := some 0 }) 1).runTh, wQsp 1 fun q => { q with busy := some 0 }, by decide +kernel⟩,
   ⟨1, selTime (qsp (wQsp 1 fun q => { q with busy := some 0, run := { q.run with read := true } }) 1).run.cycles
    (qsp (wQsp 1 fun q => { q with busy := some 0, run := { q.run with read := true } }) 1).runTh, wQsp 1 fun q =>
    { q with busy := some 0, run := { q.run with read := true } }, by decide +kernel⟩,
   ⟨1, 5, 5, wQsp 1 fun q => { q with busy := some 0, endAt := some 5 }, by decide +kernel⟩,
   ⟨1, 0, wQsp 1 fun q => { q with busy := some 0, runMm := true }, by decide +kernel⟩⟩

theorem met_SerialPortsAct_XipReadGivesTheWord :
    (∃ (w : Who) (a : Word) (z : Size) (t : Time) (s : State), (target a.toNat = .xip) ∧ (goes (upto t s) w .load a
      z.bytes = true) ∧ (lflag s QSP_XIP_XEN = true) ∧ ((qsp s 0).xip.find? (fun e => e.1 == a.toNat / 32) = none) ∧
      ((qsp s 0).busy = none)) ∧
    (∃ (w : Who) (a : Word) (z : Size) (t : Time) (s : State) (e : _), (target a.toNat = .xip) ∧ (goes (upto t s) w
      .load a z.bytes = true) ∧ (lflag s QSP_XIP_XEN = true) ∧ ((qsp s 0).xip.find? (fun e => e.1 == a.toNat / 32) =
      some e)) ∧
    (∃ (w : Who) (a : Word) (z : Size) (t : Time) (s : State), (target a.toNat = .xip) ∧ (goes (upto t s) w .load a
      z.bytes = true) ∧ (lflag s QSP_XIP_XEN = false)) ∧
    (∃ (w : Who) (a : Word) (t : Time) (s : State) (e : _), (target a.toNat = .xip) ∧ (goes (upto t s) w .fetch a 2
      = true) ∧ (a.toNat % 32 ≤ 28) ∧ (lflag s QSP_XIP_XEN = true) ∧ ((qsp s 0).xip.find? (fun e => e.1 == a.toNat /
      32) = some e)) :=
  ⟨⟨ap0, 0x60000000#32, .sw, 0, lv QSP_XIP_XEN 1 w0, by decide +kernel⟩,
   ⟨ap0, 0x60000000#32, .sw, 0, updQsp 0 (fun q => { q with xip := [(0x60000000 / 32, List.replicate 32 5)] }) (lv
    QSP_XIP_XEN 1 w0), (0x60000000 / 32, List.replicate 32 5), by decide +kernel⟩,
   ⟨ap0, 0x60000000#32, .sw, 0, w0, by decide +kernel⟩,
   ⟨ap0, 0x60000000#32, 0, updQsp 0 (fun q => { q with xip := [(0x60000000 / 32, List.replicate 32 5)] }) (lv
    QSP_XIP_XEN 1 w0), (0x60000000 / 32, List.replicate 32 5), by decide +kernel⟩⟩

theorem met_SerialPortsAct_QspTargetActs :
    (∃ (p : Fin 4) (code : BitVec 3) (s : State), (p.val ≠ 0) ∧ ((qsp s p.val).low = false) ∧ (qspOn s p.val = false
      ∨ (qsp s p.val).busy.isSome = true ∨ lflag s (QSP_CFG_TGT p.val) = false ∨ code.toNat ≠ lfld s (QSP_CFG_OWN
      p.val))) ∧
    (∃ (p : Fin 4) (code : BitVec 3) (rx : List Bool) (s : State), (qspOn s p.val = true) ∧ (lflag s (QSP_CFG_TGT
      p.val) = true) ∧ (p.val ≠ 0) ∧ ((qsp s p.val).busy = none) ∧ ((qsp s p.val).low = false) ∧ (code.toNat = lfld s
      (QSP_CFG_OWN p.val)) ∧ (rx.length < 8 * qspWordBytes s p.val)) ∧
    (∃ (p : Fin 4) (code : BitVec 3) (rx : List Bool) (s : State), (qspOn s p.val = true) ∧ (lflag s (QSP_CFG_TGT
      p.val) = true) ∧ (p.val ≠ 0) ∧ ((qsp s p.val).busy = none) ∧ ((qsp s p.val).low = false) ∧ (code.toNat = lfld s
      (QSP_CFG_OWN p.val)) ∧ (qspWordBytes s p.val = 1) ∧ (rx.length = 8) ∧ (lfld s (QSP_TMAX_MAXW p.val) ≠ 0) ∧
      (subMod (qsp s p.val).twp (qsp s p.val).trp 2048 + 1 ≤ 2047)) ∧
    (∃ (p : Fin 4) (s : State), ((qsp s p.val).low = true)) :=
  ⟨⟨1, 5, lv (QSP_CFG_TGT 1) 1 (wQsp 1 id), by decide +kernel⟩,
   ⟨1, 0, [true], lv (QSP_CFG_TGT 1) 1 (wQsp 1 id), by decide +kernel⟩,
   ⟨1, 0, List.replicate 8 true, lv (QSP_TMAX_MAXW 1) 4 (lv (QSP_CFG_TGT 1) 1 (wQsp 1 id)), by decide +kernel⟩,
   ⟨1, wQsp 1 fun q => { q with low := true }, by decide +kernel⟩⟩

theorem met_MismatchesAndPermanentFaults_MismatchReplays :
    (∃ (u : Fin 7) (k : Mismatch) (a : Word) (s : State), (canFault s ⟨u, false⟩ = true) ∧ (pairState s u.val ≠ 2) ∧
      ((unit s u.val).phase = .work ∨ (unit s u.val).phase = .drain) ∧ ((unit s u.val).replays < 2) ∧ (k = .parity ∨
      liveAsync s a.toNat = false ∨ (unit s u.val).mm ≠ some (a, true)) ∧ (JrnLeaves s u.val u.val)) :=
  ⟨0, .bus, 0x20000000#32, w0, by decide +kernel, by decide +kernel, by decide +kernel, by decide +kernel,
    by decide +kernel, (fun _ _ _ h => absurd (show _ ∈ ([] : List Undo) from h) List.not_mem_nil)⟩

theorem met_MismatchesAndPermanentFaults_RepeatedMismatchFails :
    (∃ (u : Fin 7) (k : Mismatch) (a : Word) (s : State), (u.val < 6) ∧ (canFault s ⟨u, false⟩ = true) ∧ (pairState
      s u.val ≠ 2) ∧ ((unit s u.val).phase = .work ∨ (unit s u.val).phase = .drain) ∧ (2 ≤ (unit s u.val).replays) ∧
      (k = .parity ∨ liveAsync s a.toNat = false ∨ (unit s u.val).mm ≠ some (a, true))) ∧
    (∃ (u : Fin 7) (k : Mismatch) (a : Word) (s : State), (u.val < 6) ∧ (canFault s ⟨u, false⟩ = true) ∧ (pairState
      s u.val ≠ 2) ∧ ((unit s u.val).phase = .work ∨ (unit s u.val).phase = .drain) ∧ (k ≠ .parity) ∧ (liveAsync s
      a.toNat = true) ∧ ((unit s u.val).mm = some (a, true))) :=
  ⟨⟨0, .bus, 0x20000000#32, updUnit 0 (fun u => { u with replays := 2 }) w0, by decide +kernel⟩,
   ⟨0, .bus, (BitVec.ofNat 32 (SAF_STAT)), updUnit 0 (fun u =>
    { u with mm := some ((BitVec.ofNat 32 (SAF_STAT)), true) }) w0, by decide +kernel⟩⟩

theorem met_MismatchesAndPermanentFaults_PermanentFaultStopsTheUnit :
    (∃ (u : Fin 7) (s : State), (u.val < 6) ∧ (canFault s ⟨u, false⟩ = true) ∧ (pairState s u.val ≠ 2)) ∧
    (∃ (u : Fin 7) (s : State), (u.val < 6) ∧ (canFault s ⟨u, true⟩ = true) ∧ (pairState s u.val = 2)) ∧
    (∃ (s : State), (canFault s ⟨6, false⟩ = true) ∧ (pairState s 6 ≠ 2)) ∧
    (∃ (b : Bool) (s : State), (canFault s ⟨6, b⟩ = true) ∧ (pairState s 6 = 2)) :=
  ⟨⟨0, w0, by decide +kernel⟩,
   ⟨0, setFld (PRC_STAT_STATE 0) 2 w0, by decide +kernel⟩,
   ⟨w0, by decide +kernel⟩,
   ⟨false, setFld (PRC_STAT_STATE 6) 2 w0, by decide +kernel⟩⟩

theorem met_DutiesStartMirrorAndMove_PairStartsAtItsVector :
    (∃ (n : Fin 7) (s : State), (n.val < 6) ∧ (hasUnit s n.val = true) ∧ (flag s (PRC_CTL_START n.val) = true) ∧
      (pairState s n.val = 0)) :=
  ⟨1, setFld (PRC_CTL_START 1) 1 w0, by decide +kernel⟩

theorem met_DutiesStartMirrorAndMove_HandOverRequestIsChecked :
    (∃ (m : Mask) (d : Word) (s : State) (w : Word) (c : Nat), (m.getLsbD 3 = true) ∧ (w = clWord s PRC_HOREQ m d) ∧
      (PRC_HOREQ_GO.of w = 1) ∧ (c = hoCode (putCl PRC_HOREQ w s) (PRC_HOREQ_DUTY.of w) (PRC_HOREQ_PAIR.of w)
      (s.prc.ho.isSome || (bits w.toNat 12 19 != 0 || bits w.toNat 3 5 != 0)))) :=
  ⟨0xF#4, horeq, wDuty, clWord wDuty PRC_HOREQ 0xF#4 horeq, hoCode (putCl PRC_HOREQ (clWord wDuty PRC_HOREQ 0xF#4
    horeq) wDuty) 0 1 false, by decide +kernel, rfl, by decide +kernel⟩

theorem met_DutiesStartMirrorAndMove_HandOverMovesTheDuty :
    (∃ (s : State) (h : HoPend), (hoDue s 0 = some h) ∧ (h.duty < 16) ∧ (h.pair < 6) ∧ (hoCode s h.duty h.pair false
      = 0) ∧ (h.pair ≠ fld s (PRC_DUTY_CFG_PRIM h.duty))) ∧
    (∃ (s : State) (h : HoPend), (hoDue s 0 = some h) ∧ (hoCode s h.duty h.pair false ≠ 0)) :=
  ⟨⟨wHo 0 0 1 wDuty, ⟨0, 0, 1, 0⟩, by decide +kernel⟩,
   ⟨wHo 0 0 1 w0, ⟨0, 0, 1, 0⟩, by decide +kernel⟩⟩

theorem met_DutiesStartMirrorAndMove_SplitAndRejoin :
    (∃ (n : Fin 6) (s : State) (h : HoPend), (hoDue s 1 = some h) ∧ (h.pair = n.val) ∧ (splitCode s 1 n.val false =
      0)) ∧
    (∃ (n : Fin 6) (s : State) (h : HoPend), (hoDue s 2 = some h) ∧ (h.pair = n.val) ∧ (splitCode s 2 n.val false =
      0)) ∧
    (∃ (n : Nat) (s : State), (n < 6) ∧ (pairState s n = 3)) :=
  ⟨⟨1, wHo 1 0 1 (setFld (PRC_STAT_STATE 1) 1 w0), ⟨1, 0, 1, 0⟩, by decide +kernel⟩,
   ⟨1, wHo 2 0 1 (setFld (PRC_STAT_STATE 1) 2 w0), ⟨2, 0, 1, 0⟩, by decide +kernel⟩,
   ⟨1, setFld (PRC_STAT_STATE 1) 3 w0, by decide +kernel⟩⟩

theorem met_LeasesAreGrantedAndEnd :
    (∃ (d : Word) (s : State) (k : Nat), (lqOp d = 0) ∧ (lqValid s d = true) ∧ (lqTerm d ≠ 0) ∧ (lqClass d ≠ 4) ∧
      (leaseOf s (lqClass d) (lqInst d) = none) ∧ (freeSlot s = some k)) ∧
    (∃ (d : Word) (s : State) (k : Nat), (lqOp d = 0) ∧ (lqValid s d = true) ∧ (lqTerm d ≠ 0) ∧ (lqClass d = 4) ∧
      (fld s TKC_QPOOL_LEASED + lqInst d ≤ fld s TKC_QPOOL_FREE) ∧ (freeSlot s = some k)) ∧
    (∃ (d : Word) (s : State) (k : Nat), (lqOp d = 0) ∧ (lqValid s d = true) ∧ (lqTerm d ≠ 0) ∧ (lqClass d ≠ 4) ∧
      (leaseOf s (lqClass d) (lqInst d) = some k)) ∧
    (∃ (w : Who) (d : Word) (s : State) (k : Nat), (lqOp d = 1) ∧ (lqValid s d = true) ∧ (lqTerm d ≠ 0) ∧ (leaseMine
      s w d = some k)) ∧
    (∃ (w : Who) (d : Word) (s : State) (k : Nat), (lqOp d = 2) ∧ (lqValid s d = true) ∧ (leaseMine s w d = some k)) ∧
    (∃ (w : Who) (d : Word) (s : State) (k : Nat), (lqOp d = 3) ∧ (isSv w = true) ∧ (lqValid s d = true) ∧ (leaseOf
      s (lqClass d) (lqInst d) = some k)) ∧
    (∃ (k : Fin 64) (s : State), (flag s (PRC_LSLOT_VALID k.val) = true) ∧ (fld s (PRC_LSLOT_REMAIN k.val) = 0)) :=
  ⟨⟨lreq 0 1, w0, 0, by decide +kernel⟩,
   ⟨fw PRC_LREQ_INST 3 (lreq 0 4), w0, 0, by decide +kernel⟩,
   ⟨lreq 0 1, wLease 1, 0, by decide +kernel⟩,
   ⟨ap0, lreq 1 1, wLease 1, 0, by decide +kernel⟩,
   ⟨ap0, lreq 2 1, wLease 1, 0, by decide +kernel⟩,
   ⟨sv6, lreq 3 1, wLease 1, 0, by decide +kernel⟩,
   ⟨0, setReg (PRC_LSLOT 0) 0x80000000#32 w0, by decide +kernel⟩⟩

theorem met_EventReadsMarkObserved_EventReadsMarkObserved :
    (∃ (w : Who) (c : Fin 7) (b : Bool) (s : State), (hasUnit s c.val = true) ∧ (mayEvr w c.val = true) ∧ (goes s w
      .load (BitVec.ofNat 32 (if b then EVR_B_TOP c.val else EVR_TOP c.val)) 4 = true)) ∧
    (∃ (s : State) (c : Nat) (e : Nat) (b : Bool), (topEvent s c b = some e)) ∧
    (∃ (w : Who) (c : Fin 7) (b : Bool) (i : Fin 20) (s : State), (hasUnit s c.val = true) ∧ (mayEvr w c.val = true)
      ∧ (goes s w .load (BitVec.ofNat 32 (if b then EVR_B_PEND c.val i.val else EVR_PEND c.val i.val)) 4 = true)) :=
  ⟨⟨ap0, 0, false, w0, by decide +kernel⟩,
   ⟨setReg (EVR_PEND 0 0) 1#32 (setFld (EVR_THR_THR 0) 0 (lv (EVR_ROUTE_PRIO 0) 3 w0)), 0, 0, false,
    by decide +kernel⟩,
   ⟨ap0, 0, false, 3, w0, by decide +kernel⟩⟩

theorem met_EngineSequencesThePasses :
    (∃ (s : State) (p : PassSt) (c : Nat), (s.eng.run = some p) ∧ (p.ended = some c) ∧ (p.pass < 64) ∧ (endCount s p
      c < passBudget s p.pass)) ∧
    (∃ (s : State) (p : PassSt), (s.eng.run = some p) ∧ (overBudget s p = true) ∧ (p.pass < 64)) ∧
    (∃ (s : State) (p : PassSt), (s.eng.run = some p) ∧ (s.eng.fails < 2) ∧ (p.pass < 64)) ∧
    (∃ (s : State) (p : PassSt), (s.eng.run = some p) ∧ (s.eng.fails = 2)) ∧
    (∃ (s : State), (s.pwr.inReset = false)) ∧
    (∃ (k : Nat) (p : Nat) (s : State), (k ≤ p) ∧ (p < 64) ∧ (lflag s (ENG_RT_A_EN p) = true) ∧ (∀ j, k ≤ j → j < p
      → lflag s (ENG_RT_A_EN j) = false)) ∧
    (∃ (k : Nat) (s : State), (∀ j, k ≤ j → j < 64 → lflag s (ENG_RT_A_EN j) = false)) :=
  ⟨⟨wEng 1 (ew 0 0 0 0 0 0) { p0 with ended := some 20 }, { p0 with ended := some 20 }, 20, by decide +kernel,
    by decide +kernel, by decide +kernel, endCount_lt⟩,
   ⟨wEng 1 (ew 0 0 0 0 0 0) { p0 with cyc := 2000 }, { p0 with cyc := 2000 }, by decide +kernel⟩,
   ⟨wEng 1 (ew 0 0 0 0 0 0) p0, p0, by decide +kernel⟩,
   ⟨updEng (fun x => { x with fails := 2 }) (wEng 1 (ew 0 0 0 0 0 0) p0), p0, by decide +kernel⟩,
   ⟨w0, by decide +kernel⟩,
   ⟨3, 3, lv (ENG_RT_A_EN 3) 1 w0, by decide +kernel, by decide +kernel, by decide +kernel, (fun j _ _ => by omega)⟩,
   ⟨64, w0, (fun j _ _ => by omega)⟩⟩

theorem met_EngineControlInstructionsRun :
    (∃ (e : EngWord) (s : State) (p : PassSt), (IssuesAt 0x00 e (plainForm e) s p)) ∧
    (∃ (e : EngWord) (s : State) (p : PassSt), (IssuesAt 0x01 e (plainForm e) s p)) ∧
    (∃ (e : EngWord) (s : State) (p : PassSt), (IssuesAt 0x02 e (bruForm e) s p) ∧ (bruTaken e p s = false)) ∧
    (∃ (e : EngWord) (s : State) (p : PassSt) (tgt : Nat), (IssuesAt 0x02 e (bruForm e) s p) ∧ (bruTaken e p s =
      true) ∧ ((p.pc : Int) + e.imm.toInt = tgt) ∧ (lfld s (ENG_RT_A_ENTRY p.pass) ≤ tgt) ∧ (tgt < lfld s
      (ENG_RT_A_ENTRY p.pass) + lfld s (ENG_RT_B_LEN p.pass))) ∧
    (∃ (e : EngWord) (s : State) (p : PassSt) (c : Nat), (IssuesAt 0x03 e (loopForm e) s p) ∧ (mVal e = 0) ∧ (c =
      issueCycle p [40 + e.vd.toNat]) ∧ (c < passBudget s p.pass) ∧ (ar p e.vd.toNat = 1)) ∧
    (∃ (e : EngWord) (s : State) (p : PassSt) (c : Nat) (tgt : Nat), (IssuesAt 0x03 e (loopForm e) s p) ∧ (mVal e =
      0) ∧ (c = issueCycle p [40 + e.vd.toNat]) ∧ (c < passBudget s p.pass) ∧ (ar p e.vd.toNat ≠ 1) ∧ ((p.pc : Int) +
      e.imm.toInt = tgt) ∧ (lfld s (ENG_RT_A_ENTRY p.pass) ≤ tgt) ∧ (tgt < lfld s (ENG_RT_A_ENTRY p.pass) + lfld s
      (ENG_RT_B_LEN p.pass))) ∧
    (∃ (e : EngWord) (s : State) (p : PassSt), (IssuesAt 0x03 e (loopForm e) s p) ∧ (mVal e ≠ 0)) ∧
    (∃ (op : Nat) (k : StoreKind) (mk : EngWord → Instr) (e : EngWord) (s : State) (p : PassSt), ((op, k, mk) ∈
      [(0x04, StoreKind.stc, Instr.fenceC), (0x05, StoreKind.str, Instr.fenceR), (0x06, StoreKind.sts, Instr.fenceS)])
      ∧ (IssuesAt op e (plainForm e) s p)) ∧
    (∃ (e : EngWord) (s : State) (p : PassSt), (IssuesAt 0x07 e { ok := mVal e == 0, imm := 0xF } s p)) ∧
    (∃ (e : EngWord) (s : State) (p : PassSt), (IssuesAt 0x3D e { ok := mVal e == 0, va := .v, imm := 0xFFFF } s p)) ∧
    (∃ (e : EngWord) (s : State) (p : PassSt), (IssuesAt 0x3E e { ok := mVal e == 0, imm := 0xFFFF } s p) ∧ (writing
      s p e = [])) ∧
    (∃ (e : EngWord) (s : State) (p : PassSt) (l : Nat), (IssuesAt 0x3E e { ok := mVal e == 0, imm := 0xFFFF } s p)
      ∧ ((writing s p e).head? = some l) ∧ (p.pass < 64)) :=
  ⟨⟨ew 0 0 0 0 0 0, wEng 0x00 (ew 0 0 0 0 0 0) p0, p0, by decide +kernel⟩,
   ⟨ew 0 0 0 0 0 0, wEng 0x01 (ew 0 0 0 0 0 0) p0, p0, by decide +kernel⟩,
   ⟨ew 0 2 0 0 1 3, wEng 0x02 (ew 0 2 0 0 1 3) p0, p0, by decide +kernel⟩,
   ⟨ew 0 0 0 0 0 3, wEng 0x02 (ew 0 0 0 0 0 3) p0, p0, 3, by decide +kernel⟩,
   ⟨ew 2 0 0 0 0 3, wEng 0x03 (ew 2 0 0 0 0 3) { p0 with a := [(2, 1#32)] }, { p0 with a := [(2, 1#32)] }, issueCycle
    { p0 with a := [(2, 1#32)] } [40 + (2#5).toNat], by decide +kernel, by decide +kernel, rfl, by decide +kernel⟩,
   ⟨ew 2 0 0 0 0 3, wEng 0x03 (ew 2 0 0 0 0 3) { p0 with pc := 0, a := [(2, 5#32)] },
    { p0 with pc := 0, a := [(2, 5#32)] }, issueCycle { p0 with pc := 0, a := [(2, 5#32)] } [40 + (2#5).toNat], 3,
    by decide +kernel, by decide +kernel, rfl, by decide +kernel⟩,
   ⟨ew 2 0 0 0 1 3, wEng 0x03 (ew 2 0 0 0 1 3) p0, p0, by decide +kernel⟩,
   ⟨0x04, .stc, .fenceC, ew 0 0 0 0 0 0, wEng 0x04 (ew 0 0 0 0 0 0) p0, p0, (by simp), by decide +kernel⟩,
   ⟨ew 0 0 0 0 0 3, wEng 0x07 (ew 0 0 0 0 0 3) p0, p0, by decide +kernel⟩,
   ⟨ew 0 4 0 0 0 3, setFld ENG_CAPCTL_ARM 1 (setFld ENG_CAPCTL_ALLB 1 (wEng 0x3D (ew 0 4 0 0 0 3) p0)), p0,
    by decide +kernel⟩,
   ⟨ew 0 0 0 0 0 3, lv (ENG_RT_A_COUNT 0) 0 (wEng 0x3E (ew 0 0 0 0 0 3) p0), p0, by decide +kernel⟩,
   ⟨ew 0 0 0 0 0 3, wEng 0x3E (ew 0 0 0 0 0 3) p0, p0, 0, by decide +kernel⟩⟩

theorem met_EngineTrapsAbortThePass :
    (∃ (op : Nat) (mk : EngWord → Instr) (fm : EngWord → Form) (e : EngWord) (s : State) (p : PassSt), ((op, mk, fm)
      ∈ engineOps) ∧ (Fetches s p) ∧ (InExtent s p) ∧ (progWord s p.pc = engWord op e) ∧ (issueCycle p ((fm e).reads
      e) < passBudget s p.pass) ∧ ((fm e).legal e = false)) ∧
    (∃ (op : Nat) (mk : EngWord → Instr) (fm : EngWord → Form) (s : State) (p : PassSt), ((op, mk, fm) ∈ engineOps)
      ∧ (Fetches s p) ∧ (InExtent s p) ∧ (opReserved (progWord s p.pc >>> 58) = true)) ∧
    (∃ (op : Nat) (mk : EngWord → Instr) (fm : EngWord → Form) (s : State) (p : PassSt), ((op, mk, fm) ∈ engineOps)
      ∧ (Fetches s p) ∧ (¬ InExtent s p)) ∧
    (∃ (e : EngWord) (s : State) (p : PassSt), (IssuesAt 0x02 e (bruForm e) s p) ∧ (p.pass < 64) ∧ (bruTaken e p s =
      true) ∧ ((p.pc : Int) + e.imm.toInt < (lfld s (ENG_RT_A_ENTRY p.pass) : Nat) ∨ ((lfld s (ENG_RT_A_ENTRY p.pass)
      + lfld s (ENG_RT_B_LEN p.pass) : Nat) : Int) ≤ (p.pc : Int) + e.imm.toInt)) ∧
    (∃ (s : State), (SMap.wf cellD s.eng.cells = true)) :=
  ⟨⟨0x10, .fadd, fun e => fp2Form e 3, ew 2 4 6 8 7 9, wEng 0x10 (ew 2 4 6 8 7 9) p0, p0, (by simp [engineOps,
    floatOps]), by decide +kernel⟩,
   ⟨0x00, .nop, plainForm, wEng 0x0F (ew 0 0 0 0 0 0) p0, p0, (by simp [engineOps, controlOps]), by decide +kernel⟩,
   ⟨0x00, .nop, plainForm, wEng 0 (ew 0 0 0 0 0 0) { p0 with pc := 16 }, { p0 with pc := 16 }, (by simp [engineOps,
    controlOps]), by decide +kernel⟩,
   ⟨ew 0 0 0 0 0 100, wEng 0x02 (ew 0 0 0 0 0 100) p0, p0, by decide +kernel, by decide +kernel, by decide +kernel,
    (Or.inr (by decide +kernel))⟩,
   ⟨wEng 0 (ew 0 0 0 0 0 0) p0, by decide +kernel⟩⟩

theorem met_EngineFloatingPointRuns :
    (∃ (a : Word) (b : Word) (s : Bool) (t : Bool) (p : Rat) (q : Rat), (fval a = .fin s p) ∧ (fval b = .fin t q)) ∧
    (∃ (a : Word) (b : Word), (isNaN a || isNaN b = true)) ∧
    (∃ (a : Word) (s : Bool) (q : Rat), (fval a = .fin s q)) ∧
    (∃ (op : Nat) (lat : Nat) (mk : EngWord → Instr) (g : Word → Word → FRes), ((op, lat, mk, g) ∈ [(0x10, 3,
      Instr.fadd, fAdd), (0x11, 3, Instr.fsub, fSub), (0x12, 3, Instr.fmul, fMul), (0x15, 2, Instr.fmin, fMin), (0x16,
      2, Instr.fmax, fMax)])) ∧
    (∃ (op : Nat) (lat : Nat) (mk : EngWord → Instr) (g : Word → Word → Word → FRes), ((op, lat, mk, g) ∈ [(0x13, 4,
      Instr.fma, fFma), (0x14, 4, Instr.fnma, fFnma), (0x19, 2, Instr.fclamp, fClamp)])) ∧
    (∃ (op : Nat) (lat : Nat) (mk : EngWord → Instr) (g : Word → FRes), ((op, lat, mk, g) ∈ [(0x17, 2, Instr.fabs,
      fAbs), (0x18, 2, Instr.fneg, fNeg), (0x1B, 8, Instr.frcp, fRcp), (0x1C, 8, Instr.frsq, fRsq)])) ∧
    (∃ (e : EngWord) (s : State) (p : PassSt), (IssuesAt 0x1A e (fcmpForm e) s p)) :=
  ⟨⟨0x3F800000#32, 0x3F800000#32, false, false, 1, 1, by decide +kernel⟩,
   ⟨0x7FC00000#32, 0#32, by decide +kernel⟩,
   ⟨0x3F800000#32, false, 1, by decide +kernel⟩,
   ⟨0x10, 3, .fadd, fAdd, (by simp)⟩,
   ⟨0x13, 4, .fma, fFma, (by simp)⟩,
   ⟨0x17, 2, .fabs, fAbs, (by simp)⟩,
   ⟨ew 2 4 6 0 2 0, wEng 0x1A (ew 2 4 6 0 2 0) p0, p0, by decide +kernel⟩⟩

theorem met_EngineFixedFunctionAndLaneRuns :
    (∃ (a : Word) (b : Word) (pr : Int), (pr = (a.toInt * b.toInt + 2 ^ 30) / 2 ^ 31)) ∧
    (∃ (a : Word) (s : Bool) (q : Rat), (fval a = .fin s q)) ∧
    (∃ (e : EngWord) (s : State) (p : PassSt) (l : Nat), (IssuesAt 0x2B e
      { ok := mVal e < 2, vd := .v, va := .v, imm := 0x3F, lat := 5 } s p) ∧ (p.pass < 64) ∧ ((writing s p e).head? =
      some l) ∧ (lflag s (ENG_TD_A_VALID (immBits e 0 6)) = false)) ∧
    (∃ (e : EngWord) (s : State) (p : PassSt), (IssuesAt 0x38 e (bcastForm e) s p) ∧ (mVal e = 2)) :=
  ⟨⟨0#32, 0#32, 0, by decide +kernel⟩,
   ⟨0x3F800000#32, false, 1, by decide +kernel⟩,
   ⟨ew 2 4 0 0 0 0, wEng 0x2B (ew 2 4 0 0 0 0) p0, p0, 0, by decide +kernel⟩,
   ⟨ew 2 4 0 0 2 1, wEng 0x38 (ew 2 4 0 0 2 1) p0, p0, by decide +kernel⟩⟩

theorem met_EnginePrimitivesRun :
    (∃ (a : Word) (b : Word) (c : Word) (s : Bool) (t : Bool) (u : Bool) (x : Rat) (y : Rat) (z : Rat) (q : Rat),
      (fval a = .fin s x) ∧ (fval b = .fin t y) ∧ (fval c = .fin u z) ∧ (q = x * mkRat 2 3 + y * mkRat (-1) 3 + z *
      mkRat (-1) 3) ∧ (pow2 (-126) ≤ ratAbs q) ∧ (ratAbs q < pow2 127)) ∧
    (∃ (a : Word) (b : Word) (sn : Word) (cs : Word) (s : Bool) (t : Bool) (u : Bool) (w : Bool) (x : Rat) (y : Rat)
      (g : Rat) (h : Rat) (q : Rat) (r : Rat), (fval a = .fin s x) ∧ (fval b = .fin t y) ∧ (fval sn = .fin u g) ∧
      (fval cs = .fin w h) ∧ (q = x * h + y * g) ∧ (r = y * h - x * g)) ∧
    (∃ (vdc : Word), (fval vdc = .nan ∨ fval vdc = .inf true ∨ ∃ (s : Bool) (v : Rat), fval vdc = .fin s v ∧ v ≤ 0)) ∧
    (∃ (a : Word) (b : Word) (vdc : Word) (s : Bool) (v : Rat), (isFin a = true) ∧ (isFin b = true) ∧ (fval vdc =
      .fin s v) ∧ (0 < v)) ∧
    (∃ (e : Word) (kp : Word) (kit : Word) (lo : Word) (hi : Word) (st : Word), (∀ w ∈ [e, kp, kit, lo, hi, st],
      isFin w = true) ∧ (fLe (fval lo) (fval hi) = true)) ∧
    (∃ (a : Word) (b : Word) (st : Word) (s : Bool) (t : Bool) (u : Bool) (x : Rat) (k : Rat) (z : Rat) (q : Rat),
      (fval a = .fin s x) ∧ (fval b = .fin t k) ∧ (fval st = .fin u z) ∧ (0 ≤ k) ∧ (k ≤ 1) ∧ (q = z + k * (x - z)) ∧
      (pow2 (-126) ≤ ratAbs q) ∧ (ratAbs q < pow2 127)) ∧
    (∃ (e : EngWord) (s : State) (p : PassSt) (l : Nat), (IssuesAt 0x2C e
      { ok := mVal e == 0, vd := .v, va := .v, vb := .v, vc := .v, imm := 0x01FF003F, lat := 6 } s p) ∧ (p.pass < 64)
      ∧ ((writing s p e).head? = some l) ∧ (lflag s (ENG_TD_A_VALID (immBits e 0 6)) = false)) :=
  ⟨⟨0x3F800000#32, 0#32, 0#32, false, false, false, 1, 0, 0, mkRat 2 3, by decide +kernel⟩,
   ⟨0x3F800000#32, 0#32, 0#32, 0x3F800000#32, false, false, false, false, 1, 0, 0, 1, 1, 0, by decide +kernel⟩,
   ⟨0x7FC00000#32, (Or.inl (by decide +kernel))⟩,
   ⟨0#32, 0#32, 0x3F800000#32, false, 1, by decide +kernel⟩,
   ⟨0#32, 0#32, 0#32, 0#32, 0x3F800000#32, 0#32, ones_finite, by decide +kernel⟩,
   ⟨0x3F800000#32, 0x3F000000#32, 0#32, false, false, false, 1, mkRat 1 2, 0, mkRat 1 2, by decide +kernel⟩,
   ⟨ew 2 4 6 8 0 0, wEng 0x2C (ew 2 4 6 8 0 0) p0, p0, 0, by decide +kernel⟩⟩

theorem met_EngineLoadsAndStores_EngineLoadsRead :
    (∃ (op : Nat) (mk : EngWord → Instr) (ld : Bool) (pd : Bool) (idx : State → EngWord → PassSt → Nat → Option Nat)
      (e : EngWord) (s : State) (p : PassSt) (l : Nat), ((op, mk, ld, pd, idx) ∈ memoryOps) ∧ (IssuesAt op e (memForm
      e ld pd) s p) ∧ (p.pass < 64) ∧ ((writing s p e).find? (fun l => (idx s e p l).isNone) = some l)) :=
  ⟨0x0A, .ldx, true, false, fun _ e p l => wordIndex 1024 e p l, ew 2 0 0 0 0 1024, wEng 0x0A (ew 2 0 0 0 0 1024)
    p0, p0, 0, (by simp [memoryOps]), by decide +kernel⟩

theorem met_EngineLoadsAndStores_EngineStoresArePending :
    (∃ (e : EngWord) (s : State) (p : PassSt), (IssuesAt 0x09 e (memForm e false false) s p) ∧ (∀ l ∈ writing s p e,
      (stateIndex s e p l).isSome = true)) ∧
    (∃ (e : EngWord) (s : State) (p : PassSt), (IssuesAt 0x0B e (memForm e false false) s p) ∧ (p.flight = []) ∧ (∀
      l ∈ writing s p e, memIndex e p l < 416)) ∧
    (∃ (e : EngWord) (s : State) (p : PassSt), (IssuesAt 0x0E e (memForm e false false) s p) ∧ (p.flight = []) ∧ (∀
      l ∈ writing s p e, memIndex e p l < 8192)) :=
  ⟨⟨ew 0 0 0 8 0 3, wEng 0x09 (ew 0 0 0 8 0 3) p0, p0, by decide +kernel⟩,
   ⟨ew 0 0 0 8 0 3, wEng 0x0B (ew 0 0 0 8 0 3) p0, p0, by decide +kernel⟩,
   ⟨ew 0 0 0 8 0 3, wEng 0x0E (ew 0 0 0 8 0 3) p0, p0, by decide +kernel⟩⟩

theorem met_InjectionGenerators :
    (∃ (n : Fin 4) (m : Mask) (d : Word) (v : Word) (s : State), (v = clWord s (ENG_IG_CFG n.val) m d) ∧ (m.getLsbD
      3 = true) ∧ ((ENG_IG_CFG_RUN n.val).of d = 1) ∧ ((ENG_IG_CFG_RUN n.val).of v = 1) ∧ ((ENG_IG_CFG_KIND n.val).of
      v ≠ 3) ∧ (fld s (ENG_IG_LEN_TICKS n.val) ≠ 0)) ∧
    (∃ (n : Fin 4) (m : Mask) (d : Word) (v : Word) (s : State), (v = clWord s (ENG_IG_CFG n.val) m d) ∧ (m.getLsbD
      3 = true) ∧ ((ENG_IG_CFG_RUN n.val).of d = 0) ∧ ((ENG_IG_CFG_RUN n.val).of v = 0)) ∧
    (∃ (n : Fin 4) (s : State), ((ig s n.val).running = true) ∧ ((ig s n.val).advDue = true)) ∧
    (∃ (n : Fin 4) (s : State), ((ig s n.val).running = true) ∧ (fld s (ENG_IG_LEN_TICKS n.val) ≤ (ig s n.val).k)) :=
  ⟨⟨0, 0xF#4, fw (ENG_IG_CFG_RUN 0) 1 0, clWord (setFld (ENG_IG_LEN_TICKS 0) 9 w0) (ENG_IG_CFG 0) 0xF#4 (fw
    (ENG_IG_CFG_RUN 0) 1 0), setFld (ENG_IG_LEN_TICKS 0) 9 w0, rfl, by decide +kernel⟩,
   ⟨0, 0xF#4, 0#32, clWord w0 (ENG_IG_CFG 0) 0xF#4 0#32, w0, rfl, by decide +kernel⟩,
   ⟨0, updEng (fun x => { x with igs := [(0, { running := true, advDue := true })] }) w0, by decide +kernel⟩,
   ⟨0, updEng (fun x => { x with igs := [(0, { running := true, advDue := true })] }) w0, by decide +kernel⟩⟩

theorem met_CarrierPointsAndSampling_CarrierPointsDecideTheLeg :
    (∃ (l : Fin 96) (t : Time) (s : State), (pointDue s l.val t = true) ∧ (isUpdate s l.val (pointAt s l.val t) =
      true) ∧ (driven s l.val = true) ∧ (disWaits s l.val t = false) ∧ ((leg s l.val).srcBad = false ∨ (grp s (legGrp
      s l.val)).kind = 4)) ∧
    (∃ (l : Fin 96) (t : Time) (s : State), (pointDue s l.val t = true) ∧ (isUpdate s l.val (pointAt s l.val t) =
      true) ∧ (driven s l.val = true) ∧ ((leg s l.val).srcBad = true) ∧ ((grp s (legGrp s l.val)).kind ≠ 4)) ∧
    (∃ (l : Fin 96) (t : Time) (s : State), (pointDue s l.val t = true) ∧ (isUpdate s l.val (pointAt s l.val t) =
      false) ∧ (driven s l.val = true) ∧ (disWaits s l.val t = false)) ∧
    (∃ (l : Fin 96) (t : Time) (s : State), (pointDue s l.val t = true) ∧ (isUpdate s l.val (pointAt s l.val t) =
      true) ∧ (driven s l.val = false)) ∧
    (∃ (rise : Bool) (x : LegSt) (b : Bool) (a : Time), (x.lastEdge = some (b, a)) ∧ (b ≠ rise)) :=
  ⟨⟨0, 0, av (MOD_LEG_CFG_UPD 0) 1 (wLeg id), by decide +kernel⟩,
   ⟨0, 0, av (MOD_LEG_CFG_UPD 0) 1 (wLeg fun x => { x with srcBad := true }), by decide +kernel⟩,
   ⟨0, 0, av (MOD_LEG_CFG_UPD 0) 2 (wLeg id), by decide +kernel⟩,
   ⟨0, 0, updGrp 0 (fun g => { g with hold := true }) (av (MOD_LEG_CFG_UPD 0) 1 (wLeg id)), by decide +kernel⟩,
   ⟨true, { ideal := some false, idealAt := 0 }, false, 0, by decide +kernel⟩⟩

theorem met_EdgesMoveTheGates_IdealEdgesMoveTheGates :
    (∃ (l : Fin 96) (s : State) (e : Edge) (r : List Edge) (sd : Side), ((leg s l.val).plan = e :: r) ∧ (driven s
      l.val = true) ∧ ((leg s l.val).latch = false ∨ e.rise = true ∧ latchMayClear s l.val = true) ∧ ((cl s (l.val /
      6)).low = false) ∧ (sd = (if e.rise then .high else .low))) ∧
    (∃ (l : Fin 96) (s : State) (e : Edge) (r : List Edge), ((leg s l.val).plan = e :: r) ∧ (driven s l.val = true)
      ∧ ((leg s l.val).latch = true) ∧ (e.rise = false ∨ latchMayClear s l.val = false)) ∧
    (∃ (l : Fin 96) (s : State) (e : Edge) (r : List Edge), ((leg s l.val).plan = e :: r) ∧ (driven s l.val = true)
      ∧ ((cl s (l.val / 6)).low = true)) :=
  ⟨⟨0, wLeg fun x => { x with plan := [⟨0, true⟩] }, ⟨0, true⟩, [], .high, by decide +kernel⟩,
   ⟨0, wLeg fun x => { x with plan := [⟨0, true⟩], latch := true, l := { x.l with cfm := false } }, ⟨0, true⟩, [],
    by decide +kernel⟩,
   ⟨0, updCl 0 (fun c => { c with low := true }) (wLeg fun x => { x with plan := [⟨0, true⟩] }), ⟨0, true⟩, [],
    by decide +kernel⟩⟩

theorem met_EdgesMoveTheGates_GateRisesOnlyUnderTheInterlock :
    (∃ (l : Fin 96) (sd : Side) (t : Time) (w : Time) (s : State), (((leg s l.val).gate sd).want = some w) ∧ (w ≤ t)
      ∧ (interlockOk s l.val sd t = true) ∧ (t ≤ deadline s l.val sd w) ∧ (bankUp s (l.val / 6) = true)) ∧
    (∃ (l : Nat) (sd : Side) (sd' : Side) (t : Time) (s : State), (((leg s l).gate sd').on = false) ∧ (((leg
      (turnOnIfReady l sd t s) l).gate sd').on = true)) ∧
    (∃ (l : Fin 96) (sd : Side) (t : Time) (s : State), (interlockOk s l.val sd t = false ∨ bankUp s (l.val / 6) =
      false)) :=
  ⟨⟨0, .high, late, late, wLeg fun x => { x with h := { x.h with want := some late } }, by decide +kernel⟩,
   ⟨0, .high, .high, late, wLeg fun x => { x with h := { x.h with want := some late } }, by decide +kernel⟩,
   ⟨0, .high, 0, wLeg fun x => { x with l := { x.l with on := true } }, by decide +kernel⟩⟩

theorem met_StatusFaultsLowerTheLeg :
    (∃ (l : Fin 96) (sd : Side) (v : Bool) (s : State), (hasLeg s l.val = true) ∧ (((leg s l.val).gate sd).cfm ≠ v)) ∧
    (∃ (l : Fin 96) (sd : Side) (t : Time) (w : Time) (s : State), (((leg s l.val).gate sd).want = some w) ∧ (legOn
      s l.val = true) ∧ (((leg s l.val).gate sd.other).on = false) ∧ (deadline s l.val sd w ≤ t) ∧ (interlockOk s
      l.val sd t = false)) ∧
    (∃ (l : Fin 96) (sd : Side) (t : Time) (s : State) (g : Gate), (g = (leg s l.val).gate sd) ∧ (legOn s l.val =
      true) ∧ (ticking s = true) ∧ (g.disagrees = true) ∧ (g.stuckSeen = false) ∧ (max g.edgeAt g.cfmAt + stuckT s <
      t)) :=
  ⟨⟨0, .high, false, wLeg id, by decide +kernel⟩,
   ⟨0, .high, late, 0, wLeg fun x => { x with h := { x.h with want := some 0 }, l := { x.l with cfm := false } },
    by decide +kernel⟩,
   ⟨0, .high, late, wLeg fun x => { x with h := { x.h with cfm := false } }, (leg (wLeg fun x =>
    { x with h := { x.h with cfm := false } }) 0).gate .high, rfl, by decide +kernel⟩⟩

theorem met_CarrierPointsAndSampling_SamplingAndDiagnosis :
    (∃ (s : State), (ticking s = true) ∧ (s.tbLost = false)) ∧
    (∃ (l : Fin 96) (s : State), (legOn s l.val = true) ∧ (aflag s (MOD_LEG_DIAG_DIAGEN l.val) = true) ∧ (aflag s
      (MOD_GRP_CFG_DINS (legGrp s l.val)) = false) ∧ (afld s (MOD_LEG_DIAG_N l.val) ≤ (leg s l.val).undiag) ∧ ((leg s
      l.val).undiagSet = false)) ∧
    (∃ (l : Fin 96) (s : State), (driven s l.val = true) ∧ ((grp s (legGrp s l.val)).hold = false) ∧ (aflag s
      (MOD_LEG_DIAG_DIAGEN l.val) = true) ∧ (aflag s (MOD_GRP_CFG_DINS (legGrp s l.val)) = true) ∧ (afld s
      (MOD_LEG_DIAG_N l.val) ≤ (leg s l.val).undiag) ∧ ((leg s l.val).diagOn = false) ∧ ((leg s l.val).withheld =
      false) ∧ ((leg s l.val).duty.isSome = true) ∧ ((leg s l.val).idealAt ≤ (leg s l.val).periodAt)) :=
  ⟨⟨av (MOD_GRP_CFG_SMP 0) 1 (wLeg id), by decide +kernel⟩,
   ⟨0, av (MOD_LEG_DIAG_DIAGEN 0) 1 (wLeg fun x => { x with undiag := 100000 }), by decide +kernel⟩,
   ⟨0, av (MOD_GRP_CFG_DINS 0) 1 (av (MOD_LEG_DIAG_DIAGEN 0) 1 (wLeg fun x =>
    { x with undiag := 100000, duty := some 0 })), by decide +kernel⟩⟩

theorem met_DebugHaltAndTimebaseLoss :
    (∃ (u : Fin 8) (t : Time) (s : State), (hasUnit s u.val = true) ∧ (u.val ≠ 7) ∧ (ticking s = true) ∧ (dbgActs
      (upto t s) = true)) ∧
    (∃ (t : Time) (s : State), (ticking s = true) ∧ (hasUnit s 7 = true) ∧ (dbgActs (upto t s) = true)) ∧
    (∃ (u : Fin 8) (t : Time) (s : State), (hasUnit s u.val = true) ∧ (ticking s = false) ∧ (dbgActs (upto t s) =
      true)) ∧
    (∃ (u : Fin 8) (t : Time) (s : State), (hasUnit s u.val = false ∨ dbgActs (upto t s) = false)) ∧
    (∃ (u : Fin 8), (u.val ≠ 7)) ∧
    (∃ (s : State), (s.tbLost = false)) :=
  ⟨⟨0, 0, wDbg, by decide +kernel⟩,
   ⟨0, wDbg, by decide +kernel⟩,
   ⟨0, 0, updTick (fun k => { k with run := .stopped }) wDbg, by decide +kernel⟩,
   ⟨0, 0, w0, by decide +kernel⟩,
   ⟨0, by decide +kernel⟩,
   ⟨w0, by decide +kernel⟩⟩

theorem met_FaultLineLowersTheCluster :
    (∃ (c : Fin 16) (s : State), (hasCluster s c.val = true) ∧ ((cl s c.val).low = false)) ∧
    (∃ (c : Fin 16) (s : State), ((cl s c.val).low = true)) ∧
    (∃ (c : Fin 16) (t : Time) (s : State), ((cl s c.val).low = true) ∧ ((cl s c.val).hardDone = false) ∧ ((cl s
      c.val).lowAt + hardT s ≤ t)) :=
  ⟨⟨0, w0, by decide +kernel⟩,
   ⟨0, updCl 0 (fun c => { c with low := true }) w0, by decide +kernel⟩,
   ⟨0, late, updCl 0 (fun c => { c with low := true }) w0, by decide +kernel⟩⟩

theorem met_ProfileBusFramesAndPolls_ProfileBusSends :
    (∃ (c : Fin 16) (t : Time) (s : State), ((cl s c.val).low = true) ∧ ((cl s c.val).pollAt + 10 * us ≤ t) ∧ (busUp
      s c.val = true) ∧ ((cl s c.val).poll = none)) ∧
    (∃ (c : Fin 16) (s : State), (busUp s c.val = true) ∧ (afld s (GLK_CL_CFG_POLL c.val) ≠ 0) ∧ (s.tick.tcnt % afld
      s (GLK_CL_CFG_POLL c.val) = 0) ∧ ((cl s c.val).perTick ≠ some s.tick.count) ∧ (s.tick.tcnt ≠ 0 ∨ (cl s
      c.val).started = true) ∧ ((cl s c.val).poll = none)) ∧
    (∃ (c : Fin 16) (t : Time) (s : State), (busUp s c.val = true) ∧ (busFree s c.val t = true)) ∧
    (∃ (l : Fin 96) (sd : Side) (t : Time) (s : State), (legOn s l.val = true) ∧ (busUp s (l.val / 6) = true) ∧
      (busFree s (l.val / 6) t = true) ∧ (((leg s l.val).gate sd).sent ≠ some (sideCodes s l.val sd))) ∧
    (∃ (l : Fin 96) (t : Time) (s : State), (legOn s l.val = true) ∧ (busUp s (l.val / 6) = true) ∧ (busFree s
      (l.val / 6) t = true) ∧ ((leg s l.val).cfgSent = false)) :=
  ⟨⟨0, late, wBus fun c => { c with low := true }, by decide +kernel⟩,
   ⟨0, av (GLK_CL_CFG_POLL 0) 4 (wBus fun c => { c with started := true }), by decide +kernel⟩,
   ⟨0, 0, wBus id, by decide +kernel⟩,
   ⟨0, .high, 0, wBus id, by decide +kernel⟩,
   ⟨0, 0, wBus id, by decide +kernel⟩⟩

theorem met_ProfileBusFramesAndPolls_ProfileBusReplies :
    (∃ (c : Fin 16) (a : Fin 6) (r : BitVec 16) (t : Time) (s : State) (l : Nat), (l = 6 * c.val + a.val) ∧ (slotDue
      (cl s c.val) a.val t = true) ∧ (askDue (cl s c.val) a.val t = false) ∧ (legOn s l = true) ∧ (replyOk a.val r =
      true) ∧ (r.getLsbD 14 = false) ∧ (r.getLsbD 13 = false) ∧ (r.getLsbD 12 = false) ∧ (r.getLsbD 10 = false) ∧ ((cl
      s c.val).asked.isSome = true → t < (cl s c.val).askAt + askTime)) ∧
    (∃ (c : Fin 16) (a : Fin 6) (r : BitVec 16) (t : Time) (s : State) (l : Nat), (l = 6 * c.val + a.val) ∧ (slotDue
      (cl s c.val) a.val t = true) ∧ (askDue (cl s c.val) a.val t = false) ∧ (legOn s l = true) ∧ (replyOk a.val r =
      true) ∧ (r.getLsbD 14 = true) ∧ (s.tbLost = false)) ∧
    (∃ (c : Fin 16) (a : Fin 6) (r : BitVec 16) (t : Time) (s : State) (l : Nat), (l = 6 * c.val + a.val) ∧ (slotDue
      (cl s c.val) a.val t = true) ∧ (askDue (cl s c.val) a.val t = false) ∧ (legOn s l = true) ∧ (replyOk a.val r =
      false)) ∧
    (∃ (c : Fin 16) (t : Time) (p : Time) (s : State), ((cl s c.val).poll = some p) ∧ (p + pollTime ≤ t) ∧ ((cl s
      c.val).again = false) ∧ (∀ l ∈ clLegs s c.val, (cl s c.val).seen.getLsbD (l % 6) = true) ∧ ((cl s
      c.val).asked.isSome = true → t < (cl s c.val).askAt + askTime)) ∧
    (∃ (c : Fin 16) (t : Time) (p : Time) (s : State) (l : Nat), ((cl s c.val).poll = some p) ∧ (p + pollTime ≤ t) ∧
      ((cl s c.val).again = false) ∧ (l ∈ clLegs s c.val) ∧ ((cl s c.val).seen.getLsbD (l % 6) = false)) ∧
    (∃ (c : Fin 16) (a : Nat) (t : Time) (s : State), ((cl s c.val).asked = some a) ∧ ((cl s c.val).askAt + askTime
      ≤ t) ∧ (legOn s (6 * c.val + a) = true) ∧ ((cl s c.val).poll = none)) :=
  ⟨⟨0, 0, (BitVec.ofNat 16 (16 * 0 + crc4 11 0)), late, wBus fun c => { c with poll := some 0 }, 0,
    by decide +kernel⟩,
   ⟨0, 0, (BitVec.ofNat 16 (16 * 1024 + crc4 11 1024)), late, wBus fun c => { c with poll := some 0 }, 0,
    by decide +kernel⟩,
   ⟨0, 0, 0xFFFF#16, late, wBus fun c => { c with poll := some 0 }, 0, by decide +kernel⟩,
   ⟨0, late, 0, wBus fun c => { c with poll := some 0, seen := 63 }, by decide +kernel⟩,
   ⟨0, late, 0, wBus fun c => { c with poll := some 0 }, 0, by decide +kernel⟩,
   ⟨0, 0, late, wBus fun c => { c with asked := some 0 }, by decide +kernel⟩⟩

theorem met_SafeStateSequence :
    (∃ (g : Nat) (s : State), ((grp s g).hold = false)) ∧
    (∃ (g : Fin 16) (t : Time) (s : State) (sd : Side), ((grp s g.val).hold = true) ∧ ((grp s g.val).step = 2) ∧
      (pollsDone s g.val = true) ∧ ((grp s g.val).side = some sd) ∧ ((grp s g.val).rechoose = false) ∧ (∀ l ∈ grpLegs
      s g.val, waited s sd t l = true)) ∧
    (∃ (l : Fin 96) (t : Time) (s : State) (sd : Side) (x : GrpSt), (x = grp s (legGrp s l.val)) ∧ (x.side = some
      sd) ∧ (legOn s l.val = true) ∧ (s.tbLost = false) ∧ (x.hold = true) ∧ (x.step = 4) ∧ (((leg s l.val).gate sd).on
      = true) ∧ (((leg s l.val).gate sd).cfm = true) ∧ (x.onAt + confirmTmo s ≤ t)) ∧
    (∃ (l : Fin 96) (t : Time) (s : State) (sd : Side) (x : GrpSt), (x = grp s (legGrp s l.val)) ∧ (x.side = some
      sd) ∧ (legOn s l.val = true) ∧ (s.tbLost = false) ∧ (x.hold = true) ∧ (x.step = 2) ∧ ((leg s l.val).excl =
      false) ∧ (((leg s l.val).gate sd.other).cfm = false) ∧ (((leg s l.val).gate sd.other).stuckOn = false) ∧
      (x.stepAt + deadTime s l.val + confirmTmo s ≤ t)) :=
  ⟨⟨0, wLeg id, by decide +kernel⟩,
   ⟨0, late, updGrp 0 (fun g => { g with hold := true, step := 2, side := some .low }) (wLeg id), .low,
    by decide +kernel⟩,
   ⟨0, late, updGrp 0 (fun g => { g with hold := true, step := 4, side := some .low }) (wLeg fun x =>
    { x with l := { x.l with on := true, cfm := true } }), .low, grp (updGrp 0 (fun g =>
    { g with hold := true, step := 4, side := some .low }) (wLeg fun x =>
    { x with l := { x.l with on := true, cfm := true } })) 0, rfl, by decide +kernel⟩,
   ⟨0, late, updGrp 0 (fun g => { g with hold := true, step := 2, side := some .low }) (wLeg fun x =>
    { x with h := { x.h with cfm := false } }), .low, grp (updGrp 0 (fun g =>
    { g with hold := true, step := 2, side := some .low }) (wLeg fun x => { x with h := { x.h with cfm := false } }))
    0, rfl, by decide +kernel⟩⟩

theorem met_ReleaseAndLeaving :
    (∃ (g : Fin 16) (gs : BitVec 16) (s : State), (gs.getLsbD g.val = true) ∧ (ticking s = true) ∧ ((grp s
      g.val).hold = true) ∧ ((grp s g.val).step ≠ 6) ∧ (grpStarted s g.val = true) ∧ (releaseOk s g.val = true)) ∧
    (∃ (g : Fin 16) (gs : BitVec 16) (s : State), (gs.getLsbD g.val = true) ∧ (ticking s = true) ∧ ((grp s
      g.val).hold = true) ∧ ((grp s g.val).step ≠ 6) ∧ (grpStarted s g.val = true) ∧ (releaseOk s g.val = false)) ∧
    (∃ (g : Fin 16) (gs : BitVec 16) (s : State), (gs.getLsbD g.val = true) ∧ (ticking s = false)) ∧
    (∃ (g : Fin 16) (t : Time) (s : State), ((grp s g.val).hold = true) ∧ ((grp s g.val).step = 6) ∧ (∀ l ∈ grpLegs
      s g.val, (leg s l).excl = true ∨ gateQuiet s l .high t = true ∧ gateQuiet s l .low t = true)) ∧
    (∃ (g : Fin 16) (t : Time) (s : State), ((grp s g.val).hold = true) ∧ ((grp s g.val).step = 6) ∧ (unquiet s
      g.val t ≠ [])) :=
  ⟨⟨0, 1, updGrp 0 (fun g => { g with hold := true, step := 5 }) (setFld ENG_STAT_STATE 1 (setFld ENG_CTRL_RUN 1
    (updCl 0 (fun c => { c with started := true, clean := true }) (wLeg id)))), by decide +kernel⟩,
   ⟨0, 1, updGrp 0 (fun g => { g with hold := true, step := 5 }) (setFld ENG_STAT_STATE 1 (setFld ENG_CTRL_RUN 1
    (updCl 0 (fun c => { c with started := true, clean := false }) (wLeg id)))), by decide +kernel⟩,
   ⟨0, 1, State.reset, by decide +kernel⟩,
   ⟨0, late, updGrp 0 (fun g => { g with hold := true, step := 6 }) (wLeg id), by decide +kernel⟩,
   ⟨0, late, updGrp 0 (fun g => { g with hold := true, step := 6 }) (wLeg fun x =>
    { x with h := { x.h with cfm := false } }), by decide +kernel⟩⟩

theorem met_FiltersAndInputClocks_FilterResultsAreKept :
    (∃ (i : Fin 112) (t : Time) (s : State) (o : Nat) (osr : Nat), (chOn s i.val = true) ∧ (mainDue s i.val t =
      true) ∧ (o = mainOrder s i.val) ∧ (osr = lfld s (BSI_CH_CFG_MOSR i.val))) ∧
    (∃ (i : Fin 112) (t : Time) (s : State), (chOn s i.val = true) ∧ (mainDue s i.val t = false)) ∧
    (∃ (i : Fin 112) (bs : List Bool) (t : Time) (s : State) (osr : Nat) (r : Word), (chOn s i.val = true) ∧ (lflag
      s (BSI_CH_CFG_FEN i.val) = true) ∧ (osr = lfld s (BSI_CH_CFG_FOSR i.val)) ∧ (clocked s i.val osr (chan s
      i.val).fastAt t = true) ∧ (r = sincRaw 2 osr bs)) ∧
    (∃ (i : Fin 112) (s : State), (chOn s i.val = false ∨ lflag s (BSI_CH_CFG_FEN i.val) = false)) ∧
    (∃ (r : Word) (w : Word) (d : Time) (l : Nat) (s : State), (legOn s l = true) ∧ ((leg s l).scLast = some w) ∧
      (slopeOver r w d (afld s (GLK_LEG_SCT_THR l)) = true) ∧ (afld s (GLK_LEG_SC_SCM l) ≤ (leg s l).scN + 1)) :=
  ⟨⟨0, late, wCh, mainOrder wCh 0, lfld wCh (BSI_CH_CFG_MOSR 0), by decide +kernel, by decide +kernel, rfl, rfl⟩,
   ⟨0, 0, wCh, by decide +kernel⟩,
   ⟨0, [], late, lv (BSI_CH_CFG_FEN 0) 1 wCh, lfld (lv (BSI_CH_CFG_FEN 0) 1 wCh) (BSI_CH_CFG_FOSR 0), sincRaw 2 (lfld
    (lv (BSI_CH_CFG_FEN 0) 1 wCh) (BSI_CH_CFG_FOSR 0)) [], by decide +kernel, by decide +kernel, rfl,
    by decide +kernel, rfl⟩,
   ⟨0, wCh, by decide +kernel⟩,
   ⟨0x40000000#32, 0#32, 0, 0, av (GLK_LEG_SCT_THR 0) 0 (av (GLK_LEG_SC_SCM 0) 1 (wLeg fun x =>
    { x with scLast := some 0 })), by decide +kernel⟩⟩

theorem met_FiltersAndInputClocks_InputClockLossAndRecovery :
    (∃ (k : Fin 14) (s : State), (hasClk s k.val = true) ∧ (lflag s (BSI_CLK_DIR k.val) = false) ∧ ((fld s
      BSI_CLKST_CLKOK).testBit k.val = true)) ∧
    (∃ (k : Fin 14) (p : Span) (s : State), (hasClk s k.val = true) ∧ (lflag s (BSI_CLK_DIR k.val) = false) ∧ ((fld
      s BSI_CLKST_CLKOK).testBit k.val = false) ∧ (SMap.get natD s.clkLost k.val ≤ p.since) ∧ (p.since + 64 * clkMin ≤
      p.till) ∧ (p.till ≤ p.since + 64 * clkMax)) ∧
    (∃ (k : Fin 14) (p : Span) (s : State), (p.since < SMap.get natD s.clkLost k.val ∨ p.till < p.since + 64 *
      clkMin)) :=
  ⟨⟨0, setFld BSI_CLKST_CLKOK 1 w0, by decide +kernel⟩,
   ⟨0, ⟨0, 64 * clkMin⟩, setFld BSI_CLKST_CLKOK 0 w0, by decide +kernel⟩,
   ⟨0, ⟨0, 0⟩, w0, by decide +kernel⟩⟩

theorem met_CalibrationAndRelief_CalibrationRequestAndTimeout :
    (∃ (m : Mask) (d : Word) (v : Word) (s : State), (m.getLsbD 3 = true) ∧ (v = clWord s BSI_CALREQ m d) ∧
      (BSI_CALREQ_GO.of v = 1) ∧ (s.cal = none) ∧ (fld s TKC_RBSTAT_STATE = 1 → s.tick.rbPart.getLsbD (if
      BSI_CALREQ_SRC.of v = 1 then 6 else 5) = false) ∧ (BSI_CALREQ_FIRST.of v ≤ BSI_CALREQ_LAST.of v) ∧
      (BSI_CALREQ_SRC.of v = 1 → BSI_CALREQ_LAST.of v < 128) ∧ (BSI_CALREQ_SRC.of v = 0 → hasBs s (BSI_CALREQ_LAST.of
      v) = true) ∧ (6 ≤ BSI_CALREQ_NLOG2.of v) ∧ (BSI_CALREQ_NLOG2.of v ≤ 14) ∧ (bits v.toNat 28 2 = 0) ∧ (bits
      v.toNat 16 4 = 0)) ∧
    (∃ (m : Mask) (d : Word) (v : Word) (s : State), (m.getLsbD 3 = true) ∧ (v = clWord s BSI_CALREQ m d) ∧
      (BSI_CALREQ_GO.of v = 1) ∧ (s.cal.isSome = true ∨ fld s TKC_RBSTAT_STATE = 1 ∧ s.tick.rbPart.getLsbD (if
      BSI_CALREQ_SRC.of v = 1 then 6 else 5) = true)) ∧
    (∃ (m : Mask) (d : Word) (v : Word) (s : State), (m.getLsbD 3 = true) ∧ (v = clWord s BSI_CALREQ m d) ∧
      (BSI_CALREQ_GO.of v = 1) ∧ (s.cal = none) ∧ (fld s TKC_RBSTAT_STATE ≠ 1) ∧ (BSI_CALREQ_LAST.of v <
      BSI_CALREQ_FIRST.of v ∨ BSI_CALREQ_NLOG2.of v < 6 ∨ 14 < BSI_CALREQ_NLOG2.of v)) ∧
    (∃ (s : State) (c : CalSt) (ch : Nat), (s.cal = some c) ∧ (c.startTick + 65536 ≤ s.tick.count) ∧ (ch < 128) ∧
      ((calChans c).find? (fun i => (SMap.get calD c.sums i).1 < c.count) = some ch)) :=
  ⟨⟨0xF#4, fw BSI_CALREQ_GO 1 (fw BSI_CALREQ_NLOG2 6 0), clWord w0 BSI_CALREQ 0xF#4 (fw BSI_CALREQ_GO 1 (fw
    BSI_CALREQ_NLOG2 6 0)), w0, by decide +kernel, rfl, by decide +kernel⟩,
   ⟨0xF#4, fw BSI_CALREQ_GO 1 (fw BSI_CALREQ_NLOG2 6 0), clWord ({ w0 with cal := some {} }) BSI_CALREQ 0xF#4 (fw
    BSI_CALREQ_GO 1 (fw BSI_CALREQ_NLOG2 6 0)), { w0 with cal := some {} }, by decide +kernel, rfl, by decide +kernel⟩,
   ⟨0xF#4, fw BSI_CALREQ_GO 1 (fw BSI_CALREQ_FIRST 3 0), clWord w0 BSI_CALREQ 0xF#4 (fw BSI_CALREQ_GO 1 (fw
    BSI_CALREQ_FIRST 3 0)), w0, by decide +kernel, rfl, by decide +kernel⟩,
   ⟨updTick (fun k => { k with count := 70000 }) { w0 with cal := some {} }, {}, 0, by decide +kernel⟩⟩

theorem met_CalibrationAndRelief_CalibrationIsJudged :
    (∃ (s : State) (c : CalSt), (s.cal = some c) ∧ (c.last < 128) ∧ (∀ ch ∈ calChans c, c.count ≤ (SMap.get calD
      c.sums ch).1 ∧ calJudge s c ch = 0) ∧ (c.bad = none)) ∧
    (∃ (s : State) (c : CalSt) (ch : Nat), (s.cal = some c) ∧ (c.last < 128) ∧ (∀ i ∈ calChans c, c.count ≤
      (SMap.get calD c.sums i).1) ∧ (c.bad = none) ∧ ((calChans c).find? (fun i => calJudge s c i != 0) = some ch)) ∧
    (∃ (s : State) (c : CalSt), (s.cal = some c) ∧ (c.first < 128) ∧ (grpState (grp s c.grp) ≠ 1)) ∧
    (∃ (s : State) (c : CalSt), (s.cal = some c) ∧ (c.first < 128) ∧ (grpState (grp s c.grp) = 1) ∧ (calSlow s c.grp
      = false)) :=
  ⟨⟨{ w0 with cal := some { sums := [(0, 64, 0, 0)] } }, { sums := [(0, 64, 0, 0)] }, by decide +kernel⟩,
   ⟨{ w0 with cal := some { sums := [(0, 64, 640000, 0)] } }, { sums := [(0, 64, 640000, 0)] }, 0, by decide +kernel⟩,
   ⟨updGrp 0 (fun g => { g with hold := false }) { w0 with cal := some {} }, {}, by decide +kernel⟩,
   ⟨setLive BSI_CALSPD 0xBF800000#32 (updGrp 0 (fun g => { g with hold := true, step := 5 })
    { w0 with cal := some {} }), {}, by decide +kernel⟩⟩

theorem met_CalibrationAndRelief_SampleWordsAreCorrected :
    (∃ (w : Nat), (w < 579)) ∧
    (∃ (s : State) (i : Nat) (r : Word), (i < 112) ∧ (hasBs s i = true) ∧ ((chan s i).raw = some r)) ∧
    (∃ (s : State) (i : Nat) (r : Word), (i < 112) ∧ (hasBs s i = true) ∧ ((chan s i).fastRaw = some r)) ∧
    (∃ (s : State) (j : Nat) (c : Nat), (j < 128) ∧ ((slot s j).code = some c)) ∧
    (∃ (s : State) (i : Nat), (i < 112) ∧ ((chan s i).raw = none)) ∧
    (∃ (s : State) (j : Nat), (j < 128) ∧ ((slot s j).code = none)) :=
  ⟨⟨0, by decide +kernel⟩,
   ⟨updChan 0 (fun x => { x with raw := some 5#32, fastRaw := some 5#32 }) wCh, 0, 5#32, by decide +kernel⟩,
   ⟨updChan 0 (fun x => { x with raw := some 5#32, fastRaw := some 5#32 }) wCh, 0, 5#32, by decide +kernel⟩,
   ⟨updSlot 0 (fun x => { x with code := some 5 }) w0, 0, 5, by decide +kernel⟩,
   ⟨w0, 0, by decide +kernel⟩,
   ⟨w0, 0, by decide +kernel⟩⟩

theorem met_CalibrationAndRelief_FilterRelief :
    (∃ (s : State) (ch : Nat) (sp : Nat) (rest : List Nat), (nextRelief s = some ch) ∧ (s.rel.spares = sp :: rest) ∧
      (ticking s = true) ∧ (lfld s BSI_SPARE_ROT ≠ 0) ∧ (s.rel.run = none) ∧ (s.rel.tick + lfld s BSI_SPARE_ROT ≤
      s.tick.count)) ∧
    (∃ (t : Time) (s : State) (ch : Nat) (sp : Nat), (s.rel.run = some (ch, sp)) ∧ (comparedAll s ch t = true)) ∧
    (∃ (t : Time) (s : State) (ch : Nat) (sp : Nat), (s.rel.run = some (ch, sp)) ∧ (comparedAll s ch t = true)) ∧
    (∃ (s : State) (ch : Nat) (sp : Nat), (s.rel.run = some (ch, sp)) ∧ (s.rel.mains < 4)) ∧
    (∃ (u : Fin 116) (mean : Int) (s : State), (s.rel.testing.contains u.val = true) ∧ (s.rel.suspects.find? (fun x
      => x.1 == u.val) = none) ∧ (mean - tmodLevel s ≤ 2000) ∧ (tmodLevel s - mean ≤ 2000)) ∧
    (∃ (u : Fin 116) (mean : Int) (s : State), (s.rel.testing.contains u.val = true) ∧ (2000 < mean - tmodLevel s ∨
      2000 < tmodLevel s - mean)) ∧
    (∃ (u : Fin 116) (mean : Int) (s : State) (v : Nat) (ch : Nat), (s.rel.testing.contains u.val = true) ∧
      (s.rel.suspects.find? (fun x => x.1 == u.val) = some (v, ch)) ∧ (mean - tmodLevel s ≤ 2000) ∧ (tmodLevel s -
      mean ≤ 2000)) :=
  ⟨⟨lv BSI_SPARE_ROT 5 (updTick (fun k => { k with count := 5 }) wCh), 0, 112, [113, 114, 115], by decide +kernel⟩,
   ⟨0, { wCh with rel := { wCh.rel with run := some (0, 112), mains := 4 } }, 0, 112, by decide +kernel⟩,
   ⟨0, { wCh with rel := { wCh.rel with run := some (0, 112), mains := 4 } }, 0, 112, by decide +kernel⟩,
   ⟨{ wCh with rel := { wCh.rel with run := some (0, 112), mains := 0 } }, 0, 112, by decide +kernel⟩,
   ⟨112, 0, { wCh with rel := { wCh.rel with testing := [112] } }, by decide +kernel⟩,
   ⟨112, 5000, { wCh with rel := { wCh.rel with testing := [112] } }, by decide +kernel⟩,
   ⟨112, 0, { wCh with rel := { wCh.rel with testing := [112], suspects := [(112, 0)] } }, 112, 0, by decide +kernel⟩⟩

theorem met_SarSequences_SarTriggersStartSequences :
    (∃ (c : Fin 8) (k : SarTrig) (t : Time) (s : State), (ticking s = true) ∧ (k = .instant → lfld s
      (SAR_SEQ_CFG_TRIG c.val) = 1 ∧ (grp s (lfld s (SAR_SEQ_CFG_GRP c.val))).sampledAt = some t) ∧ (k = .boundary →
      lfld s (SAR_SEQ_CFG_TRIG c.val) = 2 ∧ s.tick.last = t) ∧ (lflag s (SAR_SEQ_CFG_EN c.val) = true) ∧ (∀ u, (sar s
      c.val).trigAt = some u → tbOf u ≠ tbOf t) ∧ ((sar s c.val).slot = none) ∧ ((sar s c.val).urgent = false)) ∧
    (∃ (c : Fin 8) (t : Time) (s : State), (lflag s (SAR_SEQ_CFG_EN c.val) = true) ∧ (∀ u, (sar s c.val).trigAt =
      some u → tbOf u ≠ tbOf t) ∧ ((sar s c.val).slot = none) ∧ ((sar s c.val).urgent = false)) ∧
    (∃ (c : Fin 8) (t : Time) (s : State) (k : Nat), (lflag s (SAR_SEQ_CFG_EN c.val) = true) ∧ (∀ u, (sar s
      c.val).trigAt = some u → tbOf u ≠ tbOf t) ∧ ((sar s c.val).slot = some k)) ∧
    (∃ (c : Fin 8) (t : Time) (s : State), (lflag s (SAR_SEQ_CFG_EN c.val) = true) ∧ (∀ u, (sar s c.val).trigAt =
      some u → tbOf u ≠ tbOf t) ∧ ((sar s c.val).slot = none) ∧ ((sar s c.val).urgent = true)) :=
  ⟨⟨0, .boundary, 0, lv (SAR_SEQ_CFG_TRIG 0) 2 (wSar id), by decide +kernel, by decide +kernel, by decide +kernel,
    by decide +kernel, (fun u h => by cases (show (none : Option Time) = some u from h)), by decide +kernel⟩,
   ⟨0, 0, wSar id, by decide +kernel, (fun u h => by cases (show (none : Option Time) = some u from h)),
    by decide +kernel⟩,
   ⟨0, 0, wSar fun x => { x with slot := some 0 }, 0, by decide +kernel, (fun u h => by cases (show (none : Option
    Time) = some u from h)), by decide +kernel⟩,
   ⟨0, 0, wSar fun x => { x with urgent := true }, by decide +kernel, (fun u h => by cases (show (none : Option Time)
    = some u from h)), by decide +kernel⟩⟩

theorem met_SarSequences_SarResultsReachTheirSlots :
    (∃ (c : Fin 8) (sw : Bool) (t : Time) (s : State), (urgentAllowed s c.val sw = true) ∧ (sw = true ∨ (grp s (lfld
      s (SAR_SEQ_CFG_GRP c.val))).diagSeen = some t) ∧ (sarBusy s c.val = false) ∧ (∀ u, (sar s c.val).urgAt = some u
      → tbOf u ≠ tbOf t)) ∧
    (∃ (c : Fin 8) (sw : Bool) (t : Time) (s : State), (urgentAllowed s c.val sw = true) ∧ (sw = true ∨ (grp s (lfld
      s (SAR_SEQ_CFG_GRP c.val))).diagSeen = some t) ∧ (sarBusy s c.val = true)) ∧
    (∃ (c : Fin 8) (t : Time) (acq : Time) (s : State) (k : Nat), ((sar s c.val).urgent = false) ∧ ((sar s
      c.val).slot = some k) ∧ (acq = (sar s c.val).startAt + 200 * ns * k) ∧ (acq + 200 * ns ≤ t) ∧ (t ≤ acq + 210 *
      ns)) ∧
    (∃ (c : Fin 8) (t : Time) (acq : Time) (s : State), ((sar s c.val).urgent = true) ∧ (acq = (sar s
      c.val).startAt) ∧ (acq + 200 * ns ≤ t) ∧ (t ≤ acq + 210 * ns)) ∧
    (∃ (t : Time) (s : State), (ticking s = true) ∧ (flag s SAR_STAT_REFSETTLED = false) ∧ (s.refAt ≤ t)) :=
  ⟨⟨0, true, 0, lv (SAR_SEQ_CFG_URGSRC 0) 2 (wSar id), by decide +kernel, by decide +kernel, by decide +kernel, (fun
    u h => by cases (show (none : Option Time) = some u from h))⟩,
   ⟨0, true, 0, lv (SAR_SEQ_CFG_URGSRC 0) 2 (wSar fun x => { x with slot := some 0 }), by decide +kernel⟩,
   ⟨0, 200 * ns, 0, wSar fun x => { x with slot := some 0 }, 0, by decide +kernel⟩,
   ⟨0, 200 * ns, 0, wSar fun x => { x with urgent := true }, by decide +kernel⟩,
   ⟨0, w0, by decide +kernel⟩⟩

theorem met_PinEdgesCount :
    (∃ (q : FbPin) (v : Bool) (s : State), (hasPin s q = true) ∧ (pinOn s q = true) ∧ ((pinSt s q).edge = none) ∧
      ((pinSt s q).pin ≠ v)) ∧
    (∃ (q : FbPin) (v : Bool) (s : State), (hasPin s q = true) ∧ (pinOn s q = false) ∧ ((pinSt s q).edge = none) ∧
      ((pinSt s q).pin ≠ v)) ∧
    (∃ (f : Fin 12) (k : FbLine) (v : Bool) (t : Time) (e : Time) (s : State), (hasPort s f.val = true) ∧ (pinOn s
      (.port f k) = true) ∧ (((port s f.val).pin k).edge = some e) ∧ (t < e + pinTmin s (.port f k)) ∧ (((port s
      f.val).pin k).pin ≠ v)) ∧
    (∃ (f : Fin 12) (t : Time) (e : Time) (s : State) (y : PortSt), (y = port s f.val) ∧ (pinOn s (.port f .a) =
      true) ∧ (portMode s f.val = 0) ∧ (y.a.edge = some e) ∧ (y.b.edge = none) ∧ (y.z.edge = none) ∧ (e + pinTmin s
      (.port f .a) ≤ t) ∧ (y.a.pin ≠ y.a.level)) ∧
    (∃ (f : Fin 12) (t : Time) (e : Time) (u : Time) (s : State) (y : PortSt), (y = port s f.val) ∧ (pinOn s (.port
      f .a) = true) ∧ (portMode s f.val = 0) ∧ (y.a.edge = some e) ∧ (y.b.edge = some u) ∧ (stamp u = stamp e) ∧ (e +
      pinTmin s (.port f .a) ≤ t) ∧ (y.a.pin ≠ y.a.level) ∧ (y.b.pin ≠ y.b.level)) ∧
    (∃ (f : Fin 12) (t : Time) (e : Time) (s : State) (y : PortSt) (n : Nat) (o : Nat), (y = port s f.val) ∧ (pinOn
      s (.port f .b) = true) ∧ (portMode s f.val = 1) ∧ (y.b.edge = some e) ∧ (y.a.edge = none) ∧ (y.z.edge = none) ∧
      (e + pinTmin s (.port f .b) ≤ t) ∧ (sectorOf y.a.level y.b.pin y.z.level = some n) ∧ (y.sector = some o) ∧ (n =
      (o + 1) % 6) ∧ (n ≠ o)) ∧
    (∃ (f : Nat) (d : Int) (s : State) (n : Int) (w : Int), (d = 1 ∨ d = -1) ∧ (n = (port s f).pos.toInt + d) ∧ (w =
      (if 2 ^ 31 ≤ n then 1 else if n < -(2 ^ 31) then -1 else 0))) :=
  ⟨⟨(.port 0 .a), true, wPort 0 id, by decide +kernel⟩,
   ⟨(.port 0 .a), true, w0, by decide +kernel⟩,
   ⟨0, .a, true, 5, 5, lv (FBK_P_CFG_TMIN 0) 9 (wPort 0 fun x => { x with a := { x.a with edge := some 5 } }),
    by decide +kernel⟩,
   ⟨0, late, 0, wPort 0 (fun x => { x with a := { x.a with edge := some 0, pin := true } }), port (wPort 0 (fun x =>
    { x with a := { x.a with edge := some 0, pin := true } })) 0, rfl, by decide +kernel⟩,
   ⟨0, late, 0, 0, wPort 0 (fun x =>
    { x with a := { x.a with edge := some 0, pin := true }, b := { x.b with edge := some 0, pin := true } }), port
    (wPort 0 (fun x =>
    { x with a := { x.a with edge := some 0, pin := true }, b := { x.b with edge := some 0, pin := true } })) 0, rfl,
    by decide +kernel⟩,
   ⟨0, late, 0, wPort 1 (fun x =>
    { x with z := { x.z with level := true }, b := { x.b with edge := some 0, pin := true }, sector := some 0 }), port
    (wPort 1 (fun x =>
    { x with z := { x.z with level := true }, b := { x.b with edge := some 0, pin := true }, sector := some 0 })) 0,
    1, 0, rfl, by decide +kernel⟩,
   ⟨0, 1, w0, 1, 0, by decide +kernel⟩⟩

theorem met_ReadingsComparesAndPulses_CompareEmulationAndPulseInputs :
    (∃ (c : Fin 4) (t : Time) (s : State), ((cmpo s c.val).out = true) ∧ ((cmpo s c.val).endAt ≤ t)) ∧
    (∃ (c : Nat), (c < 4)) ∧
    (∃ (e : Fin 4) (t : Time) (s : State) (up : Bool) (r : List Bool), ((em s e.val).waiting = up :: r) ∧ (r.length
      < 16) ∧ (lflag s (FBK_EM_CFG_EN e.val) = true) ∧ (∀ u, (em s e.val).edgeAt = some u → u + lfld s
      (FBK_EM_CFG_EMIN e.val) * tb ≤ t)) ∧
    (∃ (p : Fin 8) (t : Time) (s : State), (lflag s (FBK_PLS_CFG_EN p.val) = true) ∧ ((fld s FBK_PLSST_TMO).testBit
      p.val = false) ∧ ((pls s p.val).armAt + lfld s (FBK_PLS_CFG_PTMO p.val) * ms ≤ t)) :=
  ⟨⟨0, 0, updCmp 0 (fun c => { c with out := true }) w0, by decide +kernel⟩,
   ⟨0, by decide +kernel⟩,
   ⟨0, 0, updEm 0 (fun x => { x with waiting := [true] }) (lv (FBK_EM_CFG_EN 0) 1 w0), true, [], by decide +kernel,
    by decide +kernel, by decide +kernel, (fun u h => by cases (show (none : Option Time) = some u from h))⟩,
   ⟨0, late, lv (FBK_PLS_CFG_EN 0) 1 w0, by decide +kernel⟩⟩

theorem met_ReadingsComparesAndPulses_PortReadings :
    (∃ (f : Fin 12) (t : Time) (s : State), (fbPortOn s f.val = true) ∧ (portMode s f.val < 2) ∧ ((port s
      f.val).still = false) ∧ (∀ u, (port s f.val).lastEdge = some u → u * tb + lfld s (FBK_P_TIM_TSTILL f.val) * us <
      t)) ∧
    (∃ (w : Who) (f : Fin 12) (s : State), (hasPort s f.val = true) ∧ (goes s w .load (BitVec.ofNat 32 (FBK_P_LPOS
      f.val)) 4 = true)) ∧
    (∃ (f : Fin 12) (s : State), (hasPort s f.val = true)) ∧
    (∃ (f : Fin 12) (t : Time) (s : State), (fbPortOn s f.val = true) ∧ (portMode s f.val = 2) ∧ (ticking s = true)
      ∧ ((port s f.val).reading = none) ∧ ((port s f.val).readTick ≠ some s.tick.count) ∧ (s.tick.next ≤ t + lfld s
      (FBK_P_TIM_SLEAD f.val) * tb) ∧ (t + lfld s (FBK_P_TIM_SLEAD f.val) * tb < s.tick.next + tb)) ∧
    (∃ (f : Fin 12) (t : Time) (u : Time) (s : State), ((port s f.val).reading = some (u, true)) ∧ (u + 2 * lfld s
      (FBK_P_SER_HDIV f.val) * serBits s f.val * tb ≤ t) ∧ (serPar s f.val = false) ∧ (lflag s (FBK_P_SER_GRAY f.val)
      = false) ∧ ((port s f.val).fresh = true) ∧ ((port s f.val).lastRd = none)) ∧
    (∃ (f : Fin 12) (raw : BitVec 33) (t : Time) (u : Time) (s : State) (o : Nat) (v : Nat) (d : Int), ((port s
      f.val).reading = some (u, true)) ∧ (u + 2 * lfld s (FBK_P_SER_HDIV f.val) * serBits s f.val * tb ≤ t) ∧ (serPar
      s f.val = false) ∧ ((port s f.val).fresh = false) ∧ ((port s f.val).lastRd = some o) ∧ (v = (if lflag s
      (FBK_P_SER_GRAY f.val) then fromGray (serBits s f.val) (bits raw.toNat 0 (serBits s f.val)) else bits raw.toNat
      0 (serBits s f.val))) ∧ (d = foldMod ((v : Int) - o) (2 ^ serBits s f.val : Nat)) ∧ (8 * d.natAbs ≤ 2 ^ lfld s
      (FBK_P_SER_STB f.val))) ∧
    (∃ (f : Fin 12) (t : Time) (u : Time) (s : State), ((port s f.val).reading = some (u, false)) ∧ (u + 2 * lfld s
      (FBK_P_SER_HDIV f.val) * (serBits s f.val + b2n (serPar s f.val)) * tb ≤ t)) :=
  ⟨⟨0, late, wPort 0 fun x => { x with still := false }, by decide +kernel, by decide +kernel, by decide +kernel,
    (fun u h => by cases (show (none : Option Nat) = some u from h))⟩,
   ⟨ap0, 0, w0, by decide +kernel⟩,
   ⟨0, w0, by decide +kernel⟩,
   ⟨0, 1000000, lv (FBK_P_TIM_SLEAD 0) 0 (wPort 2 id), by decide +kernel⟩,
   ⟨0, late, 0, lv (FBK_P_SER_GRAY 0) 0 (wPort 2 fun x => { x with reading := some (0, true), fresh := true }),
    by decide +kernel⟩,
   ⟨0, 0, late, 0, wPort 2 (fun x => { x with reading := some (0, true), fresh := false, lastRd := some 0 }), 0, 0,
    0, by decide +kernel⟩,
   ⟨0, late, 0, wPort 2 fun x => { x with reading := some (0, false) }, by decide +kernel⟩⟩

theorem met_AuxiliaryPhaseChanges_AuxiliaryPhaseChanges :
    (∃ (b : Fin 128) (s : State) (k : Nat) (th : Word) (w : Word), (AuxOwn s b.val) ∧ (auxRan s b.val = true) ∧
      (classifyDue b.val s = true) ∧ (auxPlan s b.val = (k, th, w)) ∧ (k ≠ 0)) ∧
    (∃ (b : Fin 128) (s : State) (th : Word) (w : Word), (AuxOwn s b.val) ∧ (auxRan s b.val = true) ∧ (classifyDue
      b.val s = true) ∧ (auxPlan s b.val = (0, th, w))) ∧
    (∃ (s : State) (b : Nat) (th : Word) (w : Word), (th = auxNow s b 14) ∧ (w = auxNow s b 15)) ∧
    (∃ (b : Fin 128) (s : State), (AuxOwn s b.val) ∧ (auxRan s b.val = true) ∧ (auxPhaseNow s b.val = 3) ∧ (auxHeld
      s b.val = false) ∧ (40 ≤ (auxVars s b.val).slowN ∨ 40 ≤ (auxVars s b.val).lowN)) ∧
    (∃ (b : Fin 128) (s : State), (AuxOwn s b.val) ∧ (auxRan s b.val = true) ∧ (auxPhaseNow s b.val = 4) ∧ (auxHeld
      s b.val = false) ∧ ((auxVars s b.val).lockDue = true)) ∧
    (∃ (b : Fin 128) (s : State), (AuxOwn s b.val) ∧ (auxRan s b.val = true) ∧ (auxPhaseNow s b.val = 5) ∧ ((auxVars
      s b.val).locked = false) ∧ (auxHeld s b.val = false) ∧ ((auxVars s b.val).lockDue = true)) ∧
    (∃ (b : Fin 128) (k : AuxFail) (s : State), (AuxOwn s b.val) ∧ (auxRan s b.val = true) ∧ ((auxFails s b.val k).1
      = true)) ∧
    (∃ (b : Fin 128) (s : State), (AuxOwn s b.val) ∧ (auxRan s b.val = true) ∧ (backoffDue b.val s = true) ∧ (fGreq
      (auxNow s b.val 12) (fAdd (auxWord s b.val 31) fOne).val = false)) ∧
    (∃ (b : Fin 128) (s : State), (AuxOwn s b.val) ∧ (auxRan s b.val = true) ∧ (backoffDue b.val s = true) ∧ (fGreq
      (auxNow s b.val 12) (fAdd (auxWord s b.val 31) fOne).val = true)) :=
  ⟨⟨0, held (wLane {} [(10, 1#32), (9, 0x3F800000#32), (21, 0x3F800000#32)]), 1, 0, 0, by decide +kernel⟩,
   ⟨0, held (wLane {} [(10, 1#32), (9, 0x3F800000#32), (15, 0xC0000000#32), (22, 0x3F800000#32), (23,
    0x3F800000#32)]), 0, 0, by decide +kernel⟩,
   ⟨w0, 0, auxNow w0 0 14, auxNow w0 0 15, by decide +kernel⟩,
   ⟨0, wLane { slowN := 40 } [(10, 3#32)], by decide +kernel⟩,
   ⟨0, wLane { lockDue := true } [(10, 4#32)], by decide +kernel⟩,
   ⟨0, wLane { lockDue := true } [(10, 5#32)], by decide +kernel⟩,
   ⟨0, .brakeTimeout, wLane {} [(10, 3#32)], by decide +kernel⟩,
   ⟨0, wLane { back := some 0 } [(10, 6#32)], by decide +kernel⟩,
   ⟨0, wLane { back := some 0 } [(10, 6#32), (12, 0x40000000#32)], by decide +kernel⟩⟩

theorem met_AuxiliaryPhaseChanges_AuxiliaryLawRuns :
    (∃ (p : Nat) (b : Nat) (s : State) (x : State) (e : Word × Word) (w : Word), (b < 128) ∧ (AuxOwn s b) ∧ ((auxSt
      s b).new = none) ∧ (auxHeld s b = true) ∧ (x = auxTick p b s) ∧ (e = auxEmf s b) ∧ (w = auxRate s b (auxVars s
      b).ang (angleOf e))) ∧
    (∃ (p : Nat) (b : Nat) (s : State) (x : State) (w : Word), (b < 128) ∧ (AuxOwn s b) ∧ ((auxSt s b).new = none) ∧
      (x = auxTick p b s) ∧ (auxPhase s b = 3 ∨ auxPhase s b = 2 ∧ (auxVars s b).plan = 3) ∧ (auxHeld s b = false) ∧
      (auxStop s b = false) ∧ (w = auxRate s b (auxVars s b).angI (angleOf (auxCurrent s b)))) ∧
    (∃ (p : Nat) (b : Nat) (s : State) (x : State), (b < 128) ∧ (AuxOwn s b) ∧ (x = auxTick p b s) ∧ (auxPhase s b =
      0) ∧ (auxRun s b = true) ∧ (auxHeld s b = true)) ∧
    (∃ (p : Nat) (b : Nat) (s : State) (x : State), (b < 128) ∧ (AuxOwn s b) ∧ (x = auxTick p b s) ∧ (auxStop s b =
      true) ∧ (auxPhase s b ≠ 5) ∧ (auxPhase s b ≠ 7)) ∧
    (∃ (p : Nat) (b : Nat) (s : State) (x : State), (b < 128) ∧ (AuxOwn s b) ∧ ((auxSt s b).new = none) ∧ (x =
      auxTick p b s) ∧ (auxPhase s b = 2) ∧ (auxStop s b = false) ∧ (auxHeld s b = false)) ∧
    (∃ (p : Nat) (b : Nat) (g : Nat) (d : Nat) (s : State) (x : State), (b < 128) ∧ (AuxOwn s b) ∧ (x = auxTick p b
      s) ∧ (g = (auxWord s b 8).toNat) ∧ (g < 416) ∧ ((cell s (resKey g)).units = []) ∧ (d = (auxWord s b 7).toNat) ∧
      (d + 2 < 8192)) :=
  ⟨⟨3, 0, held w0, auxTick 3 0 (held w0), auxEmf (held w0) 0, auxRate (held w0) 0 (auxVars (held w0) 0).ang (angleOf
    (auxEmf (held w0) 0)), by decide +kernel, by decide +kernel, by decide +kernel, by decide +kernel, rfl, rfl, rfl⟩,
   ⟨3, 0, wAux [(10, 3#32), (9, 0x3F800000#32)], auxTick 3 0 (wAux [(10, 3#32), (9, 0x3F800000#32)]), auxRate (wAux
    [(10, 3#32), (9, 0x3F800000#32)]) 0 (auxVars (wAux [(10, 3#32), (9, 0x3F800000#32)]) 0).angI (angleOf (auxCurrent
    (wAux [(10, 3#32), (9, 0x3F800000#32)]) 0)), by decide +kernel, by decide +kernel, by decide +kernel, rfl,
    by decide +kernel, by decide +kernel, by decide +kernel, rfl⟩,
   ⟨3, 0, held (wAux [(9, 0x3F800000#32)]), auxTick 3 0 (held (wAux [(9, 0x3F800000#32)])), by decide +kernel,
    by decide +kernel, rfl, by decide +kernel⟩,
   ⟨3, 0, w0, auxTick 3 0 (w0), by decide +kernel, by decide +kernel, rfl, by decide +kernel⟩,
   ⟨3, 0, wAux [(10, 2#32), (9, 0x3F800000#32)], auxTick 3 0 (wAux [(10, 2#32), (9, 0x3F800000#32)]),
    by decide +kernel, by decide +kernel, by decide +kernel, rfl, by decide +kernel⟩,
   ⟨3, 0, 0, 0, w0, auxTick 3 0 (w0), by decide +kernel, by decide +kernel, rfl, by decide +kernel⟩⟩

theorem met_DemandsAndStoPins_DemandsActOnTheirGroups :
    (∃ (s : State) (g : Nat), (ticking s = true) ∧ (g < 16)) :=
  ⟨w0, 0, by decide +kernel⟩

theorem met_DemandsAndStoPins_StoPins :
    (∃ (pinB : Bool) (s : State), ((if pinB then s.saf.stoB else s.saf.stoA) = false)) ∧
    (∃ (pinB : Bool) (s : State), ((if pinB then s.saf.stoB else s.saf.stoA) = true)) ∧
    (∃ (t : Time) (u : Time) (s : State), (s.saf.stoDifAt = some u) ∧ (u + lfld s SAF_STO_SDISC * ms < t) ∧ (flag s
      SAF_LATCH_STODISC = false)) ∧
    (∃ (t : Time) (s : State), (∀ u, s.saf.stoDifAt = some u → t ≤ u + lfld s SAF_STO_SDISC * ms)) ∧
    (∃ (s : State) (part : BitVec 13), (safReady s part = true)) ∧
    (∃ (s : State), (s.saf.stoA = false) ∧ (s.saf.stoB = false)) ∧
    (∃ (s : State), (s.saf.stoA = true ∨ s.saf.stoB = true)) :=
  ⟨⟨false, updSaf (fun x => { x with stoA := false }) w0, by decide +kernel⟩,
   ⟨false, w0, by decide +kernel⟩,
   ⟨late, 0, updSaf (fun x => { x with stoDifAt := some 0 }) w0, by decide +kernel⟩,
   ⟨late, w0, (fun u h => by cases (show (none : Option Time) = some u from h))⟩,
   ⟨wSafe, 0, by decide +kernel⟩,
   ⟨updSaf (fun x => { x with stoA := false, stoB := false }) w0, by decide +kernel⟩,
   ⟨w0, by decide +kernel⟩⟩

theorem met_SafeInputsAndOutputs_SafeInputsDemand :
    (∃ (p : Fin 8) (a : Bool) (b : Bool) (h : Time) (t : Time) (s : State), (sinOn s p.val = true) ∧ (sinPassed s
      p.val h t = true) ∧ (a = false ∨ b = lflag s (SAF_SIN_CFG_ANTI p.val)) ∧ (anyDemand s p.val = false) ∧ (lfld s
      (SAF_SIN_CFG_FUNC p.val) ≠ 2) ∧ (lfld s (SAF_SIN_CFG_FUNC p.val) ≠ 5)) ∧
    (∃ (p : Fin 8) (a : Bool) (b : Bool) (h : Time) (t : Time) (s : State) (g : Nat), (sinOn s p.val = true) ∧
      (sinPassed s p.val h t = true) ∧ (a = false ∨ b = lflag s (SAF_SIN_CFG_ANTI p.val)) ∧ (anyDemand s p.val =
      false) ∧ (lfld s (SAF_SIN_CFG_FUNC p.val) = 2) ∧ (g < 16) ∧ (inGroups s (SAF_SIN_GRP_GROUPS p.val) g = true) ∧
      ((grp s g).ss1 = none)) ∧
    (∃ (p : Fin 8) (a : Bool) (b : Bool) (h : Time) (t : Time) (s : State), (sinOn s p.val = true) ∧ (sinPassed s
      p.val h t = true) ∧ (a = false ∨ b = lflag s (SAF_SIN_CFG_ANTI p.val)) ∧ (anyDemand s p.val = false) ∧ (lfld s
      (SAF_SIN_CFG_FUNC p.val) = 5) ∧ (inGroups s (SAF_SIN_GRP_GROUPS p.val) (disGroup s) = true) ∧ (lflag s
      SAF_DIS_CFG_EN = true) ∧ (disRuns s = false)) ∧
    (∃ (p : Fin 8) (h : Time) (t : Time) (s : State), (sinPassed s p.val h t = true)) ∧
    (∃ (p : Fin 8) (t : Time) (u : Time) (s : State), ((sin s p.val).disAt = some u) ∧ (sinOn s p.val = true) ∧ (u +
      lfld s (SAF_SIN_CFG_DISC p.val) * ms < t) ∧ (sinLatch s p.val = false)) ∧
    (∃ (p : Fin 8) (t : Time) (s : State), (∀ u, (sin s p.val).disAt = some u → t ≤ u + lfld s (SAF_SIN_CFG_DISC
      p.val) * ms)) ∧
    (∃ (s : State) (part : BitVec 13) (p : Nat), (p < 8) ∧ (safReady s part = true) ∧ (sflag s (SAF_SIN_CFG_EN p) =
      true)) ∧
    (∃ (p : Fin 8) (s : State), (anyDemand s p.val = false)) ∧
    (∃ (p : Fin 8) (s : State), (anyDemand s p.val = true)) :=
  ⟨⟨0, false, true, 0, late, wSin 1 fun x => { x with a := true, b := true }, by decide +kernel⟩,
   ⟨0, false, true, 0, late, wSin 2 fun x => { x with a := true, b := true }, 0, by decide +kernel⟩,
   ⟨0, false, true, 0, late, lv SAF_DIS_CFG_EN 1 (wSin 5 fun x => { x with a := true, b := true }),
    by decide +kernel⟩,
   ⟨0, 0, late, w0, by decide +kernel⟩,
   ⟨0, late, 0, wSin 1 fun x => { x with disAt := some 0 }, by decide +kernel⟩,
   ⟨0, late, w0, (fun u h => by cases (show (none : Option Time) = some u from h))⟩,
   ⟨setShad (SAF_SIN_CFG 0) (fw (SAF_SIN_CFG_DISC 0) 5 (fw (SAF_SIN_CFG_EN 0) 1 0)) wSafe, 0, 0, by decide +kernel⟩,
   ⟨0, wSin 1 fun x => { x with a := true, b := true }, by decide +kernel⟩,
   ⟨0, wSin 1 fun x => { x with a := false }, by decide +kernel⟩⟩

theorem met_SafeInputsAndOutputs_SafeOutputs :
    (∃ (m : Mask) (d : Word) (s : State) (o : Nat), (o < 4) ∧ (m.getLsbD 0 = true) ∧ (d.getLsbD o = true) ∧
      (s.saf.sstate ≠ 0) ∧ (lflag s (SAF_SOUT_CFG_EN o) = true) ∧ (lflag s (SAF_SOUT_CFG_SBC o) = false) ∧ ((fld s
      SAF_LATCH_SOUTF).testBit o = false) ∧ ((SAF_SOUT_SET_ON.of (clWord s SAF_SOUT_SET m d)).testBit o = true)) ∧
    (∃ (m : Mask) (d : Word) (s : State) (o : Nat), (o < 4) ∧ ((SAF_SOUT_SET_ON.of (clWord s SAF_SOUT_SET m
      d)).testBit o = false)) ∧
    (∃ (o : Fin 4) (t : Time) (s : State), ((sout s o.val).on = true) ∧ ((sout s o.val).testAt + lfld s
      (SAF_SOUT_CFG_TPP o.val) * ms ≤ t)) ∧
    (∃ (o : Fin 4) (pinB : Bool) (rb : Bool) (h : Time) (t : Time) (s : State) (y : SoutSt), (s.saf.sstate ≠ 0) ∧
      (lflag s (SAF_SOUT_CFG_EN o.val) = true) ∧ ((fld s SAF_LATCH_SOUTF).testBit o.val = false) ∧ (y = sout s o.val)
      ∧ (y.on = true) ∧ (y.testB = pinB ∧ y.testAt < y.testEnd ∧ rb = true ∧ h ≤ y.testAt ∧ y.testAt + 50 * us ≤ t ∨
      y.testB ≠ pinB ∧ rb = false ∧ max h y.onAt + 10 * us < t)) ∧
    (∃ (o : Fin 4) (s : State), ((sout s o.val).on = false)) ∧
    (∃ (o : Fin 4) (t : Time) (s : State), ((sout s o.val).on = true) ∧ (brakeDue s o.val t = true)) :=
  ⟨⟨0x1#4, 1#32, wOut id, 0, by decide +kernel⟩,
   ⟨0x1#4, 0#32, wOut id, 0, by decide +kernel⟩,
   ⟨0, late, wOut fun x => { x with on := true }, by decide +kernel⟩,
   ⟨0, true, false, 0, late, wOut fun x => { x with on := true }, sout (wOut fun x => { x with on := true }) 0,
    by decide +kernel, by decide +kernel, by decide +kernel, rfl, by decide +kernel⟩,
   ⟨0, w0, by decide +kernel⟩,
   ⟨0, late, lv (SAF_SOUT_CFG_SBC 0) 1 (lv (SAF_SOUT_GRP_GROUPS 0) 1 (updGrp 0 (fun g => { g with stoAt := some 0 })
    (wOut fun x => { x with on := true }))), by decide +kernel⟩⟩

theorem met_FabricStatesAndManagerDemands_FabricStatesAndManagerDemands :
    (∃ (s : State), (s.saf.sstate = 1) ∧ (svRuns s = false ∨ lfld s SAF_CTRL_HBT ≤ s.saf.hbMiss)) ∧
    (∃ (s : State), (s.saf.sstate = 2) ∧ (svRuns s = true) ∧ (lfld s SAF_CTRL_HBT ≤ s.saf.hbPrev)) ∧
    (∃ (g : Fin 16) (t : Time) (e : Time) (s : State), ((grp s g.val).ss1 = some e) ∧ (e ≤ t) ∧ (s.saf.sstate ≠ 0)) ∧
    (∃ (s : State), (s.saf.sstate = 0)) ∧
    (∃ (mk : BitVec 16 → Instr) (s : State), (mk ∈ [Instr.grpreqClear, Instr.grpreqHold, Instr.grpreqAsc,
      Instr.grpreqAllOff, Instr.grpreqSto, Instr.grpreqSs1Start, Instr.grpreqSs1Stop]) ∧ (s.saf.sstate = 0)) ∧
    (∃ (s : State), (s.saf.sstate ≠ 0)) ∧
    (∃ (k : Nat) (mk : BitVec 16 → Instr) (s : State), ((k, mk) ∈ [(1, Instr.grpreqHold), (2, Instr.grpreqAsc), (3,
      Instr.grpreqAllOff), (4, Instr.grpreqSto)]) ∧ (s.saf.sstate ≠ 0)) ∧
    (∃ (s : State), (s.saf.sstate ≠ 0)) ∧
    (∃ (s : State), (s.saf.sstate ≠ 0)) ∧
    (∃ (d : Word), (SAF_GRPREQ_GO.of d = 1) ∧ (SAF_GRPREQ_OP.of d = 7 ∨ bits d.toNat 19 12 ≠ 0)) :=
  ⟨⟨setFld (PRC_STAT_STATE 6) 0 (updSaf (fun x => { x with sstate := 1 }) w0), by decide +kernel⟩,
   ⟨updSaf (fun x => { x with sstate := 2, hbPrev := 1000 }) w0, by decide +kernel⟩,
   ⟨0, 0, 0, updGrp 0 (fun g => { g with ss1 := some 0 }) (updSaf (fun x => { x with sstate := 1 }) w0),
    by decide +kernel⟩,
   ⟨w0, by decide +kernel⟩,
   ⟨.grpreqHold, w0, (by simp), by decide +kernel⟩,
   ⟨updSaf (fun x => { x with sstate := 1 }) w0, by decide +kernel⟩,
   ⟨1, .grpreqHold, updSaf (fun x => { x with sstate := 1 }) w0, (by simp), by decide +kernel⟩,
   ⟨updSaf (fun x => { x with sstate := 1 }) w0, by decide +kernel⟩,
   ⟨updSaf (fun x => { x with sstate := 1 }) w0, by decide +kernel⟩,
   ⟨fw SAF_GRPREQ_GO 1 (fw SAF_GRPREQ_OP 7 0), by decide +kernel⟩⟩

theorem met_FabricStatesAndManagerDemands_LimitEntriesTrip :
    (∃ (k : Nat) (s : State), (fval (LimitWord s k) = .nan)) ∧
    (∃ (k : Nat) (s : State) (a : Bool) (b : Bool) (c : Bool) (x : Rat) (lo : Rat) (hi : Rat), (fval (LimitWord s k)
      = .fin a x) ∧ (fval (live s (SAF_LIM_LO k)) = .fin b lo) ∧ (fval (live s (SAF_LIM_HI k)) = .fin c hi)) ∧
    (∃ (k : Nat) (n : Nat) (s : State) (x : State), (k < 16) ∧ (n = SMap.get natD s.saf.limN k) ∧ (x = limStep k s)
      ∧ (limOn s k = true) ∧ (limOut s k = true)) ∧
    (∃ (k : Nat) (s : State) (x : State), (k < 16) ∧ (x = limStep k s) ∧ (limOn s k = false ∨ limOut s k = false)) ∧
    (∃ (k : Nat) (g : Nat) (s : State), (k < 16) ∧ (g < 16) ∧ (ticking s = true) ∧ (limOn s k = true) ∧ (limOut s k
      = true) ∧ (lfld s (SAF_LIM_CFG_N k) ≤ SMap.get natD s.saf.limN k + 1) ∧ (inGroups s (SAF_LIM_GRP_GROUPS k) g =
      true)) :=
  ⟨⟨0, updEng (fun x => { x with sample := [(0, 0x7FC00000#32)] }) w0, by decide +kernel⟩,
   ⟨0, setLive (SAF_LIM_LO 0) 0#32 (setLive (SAF_LIM_HI 0) 0#32 w0), false, false, false, 0, 0, 0, by decide +kernel⟩,
   ⟨0, SMap.get natD (lv (SAF_LIM_CFG_EN 0) 1 (lv (SAF_LIM_CFG_N 0) 1 (lv (SAF_LIM_GRP_GROUPS 0) 1 (updSaf (fun x =>
    { x with sstate := 1 }) (updEng (fun x => { x with sample := [(0, 0x7FC00000#32)] }) w0))))).saf.limN 0, lv
    (SAF_LIM_CFG_EN 0) 1 (lv (SAF_LIM_CFG_N 0) 1 (lv (SAF_LIM_GRP_GROUPS 0) 1 (updSaf (fun x =>
    { x with sstate := 1 }) (updEng (fun x => { x with sample := [(0, 0x7FC00000#32)] }) w0)))), limStep 0 (lv
    (SAF_LIM_CFG_EN 0) 1 (lv (SAF_LIM_CFG_N 0) 1 (lv (SAF_LIM_GRP_GROUPS 0) 1 (updSaf (fun x =>
    { x with sstate := 1 }) (updEng (fun x => { x with sample := [(0, 0x7FC00000#32)] }) w0))))), by decide +kernel,
    rfl, rfl, by decide +kernel⟩,
   ⟨0, w0, limStep 0 w0, by decide +kernel, rfl, by decide +kernel⟩,
   ⟨0, 0, lv (SAF_LIM_CFG_EN 0) 1 (lv (SAF_LIM_CFG_N 0) 1 (lv (SAF_LIM_GRP_GROUPS 0) 1 (updSaf (fun x =>
    { x with sstate := 1 }) (updEng (fun x => { x with sample := [(0, 0x7FC00000#32)] }) w0)))), by decide +kernel⟩⟩

theorem met_DischargeRuns :
    (∃ (s : State), (s.saf.sstate ≠ 0) ∧ (lflag s SAF_DIS_CFG_EN = true) ∧ (disRuns s = false)) ∧
    (∃ (s : State), (disRuns s = true)) ∧
    (∃ (s : State), (disRuns s = true) ∧ (lfld s SAF_DIS_CFG_NDONE ≤ s.saf.disN)) ∧
    (∃ (t : Time) (s : State), (disRuns s = true) ∧ (s.saf.disAt + lfld s SAF_DIS_TMO_TMO * ms ≤ t)) ∧
    (∃ (s : State), (disRuns s = false)) ∧
    (∃ (s : State), (disRuns s = true)) ∧
    (∃ (s : State) (x : State) (a : Bool) (b : Bool) (c : Bool) (d : Bool) (q : Rat) (du : Rat) (r : Rat) (v : Rat)
      (sec : Rat), (disRuns s = true) ∧ (s.saf.disFresh = false) ∧ (s.saf.disQ = .fin a q) ∧ (fval (live s
      SAF_DIS_DUTY) = .fin b du) ∧ (disMax s = .fin c v) ∧ (fval (live s SAF_DIS_R) = .fin d r) ∧ (r ≠ 0) ∧ (sec =
      mkRat (s.tick.period * 25) 10000000000) ∧ (x = dischModel s)) ∧
    (∃ (s : State) (x : State) (a : Bool) (b : Bool) (c : Bool) (d : Bool) (q : Rat) (k : Rat) (vs : Rat) (v : Rat),
      (disRuns s = true) ∧ (s.saf.disFresh = false) ∧ (x = dischModel s) ∧ (x.saf.disQ = .fin a q) ∧ (fval (live s
      SAF_DIS_C) = .fin b k) ∧ (fval (live s SAF_DIS_VSAFE) = .fin c vs) ∧ (disMax s = .fin d v)) ∧
    (∃ (s : State) (x : State) (a : Bool) (b : Bool) (c : Bool) (vb : Rat) (vr : Rat) (vs : Rat), (disRuns s = true)
      ∧ (x = dischModel s) ∧ (disV s (lfld s SAF_DIS_CFG_BSW) = .fin a vb) ∧ (disV s (lfld s SAF_DIS_CFG_SARW) = .fin
      b vr) ∧ (fval (live s SAF_DIS_VSAFE) = .fin c vs)) ∧
    (∃ (s : State), (disRuns s = false)) :=
  ⟨⟨lv SAF_DIS_CFG_EN 1 (updSaf (fun x => { x with sstate := 1 }) w0), by decide +kernel⟩,
   ⟨wDis, by decide +kernel⟩,
   ⟨wDis, by decide +kernel⟩,
   ⟨late, wDis, by decide +kernel⟩,
   ⟨w0, by decide +kernel⟩,
   ⟨wDis, by decide +kernel⟩,
   ⟨updEng (fun x => { x with sample := [(352, 1#32)] }) (setLive SAF_DIS_R 0x3F800000#32 (updSaf (fun x =>
    { x with disQ := .fin false 1, disFresh := false }) wDis)), dischModel (updEng (fun x =>
    { x with sample := [(352, 1#32)] }) (setLive SAF_DIS_R 0x3F800000#32 (updSaf (fun x =>
    { x with disQ := .fin false 1, disFresh := false }) wDis))), false, false, false, false, 1, 0, 1, 0, mkRat
    ((updEng (fun x => { x with sample := [(352, 1#32)] }) (setLive SAF_DIS_R 0x3F800000#32 (updSaf (fun x =>
    { x with disQ := .fin false 1, disFresh := false }) wDis))).tick.period * 25) 10000000000, by decide +kernel,
    by decide +kernel, by decide +kernel, by decide +kernel, by decide +kernel, by decide +kernel, by decide +kernel,
    rfl, rfl⟩,
   ⟨updEng (fun x => { x with sample := [(352, 1#32)] }) (setLive SAF_DIS_R 0x3F800000#32 (updSaf (fun x =>
    { x with disQ := .fin false 1, disFresh := false }) wDis)), dischModel (updEng (fun x =>
    { x with sample := [(352, 1#32)] }) (setLive SAF_DIS_R 0x3F800000#32 (updSaf (fun x =>
    { x with disQ := .fin false 1, disFresh := false }) wDis))), false, false, false, false, 1, 0, 0, 0,
    by decide +kernel, by decide +kernel, rfl, by decide +kernel⟩,
   ⟨updEng (fun x => { x with sample := [(352, 1#32)] }) (setLive SAF_DIS_R 0x3F800000#32 (updSaf (fun x =>
    { x with disQ := .fin false 1, disFresh := false }) wDis)), dischModel (updEng (fun x =>
    { x with sample := [(352, 1#32)] }) (setLive SAF_DIS_R 0x3F800000#32 (updSaf (fun x =>
    { x with disQ := .fin false 1, disFresh := false }) wDis))), false, false, false, 0, 0, 0, by decide +kernel, rfl,
    by decide +kernel⟩,
   ⟨w0, by decide +kernel⟩⟩

theorem met_SignaturesArrive_TickSignaturesArrive :
    (∃ (q : Peer) (mk : Sig → Time → Instr) (x : Sig) (s : State), (mk ∈ [Instr.tickSignature,
      Instr.statusSignature, Instr.periodicSignature, Instr.asyncSignature, Instr.managementSignature, fun x t =>
      Instr.announce ⟨x, q⟩ t, fun x t => Instr.joinSignature x q t]) ∧ (portOn s x.port.val = true) ∧ ((link s
      x.port.val).up = true) ∧ (inward s x = true) ∧ (hdrBad x.hdr = true)) ∧
    (∃ (x : Sig) (s : State), (Arrives s x) ∧ (x.hdr.kind = 0) ∧ (x.payload.length = 48) ∧ (s.spn.role = 2) ∧ (slice
      x.payload 32 1 % 64 = s.spn.lead)) ∧
    (∃ (s : State), (s.spn.disc.getLsbD 2 = false)) ∧
    (∃ (s : State) (d : Time), (s.spn.disc.getLsbD 2 = true) ∧ (d = s.tick.period * tb / 10000) ∧ (s.now + d ≤
      s.tick.next)) ∧
    (∃ (s : State) (d : Time), (d = s.tick.period * tb / 10000)) ∧
    (∃ (x : Sig) (s : State), (Arrives s x) ∧ (x.hdr.kind = 0) ∧ (x.payload.length = 48) ∧ (s.spn.role = 3) ∧
      (s.spn.sig = none) ∧ (ticking s = false)) ∧
    (∃ (x : Sig) (s : State), (Arrives s x) ∧ (x.hdr.kind = 0) ∧ (x.payload.length = 48) ∧ (s.spn.role = 0)) :=
  ⟨⟨peer2, .tickSignature, { sig1 0 [] with hdr := { (sig1 0 []).hdr with reservedSet := true } }, wSpn id, (by
    simp), by decide +kernel⟩,
   ⟨(sig1 0 (List.replicate 48 0)), wSpn (fun x => { x with role := 2, lead := 0 }), by decide +kernel⟩,
   ⟨w0, by decide +kernel⟩,
   ⟨updSpn (fun x => { x with disc := 4 }) (updTick (fun k => { k with period := 40000 }) w0), 320,
    by decide +kernel⟩,
   ⟨w0, w0.tick.period * tb / 10000, rfl⟩,
   ⟨(sig1 0 (List.replicate 48 0)), updTick (fun k => { k with run := .stopped }) (wSpn (fun x =>
    { x with role := 3, lead := 0 })), by decide +kernel⟩,
   ⟨(sig1 0 (List.replicate 48 0)), wSpn id, by decide +kernel⟩⟩

theorem met_SignaturesArrive_OtherSignaturesArrive :
    (∃ (x : Sig) (s : State) (a : Nat), (Arrives s x) ∧ (a = x.hdr.src.toNat) ∧ ((memb s a).isMember = true)) ∧
    (∃ (x : Sig) (s : State), (Arrives s x)) ∧
    (∃ (x : Sig) (s : State) (q : Nat) (a : Nat) (o : Nat) (n : Nat), (Arrives s x) ∧ (q = x.hdr.dq.toNat) ∧ (a =
      x.hdr.src.toNat) ∧ (o = 8 * (spq s q).rxWp) ∧ (n = x.hdr.len.toNat) ∧ (hasQ s q = true) ∧ (concordant s a =
      true) ∧ (lfld s (SPN_RXQ_CFG_SHARE q) ≠ 0) ∧ ((memb s a).granted.getLsbD q = true) ∧ (rxHeld s q + (24 + n) ≤
      65528)) ∧
    (∃ (x : Sig) (s : State) (q : Nat) (a : Nat) (o : Nat) (n : Nat), (portOn s x.port.val = true) ∧ ((link s
      x.port.val).up = true) ∧ (inward s x = true) ∧ (hdrBad x.hdr = false) ∧ (delivers s x = true) ∧ (trailerOk x =
      false) ∧ (q = x.hdr.dq.toNat) ∧ (a = x.hdr.src.toNat) ∧ (o = 8 * (spq s q).rxWp) ∧ (n = x.hdr.len.toNat) ∧ (hasQ
      s q = true) ∧ (concordant s a = true) ∧ (lfld s (SPN_RXQ_CFG_SHARE q) ≠ 0) ∧ ((memb s a).granted.getLsbD q =
      true) ∧ (rxHeld s q + (24 + n) ≤ 65528)) ∧
    (∃ (x : Sig) (s : State), (Arrives s x) ∧ (concordant s x.hdr.src.toNat = false)) :=
  ⟨⟨sig1 1 [], wSpn id, 1, by decide +kernel⟩,
   ⟨sig1 1 [], wSpn id, by decide +kernel⟩,
   ⟨sig1 2 [], lv (SPN_RXQ_CFG_SHARE 0) 64 (wSpn id), 0, 1, 0, 0, by decide +kernel⟩,
   ⟨{ sig1 2 [] with err := true }, lv (SPN_RXQ_CFG_SHARE 0) 64 (wSpn id), 0, 1, 0, 0, by decide +kernel⟩,
   ⟨sig1 2 [], wSpn fun x => { x with disc := 1 }, by decide +kernel⟩⟩

theorem met_SignaturesArrive_ManagementSignaturesAct :
    (∃ (x : Sig) (s : State), (Arrives s x) ∧ (peerPort s x.port.val = false ∨ knownMember s x.hdr.src.toNat =
      false)) ∧
    (∃ (x : Sig) (s : State) (a : Nat) (k : Nat) (n : Nat), (Arrives s x) ∧ (peerPort s x.port.val = true) ∧ (a =
      x.hdr.src.toNat) ∧ (knownMember s a = true) ∧ (k = Config.mgmtKind x.payload) ∧ (n = Config.mgmtArg x.payload)) :=
  ⟨⟨sig1 3 [], wSpn id, by decide +kernel⟩,
   ⟨sig1 3 [], peerP (wSpn id), 1, Config.mgmtKind [], Config.mgmtArg [], by decide +kernel, by decide +kernel,
    by decide +kernel, by decide +kernel, rfl, rfl⟩⟩

theorem met_SignaturesAreSent_SignaturesAreSent :
    (∃ (t : Time) (s : State), (isLead s = true) ∧ (ticking s = true) ∧ (s.spn.sigSeen = false) ∧ (t + lfld s
      SPN_TIM_TLEAD * tb ≤ s.tick.next)) ∧
    (∃ (t : Time) (s : State), (inRing s = true) ∧ (ticking s = true) ∧ (s.spn.statusSent = false) ∧ (sigQuiet s t =
      false) ∧ (slotStart s ≤ t) ∧ (idle s (bcPorts s) t = true)) ∧
    (∃ (t : Time) (s : State), (t < slotStart s ∨ s.spn.statusSent = true)) ∧
    (∃ (q : Fin 4) (port : Fin 4) (t : Time) (s : State), (s.now ≤ t) ∧ (txReady s q.val = true) ∧ (sigQuiet s t =
      false) ∧ (ownDue s t = false) ∧ ((txPorts s q.val).any (fun p => p.1 == port.val) = true) ∧ (idle s (txPorts s
      q.val) t = true) ∧ (lflag s (SPN_TXQ_CFG_CAP q.val) = true → ∀ k, k < 4 → lflag s (SPN_TXQ_CFG_CAP k) = false →
      txReady s k = true → sharePort s k q.val = false)) ∧
    (∃ (q : Fin 4) (s : State), (hasQ s q.val = true) ∧ (txWait s q.val ≠ 0) ∧ (inRing s = true) ∧ (bits (txHead s
      q.val) 30 2 ≠ 2)) :=
  ⟨⟨0, wSpn (fun x => { x with role := 1, lead := 0 }), by decide +kernel⟩,
   ⟨late, wSpn (fun x => { x with role := 1, lead := 0, sigSeen := true }), by decide +kernel⟩,
   ⟨late, wSpn (fun x => { x with role := 1, lead := 0, sigSeen := true, statusSent := true }), by decide +kernel⟩,
   ⟨0, 0, 0, updSpq 0 (fun x => { x with txWp := 4 }) (lv SPN_BUD_ABUD 50 (wrWord 0x48000000 0x80040008#32 (wSpn (fun
    x => { x with role := 1, lead := 0, sigSeen := true, statusSent := true })))), by decide +kernel⟩,
   ⟨0, updSpq 0 (fun x => { x with txWp := 4 }) (lv SPN_BUD_ABUD 50 (wrWord 0x48000000 0#32 (wSpn (fun x =>
    { x with role := 1, lead := 0, sigSeen := true, statusSent := true })))), by decide +kernel⟩⟩

theorem met_SignaturesAreSent_SpineQueuePointers :
    (∃ (q : Fin 4) (s : State), (hasQ s q.val = true)) ∧
    (∃ (q : Fin 4) (m : Mask) (d : Word) (s : State) (p : Nat), (hasQ s q.val = true) ∧ (p = (SPN_RXQ_RP_PTR
      q.val).of (clWord s (SPN_RXQ_RP q.val) m d)) ∧ (subMod p (spq s q.val).rxRp 8192 ≤ subMod (spq s q.val).rxWp
      (spq s q.val).rxRp 8192)) ∧
    (∃ (w : Who) (a : Word) (z : Size) (t : Time) (s : State) (q : Nat) (i : Nat), (target a.toNat = .spnRx q) ∧
      (hasSp s q = true) ∧ (goes (upto t s) w .load a z.bytes = true) ∧ (i = a.toNat - a.toNat % 4)) :=
  ⟨⟨0, w0, by decide +kernel⟩,
   ⟨0, 0xF#4, 0#32, w0, 0, by decide +kernel⟩,
   ⟨ap0, 0x48040000#32, .sw, 0, w0, 0, 0x48040000, by decide +kernel⟩⟩

theorem met_LockHoldoverAndResync :
    (∃ (s : State), (inRing s = true) ∧ (16 ≤ s.spn.okRun)) ∧
    (∃ (t : Time) (s : State), (isFollower s = true) ∧ (ticking s = true) ∧ (s.spn.sigSeen = false) ∧
      (s.spn.missTaken = false) ∧ (sigDue s + us ≤ t)) ∧
    (∃ (s : State) (g : TickSig), (s.spn.sig = some g) ∧ (isFollower s = true) ∧ (ticking s = true) ∧
      (s.spn.disc.getLsbD 2 = true) ∧ (groupsHeld s = true) ∧ (s.now = s.tick.last) ∧ (ringOpens g s.now ≠ s.tick.tcnt
      ∨ s.tick.period * tb ≤ 10 * s.spn.phase.natAbs)) :=
  ⟨⟨updSpn (fun x => { x with okRun := 16 }) (wSpn (fun x => { x with role := 2, lead := 0 })), by decide +kernel⟩,
   ⟨late, wSpn (fun x => { x with role := 2, lead := 0 }), by decide +kernel⟩,
   ⟨updTick (fun k => { k with last := 0 }) (forAll (List.range 16) (fun g => updGrp g fun x =>
    { x with hold := true }) (updSpn (fun x => { x with sig := some { tick := 5 }, disc := 4 }) (wSpn (fun x =>
    { x with role := 2, lead := 0 })))), { tick := 5 }, by decide +kernel⟩⟩

theorem met_RingMembershipEvents :
    (∃ (port : Fin 4) (s : State), (portOn s port.val = true) ∧ ((link s port.val).up = true)) ∧
    (∃ (port : Fin 4) (s : State), (portOn s port.val = true) ∧ ((link s port.val).up = false)) ∧
    (∃ (a : Fin 64) (s : State), (inRing s = true) ∧ ((memb s a.val).isMember = true) ∧ (a.val ≠ myAddr s) ∧ (2 ≤
      (memb s a.val).missed) ∧ (s.spn.lostPend.getLsbD a.val = false)) ∧
    (∃ (x : Sig) (p : Peer) (s : State), (Arrives s x) ∧ (peerPort s x.port.val = true) ∧ (s.spn.annAt.isSome =
      true) ∧ (p.addr.val ≠ myAddr s)) ∧
    (∃ (x : Sig) (p : Peer) (s : State), (Arrives s x) ∧ (peerPort s x.port.val = false ∨ s.spn.annAt = none ∨
      p.addr.val = myAddr s)) ∧
    (∃ (t : Time) (u : Time) (s : State) (l : Peer), (s.spn.annAt = some u) ∧ (u + 100 * ms ≤ t) ∧ (spnOn s = true)
      ∧ (s.spn.role = 0) ∧ (s.spn.sig = none) ∧ (lowestSerial (concordantSet (selfPeer s :: (List.range 64).filterMap
      fun k => (memb s k).peer)) = some l)) ∧
    (∃ (s : State) (a : Nat), (isFollower s = true) ∧ (2 ≤ s.spn.noSig) ∧ (nextLead s = some a)) ∧
    (∃ (s : State) (n : Nat), (s.spn.handoff = some (myAddr s, n)) ∧ (n ≤ s.tick.tcnt) ∧ (inRing s = true) ∧
      (s.spn.disc = 0) ∧ (s.spn.lock = true)) ∧
    (∃ (s : State) (a : Nat) (n : Nat), (s.spn.handoff = some (a, n)) ∧ (a ≠ myAddr s) ∧ (n ≤ s.tick.tcnt) ∧ (inRing
      s = true) ∧ ((memb s a).disc ≠ 0 ∨ (memb s a).lock = false)) ∧
    (∃ (s : State) (a : Nat) (n : Nat), (s.spn.handoff = some (a, n)) ∧ (a ≠ myAddr s) ∧ (n ≤ s.tick.tcnt) ∧ (inRing
      s = true) ∧ ((memb s a).disc = 0) ∧ ((memb s a).lock = true)) :=
  ⟨⟨0, wSpn id, by decide +kernel⟩,
   ⟨0, updLink 0 (fun x => { x with up := false }) (wSpn id), by decide +kernel⟩,
   ⟨1, updMemb 1 (fun m => { m with missed := 2 }) (wSpn (fun x => { x with role := 1, lead := 0 })),
    by decide +kernel⟩,
   ⟨sig1 3 [], peer2, peerP (wSpn fun x => { x with annAt := some 0 }), by decide +kernel⟩,
   ⟨sig1 3 [], peer2, wSpn id, by decide +kernel⟩,
   ⟨late, 0, updSpn (fun x => { x with annAt := some 0 }) (lv SPN_CTRL_EN 1 w0), selfPeer (updSpn (fun x =>
    { x with annAt := some 0 }) (lv SPN_CTRL_EN 1 w0)), by decide +kernel, by decide +kernel, by decide +kernel,
    by decide +kernel, by decide +kernel, rfl⟩,
   ⟨updSpn (fun x => { x with noSig := 2, lead := 1 }) (updMemb 1 (fun m => { m with isMember := false }) (wSpn (fun
    x => { x with role := 2, lead := 0 }))), 0, by decide +kernel⟩,
   ⟨updSpn (fun x => { x with handoff := some (0, 0), lock := true }) (wSpn (fun x =>
    { x with role := 2, lead := 0 })), 0, by decide +kernel⟩,
   ⟨updSpn (fun x => { x with handoff := some (1, 0) }) (updMemb 1 (fun m => { m with disc := 1 }) (wSpn (fun x =>
    { x with role := 1, lead := 0 }))), 1, 0, by decide +kernel⟩,
   ⟨updSpn (fun x => { x with handoff := some (1, 0) }) (updMemb 1 (fun m => { m with disc := 0, lock := true })
    (wSpn (fun x => { x with role := 1, lead := 0 }))), 1, 0, by decide +kernel⟩⟩

theorem met_JoiningAndLeaving :
    (∃ (s : State), (spnOn s = true) ∧ (s.spn.role = 0) ∧ (groupsHeld s = true)) ∧
    (∃ (s : State), (spnOn s = true) ∧ (s.spn.role = 0) ∧ (groupsHeld s = false)) ∧
    (∃ (t : Time) (u : Time) (s : State), (s.spn.joinAt = some u) ∧ (s.spn.role = 3) ∧ (s.spn.sig = none) ∧ (u + 100
      * ms ≤ t)) ∧
    (∃ (x : Sig) (p : Peer) (s : State), (Arrives s x) ∧ (isLead s = true) ∧ (peerPort s x.port.val = true) ∧
      (joinAnswer s p = 0)) ∧
    (∃ (x : Sig) (p : Peer) (s : State), (Arrives s x) ∧ (isLead s = true) ∧ (peerPort s x.port.val = true) ∧
      (joinAnswer s p ≠ 0)) ∧
    (∃ (s : State) (a : Nat) (n : Nat), (isLead s = true) ∧ ((a, n) ∈ s.spn.admits) ∧ (n ≤ s.tick.tcnt) ∧ (∀ e ∈
      dueAt s.tick.tcnt s.spn.leaves, e.1 ≠ a)) ∧
    (∃ (s : State), (inRing s = true) ∧ (s.spn.leaveTick = none)) ∧
    (∃ (s : State) (n : Nat), (s.spn.leaveTick = some n) ∧ (n ≤ s.tick.tcnt)) ∧
    (∃ (s : State) (a : Nat) (n : Nat), (isLead s = true) ∧ (s.spn.leaveTick = none) ∧ ((a, n) ∈ s.spn.leaves) ∧ (n
      ≤ s.tick.tcnt)) :=
  ⟨⟨forAll (List.range 16) (fun g => updGrp g fun x => { x with hold := true }) (wSpn id), by decide +kernel⟩,
   ⟨updGrp 0 (fun g => { g with hold := false }) (wSpn id), by decide +kernel⟩,
   ⟨late, 0, updSpn (fun x => { x with joinAt := some 0, role := 3 }) (wSpn id), by decide +kernel⟩,
   ⟨sig1 3 [], peer2, peerP (updMemb 1 (fun m => { m with isMember := false }) (wSpn (fun x =>
    { x with role := 1, lead := 0 }))), by decide +kernel⟩,
   ⟨sig1 3 [], { peer2 with ringid := 5 }, peerP (wSpn (fun x => { x with role := 1, lead := 0 })),
    by decide +kernel⟩,
   ⟨updSpn (fun x => { x with admits := [(2, 0)] }) (wSpn (fun x => { x with role := 1, lead := 0 })), 2, 0,
    by decide +kernel⟩,
   ⟨wSpn (fun x => { x with role := 1, lead := 0 }), by decide +kernel⟩,
   ⟨updSpn (fun x => { x with leaveTick := some 0 }) (wSpn (fun x => { x with role := 1, lead := 0 })), 0,
    by decide +kernel⟩,
   ⟨updSpn (fun x => { x with leaves := [(1, 0)] }) (wSpn (fun x => { x with role := 1, lead := 0 })), 1, 0,
    by decide +kernel⟩⟩

theorem met_EventReadsMarkObserved_LoadsGiveTheWords :
    (∃ (w : Who) (a : Word) (z : Size) (t : Time) (s : State), (goes (upto t s) w .load a z.bytes = true) ∧ (target
      a.toNat = .sram) ∧ (SMap.get falseD s.eccBad (a.toNat / 8) = false)) ∧
    (∃ (w : Who) (a : Word) (z : Size) (t : Time) (s : State) (off : Nat) (k : Nat), (goes (upto t s) w .load a
      z.bytes = true) ∧ (target (a.toNat - a.toNat % 4) = .tcm off) ∧ (tcmKey s w off = some k) ∧ (s.prc.mirq = [])) ∧
    (∃ (w : Who) (a : Word) (z : Size) (t : Time) (s : State) (k : Nat), (goes (upto t s) w .load a z.bytes = true)
      ∧ (target a.toNat = .state k)) ∧
    (∃ (w : Who) (a : Word) (z : Size) (t : Time) (s : State) (k : Nat), (goes (upto t s) w .load a z.bytes = true)
      ∧ (target a.toNat = .result k) ∧ (isEmulator s w = false)) ∧
    (∃ (w : Who) (a : Word) (z : Size) (t : Time) (s : State) (k : Nat), (goes (upto t s) w .load a z.bytes = true)
      ∧ (target a.toNat = .sample k)) ∧
    (∃ (w : Who) (a : Word) (z : Size) (t : Time) (s : State) (k : Nat), (goes (upto t s) w .load a z.bytes = true)
      ∧ (target a.toNat = .scratch k) ∧ (isSv w = true)) ∧
    (∃ (w : Who) (a : Word) (z : Size) (t : Time) (s : State) (k : Nat), (goes (upto t s) w .load a z.bytes = true)
      ∧ (target a.toNat = .scratch k ∧ isSv w = false ∨ target a.toNat = .none)) :=
  ⟨⟨ap0, 0x20000000#32, .sw, 0, w0, by decide +kernel⟩,
   ⟨ap0, 0x10000004#32, .sw, 0, w0, 4, 4, by decide +kernel⟩,
   ⟨ap0, 0x44100004#32, .sw, 0, w0, 1, by decide +kernel⟩,
   ⟨ap0, 0x441E0004#32, .sw, 0, w0, 1, by decide +kernel⟩,
   ⟨ap0, 0x441C0004#32, .sw, 0, w0, 1, by decide +kernel⟩,
   ⟨sv6, 0x44180004#32, .sw, 0, w0, 1, by decide +kernel⟩,
   ⟨ap0, 0x44180004#32, .sw, 0, w0, 1, by decide +kernel⟩⟩

theorem met_TickRegistersFollowTheirRules_RegistersAreReadByTheirCodes :
    (∃ (w : Who) (a : Word) (t : Time) (s : State) (r : RegRow), (goes (upto t s) w .load a 4 = true) ∧ (target
      a.toNat = .block (winOf a.toNat)) ∧ (absent s a.toNat = false) ∧ (regRow? a.toNat = some r) ∧ (evrPlace a.toNat
      = none) ∧ (madeWord (upto t s) w a.toNat = none) ∧ ((unit s w.key).snap = []) ∧ (a.toNat ≠ TKC_RBDONE_L) ∧ (∀ p,
      winPart (winOf a.toNat) = some p → s.tick.copying.getLsbD p = false)) ∧
    (∃ (w : Who) (a : Word) (z : Size) (t : Time) (s : State) (k : Nat), (goes (upto t s) w .load a z.bytes = true)
      ∧ (target a.toNat = .block k) ∧ (absent s (a.toNat - a.toNat % 4) = true ∨ regRow? (a.toNat - a.toNat % 4) =
      none ∧ evrPlace (a.toNat - a.toNat % 4) = none ∧ madeWord (upto t s) w (a.toNat - a.toNat % 4) = none) ∧
      (a.toNat - a.toNat % 4 ≠ TKC_RBDONE_L) ∧ (∀ p, winPart k = some p → s.tick.copying.getLsbD p = false)) ∧
    (∃ (w : Who) (t : Time) (s : State), (goes (upto t s) w .load (BitVec.ofNat 32 SYS_ID) 4 = true)) :=
  ⟨⟨ap0, (BitVec.ofNat 32 (PRC_HOREQ)), 0, w0, rowAt PRC_HOREQ, by decide +kernel, by decide +kernel,
    by decide +kernel, by decide +kernel, by decide +kernel, by decide +kernel, by decide +kernel, by decide +kernel,
    (by decide)⟩,
   ⟨ap0, (BitVec.ofNat 32 (PRC_HOREQ + 0x4000)), .sw, 0, w0, 2, by decide +kernel, by decide +kernel,
    by decide +kernel, by decide +kernel, (by decide)⟩,
   ⟨ap0, 0, w0, by decide +kernel⟩⟩

theorem met_StoppedStoreLeavesTheRegister_TrapsAndInterrupts :
    (∃ (w : Who) (c : Word) (v : Word) (s : State) (y : Arch) (z : Arch), (y = (unit s w.key).arch) ∧ (z = (unit
      (trap w c v s) w.key).arch)) ∧
    (∃ (w : Who) (a : Word) (z : Size) (t : Time) (s : State), (working (upto t s) w = true) ∧ ((unit s
      w.key).startAt ≤ max s.now t) ∧ (interruptDue (upto t s) w = none) ∧ (a.toNat % z.bytes ≠ 0 ∨ (unit s
      w.key).arch.pmpOk .load a.toNat = false)) ∧
    (∃ (w : Who) (a : Word) (z : Size) (s : State), (working s w = true) ∧ ((unit s w.key).startAt ≤ s.now) ∧
      (interruptDue s w = none) ∧ (a.toNat % z.bytes ≠ 0 ∨ (unit s w.key).arch.pmpOk .store a.toNat = false)) ∧
    (∃ (i : Word), (legalInstr i = false)) ∧
    (∃ (w : Who) (s : State) (c : Word), (interruptDue s w = some c)) ∧
    (∃ (w : Who) (s : State), ((unit s w.key).arch.priv = .user ∨ ((unit s w.key).arch.csrOf 0x300).getLsbD 3 =
      true) ∧ (interrupts s w.unit.val w.halfB = true) ∧ (((unit s w.key).arch.csrOf 0x304).getLsbD 11 = true)) ∧
    (∃ (y : Arch) (k : Access) (n : Nat), (k = .fetch ∨ y.dataPriv = y.priv) ∧ (∀ i < 16, y.pmpMatch n i = false)) :=
  ⟨⟨ap0, 5, 0, w0, (unit w0 ap0.key).arch, (unit (trap ap0 5 0 w0) ap0.key).arch, rfl, rfl⟩,
   ⟨ap0, 0x20000001#32, .sw, 0, w0, by decide +kernel⟩,
   ⟨ap0, 0x20000001#32, .sw, w0, by decide +kernel⟩,
   ⟨0, by decide +kernel⟩,
   ⟨ap0, updUnit 0 (fun u => { u with arch := { u.arch with priv := .user, csr := [(0x304, 0x800#32)] } }) (setReg
    (EVR_PEND 0 0) 1#32 (setFld (EVR_THR_THR 0) 0 (lv (EVR_ROUTE_PRIO 0) 3 w0))), 0x8000000B#32, by decide +kernel⟩,
   ⟨ap0, updUnit 0 (fun u => { u with arch := { u.arch with priv := .user, csr := [(0x304, 0x800#32)] } }) (setReg
    (EVR_PEND 0 0) 1#32 (setFld (EVR_THR_THR 0) 0 (lv (EVR_ROUTE_PRIO 0) 3 w0))), by decide +kernel⟩,
   ⟨{}, .fetch, 0, by decide +kernel⟩⟩

theorem met_StepKeepsMemoriesCanonical :
    (∃ (s : State) (t : State), (MemWf s) ∧ (step s = .next t)) :=
  ⟨State.reset, State.reset, by decide +kernel, rfl⟩

theorem met_StepNeverShootsThrough :
    (∃ (s : State) (t : State), (NoShootThrough s) ∧ (step s = .next t)) :=
  ⟨State.reset, State.reset, (fun _ h => absurd (show false = true from h.1) (by decide)), rfl⟩

theorem met_GatesRiseOnlyUnderTheInterlock :
    (∃ (s : State) (t : State) (l : Nat) (sd : Side), (step s = .next t) ∧ (((leg s l).gate sd).on = false) ∧ (((leg
      t l).gate sd).on = true)) :=
  ⟨{ wLeg (fun x => { x with h := { x.h with want := some late } }) with pending := [.deadTimeExpire 0 .high late] },
    nextOf (step
    ({ wLeg (fun x => { x with h := { x.h with want := some late } }) with pending := [.deadTimeExpire 0 .high late] })),
    0, .high, (eq_next_nextOf _ (by decide +kernel)), by decide +kernel⟩

theorem met_OnlyBoundariesCommit :
    (∃ (c : Instr) (s : State) (t : State), (MemWf s) ∧ (exec c s = .next t) ∧ (c ≠ .tickBoundary) ∧ (∀ (r :
      RstCause) (u : Time), c ≠ .resetAssert r u)) :=
  ⟨.spnLock, State.reset, State.reset, by decide +kernel, rfl, nofun, (fun _ _ => nofun)⟩

theorem met_StepKeepsQueueTimeAndRoots :
    (∃ (c : Instr) (r : List Instr) (s : State) (t : State), (s.pending = c :: r) ∧ (step s = .next t)) :=
  ⟨.spnLock, [], { State.reset with pending := [.spnLock] }, State.reset, rfl, rfl⟩

end Sys2Proof.Tests
end

section

namespace Sys2Proof.Machine
open Sys2Proof

/-! ### Gates that only fall

Few operations turn a gate on. Of every other one it is shown that no gate rises in it: a gate that is on afterwards was
on before. -/

/-- No gate rises from the legs `m` to the legs `n`. -/
def GatesFall (m n : SMap LegSt) : Prop :=
  ∀ (l : Nat) (sd : Side), ((SMap.get legD n l).gate sd).on = true → ((SMap.get legD m l).gate sd).on = true

/-- No gate of the leg rises from `x` to `y`. -/
def LegSt.Falls (x y : LegSt) : Prop := (y.h.on = true → x.h.on = true) ∧ (y.l.on = true → x.l.on = true)

theorem LegSt.falls_iff (x y : LegSt) : x.Falls y ↔ ∀ sd, (y.gate sd).on = true → (x.gate sd).on = true :=
  ⟨fun h sd => by cases sd; exacts [h.1, h.2], fun h => ⟨h .high, h .low⟩⟩

@[simp] theorem GatesFall.refl (m : SMap LegSt) : GatesFall m m := fun _ _ h => h

section
variable {m : SMap LegSt} {s t : State}

/-- What leaves the legs alone keeps `GatesFall`. -/
theorem GatesFall.of_legs (h : GatesFall m s.legs) (e : t.legs = s.legs) : GatesFall m t.legs := e ▸ h

/-- With every leg off, no gate has risen. -/
theorem gatesFall_nil : GatesFall m [] := fun _ sd h => by cases sd <;> cases h

theorem GatesFall.ite {c : Prop} [Decidable c] (hs : GatesFall m s.legs) (ht : GatesFall m t.legs) :
    GatesFall m (if c then s else t).legs := by
  split
  exacts [hs, ht]

theorem updLeg_falls {l : Nat} {f : LegSt → LegSt} (hf : ∀ x : LegSt, x.Falls (f x)) (h : GatesFall m s.legs) :
    GatesFall m (updLeg l f s).legs := by
  intro k sd hk
  change ((leg (updLeg l f s) k).gate sd).on = true at hk
  rw [leg_updLeg] at hk
  split at hk
  · next e => exact h k sd (e ▸ (LegSt.falls_iff _ _).mp (hf _) sd hk)
  · exact h k sd hk

theorem forAll_falls {α : Type} {xs : List α} {f : α → State → State}
    (hf : ∀ x ∈ xs, ∀ y : State, GatesFall m y.legs → GatesFall m (f x y).legs) (h : GatesFall m s.legs) :
    GatesFall m (forAll xs f s).legs :=
  forAll_keeps (fun y => GatesFall m y.legs) xs f hf s h

end

/-- A command's outcome raises no gate. -/
def Lowers (s : State) (o : Out) : Prop := ∀ t, o = .next t → GatesFall s.legs t.legs

@[simp] theorem lowers_next {s t : State} : Lowers s (.next t) ↔ GatesFall s.legs t.legs :=
  ⟨fun h => h t rfl, fun h _ hu => by cases hu; exact h⟩

@[simp] theorem ite_legs (c : Prop) [Decidable c] (a b : State) :
    (if c then a else b).legs = if c then a.legs else b.legs := apply_ite State.legs c a b

/-- A loop whose body leaves the legs alone leaves them alone. -/
@[simp] theorem forAll_legs {α : Type} (xs : List α) (f : α → State → State)
    (hf : ∀ x y, (f x y).legs = y.legs) (s : State) : (forAll xs f s).legs = s.legs :=
  forAll_same State.legs xs f (fun x _ y => hf x y) s

@[simp] theorem ite_snd_state {α : Type} (c : Prop) [Decidable c] (a b : α × State) :
    (if c then a else b).2 = if c then a.2 else b.2 := apply_ite Prod.snd c a b

/-- A fold whose step leaves the legs alone leaves them alone. -/
theorem foldl_legs {α β : Type} (xs : List α) (f : β × State → α → β × State)
    (hf : ∀ a x, (f a x).2.legs = a.2.legs) : ∀ a, (xs.foldl f a).2.legs = a.2.legs := by
  induction xs with
  | nil => exact fun _ => rfl
  | cons x xs ih => exact fun a => (ih (f a x)).trans (hf a x)

/-! ### Operations that leave the legs alone

Most operations write no leg. Each lemma says so of one of them, and `simp` carries it to the operations built on it.
`-implicitDefEqProofs` makes `simp` write every rewrite into the proof: left to definitional equality, the kernel would
unfold the operations themselves. -/

/-! #### Memories and queues -/

@[simp] theorem wrBytes_legs (bs : List Byte) : ∀ (a : Nat) (s : State), (wrBytes a bs s).legs = s.legs := by
  induction bs with
  | nil => exact fun _ _ => rfl
  | cons b r ih => exact fun a s => ih (a + 1) (wrByte a b s)

@[simp] theorem wrTcms_legs (bs : List Byte) : ∀ (k : Nat) (s : State), (wrTcms k bs s).legs = s.legs := by
  induction bs with
  | nil => exact fun _ _ => rfl
  | cons b r ih => exact fun k s => ih (k + 1) (wrTcm k b s)

@[simp] theorem wrWord_legs (a v s) : (wrWord a v s).legs = s.legs := by simp -implicitDefEqProofs [wrWord]
@[simp] theorem queueRemote_legs (e s) : (queueRemote e s).legs = s.legs := by simp -implicitDefEqProofs [queueRemote]

/-! #### Units: traps and faults -/

@[simp] theorem trap_legs (w cause tval s) : (trap w cause tval s).legs = s.legs := by
  simp -implicitDefEqProofs [trap]

@[simp] theorem except_legs (w cause tval s) : (except w cause tval s).legs = s.legs := by
  simp -implicitDefEqProofs [except]

@[simp] theorem storeFault_legs (w a s) : (storeFault w a s).legs = s.legs := by
  simp -implicitDefEqProofs [storeFault]

@[simp] theorem loadFault_legs (w a s) : (loadFault w a s).legs = s.legs := by simp -implicitDefEqProofs [loadFault]

@[simp] theorem deliver_legs (w s) : (deliver w s).legs = s.legs := by
  unfold deliver
  split <;> simp -implicitDefEqProofs

@[simp] theorem atWork_legs (w : Who) (f : State → State) (hf : ∀ x, (f x).legs = x.legs) (s : State) :
    (atWork w f s).legs = s.legs := by simp -implicitDefEqProofs [atWork, hf]

@[simp] theorem access_legs (w : Who) (k : Access) (a : Word) (z : Nat) (f : State → State)
    (hf : ∀ x, (f x).legs = x.legs) (s : State) :
    (access w k a z f s).legs = s.legs := by simp -implicitDefEqProofs [access, hf]

/-! #### Units: runs, journal and budgets -/

@[simp] theorem setBudget_legs (p s) : (setBudget p s).legs = s.legs := by simp -implicitDefEqProofs [setBudget]
@[simp] theorem recordRun_legs (u t s) : (recordRun u t s).legs = s.legs := by simp -implicitDefEqProofs [recordRun]

@[simp] theorem budgetPassed_legs (u k t s) : (budgetPassed u k t s).legs = s.legs := by
  simp -implicitDefEqProofs [budgetPassed]

@[simp] theorem firstRunEnds_legs (u k t s) : (firstRunEnds u k t s).legs = s.legs := by
  simp -implicitDefEqProofs [firstRunEnds]

@[simp] theorem undoOne_legs (u : Undo) (s : State) : (undoOne u s).legs = s.legs := by
  cases u <;> simp [undoOne]

@[simp] theorem showJrn_legs (u s) : (showJrn u s).legs = s.legs := by simp -implicitDefEqProofs [showJrn]
@[simp] theorem journal_legs (w r s) : (journal w r s).legs = s.legs := by simp -implicitDefEqProofs [journal]

@[simp] theorem restoreJournal_legs (w s) : (restoreJournal w s).legs = s.legs := by
  simp -implicitDefEqProofs [restoreJournal]

@[simp] theorem mapCells_legs (f s) : (mapCells f s).legs = s.legs := by simp -implicitDefEqProofs [mapCells]
@[simp] theorem showUse_legs (u s) : (showUse u s).legs = s.legs := by simp -implicitDefEqProofs [showUse]

@[simp] theorem discardWork_legs (w s) : (discardWork w s).legs = s.legs := by
  simp -implicitDefEqProofs [discardWork, dropPending]

@[simp] theorem backToCheckpoint_legs (w s) : (backToCheckpoint w s).legs = s.legs := by
  simp -implicitDefEqProofs [backToCheckpoint]

@[simp] theorem tcntRead_legs (w rb s) : (tcntRead w rb s).legs = s.legs := by simp -implicitDefEqProofs [tcntRead]

/-! #### Flags -/

@[simp] theorem flagEvent_legs (p s) : (flagEvent p s).legs = s.legs := by simp -implicitDefEqProofs [flagEvent]

/-! #### Auxiliary drives -/

@[simp] theorem updAux_legs (b f s) : (updAux b f s).legs = s.legs := by simp -implicitDefEqProofs [updAux]
@[simp] theorem setVars_legs (b f s) : (setVars b f s).legs = s.legs := by simp -implicitDefEqProofs [setVars]
@[simp] theorem auxCell_legs (b key v s) : (auxCell b key v s).legs = s.legs := by simp -implicitDefEqProofs [auxCell]
@[simp] theorem auxPut_legs (b k v s) : (auxPut b k v s).legs = s.legs := by simp -implicitDefEqProofs [auxPut]
@[simp] theorem auxFree_legs (b ks s) : (auxFree b ks s).legs = s.legs := by simp -implicitDefEqProofs [auxFree]

@[simp] theorem auxMeasure_legs (ph b s) : (auxMeasure ph b s).legs = s.legs := by
  simp -implicitDefEqProofs [auxMeasure]

@[simp] theorem auxOut_legs (b s) : (auxOut b s).legs = s.legs := by simp -implicitDefEqProofs [auxOut, auxScr]

@[simp] theorem auxEnter_legs (b ph f s) : (auxEnter b ph f s).legs = s.legs := by
  simp -implicitDefEqProofs [auxEnter]

@[simp] theorem auxStay_legs (b ph s) : (auxStay b ph s).legs = s.legs := by simp -implicitDefEqProofs [auxStay]
@[simp] theorem classify_legs (b s) : (classify b s).legs = s.legs := by simp -implicitDefEqProofs [classify]
@[simp] theorem brakeCount_legs (b s) : (brakeCount b s).legs = s.legs := by simp -implicitDefEqProofs [brakeCount]

@[simp] theorem tickReady_legs (b s) : (tickReady b s).legs = s.legs := by
  unfold tickReady
  simp -implicitDefEqProofs
  split <;> simp -implicitDefEqProofs

@[simp] theorem tickBrake_legs (b s) : (tickBrake b s).legs = s.legs := by simp -implicitDefEqProofs [tickBrake]
@[simp] theorem tickStart_legs (b s) : (tickStart b s).legs = s.legs := by simp -implicitDefEqProofs [tickStart]
@[simp] theorem tickRun_legs (b s) : (tickRun b s).legs = s.legs := by simp -implicitDefEqProofs [tickRun]
@[simp] theorem tickFailed_legs (b s) : (tickFailed b s).legs = s.legs := by simp -implicitDefEqProofs [tickFailed]
@[simp] theorem tickLockout_legs (b s) : (tickLockout b s).legs = s.legs := by simp -implicitDefEqProofs [tickLockout]

@[simp] theorem tickPhase_legs (ph b s) : (tickPhase ph b s).legs = s.legs := by
  unfold tickPhase
  simp -implicitDefEqProofs
  split <;> simp -implicitDefEqProofs

@[simp] theorem auxTick_legs (p b s) : (auxTick p b s).legs = s.legs := by simp -implicitDefEqProofs [auxTick]

@[simp] theorem auxStep_legs (b : Nat) (due : State → Bool) (f : State → State) (hf : ∀ x, (f x).legs = x.legs)
    (s : State) :
    (auxStep b due f s).legs = s.legs := by simp -implicitDefEqProofs [auxStep, hf]

@[simp] theorem brakeToStart_legs (b s) : (brakeToStart b s).legs = s.legs := by
  simp -implicitDefEqProofs [brakeToStart]

@[simp] theorem lock_legs (b s) : (lock b s).legs = s.legs := by simp -implicitDefEqProofs [lock]
@[simp] theorem failWith_legs (b c s) : (failWith b c s).legs = s.legs := by simp -implicitDefEqProofs [failWith]
@[simp] theorem backoffEnds_legs (b s) : (backoffEnds b s).legs = s.legs := by simp -implicitDefEqProofs [backoffEnds]

/-! #### Groups of legs -/

@[simp] theorem grpEvent_legs (g s) : (grpEvent g s).legs = s.legs := by simp -implicitDefEqProofs [grpEvent]
@[simp] theorem notClean_legs (l s) : (notClean l s).legs = s.legs := by simp -implicitDefEqProofs [notClean]
@[simp] theorem lowspdCheck_legs (g s) : (lowspdCheck g s).legs = s.legs := by simp -implicitDefEqProofs [lowspdCheck]

/-! #### The leg guard -/

@[simp] theorem copyCodes_legs (old l s) : (copyCodes old l s).legs = s.legs := by
  simp -implicitDefEqProofs [copyCodes]

/-! #### CAN -/

@[simp] theorem setTxRp_legs (n f p s) : (setTxRp n f p s).legs = s.legs := by simp -implicitDefEqProofs [setTxRp]
@[simp] theorem canTxFail_legs (n s) : (canTxFail n s).legs = s.legs := by simp -implicitDefEqProofs [canTxFail]

@[simp] theorem canDropBad_legs (n f k : Nat) : ∀ s : State, (canDropBad n f k s).legs = s.legs := by
  induction k with
  | zero => exact fun _ => rfl
  | succ k ih => intro s; simp -implicitDefEqProofs [canDropBad, ih]

@[simp] theorem canSift_legs (n s) : (canSift n s).legs = s.legs := by simp -implicitDefEqProofs [canSift]
@[simp] theorem canChoose_legs (n s) : (canChoose n s).legs = s.legs := by simp -implicitDefEqProofs [canChoose]

@[simp] theorem canNoteStart_legs (n s) : (canNoteStart n s).legs = s.legs := by
  simp -implicitDefEqProofs [canNoteStart]

@[simp] theorem canDetEnd_legs (n found s) : (canDetEnd n found s).legs = s.legs := by
  simp -implicitDefEqProofs [canDetEnd]

@[simp] theorem canDetTry_legs (n k t s) : (canDetTry n k t s).legs = s.legs := by
  unfold canDetTry
  split <;> simp -implicitDefEqProofs

@[simp] theorem canDetFrame_legs (n s) : (canDetFrame n s).legs = s.legs := by
  unfold canDetFrame
  split <;> simp -implicitDefEqProofs

@[simp] theorem canDoorbell_legs (n f m d s) : (canDoorbell n f m d s).legs = s.legs := by
  simp -implicitDefEqProofs [canDoorbell]

@[simp] theorem canLeave_legs (n f s) : (canLeave n f s).legs = s.legs := by simp -implicitDefEqProofs [canLeave]
@[simp] theorem canPaused_legs (n s) : (canPaused n s).legs = s.legs := by simp -implicitDefEqProofs [canPaused]
@[simp] theorem canNow_legs (n t s) : (canNow n t s).legs = s.legs := by simp -implicitDefEqProofs [canNow]

@[simp] theorem canKeep_legs (n fr cmd k s) : (canKeep n fr cmd k s).legs = s.legs := by
  simp -implicitDefEqProofs [canKeep]

@[simp] theorem canAccept_legs (n fr s) : (canAccept n fr s).legs = s.legs := by
  unfold canAccept
  (repeat' split) <;> simp -implicitDefEqProofs

@[simp] theorem canRxrpApply_legs (n m d s) : (canRxrpApply n m d s).legs = s.legs := by
  simp -implicitDefEqProofs [canRxrpApply]

@[simp] theorem canFlushed_legs (n s) : (canFlushed n s).legs = s.legs := by simp -implicitDefEqProofs [canFlushed]
@[simp] theorem canRecover_legs (n s) : (canRecover n s).legs = s.legs := by simp -implicitDefEqProofs [canRecover]

@[simp] theorem canFlushOne_legs (n f s) : (canFlushOne n f s).legs = s.legs := by
  simp -implicitDefEqProofs [canFlushOne]

@[simp] theorem canDetreqApply_legs (n m d s) : (canDetreqApply n m d s).legs = s.legs := by
  simp -implicitDefEqProofs [canDetreqApply]

@[simp] theorem canSnapshot_legs (n s) : (canSnapshot n s).legs = s.legs := by simp -implicitDefEqProofs [canSnapshot]
@[simp] theorem canLeaseEnd_legs (k : Nat) (s : State) : (canLeaseEnd k s).legs = s.legs := rfl

@[simp] theorem canFlip_legs (old s) : (canFlip old s).legs = s.legs := by
  simp -implicitDefEqProofs [canFlip, canChange]

/-! #### Serial ports -/

@[simp] theorem qspComplete_legs (p code s) : (qspComplete p code s).legs = s.legs := by
  simp -implicitDefEqProofs [qspComplete]

@[simp] theorem qspResume_legs (p s) : (qspResume p s).legs = s.legs := by simp -implicitDefEqProofs [qspResume]

@[simp] theorem qspDbwpApply_legs (p m d s) : (qspDbwpApply p m d s).legs = s.legs := by
  simp -implicitDefEqProofs [qspDbwpApply]

@[simp] theorem qspCut_legs (p rd s) : (qspCut p rd s).legs = s.legs := by simp -implicitDefEqProofs [qspCut]

@[simp] theorem ringStore_legs (p : Nat) (bs : List Byte) : ∀ s : State, (ringStore p bs s).legs = s.legs := by
  induction bs with
  | nil => exact fun _ => rfl
  | cons b r ih => exact fun s => ih _

@[simp] theorem qspTrpApply_legs (p m d s) : (qspTrpApply p m d s).legs = s.legs := by
  simp -implicitDefEqProofs [qspTrpApply]

@[simp] theorem qspAbandonAll_legs (p k : Nat) : ∀ s : State, (qspAbandonAll p k s).legs = s.legs := by
  induction k with
  | zero => exact fun _ => rfl
  | succ k ih => intro s; simp -implicitDefEqProofs [qspAbandonAll, ih]

@[simp] theorem qspEndByte_legs (p s) : (qspEndByte p s).legs = s.legs := by
  unfold qspEndByte
  simp -implicitDefEqProofs
  split <;> simp -implicitDefEqProofs

@[simp] theorem qspLeaseEnd_legs (p s) : (qspLeaseEnd p s).legs = s.legs := by simp -implicitDefEqProofs [qspLeaseEnd]

@[simp] theorem qspStatuses_legs (p s) : (qspStatuses p s).legs = s.legs := by
  simp -implicitDefEqProofs [qspStatuses, qspStatus]

@[simp] theorem qspSnapshot_legs (p s) : (qspSnapshot p s).legs = s.legs := by simp -implicitDefEqProofs [qspSnapshot]

/-! #### The spine -/

@[simp] theorem spnRxDrop_legs (s) : (spnRxDrop s).legs = s.legs := by simp -implicitDefEqProofs [spnRxDrop]
@[simp] theorem spnHdrErr_legs (s) : (spnHdrErr s).legs = s.legs := by simp -implicitDefEqProofs [spnHdrErr]

@[simp] theorem takeOutput_legs (p a n s) : (takeOutput p a n s).legs = s.legs := by
  simp -implicitDefEqProofs [takeOutput]

@[simp] theorem startWaits_legs (p : Nat) (t : Time) (ws : List Waiting) (s : State) :
    (startWaits p t ws s).legs = s.legs := by
  obtain ⟨x, hx⟩ := startWaits_frame p t ws s
  rw [hx]

@[simp] theorem forward_legs (x s) : (forward x s).legs = s.legs := by simp -implicitDefEqProofs [forward]
@[simp] theorem noteSide_legs (p h s) : (noteSide p h s).legs = s.legs := by simp -implicitDefEqProofs [noteSide]

@[simp] theorem noteSeq_legs (h s) : (noteSeq h s).legs = s.legs := by
  unfold noteSeq
  cases h.bc <;> simp -implicitDefEqProofs <;> split <;> simp -implicitDefEqProofs

@[simp] theorem receive_legs (x : Sig) (t : Time) (f bad : State → State) (hf : ∀ y, (f y).legs = y.legs)
    (hb : ∀ y, (bad y).legs = y.legs) (s : State) :
    (receive x t f bad s).legs = s.legs := by simp -implicitDefEqProofs [receive, hf, hb]

@[simp] theorem emit_legs (ps t h pay s) : (emit ps t h pay s).legs = s.legs := by simp -implicitDefEqProofs [emit]

@[simp] theorem sendBc_legs (kind t bs s) : (sendBc kind t bs s).legs = s.legs := by
  simp -implicitDefEqProofs [sendBc]

@[simp] theorem changeMembers_legs (n s) : (changeMembers n s).legs = s.legs := by
  simp -implicitDefEqProofs [changeMembers]

@[simp] theorem sendMgmt_legs (dst bs s) : (sendMgmt dst bs s).legs = s.legs := by
  simp -implicitDefEqProofs [sendMgmt]

@[simp] theorem announceSelf_legs (s) : (announceSelf s).legs = s.legs := by simp -implicitDefEqProofs [announceSelf]

@[simp] theorem startAnnouncing_legs (s) : (startAnnouncing s).legs = s.legs := by
  simp -implicitDefEqProofs [startAnnouncing]

@[simp] theorem takeCredit_legs (src e s) : (takeCredit src e s).legs = s.legs := by
  simp -implicitDefEqProofs [takeCredit]

@[simp] theorem takeRemote_legs (src e s) : (takeRemote src e s).legs = s.legs := by
  simp -implicitDefEqProofs [takeRemote]

@[simp] theorem takeStatus_legs (src bs s) : (takeStatus src bs s).legs = s.legs := by
  unfold takeStatus
  simp -implicitDefEqProofs
  split <;> simp -implicitDefEqProofs

@[simp] theorem qWrite_legs (base : Nat) (bs : List Byte) : ∀ (o : Nat) (s : State),
    (qWrite base o bs s).legs = s.legs := by
  induction bs with
  | nil => exact fun _ _ => rfl
  | cons b r ih => exact fun o s => ih (o + 1) _

@[simp] theorem txPop_legs (q s) : (txPop q s).legs = s.legs := by simp -implicitDefEqProofs [txPop]

@[simp] theorem rxPlace_legs (x crcOk t s) : (rxPlace x crcOk t s).legs = s.legs := by
  simp -implicitDefEqProofs [rxPlace]

@[simp] theorem txqWpApply_legs (q m d s) : (txqWpApply q m d s).legs = s.legs := by
  simp -implicitDefEqProofs [txqWpApply]

@[simp] theorem rxqRpApply_legs (q m d s) : (rxqRpApply q m d s).legs = s.legs := by
  simp -implicitDefEqProofs [rxqRpApply, returnUnits]

@[simp] theorem wrapAt_legs (ports s) : (wrapAt ports s).legs = s.legs := by simp -implicitDefEqProofs [wrapAt]
@[simp] theorem mgmtDrop_legs (s) : (mgmtDrop s).legs = s.legs := by simp -implicitDefEqProofs [mgmtDrop]

@[simp] theorem joinRefused_legs (code s) : (joinRefused code s).legs = s.legs := by
  simp -implicitDefEqProofs [joinRefused]

@[simp] theorem askJoin_legs (s) : (askJoin s).legs = s.legs := by simp -implicitDefEqProofs [askJoin]
@[simp] theorem spnLeave_legs (s) : (spnLeave s).legs = s.legs := by simp -implicitDefEqProofs [spnLeave]
@[simp] theorem goStandalone_legs (s) : (goStandalone s).legs = s.legs := by simp -implicitDefEqProofs [goStandalone]
@[simp] theorem spnLeaseEnd_legs (k : Nat) (s : State) : (spnLeaseEnd k s).legs = s.legs := rfl
@[simp] theorem grantTo_legs (q a s) : (grantTo q a s).legs = s.legs := by simp -implicitDefEqProofs [grantTo]

@[simp] theorem creditReset_legs (s) : (creditReset s).legs = s.legs := by
  simp -implicitDefEqProofs [creditReset, regrantQueue]

@[simp] theorem grantAll_legs (s) : (grantAll s).legs = s.legs := by simp -implicitDefEqProofs [grantAll, grantQueue]

@[simp] theorem mailboxOne_legs (m s) : (mailboxOne m s).legs = s.legs := by
  unfold mailboxOne
  simp -implicitDefEqProofs
  split <;> simp -implicitDefEqProofs

@[simp] theorem mailboxUpdate_legs (s) : (mailboxUpdate s).legs = s.legs := by
  simp -implicitDefEqProofs [mailboxUpdate]

@[simp] theorem remoteLog_legs (s) : (remoteLog s).legs = s.legs := by simp -implicitDefEqProofs [remoteLog]

@[simp] theorem spnSnapshot_legs (b s) : (spnSnapshot b s).legs = s.legs := by
  simp -implicitDefEqProofs [spnSnapshot, showRecords]

@[simp] theorem spnFlip_legs (old first s0) : (spnFlip old first s0).legs = s0.legs := by
  simp -implicitDefEqProofs [spnFlip]

/-! #### Leases -/

@[simp] theorem leaseResult_legs (w code slot s) : (leaseResult w code slot s).legs = s.legs := by
  simp -implicitDefEqProofs [leaseResult]

@[simp] theorem leaseAcquire_legs (w d s) : (leaseAcquire w d s).legs = s.legs := by
  unfold leaseAcquire
  simp -implicitDefEqProofs
  split <;> simp -implicitDefEqProofs

@[simp] theorem leaseRenew_legs (w d s) : (leaseRenew w d s).legs = s.legs := by
  unfold leaseRenew
  simp -implicitDefEqProofs
  split <;> simp -implicitDefEqProofs

@[simp] theorem endLease_legs (k ev s) : (endLease k ev s).legs = s.legs := by
  unfold endLease
  simp -implicitDefEqProofs
  split <;> simp -implicitDefEqProofs

@[simp] theorem leaseRelease_legs (w d s) : (leaseRelease w d s).legs = s.legs := by
  unfold leaseRelease
  simp -implicitDefEqProofs
  split <;> simp -implicitDefEqProofs

@[simp] theorem leaseRevoke_legs (w d s) : (leaseRevoke w d s).legs = s.legs := by
  unfold leaseRevoke
  simp -implicitDefEqProofs
  split <;> simp -implicitDefEqProofs

@[simp] theorem leaseRequest_legs (w d s) : (leaseRequest w d s).legs = s.legs := by
  unfold leaseRequest
  split <;> simp -implicitDefEqProofs

@[simp] theorem revokeThose_legs (p s) : (revokeThose p s).legs = s.legs := by simp -implicitDefEqProofs [revokeThose]
@[simp] theorem leaseTick_legs (s) : (leaseTick s).legs = s.legs := by simp -implicitDefEqProofs [leaseTick]

/-! #### Duties of the engine -/

@[simp] theorem showPool_legs (s) : (showPool s).legs = s.legs := by simp -implicitDefEqProofs [showPool]

@[simp] theorem quotaWrite_legs (u m d s) : (quotaWrite u m d s).legs = s.legs := by
  simp -implicitDefEqProofs [quotaWrite]

@[simp] theorem startUnit_legs (key pc s) : (startUnit key pc s).legs = s.legs := by
  simp -implicitDefEqProofs [startUnit]

@[simp] theorem startHalves_legs (n pa s) : (startHalves n pa s).legs = s.legs := by
  simp -implicitDefEqProofs [startHalves]

@[simp] theorem startApply_legs (n s) : (startApply n s).legs = s.legs := by simp -implicitDefEqProofs [startApply]
@[simp] theorem loseReady_legs (p s) : (loseReady p s).legs = s.legs := by simp -implicitDefEqProofs [loseReady]
@[simp] theorem stopUnit_legs (w s) : (stopUnit w s).legs = s.legs := by simp -implicitDefEqProofs [stopUnit]

@[simp] theorem permFault_legs (w k s) : (permFault w k s).legs = s.legs := by
  simp -implicitDefEqProofs [permFault, svFault]

@[simp] theorem replay_legs (w s) : (replay w s).legs = s.legs := by
  simp -implicitDefEqProofs [replay, resample, sampleAll]

@[simp] theorem mirrorFlush_legs (p s) : (mirrorFlush p s).legs = s.legs := by simp -implicitDefEqProofs [mirrorFlush]
@[simp] theorem seedDuty_legs (d s) : (seedDuty d s).legs = s.legs := by simp -implicitDefEqProofs [seedDuty, copyTcm]
@[simp] theorem reseed_legs (d s) : (reseed d s).legs = s.legs := by simp -implicitDefEqProofs [reseed]

@[simp] theorem dutyCfgStore_legs (d v s) : (dutyCfgStore d v s).legs = s.legs := by
  simp -implicitDefEqProofs [dutyCfgStore]

@[simp] theorem dutyRegionStore_legs (d a v s) : (dutyRegionStore d a v s).legs = s.legs := by
  simp -implicitDefEqProofs [dutyRegionStore]

@[simp] theorem moveQuota_legs (d p q s) : (moveQuota d p q s).legs = s.legs := by
  simp -implicitDefEqProofs [moveQuota]

@[simp] theorem swapBases_legs (d s) : (swapBases d s).legs = s.legs := by simp -implicitDefEqProofs [swapBases]

@[simp] theorem takeOverPair_legs (all p s) : (takeOverPair all p s).legs = s.legs := by
  simp -implicitDefEqProofs [takeOverPair, takeOver, dropDuty]

@[simp] theorem takeOvers_legs (s) : (takeOvers s).legs = s.legs := by simp -implicitDefEqProofs [takeOvers]
@[simp] theorem hoReject_legs (c s) : (hoReject c s).legs = s.legs := by simp -implicitDefEqProofs [hoReject]

@[simp] theorem hoAccept_legs (kind d p s) : (hoAccept kind d p s).legs = s.legs := by
  simp -implicitDefEqProofs [hoAccept]

@[simp] theorem hoRequest_legs (m d s) : (hoRequest m d s).legs = s.legs := by simp -implicitDefEqProofs [hoRequest]

@[simp] theorem splitRequest_legs (m d s) : (splitRequest m d s).legs = s.legs := by
  simp -implicitDefEqProofs [splitRequest]

@[simp] theorem clearHo_legs (s) : (clearHo s).legs = s.legs := by simp -implicitDefEqProofs [clearHo]
@[simp] theorem handOver_legs (d p s) : (handOver d p s).legs = s.legs := by simp -implicitDefEqProofs [handOver]
@[simp] theorem rejoinStarts_legs (s) : (rejoinStarts s).legs = s.legs := by simp -implicitDefEqProofs [rejoinStarts]

@[simp] theorem markObserved_legs (a m s) : (markObserved a m s).legs = s.legs := by
  simp -implicitDefEqProofs [markObserved]

@[simp] theorem topRead_legs (w c b s) : (topRead w c b s).legs = s.legs := by
  unfold topRead
  split <;> simp -implicitDefEqProofs

@[simp] theorem pendRead_legs (w c b i s) : (pendRead w c b i s).legs = s.legs := by
  simp -implicitDefEqProofs [pendRead]

@[simp] theorem pendClear_legs (a m s) : (pendClear a m s).legs = s.legs := by simp -implicitDefEqProofs [pendClear]

/-! #### Passes of the engine -/

@[simp] theorem putRun_legs (p s) : (putRun p s).legs = s.legs := by simp -implicitDefEqProofs [putRun]
@[simp] theorem clearWritten_legs (s) : (clearWritten s).legs = s.legs := by simp -implicitDefEqProofs [clearWritten]

@[simp] theorem startAttempt_legs (p s) : (startAttempt p s).legs = s.legs := by
  simp -implicitDefEqProofs [startAttempt]

@[simp] theorem showCyc_legs (n s) : (showCyc n s).legs = s.legs := by simp -implicitDefEqProofs [showCyc]

@[simp] theorem engineRunEnds_legs (s) : (engineRunEnds s).legs = s.legs := by
  simp -implicitDefEqProofs [engineRunEnds]

@[simp] theorem tableDone_legs (s) : (tableDone s).legs = s.legs := by simp -implicitDefEqProofs [tableDone]

@[simp] theorem nextPass_legs (k s) : (nextPass k s).legs = s.legs := by
  unfold nextPass
  split <;> simp -implicitDefEqProofs

@[simp] theorem startTable_legs (s) : (startTable s).legs = s.legs := by simp -implicitDefEqProofs [startTable]
@[simp] theorem clearAborted_legs (s) : (clearAborted s).legs = s.legs := by simp -implicitDefEqProofs [clearAborted]
@[simp] theorem dropAttempt_legs (p s) : (dropAttempt p s).legs = s.legs := by simp -implicitDefEqProofs [dropAttempt]

@[simp] theorem recordAbort_legs (p cause lane code s) : (recordAbort p cause lane code s).legs = s.legs := by
  simp -implicitDefEqProofs [recordAbort]

@[simp] theorem passStat_legs (p aborted cyc s) : (passStat p aborted cyc s).legs = s.legs := by
  simp -implicitDefEqProofs [passStat]

@[simp] theorem abortPass_legs (cause lane code cyc p s) : (abortPass cause lane code cyc p s).legs = s.legs := by
  simp -implicitDefEqProofs [abortPass]

@[simp] theorem stageCaps_legs (cs s) : (stageCaps cs s).legs = s.legs := by simp -implicitDefEqProofs [stageCaps]

@[simp] theorem lawDone_legs (law p s) : (lawDone law p s).legs = s.legs := by
  unfold lawDone
  split <;> simp -implicitDefEqProofs

@[simp] theorem dropEngine_legs (s) : (dropEngine s).legs = s.legs := by
  simp -implicitDefEqProofs [dropEngine, auxDrop]

@[simp] theorem holdLastEngine_legs (s) : (holdLastEngine s).legs = s.legs := by
  unfold holdLastEngine
  simp -implicitDefEqProofs
  split <;> simp -implicitDefEqProofs

@[simp] theorem engFault_legs (k s) : (engFault k s).legs = s.legs := by simp -implicitDefEqProofs [engFault]
@[simp] theorem permEngine_legs (k s) : (permEngine k s).legs = s.legs := by simp -implicitDefEqProofs [permEngine]

@[simp] theorem startEmulator_legs (n s) : (startEmulator n s).legs = s.legs := by
  simp -implicitDefEqProofs [startEmulator]

@[simp] theorem twinStore_legs (kind key v p s) : (twinStore kind key v p s).2.legs = s.legs := by
  simp -implicitDefEqProofs [twinStore]

@[simp] theorem hazard_legs (kind key stands p s) : (hazard kind key stands p s).2.legs = s.legs := by
  unfold hazard
  split <;> simp -implicitDefEqProofs

@[simp] theorem issue_legs (op : Nat) (e : EngWord) (fm : Form) (f : PassSt → State → State)
    (hf : ∀ p x, (f p x).legs = x.legs) (s : State) :
    (issue op e fm f s).legs = s.legs := by unfold issue; split <;> simp -implicitDefEqProofs [hf]

@[simp] theorem laneOp_legs (op e fm n f s) : (laneOp op e fm n f s).legs = s.legs := by
  simp -implicitDefEqProofs [laneOp]

@[simp] theorem updIg_legs (n f s) : (updIg n f s).legs = s.legs := by simp -implicitDefEqProofs [updIg]
@[simp] theorem showIg_legs (n s) : (showIg n s).legs = s.legs := by simp -implicitDefEqProofs [showIg]
@[simp] theorem igApply_legs (n m d s) : (igApply n m d s).legs = s.legs := by simp -implicitDefEqProofs [igApply]
@[simp] theorem igBoundary_legs (s) : (igBoundary s).legs = s.legs := by simp -implicitDefEqProofs [igBoundary]
@[simp] theorem capCommit_legs (s) : (capCommit s).legs = s.legs := by simp -implicitDefEqProofs [capCommit, capWrite]

@[simp] theorem engCtrlApply_legs (m d s) : (engCtrlApply m d s).legs = s.legs := by
  simp -implicitDefEqProofs [engCtrlApply]

/-! #### Feedback -/

@[simp] theorem portBit_legs (i f s) : (portBit i f s).legs = s.legs := by simp -implicitDefEqProofs [portBit]
@[simp] theorem portFault_legs (f s) : (portFault f s).legs = s.legs := by simp -implicitDefEqProofs [portFault]

@[simp] theorem cmpCheck_legs (f up t s) : (cmpCheck f up t s).legs = s.legs := by
  simp -implicitDefEqProofs [cmpCheck, cmpFire]

@[simp] theorem cmpSetArm_legs (c v s) : (cmpSetArm c v s).legs = s.legs := by simp -implicitDefEqProofs [cmpSetArm]

@[simp] theorem cmpArmEntry_legs (c m d s) : (cmpArmEntry c m d s).legs = s.legs := by
  simp -implicitDefEqProofs [cmpArmEntry]

@[simp] theorem showPend_legs (e s) : (showPend e s).legs = s.legs := by simp -implicitDefEqProofs [showPend]
@[simp] theorem emFeed_legs (f d s) : (emFeed f d s).legs = s.legs := by simp -implicitDefEqProofs [emFeed, emCounts]
@[simp] theorem addPos_legs (f d s) : (addPos f d s).legs = s.legs := by simp -implicitDefEqProofs [addPos]

@[simp] theorem countEdge_legs (f up u t s) : (countEdge f up u t s).legs = s.legs := by
  simp -implicitDefEqProofs [countEdge]

@[simp] theorem recapSet_legs (f s) : (recapSet f s).legs = s.legs := by simp -implicitDefEqProofs [recapSet]

@[simp] theorem idxctlEntry_legs (f m d s) : (idxctlEntry f m d s).legs = s.legs := by
  simp -implicitDefEqProofs [idxctlEntry]

@[simp] theorem incAccept_legs (f x u t s) : (incAccept f x u t s).legs = s.legs := by
  simp -implicitDefEqProofs [incAccept, indexAt]

@[simp] theorem magAccept_legs (f u t s) : (magAccept f u t s).legs = s.legs := by
  unfold magAccept
  simp -implicitDefEqProofs
  split <;> simp -implicitDefEqProofs

@[simp] theorem portAccept_legs (f u t s) : (portAccept f u t s).legs = s.legs := by
  unfold portAccept
  split <;> simp -implicitDefEqProofs

@[simp] theorem plsAccept_legs (p v u s) : (plsAccept p v u s).legs = s.legs := by
  simp -implicitDefEqProofs [plsAccept]

@[simp] theorem setPinSt_legs (q v s) : (setPinSt q v s).legs = s.legs := by
  unfold setPinSt
  split <;> simp -implicitDefEqProofs

@[simp] theorem acceptEdge_legs (q t s) : (acceptEdge q t s).legs = s.legs := by
  dsimp only [acceptEdge]
  split
  · rfl
  · split
    · rfl
    · split <;> simp -implicitDefEqProofs

@[simp] theorem pinEdge_legs (q v t s) : (pinEdge q v t s).legs = s.legs := by
  unfold pinEdge
  simp -implicitDefEqProofs
  split <;> simp -implicitDefEqProofs

@[simp] theorem standstill_legs (t f s) : (standstill t f s).legs = s.legs := by
  simp -implicitDefEqProofs [standstill]

@[simp] theorem readReject_legs (f s) : (readReject f s).legs = s.legs := by simp -implicitDefEqProofs [readReject]

@[simp] theorem readAccept_legs (f v d u t s) : (readAccept f v d u t s).legs = s.legs := by
  simp -implicitDefEqProofs [readAccept]

@[simp] theorem portsNewTick_legs (s) : (portsNewTick s).legs = s.legs := by simp -implicitDefEqProofs [portsNewTick]

@[simp] theorem fbkFlip_legs (run old s) : (fbkFlip run old s).legs = s.legs := by
  simp -implicitDefEqProofs [fbkFlip, restartPort]

/-! #### Trust -/

@[simp] theorem emWrite_legs (a bs s) : (emWrite a bs s).legs = s.legs := by simp -implicitDefEqProofs [emWrite]

@[simp] theorem copyMem_legs (src dst n s) : (copyMem src dst n s).legs = s.legs := by
  simp -implicitDefEqProofs [copyMem]

@[simp] theorem setVerd_legs (v s) : (setVerd v s).legs = s.legs := by simp -implicitDefEqProofs [setVerd]
@[simp] theorem showKeys_legs (s) : (showKeys s).legs = s.legs := by simp -implicitDefEqProofs [showKeys]
@[simp] theorem setLc_legs (v s) : (setLc v s).legs = s.legs := by simp -implicitDefEqProofs [setLc]
@[simp] theorem refuse_legs (code s) : (refuse code s).legs = s.legs := by simp -implicitDefEqProofs [refuse]
@[simp] theorem endTokens_legs (s) : (endTokens s).legs = s.legs := by simp -implicitDefEqProofs [endTokens]
@[simp] theorem otpStep_legs (v s) : (otpStep v s).legs = s.legs := by simp -implicitDefEqProofs [otpStep]

@[simp] theorem lcProvisioned_legs (s) : (lcProvisioned s).legs = s.legs := by
  simp -implicitDefEqProofs [lcProvisioned]

@[simp] theorem lcField_legs (s) : (lcField s).legs = s.legs := by simp -implicitDefEqProofs [lcField]
@[simp] theorem lcReturn_legs (s) : (lcReturn s).legs = s.legs := by simp -implicitDefEqProofs [lcReturn, stopAll]
@[simp] theorem lcScrapped_legs (s) : (lcScrapped s).legs = s.legs := by simp -implicitDefEqProofs [lcScrapped]

@[simp] theorem lcRequest_legs (target s) : (lcRequest target s).legs = s.legs := by
  unfold lcRequest
  split <;> simp -implicitDefEqProofs

@[simp] theorem revokeRoots_legs (k s) : (revokeRoots k s).legs = s.legs := by simp -implicitDefEqProofs [revokeRoots]
@[simp] theorem setPart_legs (k v s) : (setPart k v s).legs = s.legs := by simp -implicitDefEqProofs [setPart]
@[simp] theorem report_legs (kind s) : (report kind s).legs = s.legs := by simp -implicitDefEqProofs [report]
@[simp] theorem showGath_legs (s) : (showGath s).legs = s.legs := by simp -implicitDefEqProofs [showGath]
@[simp] theorem gathCheck_legs (s) : (gathCheck s).legs = s.legs := by simp -implicitDefEqProofs [gathCheck]
@[simp] theorem rolledCheck_legs (s) : (rolledCheck s).legs = s.legs := by simp -implicitDefEqProofs [rolledCheck]
@[simp] theorem gathAbort_legs (s) : (gathAbort s).legs = s.legs := by simp -implicitDefEqProofs [gathAbort]
@[simp] theorem gathClose_legs (s) : (gathClose s).legs = s.legs := by simp -implicitDefEqProofs [gathClose]
@[simp] theorem gathCommit_legs (s) : (gathCommit s).legs = s.legs := by simp -implicitDefEqProofs [gathCommit]
@[simp] theorem holdPair_legs (p s) : (holdPair p s).legs = s.legs := by simp -implicitDefEqProofs [holdPair]
@[simp] theorem holdTarget_legs (k s) : (holdTarget k s).legs = s.legs := by simp -implicitDefEqProofs [holdTarget]

@[simp] theorem loadTcm_legs (u img s) : (loadTcm u img s).legs = s.legs := by
  unfold loadTcm
  split <;> simp -implicitDefEqProofs

@[simp] theorem loadPart_legs (k s) : (loadPart k s).legs = s.legs := by simp -implicitDefEqProofs [loadPart]
@[simp] theorem showLen_legs (k s) : (showLen k s).legs = s.legs := by simp -implicitDefEqProofs [showLen]
@[simp] theorem rollDone_legs (k s) : (rollDone k s).2.legs = s.legs := by simp -implicitDefEqProofs [rollDone]

@[simp] theorem switchDone_legs (k s) : (switchDone k s).2.legs = s.legs := by
  simp -implicitDefEqProofs [switchDone, copied]

@[simp] theorem truGate_legs (op : Nat) (d : Word) (f : Nat → State → State) (hf : ∀ k x, (f k x).legs = x.legs)
    (s : State) :
    (truGate op d f s).legs = s.legs := by simp -implicitDefEqProofs [truGate, hf]

@[simp] theorem truRun_legs (op k len dur s) : (truRun op k len dur s).legs = s.legs := by
  simp -implicitDefEqProofs [truRun]

@[simp] theorem truNow_legs (op k : Nat) (f : State → State) (hf : ∀ x, (f x).legs = x.legs) (s : State) :
    (truNow op k f s).legs = s.legs := by simp -implicitDefEqProofs [truNow, hf]

@[simp] theorem truInstall_legs (s) : (truInstall s).legs = s.legs := by simp -implicitDefEqProofs [truInstall]

@[simp] theorem tokenActs_legs (scope until_ s) : (tokenActs scope until_ s).legs = s.legs := by
  unfold tokenActs
  split <;> simp -implicitDefEqProofs

@[simp] theorem truToken_legs (s) : (truToken s).legs = s.legs := by simp -implicitDefEqProofs [truToken]
@[simp] theorem truLeave_legs (s) : (truLeave s).legs = s.legs := by simp -implicitDefEqProofs [truLeave]
@[simp] theorem truStage_legs (k s) : (truStage k s).legs = s.legs := by simp -implicitDefEqProofs [truStage]
@[simp] theorem truSeal_legs (k s) : (truSeal k s).legs = s.legs := by simp -implicitDefEqProofs [truSeal]
@[simp] theorem gathStart_legs (m s) : (gathStart m s).legs = s.legs := by simp -implicitDefEqProofs [gathStart]
@[simp] theorem truOpen_legs (s) : (truOpen s).legs = s.legs := by simp -implicitDefEqProofs [truOpen]

@[simp] theorem truSwitch_legs (k s) : (truSwitch k s).legs = s.legs := by
  unfold truSwitch
  split <;> simp -implicitDefEqProofs

@[simp] theorem truOk_legs (k s) : (truOk k s).legs = s.legs := by simp -implicitDefEqProofs [truOk]
@[simp] theorem truFailed_legs (k s) : (truFailed k s).legs = s.legs := by simp -implicitDefEqProofs [truFailed]
@[simp] theorem truCommit_legs (s) : (truCommit s).legs = s.legs := by simp -implicitDefEqProofs [truCommit]
@[simp] theorem truAbort_legs (s) : (truAbort s).legs = s.legs := by simp -implicitDefEqProofs [truAbort]
@[simp] theorem truRoll_legs (k s) : (truRoll k s).legs = s.legs := by simp -implicitDefEqProofs [truRoll]
@[simp] theorem truCal_legs (s) : (truCal s).legs = s.legs := by simp -implicitDefEqProofs [truCal]
@[simp] theorem truLoad_legs (k s) : (truLoad k s).legs = s.legs := by simp -implicitDefEqProofs [truLoad]
@[simp] theorem truInvalid_legs (d s) : (truInvalid d s).legs = s.legs := by simp -implicitDefEqProofs [truInvalid]

/-- Each command of TRU leaves the legs alone, so the one that a word names does. -/
@[simp] theorem truCommand_legs (d : Word) (s : State) : (truCommand d s).legs = s.legs := by
  dsimp only [truCommand]
  split
  · next h =>
    refine truGate_legs _ _ _ ?_ s
    have hm := List.mem_of_find?_eq_some h
    simp only [List.mem_cons, Prod.mk.injEq, List.not_mem_nil, or_false] at hm
    rcases hm with ⟨-, rfl⟩ | ⟨-, rfl⟩ | ⟨-, rfl⟩ | ⟨-, rfl⟩ | ⟨-, rfl⟩ | ⟨-, rfl⟩ | ⟨-, rfl⟩ |
      ⟨-, rfl⟩ | ⟨-, rfl⟩ | ⟨-, rfl⟩ | ⟨-, rfl⟩ | ⟨-, rfl⟩ | ⟨-, rfl⟩ | ⟨-, rfl⟩ <;> simp -implicitDefEqProofs
  · simp -implicitDefEqProofs

@[simp] theorem installDone_legs (r s) : (installDone r s).2.legs = s.legs := by
  simp -implicitDefEqProofs [installDone]

@[simp] theorem truFinish_legs (r s) : (truFinish r s).2.legs = s.legs := by
  unfold truFinish
  split <;> simp -implicitDefEqProofs

@[simp] theorem reportAgain_legs (s) : (reportAgain s).legs = s.legs := by simp -implicitDefEqProofs [reportAgain]

@[simp] theorem reportFailure_legs (s) : (reportFailure s).legs = s.legs := by
  simp -implicitDefEqProofs [reportFailure]

@[simp] theorem truBoundary_legs (s) : (truBoundary s).legs = s.legs := by
  unfold truBoundary
  split <;> simp -implicitDefEqProofs

/-! #### Power -/

@[simp] theorem resetState_legs (k : RstCause) (t : Time) (s : State) : (resetState k t s).legs = [] := by
  simp -implicitDefEqProofs [resetState]

@[simp] theorem resumeWork_legs (s) : (resumeWork s).legs = s.legs := by
  unfold resumeWork
  split <;> simp -implicitDefEqProofs

@[simp] theorem bootRoll_legs (s) : (bootRoll s).legs = s.legs := by simp -implicitDefEqProofs [bootRoll]

@[simp] theorem hoStart_legs (forced t s) : (hoStart forced t s).legs = s.legs := by
  simp -implicitDefEqProofs [hoStart]

@[simp] theorem hoCheck_legs (t s) : (hoCheck t s).legs = s.legs := by simp -implicitDefEqProofs [hoCheck]

/-! #### Sensing -/

@[simp] theorem updRel_legs (f s) : (updRel f s).legs = s.legs := by simp -implicitDefEqProofs [updRel]

@[simp] theorem reliefAgain_legs (i t s) : (reliefAgain i t s).legs = s.legs := by
  simp -implicitDefEqProofs [reliefAgain]

@[simp] theorem calCollect_legs (isSar ch v ok s) : (calCollect isSar ch v ok s).legs = s.legs := by
  unfold calCollect
  split <;> simp -implicitDefEqProofs

@[simp] theorem calRequest_legs (m d s) : (calRequest m d s).legs = s.legs := by
  simp -implicitDefEqProofs [calRequest]

@[simp] theorem calRefuse_legs (code ch s) : (calRefuse code ch s).legs = s.legs := by
  simp -implicitDefEqProofs [calRefuse]

@[simp] theorem calRefuseStat_legs (c code ch s) : (calRefuseStat c code ch s).legs = s.legs := by
  simp -implicitDefEqProofs [calRefuseStat]

@[simp] theorem calDone_legs (s) : (calDone s).legs = s.legs := by
  unfold calDone
  (repeat' split) <;> simp -implicitDefEqProofs

@[simp] theorem calCheck_legs (s) : (calCheck s).legs = s.legs := by
  unfold calCheck
  (repeat' split) <;> simp -implicitDefEqProofs

@[simp] theorem latchValid_legs (s) : (latchValid s).legs = s.legs := by simp -implicitDefEqProofs [latchValid]
@[simp] theorem dcxCheck_legs (s) : (dcxCheck s).legs = s.legs := by simp -implicitDefEqProofs [dcxCheck]
@[simp] theorem failUnit_legs (u s) : (failUnit u s).legs = s.legs := by simp -implicitDefEqProofs [failUnit]
@[simp] theorem showBusy_legs (c s) : (showBusy c s).legs = s.legs := by simp -implicitDefEqProofs [showBusy]
@[simp] theorem seqRun_legs (c t s) : (seqRun c t s).legs = s.legs := by simp -implicitDefEqProofs [seqRun]

@[simp] theorem seqTrigger_legs (c t s) : (seqTrigger c t s).legs = s.legs := by
  simp -implicitDefEqProofs [seqTrigger]

@[simp] theorem urgentRequest_legs (c t s) : (urgentRequest c t s).legs = s.legs := by
  simp -implicitDefEqProofs [urgentRequest]

@[simp] theorem seqSw_legs (c m d s) : (seqSw c m d s).legs = s.legs := by simp -implicitDefEqProofs [seqSw]

@[simp] theorem slotResult_legs (c k code acq s) : (slotResult c k code acq s).legs = s.legs := by
  simp -implicitDefEqProofs [slotResult]

@[simp] theorem reliefEnds_legs (s) : (reliefEnds s).legs = s.legs := by
  unfold reliefEnds
  split <;> simp -implicitDefEqProofs

@[simp] theorem sarFlip_legs (run old s) : (sarFlip run old s).legs = s.legs := by simp -implicitDefEqProofs [sarFlip]

/-! #### The safety fabric -/

@[simp] theorem soutRefresh_legs (t o s) : (soutRefresh t o s).legs = s.legs := by
  simp -implicitDefEqProofs [soutRefresh]

@[simp] theorem setQ_legs (q s) : (setQ q s).legs = s.legs := by simp -implicitDefEqProofs [setQ]
@[simp] theorem startQ_legs (s) : (startQ s).legs = s.legs := by simp -implicitDefEqProofs [startQ]
@[simp] theorem dischModel_legs (s) : (dischModel s).legs = s.legs := by simp -implicitDefEqProofs [dischModel]
@[simp] theorem stoNote_legs (t s) : (stoNote t s).legs = s.legs := by simp -implicitDefEqProofs [stoNote]
@[simp] theorem stoSet_legs (pinB v t s) : (stoSet pinB v t s).legs = s.legs := by simp -implicitDefEqProofs [stoSet]
@[simp] theorem ss1Start_legs (t g s) : (ss1Start t g s).legs = s.legs := by simp -implicitDefEqProofs [ss1Start]

@[simp] theorem grpOp_legs (op t g s) : (grpOp op t g s).legs = s.legs := by
  unfold grpOp
  split <;> simp -implicitDefEqProofs

@[simp] theorem soutApply_legs (m d s) : (soutApply m d s).legs = s.legs := by simp -implicitDefEqProofs [soutApply]

@[simp] theorem hbBoundary_legs (first s) : (hbBoundary first s).legs = s.legs := by
  simp -implicitDefEqProofs [hbBoundary]

@[simp] theorem clearSoutf_legs (o s) : (clearSoutf o s).legs = s.legs := by simp -implicitDefEqProofs [clearSoutf]
@[simp] theorem limStep_legs (k s) : (limStep k s).legs = s.legs := by simp -implicitDefEqProofs [limStep]

/-! #### Self-test -/

@[simp] theorem useSpare_legs (f n s) : (useSpare f n s).legs = s.legs := by simp -implicitDefEqProofs [useSpare]

@[simp] theorem memFail_legs (k w s) : (memFail k w s).legs = s.legs := by
  unfold memFail
  split <;> simp -implicitDefEqProofs

@[simp] theorem memRecord_legs (k w s) : (memRecord k w s).legs = s.legs := by simp -implicitDefEqProofs [memRecord]
@[simp] theorem sideBySide_legs (c s) : (sideBySide c s).legs = s.legs := by simp -implicitDefEqProofs [sideBySide]

@[simp] theorem btRequest_legs (d s) : (btRequest d s).legs = s.legs := by
  unfold btRequest
  simp -implicitDefEqProofs
  split <;> simp -implicitDefEqProofs

@[simp] theorem setStage_legs (x s) : (setStage x s).legs = s.legs := by simp -implicitDefEqProofs [setStage]

@[simp] theorem saxBoundary_legs (c st s) : (saxBoundary c st s).legs = s.legs := by
  unfold saxBoundary
  simp -implicitDefEqProofs
  split <;> simp -implicitDefEqProofs

@[simp] theorem tstBoundary_legs (s) : (tstBoundary s).legs = s.legs := by
  unfold tstBoundary
  split <;> simp -implicitDefEqProofs

@[simp] theorem markSar_legs (s) : (markSar s).legs = s.legs := by simp -implicitDefEqProofs [markSar]

@[simp] theorem converterChecked_legs (c pass ladder s) : (converterChecked c pass ladder s).legs = s.legs := by
  simp -implicitDefEqProofs [converterChecked]

@[simp] theorem saxJudged_legs (c pass s) : (saxJudged c pass s).legs = s.legs := by
  simp -implicitDefEqProofs [saxJudged]

@[simp] theorem pairTested_legs (p pass s) : (pairTested p pass s).legs = s.legs := by
  simp -implicitDefEqProofs [pairTested]

@[simp] theorem testEnds_legs (pass s) : (testEnds pass s).legs = s.legs := by simp -implicitDefEqProofs [testEnds]

@[simp] theorem converterStep_legs (b pass ladder t s) : (converterStep b pass ladder t s).legs = s.legs := by
  unfold converterStep
  split <;> simp -implicitDefEqProofs

/-! #### The ring of the spine -/

@[simp] theorem setDisc_legs (d s) : (setDisc d s).legs = s.legs := by simp -implicitDefEqProofs [setDisc]
@[simp] theorem notePhase_legs (g s) : (notePhase g s).legs = s.legs := by simp -implicitDefEqProofs [notePhase]
@[simp] theorem endWraps_legs (new s) : (endWraps new s).legs = s.legs := by simp -implicitDefEqProofs [endWraps]

@[simp] theorem planHandoff_legs (new s) : (planHandoff new s).legs = s.legs := by
  unfold planHandoff
  simp -implicitDefEqProofs
  split <;> simp -implicitDefEqProofs

@[simp] theorem adoptMembers_legs (m epoch s) : (adoptMembers m epoch s).legs = s.legs := by
  simp -implicitDefEqProofs [adoptMembers]

@[simp] theorem followLead_legs (g s) : (followLead g s).legs = s.legs := by simp -implicitDefEqProofs [followLead]

@[simp] theorem gathSignature_legs (g s) : (gathSignature g s).legs = s.legs := by
  simp -implicitDefEqProofs [gathSignature]

@[simp] theorem takeJoin_legs (port p t s) : (takeJoin port p t s).legs = s.legs := by
  simp -implicitDefEqProofs [takeJoin]

@[simp] theorem makeChanges_legs (s) : (makeChanges s).legs = s.legs := by simp -implicitDefEqProofs [makeChanges]

@[simp] theorem takeMgmt_legs (src bs s) : (takeMgmt src bs s).legs = s.legs := by
  unfold takeMgmt
  simp -implicitDefEqProofs
  split <;> simp -implicitDefEqProofs

@[simp] theorem ringStart_legs (s) : (ringStart s).legs = s.legs := by simp -implicitDefEqProofs [ringStart]
@[simp] theorem countHeard_legs (a s) : (countHeard a s).legs = s.legs := by simp -implicitDefEqProofs [countHeard]

@[simp] theorem followerBoundary_legs (s) : (followerBoundary s).legs = s.legs := by
  unfold followerBoundary
  split <;> simp -implicitDefEqProofs

@[simp] theorem leadBoundary_legs (s) : (leadBoundary s).legs = s.legs := by simp -implicitDefEqProofs [leadBoundary]

@[simp] theorem announceBoundary_legs (s) : (announceBoundary s).legs = s.legs := by
  unfold announceBoundary
  split <;> simp -implicitDefEqProofs

/-! #### Rebinding -/

@[simp] theorem rebindRequest_legs (m d s) : (rebindRequest m d s).legs = s.legs := by
  simp -implicitDefEqProofs [rebindRequest]

@[simp] theorem refillBlock_legs (b s) : (refillBlock b s).legs = s.legs := by simp -implicitDefEqProofs [refillBlock]
@[simp] theorem refillAll_legs (s) : (refillAll s).legs = s.legs := by simp -implicitDefEqProofs [refillAll]

@[simp] theorem closeWindow_legs (s) : (closeWindow s).legs = s.legs := by
  simp -implicitDefEqProofs [closeWindow, holdLastPairs, holdLastPair]

@[simp] theorem rebindAbandon_legs (s) : (rebindAbandon s).legs = s.legs := by
  simp -implicitDefEqProofs [rebindAbandon]

/-! #### Stores -/

@[simp] theorem jrnOverflow_legs (w s) : (jrnOverflow w s).legs = s.legs := by simp -implicitDefEqProofs [jrnOverflow]

@[simp] theorem journaled_legs (w : Who) (r : Undo) (f : State → State) (hf : ∀ x, (f x).legs = x.legs) (s : State) :
    (journaled w r f s).legs = s.legs := by simp -implicitDefEqProofs [journaled, hf]

@[simp] theorem memStore_legs (w a bs s) : (memStore w a bs s).legs = s.legs := by
  simp -implicitDefEqProofs [memStore]

@[simp] theorem eccStore_legs (w a bs s) : (eccStore w a bs s).legs = s.legs := by
  simp -implicitDefEqProofs [eccStore]

@[simp] theorem tcmStore_legs (w a off bs s) : (tcmStore w a off bs s).legs = s.legs := by
  unfold tcmStore
  split <;> simp -implicitDefEqProofs

@[simp] theorem engMemStore_legs (w a prot bs s) : (engMemStore w a prot bs s).legs = s.legs := by
  simp -implicitDefEqProofs [engMemStore]

@[simp] theorem unitWrite_legs (w key m d s) : (unitWrite w key m d s).legs = s.legs := by
  simp -implicitDefEqProofs [unitWrite]

@[simp] theorem leasedStore_legs (w a cls i bs s) : (leasedStore w a cls i bs s).legs = s.legs := by
  simp -implicitDefEqProofs [leasedStore]

@[simp] theorem txqStore_legs (w a q z d s) : (txqStore w a q z d s).legs = s.legs := by
  simp -implicitDefEqProofs [txqStore]

@[simp] theorem memoryStore_legs (w a z d s) : (memoryStore w a z d s).legs = s.legs := by
  unfold memoryStore
  simp -implicitDefEqProofs
  split <;> simp -implicitDefEqProofs

@[simp] theorem runApply_legs (s) : (runApply s).legs = s.legs := by simp -implicitDefEqProofs [runApply]

@[simp] theorem spnCommand_legs (m v s) : (spnCommand m v s).legs = s.legs := by
  unfold spnCommand
  simp -implicitDefEqProofs
  split <;> simp -implicitDefEqProofs

@[simp] theorem tkcEntry_legs (a m d s) : (tkcEntry a m d s).legs = s.legs := by
  unfold tkcEntry
  split <;> simp -implicitDefEqProofs

@[simp] theorem prcEntry_legs (w a m d s) : (prcEntry w a m d s).legs = s.legs := by
  simp -implicitDefEqProofs [prcEntry]

@[simp] theorem engEntry_legs (a m d s) : (engEntry a m d s).legs = s.legs := by
  unfold engEntry
  simp -implicitDefEqProofs
  split <;> simp -implicitDefEqProofs

@[simp] theorem fbkEntry_legs (a m d s) : (fbkEntry a m d s).legs = s.legs := by
  unfold fbkEntry
  split <;> simp -implicitDefEqProofs

@[simp] theorem spnEntry_legs (a m d s) : (spnEntry a m d s).legs = s.legs := by
  unfold spnEntry
  split <;> simp -implicitDefEqProofs

@[simp] theorem canEntry_legs (a m d s) : (canEntry a m d s).legs = s.legs := by
  simp -implicitDefEqProofs [canEntry, canCtrlApply]

@[simp] theorem qspEntry_legs (a m d s) : (qspEntry a m d s).legs = s.legs := by simp -implicitDefEqProofs [qspEntry]
@[simp] theorem truEntry_legs (a m d s) : (truEntry a m d s).legs = s.legs := by simp -implicitDefEqProofs [truEntry]

@[simp] theorem putEntry_legs (w a m d s) : (putEntry w a m d s).legs = s.legs := by
  simp -implicitDefEqProofs [putEntry]

@[simp] theorem rwPut_legs (a v s) : (rwPut a v s).legs = s.legs := by
  unfold rwPut
  simp -implicitDefEqProofs
  split <;> simp -implicitDefEqProofs

@[simp] theorem stopped_legs (w a k s) : (stopped w a k s).legs = s.legs := by
  unfold stopped
  split <;> simp -implicitDefEqProofs

@[simp] theorem storeRw_legs (w a k d s) : (storeRw w a k d s).legs = s.legs := by simp -implicitDefEqProofs [storeRw]

@[simp] theorem storeRws_legs (w a k d s) : (storeRws w a k d s).legs = s.legs := by
  unfold storeRws
  simp -implicitDefEqProofs
  split <;> simp -implicitDefEqProofs

/-! #### The boundary -/

@[simp] theorem commitCells_legs (s) : (commitCells s).legs = s.legs := by
  simp -implicitDefEqProofs [commitCells, auxCommit]

@[simp] theorem latchResults_legs (keep s) : (latchResults keep s).legs = s.legs := by
  simp -implicitDefEqProofs [latchResults]

@[simp] theorem stagedWrites_legs (s) : (stagedWrites s).legs = s.legs := by simp -implicitDefEqProofs [stagedWrites]
@[simp] theorem latchSample_legs (s) : (latchSample s).legs = s.legs := by simp -implicitDefEqProofs [latchSample]
@[simp] theorem latchFabric_legs (s) : (latchFabric s).legs = s.legs := by simp -implicitDefEqProofs [latchFabric]
@[simp] theorem latchHb_legs (s) : (latchHb s).legs = s.legs := by simp -implicitDefEqProofs [latchHb]

@[simp] theorem checkpoints_legs (s) : (checkpoints s).legs = s.legs := by
  simp -implicitDefEqProofs [checkpoints, countHolds, mirrorCommit, newTick, showTick]

@[simp] theorem countTick_legs (s) : (countTick s).legs = s.legs := by simp -implicitDefEqProofs [countTick]
@[simp] theorem runFails_legs (nr s) : (runFails nr s).legs = s.legs := by simp -implicitDefEqProofs [runFails]
@[simp] theorem openFirst_legs (s) : (openFirst s).legs = s.legs := by simp -implicitDefEqProofs [openFirst]

/-! #### Operations of the engine -/

@[simp] theorem takeBranch_legs (e p s) : (takeBranch e p s).legs = s.legs := by
  simp -implicitDefEqProofs [takeBranch]

@[simp] theorem fence_legs (op k e s) : (fence op k e s).legs = s.legs := by simp -implicitDefEqProofs [fence]

@[simp] theorem loadOp_legs (op : Nat) (e : EngWord) (pend : Bool) (idx : State → PassSt → Nat → Option Nat)
    (rd : Nat → PassSt → State → (Word × Nat) × State) (hrd : ∀ i p x, (rd i p x).2.legs = x.legs) (s : State) :
    (loadOp op e pend idx rd s).legs = s.legs := by
  dsimp only [loadOp]
  refine issue_legs _ _ _ _ (fun p x => ?_) s
  split
  · exact abortPass_legs ..
  · rw [putRun_legs]
    refine foldl_legs _ _ (fun a l => ?_) _
    exact hrd _ _ _

@[simp] theorem storeOp_legs (op : Nat) (e : EngWord) (idx : State → PassSt → Nat → Option Nat)
    (st : Nat → Word → PassSt → State → PassSt × State) (hst : ∀ i v p x, (st i v p x).2.legs = x.legs) (s : State) :
    (storeOp op e idx st s).legs = s.legs := by
  dsimp only [storeOp]
  refine issue_legs _ _ _ _ (fun p x => ?_) s
  split
  · exact abortPass_legs ..
  · rw [putRun_legs]
    exact foldl_legs _ _ (fun a l => hst _ _ _ _) (p, x)

@[simp] theorem fp2_legs (op lat e g s) : (fp2 op lat e g s).legs = s.legs := by simp -implicitDefEqProofs [fp2]
@[simp] theorem fp1_legs (op lat e g s) : (fp1 op lat e g s).legs = s.legs := by simp -implicitDefEqProofs [fp1]
@[simp] theorem fp3_legs (op lat e g s) : (fp3 op lat e g s).legs = s.legs := by simp -implicitDefEqProofs [fp3]

@[simp] theorem tableGate_legs (t : Nat) (e : EngWord) (f : PassSt → State → State)
    (hf : ∀ p x, (f p x).legs = x.legs) (p : PassSt) (s : State) :
    (tableGate t e f p s).legs = s.legs := by unfold tableGate; split <;> simp -implicitDefEqProofs [hf]

@[simp] theorem laneState_legs (e : EngWord) (lat w : Nat) (f : PassSt → Nat → Word → List Word × Nat × Option Word)
    (p : PassSt) (x : State) : (laneState e lat w f p x).legs = x.legs := by
  dsimp only [laneState]
  rw [putRun_legs]
  refine foldl_legs _ _ (fun a l => ?_) _
  split <;> simp -implicitDefEqProofs

/-! #### Loads -/

@[simp] theorem readWaits_legs (a s) : (readWaits a s).legs = s.legs := by
  unfold readWaits
  (repeat' split) <;> simp -implicitDefEqProofs

@[simp] theorem readEffect_legs (w a s) : (readEffect w a s).legs = s.legs := by
  unfold readEffect
  simp -implicitDefEqProofs
  split <;> simp -implicitDefEqProofs

@[simp] theorem regLoad_legs (w a s) : (regLoad w a s).2.legs = s.legs := by simp -implicitDefEqProofs [regLoad]

@[simp] theorem memWaits_legs (w a s) : (memWaits w a s).legs = s.legs := by
  unfold memWaits
  split <;> simp -implicitDefEqProofs

@[simp] theorem eccHit_legs (w a fetch s) : (eccHit w a fetch s).legs = s.legs := by
  simp -implicitDefEqProofs [eccHit]

@[simp] theorem loadAt_legs (w : Who) (a : Word) (z : Size) (s : State) : (loadAt w a z s).legs = s.legs := by
  dsimp only [loadAt]
  split
  · simp -implicitDefEqProofs
  · rfl
  · split
    · simp -implicitDefEqProofs
    · split <;> simp -implicitDefEqProofs

@[simp] theorem load_legs (w a z s) : (load w a z s).legs = s.legs := by simp -implicitDefEqProofs [load]

@[simp] theorem xipGives_legs (w n z fetch bs s) : (xipGives w n z fetch bs s).legs = s.legs := by
  simp -implicitDefEqProofs [xipGives, fetched]

@[simp] theorem xipAt_legs (w a z fetch blk t s) : (xipAt w a z fetch blk t s).legs = s.legs := by
  unfold xipAt
  simp -implicitDefEqProofs
  split <;> simp -implicitDefEqProofs

/-! ### Commands that leave the legs alone -/

/-! #### Units: runs, journal and budgets -/

theorem execTkcBudgetWarn_lowers (u t s) : Lowers s (execTkcBudgetWarn u t s) := by
  simp -implicitDefEqProofs [execTkcBudgetWarn]

theorem execTkcCbar_lowers (w t s) : Lowers s (execTkcCbar w t s) := by simp -implicitDefEqProofs [execTkcCbar]

theorem execCbarDrainComplete_lowers (w t s) : Lowers s (execCbarDrainComplete w t s) := by
  simp -implicitDefEqProofs [execCbarDrainComplete]

/-! #### Auxiliary drives -/

theorem execAuxClassify_lowers (b s) : Lowers s (execAuxClassify b s) := by
  simp -implicitDefEqProofs [execAuxClassify]

theorem execAuxBrakeEnd_lowers (b s) : Lowers s (execAuxBrakeEnd b s) := by
  simp -implicitDefEqProofs [execAuxBrakeEnd]

theorem execAuxLock_lowers (b s) : Lowers s (execAuxLock b s) := by simp -implicitDefEqProofs [execAuxLock]

theorem execAuxStartFail_lowers (b k s) : Lowers s (execAuxStartFail b k s) := by
  simp -implicitDefEqProofs [execAuxStartFail]

theorem execAuxBackoffExpire_lowers (b s) : Lowers s (execAuxBackoffExpire b s) := by
  simp -implicitDefEqProofs [execAuxBackoffExpire]

/-! #### The modulator -/

theorem execDebugResume_lowers (u s) : Lowers s (execDebugResume u s) := by
  simp -implicitDefEqProofs [execDebugResume]

/-! #### CAN -/

theorem execCanTxDoorbell_lowers (n f m d s) : Lowers s (execCanTxDoorbell n f m d s) := by
  simp -implicitDefEqProofs [execCanTxDoorbell]

theorem execCanTxFail_lowers (n _arb t s) : Lowers s (execCanTxFail n _arb t s) := by
  unfold execCanTxFail
  simp -implicitDefEqProofs
  split <;> simp -implicitDefEqProofs

theorem execCanTxComplete_lowers (n t s) : Lowers s (execCanTxComplete n t s) := by
  unfold execCanTxComplete
  simp -implicitDefEqProofs
  split <;> simp -implicitDefEqProofs

theorem execCanRxFrame_lowers (n fr t s) : Lowers s (execCanRxFrame n fr t s) := by
  simp -implicitDefEqProofs [execCanRxFrame]

theorem execCanRxrp_lowers (n m d s) : Lowers s (execCanRxrp n m d s) := by simp -implicitDefEqProofs [execCanRxrp]

theorem execCanBusError_lowers (n e t s) : Lowers s (execCanBusError n e t s) := by
  unfold execCanBusError
  cases h : (can s n.val).det <;> simp -implicitDefEqProofs [h]

theorem execCanBorec_lowers (n s) : Lowers s (execCanBorec n s) := by simp -implicitDefEqProofs [execCanBorec]

theorem execCanRecovered_lowers (n t s) : Lowers s (execCanRecovered n t s) := by
  simp -implicitDefEqProofs [execCanRecovered]

theorem execCanFlush_lowers (n fs s) : Lowers s (execCanFlush n fs s) := by simp -implicitDefEqProofs [execCanFlush]

theorem execCanDetreq_lowers (n m d s) : Lowers s (execCanDetreq n m d s) := by
  simp -implicitDefEqProofs [execCanDetreq]

theorem execCanDetWindow_lowers (n err t s) : Lowers s (execCanDetWindow n err t s) := by
  unfold execCanDetWindow
  split <;> simp -implicitDefEqProofs

/-! #### Serial ports -/

theorem execQspDbwp_lowers (p m d s) : Lowers s (execQspDbwp p m d s) := by simp -implicitDefEqProofs [execQspDbwp]
theorem execQspResume_lowers (p s) : Lowers s (execQspResume p s) := by simp -implicitDefEqProofs [execQspResume]

theorem execQspTransactionStart_lowers (p t s) : Lowers s (execQspTransactionStart p t s) := by
  simp -implicitDefEqProofs [execQspTransactionStart]

theorem execQspTransactionDone_lowers (p rd rck t s) : Lowers s (execQspTransactionDone p rd rck t s) := by
  simp -implicitDefEqProofs [execQspTransactionDone]

theorem execQspMmf_lowers (p t s) : Lowers s (execQspMmf p t s) := by simp -implicitDefEqProofs [execQspMmf]

theorem execQspTargetSelect_lowers (p x t s) : Lowers s (execQspTargetSelect p x t s) := by
  simp -implicitDefEqProofs [execQspTargetSelect, qspTakeWord, qspOvr]

theorem execQspTargetRelease_lowers (p t s) : Lowers s (execQspTargetRelease p t s) := by
  simp -implicitDefEqProofs [execQspTargetRelease]

theorem execQspTrp_lowers (p m d s) : Lowers s (execQspTrp p m d s) := by simp -implicitDefEqProofs [execQspTrp]

/-! #### The spine -/

theorem execTickSignatureSend_lowers (t s) : Lowers s (execTickSignatureSend t s) := by
  simp -implicitDefEqProofs [execTickSignatureSend, announceLoss]

theorem execSpnLock_lowers (s) : Lowers s (execSpnLock s) := by simp -implicitDefEqProofs [execSpnLock]

theorem execSpnHoldover_lowers (t s) : Lowers s (execSpnHoldover t s) := by
  simp -implicitDefEqProofs [execSpnHoldover]

theorem execStatusSignatureSend_lowers (t s) : Lowers s (execStatusSignatureSend t s) := by
  simp -implicitDefEqProofs [execStatusSignatureSend, dropCredits]

theorem execStatusSignature_lowers (x t s) : Lowers s (execStatusSignature x t s) := by
  simp -implicitDefEqProofs [execStatusSignature]

theorem execPeriodicSignature_lowers (x t s) : Lowers s (execPeriodicSignature x t s) := by
  simp -implicitDefEqProofs [execPeriodicSignature]

theorem execAsyncSend_lowers (q port t s) : Lowers s (execAsyncSend q port t s) := by
  simp -implicitDefEqProofs [execAsyncSend, txSend, spendCredits]

theorem execAsyncSignature_lowers (x t s) : Lowers s (execAsyncSignature x t s) := by
  simp -implicitDefEqProofs [execAsyncSignature]

theorem execSpnTxqWp_lowers (q m d s) : Lowers s (execSpnTxqWp q m d s) := by simp -implicitDefEqProofs [execSpnTxqWp]
theorem execSpnRxqRp_lowers (q m d s) : Lowers s (execSpnRxqRp q m d s) := by simp -implicitDefEqProofs [execSpnRxqRp]

theorem execLinkLoss_lowers (port t s) : Lowers s (execLinkLoss port t s) := by
  simp -implicitDefEqProofs [execLinkLoss]

theorem execSpnLinkUp_lowers (port delay t s) : Lowers s (execSpnLinkUp port delay t s) := by
  simp -implicitDefEqProofs [execSpnLinkUp]

theorem execSpnMemberLost_lowers (a s) : Lowers s (execSpnMemberLost a s) := by
  simp -implicitDefEqProofs [execSpnMemberLost]

theorem execAnnounce_lowers (x t s) : Lowers s (execAnnounce x t s) := by simp -implicitDefEqProofs [execAnnounce]

theorem execRingForm_lowers (t s) : Lowers s (execRingForm t s) := by
  unfold execRingForm
  dsimp only
  split
  · split
    · simp
    · split
      · simp
      · split <;> simp -implicitDefEqProofs
  · simp

theorem execLeadTakeover_lowers (s) : Lowers s (execLeadTakeover s) := by
  unfold execLeadTakeover
  split <;> simp -implicitDefEqProofs

theorem execLeadHandoff_lowers (s) : Lowers s (execLeadHandoff s) := by
  unfold execLeadHandoff
  split <;> simp -implicitDefEqProofs

theorem execSpnLeave_lowers (s) : Lowers s (execSpnLeave s) := by simp -implicitDefEqProofs [execSpnLeave]
theorem execSpnPlock_lowers (s) : Lowers s (execSpnPlock s) := by simp -implicitDefEqProofs [execSpnPlock]

/-! #### Leases -/

theorem execLeaseAcquire_lowers (w d s) : Lowers s (execLeaseAcquire w d s) := by
  simp -implicitDefEqProofs [execLeaseAcquire]

theorem execLeaseRenew_lowers (w d s) : Lowers s (execLeaseRenew w d s) := by
  simp -implicitDefEqProofs [execLeaseRenew]

theorem execLeaseRelease_lowers (w d s) : Lowers s (execLeaseRelease w d s) := by
  simp -implicitDefEqProofs [execLeaseRelease]

theorem execLeaseRevoke_lowers (w d s) : Lowers s (execLeaseRevoke w d s) := by
  simp -implicitDefEqProofs [execLeaseRevoke]

theorem execLeaseExpire_lowers (k s) : Lowers s (execLeaseExpire k s) := by
  simp -implicitDefEqProofs [execLeaseExpire]

/-! #### Duties of the engine -/

theorem execTkcQuotaWrite_lowers (u m d s) : Lowers s (execTkcQuotaWrite u m d s) := by
  simp -implicitDefEqProofs [execTkcQuotaWrite]

theorem execPrcStart_lowers (n s) : Lowers s (execPrcStart n s) := by
  simp -implicitDefEqProofs [execPrcStart, startPair]

theorem execPrcPermFault_lowers (w k t s) : Lowers s (execPrcPermFault w k t s) := by
  simp -implicitDefEqProofs [execPrcPermFault]

theorem execPairReplay_lowers (u k a t s) : Lowers s (execPairReplay u k a t s) := by
  unfold execPairReplay
  split <;> simp -implicitDefEqProofs

theorem execSingleBitEccError_lowers (k s) : Lowers s (execSingleBitEccError k s) := by
  unfold execSingleBitEccError
  split <;> simp -implicitDefEqProofs

theorem execMirrorTransferDone_lowers (d t s) : Lowers s (execMirrorTransferDone d t s) := by
  simp -implicitDefEqProofs [execMirrorTransferDone]

theorem execPrcHoreq_lowers (m d s) : Lowers s (execPrcHoreq m d s) := by simp -implicitDefEqProofs [execPrcHoreq]

theorem execHandoverTakeEffect_lowers (s) : Lowers s (execHandoverTakeEffect s) := by
  unfold execHandoverTakeEffect
  split <;> simp -implicitDefEqProofs

theorem execPrcSplit_lowers (n s) : Lowers s (execPrcSplit n s) := by
  unfold execPrcSplit
  split <;> simp -implicitDefEqProofs

theorem execPrcRejoin_lowers (n s) : Lowers s (execPrcRejoin n s) := by
  unfold execPrcRejoin
  split <;> simp -implicitDefEqProofs

/-! #### Passes of the engine -/

theorem execPassComplete_lowers (s law) : Lowers s (execPassComplete s law) := by
  unfold execPassComplete
  (repeat' split) <;> simp -implicitDefEqProofs

theorem execPassBudgetAbort_lowers (s) : Lowers s (execPassBudgetAbort s) := by
  unfold execPassBudgetAbort
  split <;> simp -implicitDefEqProofs

theorem execEngPermFault_lowers (k t s) : Lowers s (execEngPermFault k t s) := by
  simp -implicitDefEqProofs [execEngPermFault]

theorem execEngineRerun_lowers (lane s) : Lowers s (execEngineRerun lane s) := by
  unfold execEngineRerun
  split <;> simp -implicitDefEqProofs

theorem execIgStart_lowers (n m d s) : Lowers s (execIgStart n m d s) := by simp -implicitDefEqProofs [execIgStart]
theorem execIgStop_lowers (n m d s) : Lowers s (execIgStop n m d s) := by simp -implicitDefEqProofs [execIgStop]

theorem execIgPrbsAdvance_lowers (n s) : Lowers s (execIgPrbsAdvance n s) := by
  simp -implicitDefEqProofs [execIgPrbsAdvance]

theorem execEngIgDone_lowers (n s) : Lowers s (execEngIgDone n s) := by simp -implicitDefEqProofs [execEngIgDone]

/-! #### Feedback -/

theorem execCmpPulseEnd_lowers (c t s) : Lowers s (execCmpPulseEnd c t s) := by
  simp -implicitDefEqProofs [execCmpPulseEnd]

theorem execCmpArm_lowers (c s) : Lowers s (execCmpArm c s) := by simp -implicitDefEqProofs [execCmpArm]
theorem execCmpDisarm_lowers (c s) : Lowers s (execCmpDisarm c s) := by simp -implicitDefEqProofs [execCmpDisarm]

theorem execEmOutputEdge_lowers (e t s) : Lowers s (execEmOutputEdge e t s) := by
  unfold execEmOutputEdge
  simp -implicitDefEqProofs
  split <;> simp -implicitDefEqProofs

theorem execRecap_lowers (f s) : Lowers s (execRecap f s) := by simp -implicitDefEqProofs [execRecap]

theorem execFbEdgeAccept_lowers (q t s) : Lowers s (execFbEdgeAccept q t s) := by
  simp -implicitDefEqProofs [execFbEdgeAccept]

theorem execFbPinEdge_lowers (q v t s) : Lowers s (execFbPinEdge q v t s) := by
  simp -implicitDefEqProofs [execFbPinEdge]

theorem execFbStandstill_lowers (f t s) : Lowers s (execFbStandstill f t s) := by
  simp -implicitDefEqProofs [execFbStandstill]

theorem execFbkPlsTmo_lowers (p t s) : Lowers s (execFbkPlsTmo p t s) := by simp -implicitDefEqProofs [execFbkPlsTmo]

theorem execSerialReadStart_lowers (f t s) : Lowers s (execSerialReadStart f t s) := by
  simp -implicitDefEqProofs [execSerialReadStart]

theorem execSerialReading_lowers (f raw t s) : Lowers s (execSerialReading f raw t s) := by
  unfold execSerialReading
  simp -implicitDefEqProofs
  split <;> simp -implicitDefEqProofs

/-! #### Trust -/

theorem execLcreqProvisioned_lowers (s) : Lowers s (execLcreqProvisioned s) := by
  simp -implicitDefEqProofs [execLcreqProvisioned]

theorem execLcreqField_lowers (s) : Lowers s (execLcreqField s) := by simp -implicitDefEqProofs [execLcreqField]
theorem execLcreqReturn_lowers (s) : Lowers s (execLcreqReturn s) := by simp -implicitDefEqProofs [execLcreqReturn]

theorem execLcreqScrapped_lowers (s) : Lowers s (execLcreqScrapped s) := by
  simp -implicitDefEqProofs [execLcreqScrapped]

theorem execReturnEraseDone_lowers (t s) : Lowers s (execReturnEraseDone t s) := by
  simp -implicitDefEqProofs [execReturnEraseDone, eraseDone, eraseEmram]

theorem execTruRevoke_lowers (d s) : Lowers s (execTruRevoke d s) := by simp -implicitDefEqProofs [execTruRevoke]

theorem execTruTokenEnd_lowers (t s) : Lowers s (execTruTokenEnd t s) := by
  simp -implicitDefEqProofs [execTruTokenEnd]

theorem execTruInstallKey_lowers (d s) : Lowers s (execTruInstallKey d s) := by
  simp -implicitDefEqProofs [execTruInstallKey]

theorem execTruPresentToken_lowers (d s) : Lowers s (execTruPresentToken d s) := by
  simp -implicitDefEqProofs [execTruPresentToken]

theorem execTruLeaveService_lowers (d s) : Lowers s (execTruLeaveService d s) := by
  simp -implicitDefEqProofs [execTruLeaveService]

theorem execTruStageBytes_lowers (d s) : Lowers s (execTruStageBytes d s) := by
  simp -implicitDefEqProofs [execTruStageBytes]

theorem execTruSeal_lowers (d s) : Lowers s (execTruSeal d s) := by simp -implicitDefEqProofs [execTruSeal]

theorem execTruOpenManifest_lowers (d s) : Lowers s (execTruOpenManifest d s) := by
  simp -implicitDefEqProofs [execTruOpenManifest]

theorem execTruSwitch_lowers (d s) : Lowers s (execTruSwitch d s) := by simp -implicitDefEqProofs [execTruSwitch]

theorem execTruReportOk_lowers (d s) : Lowers s (execTruReportOk d s) := by
  simp -implicitDefEqProofs [execTruReportOk]

theorem execTruReportFailed_lowers (d s) : Lowers s (execTruReportFailed d s) := by
  simp -implicitDefEqProofs [execTruReportFailed]

theorem execTruCommit_lowers (d s) : Lowers s (execTruCommit d s) := by simp -implicitDefEqProofs [execTruCommit]
theorem execTruAbort_lowers (d s) : Lowers s (execTruAbort d s) := by simp -implicitDefEqProofs [execTruAbort]

theorem execTruRollback_lowers (d s) : Lowers s (execTruRollback d s) := by
  simp -implicitDefEqProofs [execTruRollback]

theorem execTruWriteCalRecord_lowers (d s) : Lowers s (execTruWriteCalRecord d s) := by
  simp -implicitDefEqProofs [execTruWriteCalRecord]

theorem execTruLoadPair_lowers (d s) : Lowers s (execTruLoadPair d s) := by
  simp -implicitDefEqProofs [execTruLoadPair]

theorem execTruCmdInvalid_lowers (d s) : Lowers s (execTruCmdInvalid d s) := by
  simp -implicitDefEqProofs [execTruCmdInvalid]

theorem execTruCmdDone_lowers (t s) : Lowers s (execTruCmdDone t s) := by
  unfold execTruCmdDone
  split <;> simp -implicitDefEqProofs

theorem execTruProbTimeout_lowers (s) : Lowers s (execTruProbTimeout s) := by
  simp -implicitDefEqProofs [execTruProbTimeout]

theorem execGathTimeout_lowers (t s) : Lowers s (execGathTimeout t s) := by
  unfold execGathTimeout
  split <;> simp -implicitDefEqProofs

theorem execGathRollbackTimeout_lowers (t s) : Lowers s (execGathRollbackTimeout t s) := by
  unfold execGathRollbackTimeout
  split <;> simp -implicitDefEqProofs

/-! #### Power -/

/-- A reset turns every gate off; within a reset the gates stay as they are. -/
theorem execResetAssert_lowers (k : RstCause) (t : Time) (s : State) : Lowers s (execResetAssert k t s) := by
  refine lowers_next.mpr ?_
  split
  · simp -implicitDefEqProofs
  · rw [resetState_legs]
    exact gatesFall_nil

theorem execResetRelease_lowers (t s) : Lowers s (execResetRelease t s) := by
  simp -implicitDefEqProofs [execResetRelease]

theorem execBootComplete_lowers (t s) : Lowers s (execBootComplete t s) := by
  simp -implicitDefEqProofs [execBootComplete, bootStop, startSv]

theorem execOkAccept_lowers (bkup v t s) : Lowers s (execOkAccept bkup v t s) := by
  unfold execOkAccept
  (repeat' split) <;> simp -implicitDefEqProofs

theorem execHoReturnStart_lowers (t s) : Lowers s (execHoReturnStart t s) := by
  simp -implicitDefEqProofs [execHoReturnStart]

theorem execHoSwitch_lowers (mainPin t s) : Lowers s (execHoSwitch mainPin t s) := by
  simp -implicitDefEqProofs [execHoSwitch]

theorem execPwrHoDone_lowers (t s) : Lowers s (execPwrHoDone t s) := by simp -implicitDefEqProofs [execPwrHoDone]

theorem execThermAssert_lowers (k deg t s) : Lowers s (execThermAssert k deg t s) := by
  simp -implicitDefEqProofs [execThermAssert]

theorem execThermRelease_lowers (t0 t1 t2 t3 t s) : Lowers s (execThermRelease t0 t1 t2 t3 t s) := by
  simp -implicitDefEqProofs [execThermRelease]

/-! #### Sensing -/

theorem execCalRequest_lowers (m d s) : Lowers s (execCalRequest m d s) := by
  simp -implicitDefEqProofs [execCalRequest]

theorem execCalTimeout_lowers (s) : Lowers s (execCalTimeout s) := by
  unfold execCalTimeout
  (repeat' split) <;> simp -implicitDefEqProofs

theorem execMainResult_lowers (i bs t s) : Lowers s (execMainResult i bs t s) := by
  simp -implicitDefEqProofs [execMainResult, loopBack]

theorem execBsckLost_lowers (k t s) : Lowers s (execBsckLost k t s) := by simp -implicitDefEqProofs [execBsckLost]

theorem execReliefStart_lowers (s) : Lowers s (execReliefStart s) := by
  unfold execReliefStart
  split <;> simp -implicitDefEqProofs

theorem execReliefCompare_lowers (eq t s) : Lowers s (execReliefCompare eq t s) := by
  unfold execReliefCompare
  split <;> simp -implicitDefEqProofs

theorem execFilterSelftestDone_lowers (u mean t s) : Lowers s (execFilterSelftestDone u mean t s) := by
  unfold execFilterSelftestDone
  (repeat' split) <;> simp -implicitDefEqProofs

theorem execSarSeqGo_lowers (c t s) : Lowers s (execSarSeqGo c t s) := by simp -implicitDefEqProofs [execSarSeqGo]

theorem execSarUrgentRequest_lowers (c sw t s) : Lowers s (execSarUrgentRequest c sw t s) := by
  simp -implicitDefEqProofs [execSarUrgentRequest]

theorem execSarSlotResult_lowers (c v t s) : Lowers s (execSarSlotResult c v t s) := by
  refine lowers_next.mpr ?_
  split
  · simp -implicitDefEqProofs
  · split <;> simp -implicitDefEqProofs

theorem execSarRefSettled_lowers (t s) : Lowers s (execSarRefSettled t s) := by
  simp -implicitDefEqProofs [execSarRefSettled]

/-! #### The safety fabric -/

theorem execSafReqErr_lowers (d s) : Lowers s (execSafReqErr d s) := by simp -implicitDefEqProofs [execSafReqErr]
theorem execSoutSet_lowers (m d s) : Lowers s (execSoutSet m d s) := by simp -implicitDefEqProofs [execSoutSet]

theorem execSoutTestPulse_lowers (o t s) : Lowers s (execSoutTestPulse o t s) := by
  simp -implicitDefEqProofs [execSoutTestPulse]

theorem execSoutFault_lowers (o r s) : Lowers s (execSoutFault o r s) := by simp -implicitDefEqProofs [execSoutFault]

theorem execSbcDeenergise_lowers (o t s) : Lowers s (execSbcDeenergise o t s) := by
  simp -implicitDefEqProofs [execSbcDeenergise]

theorem execSafUnfreeze_lowers (s) : Lowers s (execSafUnfreeze s) := by simp -implicitDefEqProofs [execSafUnfreeze]

theorem execLatchClearSoutf_lowers (o s) : Lowers s (execLatchClearSoutf o s) := by
  simp -implicitDefEqProofs [execLatchClearSoutf]

/-! #### Self-test -/

theorem execMemtestVisit_lowers (k fail t s) : Lowers s (execMemtestVisit k fail t s) := by
  simp -implicitDefEqProofs [execMemtestVisit]

theorem execBlockTestRequest_lowers (d t s) : Lowers s (execBlockTestRequest d t s) := by
  simp -implicitDefEqProofs [execBlockTestRequest]

theorem execBlockTestDone_lowers (r t s) : Lowers s (execBlockTestDone r t s) := by
  unfold execBlockTestDone
  split <;> simp -implicitDefEqProofs

theorem execTstPad_lowers (l r s) : Lowers s (execTstPad l r s) := by simp -implicitDefEqProofs [execTstPad]

/-! #### The ring of the spine -/

theorem execSpnJoin_lowers (t s) : Lowers s (execSpnJoin t s) := by simp -implicitDefEqProofs [execSpnJoin]

theorem execJoinTimeout_lowers (t s) : Lowers s (execJoinTimeout t s) := by
  unfold execJoinTimeout
  split <;> simp -implicitDefEqProofs

theorem execJoinSignature_lowers (x p t s) : Lowers s (execJoinSignature x p t s) := by
  simp -implicitDefEqProofs [execJoinSignature]

theorem execMemberAdmit_lowers (s) : Lowers s (execMemberAdmit s) := by simp -implicitDefEqProofs [execMemberAdmit]

theorem execLeaveEffect_lowers (s ports) : Lowers s (execLeaveEffect s ports) := by
  simp -implicitDefEqProofs [execLeaveEffect]

theorem execManagementSignature_lowers (x t s) : Lowers s (execManagementSignature x t s) := by
  simp -implicitDefEqProofs [execManagementSignature]

/-! #### Rebinding -/

theorem execRebindRequest_lowers (m d s) : Lowers s (execRebindRequest m d s) := by
  simp -implicitDefEqProofs [execRebindRequest]

theorem execShadowRefillDone_lowers (b t s) : Lowers s (execShadowRefillDone b t s) := by
  simp -implicitDefEqProofs [execShadowRefillDone]

theorem execCommitWindowOpen_lowers (s) : Lowers s (execCommitWindowOpen s) := by
  simp -implicitDefEqProofs [execCommitWindowOpen]

theorem execRebindTimeout_lowers (s) : Lowers s (execRebindTimeout s) := by
  simp -implicitDefEqProofs [execRebindTimeout]

/-! #### Stores -/

theorem execTkcRun_lowers (t s) : Lowers s (execTkcRun t s) := by simp -implicitDefEqProofs [execTkcRun]

theorem execTxqStoreComplete_lowers (w t s) : Lowers s (execTxqStoreComplete w t s) := by
  unfold execTxqStoreComplete
  split <;> simp -implicitDefEqProofs

/-! #### Operations of the engine -/

theorem execNop_lowers (e s) : Lowers s (execNop e s) := by simp -implicitDefEqProofs [execNop]
theorem execEnd_lowers (e s) : Lowers s (execEnd e s) := by simp -implicitDefEqProofs [execEnd]
theorem execBru_lowers (e s) : Lowers s (execBru e s) := by simp -implicitDefEqProofs [execBru]

theorem execLoop_lowers (e s) : Lowers s (execLoop e s) := by
  unfold execLoop
  split <;> simp -implicitDefEqProofs

theorem execFenceC_lowers (e s) : Lowers s (execFenceC e s) := by simp -implicitDefEqProofs [execFenceC]
theorem execFenceR_lowers (e s) : Lowers s (execFenceR e s) := by simp -implicitDefEqProofs [execFenceR]
theorem execFenceS_lowers (e s) : Lowers s (execFenceS e s) := by simp -implicitDefEqProofs [execFenceS]
theorem execEvt_lowers (e s) : Lowers s (execEvt e s) := by simp -implicitDefEqProofs [execEvt]
theorem execLds_lowers (e s) : Lowers s (execLds e s) := by simp -implicitDefEqProofs [execLds]
theorem execSts_lowers (e s) : Lowers s (execSts e s) := by simp -implicitDefEqProofs [execSts]
theorem execLdx_lowers (e s) : Lowers s (execLdx e s) := by simp -implicitDefEqProofs [execLdx]
theorem execStr_lowers (e s) : Lowers s (execStr e s) := by simp -implicitDefEqProofs [execStr]
theorem execLdt_lowers (e s) : Lowers s (execLdt e s) := by simp -implicitDefEqProofs [execLdt]
theorem execLdc_lowers (e s) : Lowers s (execLdc e s) := by simp -implicitDefEqProofs [execLdc]
theorem execStc_lowers (e s) : Lowers s (execStc e s) := by simp -implicitDefEqProofs [execStc, scratchStore]
theorem execFadd_lowers (e s) : Lowers s (execFadd e s) := by simp -implicitDefEqProofs [execFadd]
theorem execFsub_lowers (e s) : Lowers s (execFsub e s) := by simp -implicitDefEqProofs [execFsub]
theorem execFmul_lowers (e s) : Lowers s (execFmul e s) := by simp -implicitDefEqProofs [execFmul]
theorem execFma_lowers (e s) : Lowers s (execFma e s) := by simp -implicitDefEqProofs [execFma]
theorem execFnma_lowers (e s) : Lowers s (execFnma e s) := by simp -implicitDefEqProofs [execFnma]
theorem execFmin_lowers (e s) : Lowers s (execFmin e s) := by simp -implicitDefEqProofs [execFmin]
theorem execFmax_lowers (e s) : Lowers s (execFmax e s) := by simp -implicitDefEqProofs [execFmax]
theorem execFabs_lowers (e s) : Lowers s (execFabs e s) := by simp -implicitDefEqProofs [execFabs]
theorem execFneg_lowers (e s) : Lowers s (execFneg e s) := by simp -implicitDefEqProofs [execFneg]
theorem execFclamp_lowers (e s) : Lowers s (execFclamp e s) := by simp -implicitDefEqProofs [execFclamp]
theorem execFrcp_lowers (e s) : Lowers s (execFrcp e s) := by simp -implicitDefEqProofs [execFrcp]
theorem execFrsq_lowers (e s) : Lowers s (execFrsq e s) := by simp -implicitDefEqProofs [execFrsq]
theorem execFcmp_lowers (e s) : Lowers s (execFcmp e s) := by simp -implicitDefEqProofs [execFcmp]
theorem execFcvt_lowers (e s) : Lowers s (execFcvt e s) := by simp -implicitDefEqProofs [execFcvt]
theorem execQadd_lowers (e s) : Lowers s (execQadd e s) := by simp -implicitDefEqProofs [execQadd]
theorem execQmul_lowers (e s) : Lowers s (execQmul e s) := by simp -implicitDefEqProofs [execQmul]
theorem execQmac_lowers (e s) : Lowers s (execQmac e s) := by simp -implicitDefEqProofs [execQmac]
theorem execQshr_lowers (e s) : Lowers s (execQshr e s) := by simp -implicitDefEqProofs [execQshr]
theorem execQsat_lowers (e s) : Lowers s (execQsat e s) := by simp -implicitDefEqProofs [execQsat]
theorem execQcvt_lowers (e s) : Lowers s (execQcvt e s) := by simp -implicitDefEqProofs [execQcvt]
theorem execSincos_lowers (e s) : Lowers s (execSincos e s) := by simp -implicitDefEqProofs [execSincos]
theorem execAtan2_lowers (e s) : Lowers s (execAtan2 e s) := by simp -implicitDefEqProofs [execAtan2]
theorem execWrap_lowers (e s) : Lowers s (execWrap e s) := by simp -implicitDefEqProofs [execWrap]
theorem execTlu_lowers (e s) : Lowers s (execTlu e s) := by simp -implicitDefEqProofs [execTlu]
theorem execHys_lowers (e s) : Lowers s (execHys e s) := by simp -implicitDefEqProofs [execHys]
theorem execClk3_lowers (e s) : Lowers s (execClk3 e s) := by simp -implicitDefEqProofs [execClk3]
theorem execPrk_lowers (e s) : Lowers s (execPrk e s) := by simp -implicitDefEqProofs [execPrk]
theorem execIprk_lowers (e s) : Lowers s (execIprk e s) := by simp -implicitDefEqProofs [execIprk]
theorem execSvm_lowers (e s) : Lowers s (execSvm e s) := by simp -implicitDefEqProofs [execSvm]
theorem execPis_lowers (e s) : Lowers s (execPis e s) := by simp -implicitDefEqProofs [execPis]
theorem execMsel_lowers (e s) : Lowers s (execMsel e s) := by simp -implicitDefEqProofs [execMsel]
theorem execLpf_lowers (e s) : Lowers s (execLpf e s) := by simp -implicitDefEqProofs [execLpf]
theorem execBcast_lowers (e s) : Lowers s (execBcast e s) := by simp -implicitDefEqProofs [execBcast]
theorem execShfl_lowers (e s) : Lowers s (execShfl e s) := by simp -implicitDefEqProofs [execShfl]
theorem execReduce_lowers (e s) : Lowers s (execReduce e s) := by simp -implicitDefEqProofs [execReduce]
theorem execLaneid_lowers (e s) : Lowers s (execLaneid e s) := by simp -implicitDefEqProofs [execLaneid]
theorem execInj_lowers (e s) : Lowers s (execInj e s) := by simp -implicitDefEqProofs [execInj]
theorem execCap_lowers (e s) : Lowers s (execCap e s) := by simp -implicitDefEqProofs [execCap]

theorem execTrap_lowers (e : EngWord) (s : State) : Lowers s (execTrap e s) := by
  refine lowers_next.mpr ((GatesFall.refl _).of_legs (issue_legs _ _ _ _ (fun p x => ?_) s))
  split <;> simp -implicitDefEqProofs

/-! #### Loads -/

theorem execUncEccAccess_lowers (w a fetch s) : Lowers s (execUncEccAccess w a fetch s) := by
  simp -implicitDefEqProofs [execUncEccAccess]

theorem execRxRecordLoad_lowers (w a t s) : Lowers s (execRxRecordLoad w a t s) := by
  simp -implicitDefEqProofs [execRxRecordLoad]

theorem execTcntLRead_lowers (w rb s) : Lowers s (execTcntLRead w rb s) := by
  simp -implicitDefEqProofs [execTcntLRead]

theorem execEvrTopRead_lowers (w c b s) : Lowers s (execEvrTopRead w c b s) := by
  simp -implicitDefEqProofs [execEvrTopRead]

theorem execEvrPendRead_lowers (w c b i s) : Lowers s (execEvrPendRead w c b i s) := by
  simp -implicitDefEqProofs [execEvrPendRead]

theorem execFbkLposRead_lowers (w f s) : Lowers s (execFbkLposRead w f s) := by
  simp -implicitDefEqProofs [execFbkLposRead]

theorem execXipRead_lowers (w a fetch blk t s) : Lowers s (execXipRead w a fetch blk t s) := by
  simp -implicitDefEqProofs [execXipRead]

/-! ### Gates of a leg under the operations of a leg -/

/-- The two gates of a leg. -/
def LegSt.gates (x : LegSt) : Gate × Gate := (x.h, x.l)

theorem LegSt.Falls.of_gates {x y : LegSt} (h : y.gates = x.gates) : x.Falls y := by
  obtain ⟨hh, hl⟩ := Prod.mk.inj h
  exact ⟨fun e => hh ▸ e, fun e => hl ▸ e⟩

theorem LegSt.Falls.trans {x y z : LegSt} (h : x.Falls y) (k : y.Falls z) : x.Falls z :=
  ⟨fun e => h.1 (k.1 e), fun e => h.2 (k.2 e)⟩

theorem LegSt.setGate_falls {x : LegSt} {sd : Side} {g : Gate} (h : g.on = true → (x.gate sd).on = true) :
    x.Falls (x.setGate sd g) := by
  cases sd
  exacts [⟨h, id⟩, ⟨id, h⟩]

theorem LegSt.off_falls (x : LegSt) (sd : Side) (t : Time) : x.Falls (x.off sd t) := by
  unfold LegSt.off
  dsimp only
  split
  · cases sd
    exacts [⟨nofun, id⟩, ⟨id, nofun⟩]
  · exact LegSt.setGate_falls id

theorem LegSt.lowBoth_falls (x : LegSt) (t : Time) : x.Falls (x.lowBoth t) :=
  (x.off_falls .high t).trans (LegSt.off_falls _ .low t)

theorem place_gates (p : Mp) (r : Bool) (d : Time) (x : LegSt) : (place p r d x).gates = x.gates := by
  unfold place
  split
  · rfl
  · split <;> rfl

theorem centrePulse_gates (p : Mp) (t : Time) (w : Int) (fix : Bool) (x : LegSt) :
    (centrePulse p t w fix x).gates = x.gates := by
  unfold centrePulse
  extract_lets r y up up'
  split
  · rfl
  · rw [place_gates]
    split
    · exact place_gates ..
    · rfl

theorem valleyCentre_gates (p : Mp) (t : Time) (ton : Int) (x : LegSt) : (valleyCentre p t ton x).gates = x.gates := by
  dsimp only [valleyCentre]
  split
  · exact place_gates ..
  · split
    · exact place_gates ..
    · split
      · split
        exacts [place_gates .., centrePulse_gates .., place_gates ..]
      · exact centrePulse_gates ..

theorem gapAt_gates (p : Mp) (t : Time) (f n : Int) (x : LegSt) : (gapAt p t f n x).gates = x.gates := by
  unfold gapAt
  split
  · split
    exacts [place_gates .., rfl, rfl]
  · exact place_gates ..

theorem peakCentre_gates (p : Mp) (t : Time) (ton : Int) (x : LegSt) : (peakCentre p t ton x).gates = x.gates := by
  dsimp only [peakCentre]
  split
  · exact place_gates ..
  · split
    · exact place_gates ..
    · split
      · exact place_gates ..
      · exact gapAt_gates ..

theorem sawPulse_gates (p : Mp) (t : Time) (w : Int) (x : LegSt) : (sawPulse p t w x).gates = x.gates := by
  unfold sawPulse
  extract_lets f up x1 gap
  have h1 : x1.gates = x.gates := place_gates ..
  split
  · split
    exacts [(place_gates ..).trans h1, h1, h1]
  · exact (place_gates ..).trans h1

theorem sawStart_gates (p : Mp) (t : Time) (ton : Int) (x : LegSt) : (sawStart p t ton x).gates = x.gates := by
  dsimp only [sawStart]
  split
  · exact place_gates ..
  · split
    · exact place_gates ..
    · split
      · split
        exacts [place_gates .., sawPulse_gates .., place_gates ..]
      · exact sawPulse_gates ..

/-- The decision at a carrier point plans edges; it drives no gate. -/
theorem decide_gates (s : State) (l : Nat) (pt : Point) (t : Time) (x : LegSt) :
    (decide_ s l pt t x).gates = x.gates := by
  unfold decide_
  split
  · rfl
  · dsimp only
    split
    · split
      exacts [sawStart_gates .., valleyCentre_gates ..]
    · split
      exacts [rfl, peakCentre_gates ..]
    · rfl

theorem diagPulse_gates (p : Mp) (saw : Bool) (w : Int) (x : LegSt) : (diagPulse p saw w x).gates = x.gates := by
  unfold diagPulse
  extract_lets t f dn x1 y up
  change y.gates = x1.gates
  unfold y
  split
  · exact (place_gates ..).trans (place_gates ..)
  · exact centrePulse_gates ..

section
variable {m : SMap LegSt} {s : State}

/-! ### Legs, latches and marks -/

theorem legLow_falls {t : Time} {l : Nat} (h : GatesFall m s.legs) : GatesFall m (legLow t l s).legs :=
  updLeg_falls (fun x => (x.lowBoth_falls t).trans ⟨id, id⟩) h

theorem legBit_falls {i l : Nat} (h : GatesFall m s.legs) : GatesFall m (legBit i l s).legs :=
  updLeg_falls (fun _ => ⟨id, id⟩) h

theorem legFault_falls {i l : Nat} (h : GatesFall m s.legs) : GatesFall m (legFault i l s).legs :=
  (legBit_falls h).of_legs (raise_legs ..)

theorem setLatch_falls {l : Nat} (h : GatesFall m s.legs) : GatesFall m (setLatch l s).legs := by
  unfold setLatch
  split
  · exact h
  · rw [raise_legs]
    exact updLeg_falls (fun _ => ⟨id, id⟩) h

theorem markUnus_falls {sd : Side} {l : Nat} (h : GatesFall m s.legs) : GatesFall m (markUnus sd l s).legs :=
  .ite h (legFault_falls (updLeg_falls (fun _ => LegSt.setGate_falls id) h))

theorem markStuckOn_falls {sd : Side} {l : Nat} (h : GatesFall m s.legs) : GatesFall m (markStuckOn sd l s).legs :=
  .ite (legFault_falls h) (legFault_falls (updLeg_falls (fun _ => LegSt.setGate_falls id) h))

/-- A leg that leaves the modulator keeps its gates, wherever a loop takes it. -/
theorem undrive_falls {xs : List Nat} (h : GatesFall m s.legs) :
    GatesFall m (forAll xs (fun l => updLeg l LegSt.undrive) s).legs :=
  forAll_falls (fun _ _ _ => updLeg_falls fun _ => ⟨id, id⟩) h

/-! ### Holds -/

theorem step1_falls {t : Time} {g : Nat} (h : GatesFall m s.legs) : GatesFall m (step1 t g s).legs :=
  forAll_falls (fun _ _ _ => legLow_falls) h

theorem runSeq_falls {t : Time} {g : Nat} (h : GatesFall m s.legs) : GatesFall m (runSeq t g s).legs := by
  unfold runSeq
  rw [grpEvent_legs]
  exact step1_falls h

theorem enterHold_falls {c : Nat} {soft : Bool} {t : Time} {g : Nat} (h : GatesFall m s.legs) :
    GatesFall m (enterHold c soft t g s).legs := by
  dsimp only [enterHold]
  split
  · exact h
  · refine runSeq_falls (forAll_falls (fun _ _ _ => updLeg_falls fun x => ?_) h)
    split <;> exact ⟨id, id⟩

theorem sideChange_falls {t : Time} {g : Nat} (h : GatesFall m s.legs) : GatesFall m (sideChange t g s).legs := by
  dsimp only [sideChange]
  split
  · exact h
  · split
    · exact h
    · split <;> rw [grpEvent_legs] <;> exact step1_falls h

theorem restart_falls {t : Time} {g : Nat} (h : GatesFall m s.legs) : GatesFall m (restart t g s).legs :=
  .ite h (step1_falls h)

theorem followHold_falls {g : Nat} (h : GatesFall m s.legs) : GatesFall m (followHold g s).legs :=
  .ite (runSeq_falls (undrive_falls h)) h

theorem setHard_falls {g : Nat} (h : GatesFall m s.legs) : GatesFall m (setHard g s).legs :=
  .ite h (followHold_falls (h.of_legs (grpEvent_legs ..)))

theorem spread_falls {t : Time} {g : Nat} (h : GatesFall m s.legs) : GatesFall m (spread t g s).legs :=
  .ite (forAll_falls (fun _ _ _ hx => enterHold_falls hx) h) h

theorem faultHold_falls {c : Nat} {t : Time} {g : Nat} (h : GatesFall m s.legs) :
    GatesFall m (faultHold c t g s).legs :=
    by
  unfold faultHold
  split
  · exact restart_falls (enterHold_falls h)
  · split
    · exact enterHold_falls h
    · exact h

theorem countEsc_falls {c : Nat} {t : Time} {g : Nat} (h : GatesFall m s.legs) : GatesFall m (countEsc c t g s).legs :=
    by
  unfold countEsc
  extract_lets x near hist s1 win esc s2
  have h2 : GatesFall m s2.legs := enterHold_falls h
  split
  · exact h
  · split
    · split
      · exact h2
      · exact followHold_falls (h2.of_legs (grpEvent_legs ..))
    · exact h

theorem legFaultGroup_falls {c : Nat} {t : Time} {l : Nat} (h : GatesFall m s.legs) :
    GatesFall m (legFaultGroup c t l s).legs :=
  spread_falls (faultHold_falls (countEsc_falls h))

theorem setKind_falls {k : Nat} {t : Time} {g : Nat} (h : GatesFall m s.legs) : GatesFall m (setKind k t g s).legs := by
  unfold setKind
  extract_lets old stoAt was s1 s2 s3
  have h2 : GatesFall m s2.legs := GatesFall.ite (undrive_falls h) h
  split
  · exact h
  · split
    · split
      · exact runSeq_falls h2
      · exact h2
    · split
      · exact enterHold_falls h2
      · split
        · exact h2
        · exact runSeq_falls h2

/-! ### The profile bus -/

theorem exclude_falls {t : Time} {l : Nat} (h : GatesFall m s.legs) : GatesFall m (exclude t l s).legs := by
  unfold exclude
  split
  · refine updLeg_falls (fun _ => ⟨id, id⟩) ?_
    split
    · exact h
    · exact legLow_falls h
  · exact h

theorem polled_falls {bad : Bool} {t : Time} {l : Nat} (h : GatesFall m s.legs) : GatesFall m (polled bad t l s).legs :=
    by
  have h1 : GatesFall m (updLeg l (fun x => { x with pollBad := bad }) s).legs := updLeg_falls (fun _ => ⟨id, id⟩) h
  dsimp only [polled]
  split
  · exact exclude_falls h1
  · exact h1

theorem absentReply_falls {fault : Bool} {t : Time} {l : Nat} (h : GatesFall m s.legs) :
    GatesFall m (absentReply fault t l s).legs := by
  dsimp only [absentReply]
  rw [notClean_legs]
  split
  · exact polled_falls (legFault_falls h)
  · exact legFault_falls h

theorem faultReply_falls {fh fl : Bool} {t : Time} {l : Nat} (h : GatesFall m s.legs) :
    GatesFall m (faultReply fh fl t l s).legs := by
  unfold faultReply
  extract_lets g s1 s2 s3 s4
  have h1 : GatesFall m s1.legs := GatesFall.ite (markUnus_falls h) h
  have h2 : GatesFall m s2.legs := GatesFall.ite (markUnus_falls h1) h1
  have h3 : GatesFall m s3.legs := setLatch_falls (legBit_falls h2)
  rw [notClean_legs]
  refine sideChange_falls ?_
  unfold s4
  split
  exacts [h3, legLow_falls h3]

theorem endAsk_falls {t : Time} {c : Nat} (h : GatesFall m s.legs) : GatesFall m (endAsk t c s).legs := by
  dsimp only [endAsk]
  split
  · split
    · exact h
    · split
      · exact legFault_falls h
      · exact h
  · exact h

theorem beginPoll_falls {fault : Bool} {t : Time} {c : Nat} (h : GatesFall m s.legs) :
    GatesFall m (beginPoll fault t c s).legs := endAsk_falls h

theorem startPoll_falls {fault : Bool} {t : Time} {c : Nat} (h : GatesFall m s.legs) :
    GatesFall m (startPoll fault t c s).legs := by
  unfold startPoll
  split
  · exact h
  · split
    · exact beginPoll_falls h
    · split <;> exact h

theorem sendFrame_falls {v : BitVec 24} {t : Time} {c : Nat} {f : State → State}
    (hf : ∀ x : State, GatesFall m x.legs → GatesFall m (f x).legs) (h : GatesFall m s.legs) :
    GatesFall m (sendFrame v t c f s).legs := by
  have h1 := hf (updCl c (fun x => { x with frame := v, busyTo := t + frameTime }) (endAsk t c s)) (endAsk_falls h)
  dsimp only [sendFrame]
  split
  · exact beginPoll_falls h1
  · exact h1

theorem takeReply_falls {fault : Bool} {r : BitVec 16} {t : Time} {l : Nat} (h : GatesFall m s.legs) :
    GatesFall m (takeReply fault r t l s).legs := by
  unfold takeReply
  extract_lets s1 s2
  have h1 : GatesFall m s1.legs := GatesFall.ite (legFault_falls h) h
  have h2 : GatesFall m s2.legs := GatesFall.ite (polled_falls h1) h1
  split
  · exact h2
  · split
    · exact faultReply_falls h2
    · rw [notClean_legs]
      exact legBit_falls h2

/-! ### Releases, and the ends of holds -/

theorem leaveHold_falls {g : Nat} (h : GatesFall m s.legs) : GatesFall m (leaveHold g s).legs := by
  dsimp only [leaveHold]
  rw [grpEvent_legs, updGrp_legs]
  split
  · exact forAll_falls (fun _ _ _ => legLow_falls) h
  · exact h

theorem judgeRelease_falls {g : Nat} (h : GatesFall m s.legs) : GatesFall m (judgeRelease g s).legs := by
  dsimp only [judgeRelease]
  split
  · exact leaveHold_falls (forAll_falls (fun _ _ _ => updLeg_falls fun _ => ⟨id, id⟩) h)
  · exact h.of_legs (grpEvent_legs ..)

theorem releaseGroup_falls {g : Nat} (h : GatesFall m s.legs) : GatesFall m (releaseGroup g s).legs := by
  unfold releaseGroup
  split
  · exact h.of_legs (grpEvent_legs ..)
  · split
    · exact h
    · split
      · exact judgeRelease_falls h
      · exact h

theorem releasesDue_falls (h : GatesFall m s.legs) : GatesFall m (releasesDue s).legs :=
  forAll_falls (fun _ _ _ => judgeRelease_falls) h

theorem releaseApply_falls {gs : BitVec 16} (h : GatesFall m s.legs) : GatesFall m (releaseApply gs s).legs :=
  forAll_falls (fun _ _ _ => releaseGroup_falls) h

theorem selfEnd_falls {g : Nat} (h : GatesFall m s.legs) : GatesFall m (selfEnd g s).legs := by
  dsimp only [selfEnd]
  split
  · exact leaveHold_falls h
  · exact h

theorem endHold_falls {g : Nat} (h : GatesFall m s.legs) : GatesFall m (endHold g s).legs := by
  dsimp only [endHold]
  rw [grpEvent_legs]
  exact forAll_falls (fun _ _ _ => updLeg_falls fun _ => ⟨id, id⟩) h

/-! ### The modulator -/

theorem latchCheck_falls {l : Nat} (h : GatesFall m s.legs) : GatesFall m (latchCheck l s).legs :=
  .ite (updLeg_falls (fun _ => ⟨id, id⟩) h) h

theorem periodEnd_falls {l : Nat} {t : Time} (h : GatesFall m s.legs) : GatesFall m (periodEnd l t s).legs := by
  dsimp only [periodEnd]
  split
  · exact h
  · split
    · exact legBit_falls (updLeg_falls (fun _ => ⟨id, id⟩) h)
    · split
      · exact h
      · exact updLeg_falls (fun _ => ⟨id, id⟩) h

theorem edgeOff_falls {l : Nat} {sd : Side} {t : Time} (h : GatesFall m s.legs) : GatesFall m (edgeOff l sd t s).legs :=
    by
  have h1 : GatesFall m (updLeg l (fun x => x.off sd t) s).legs := updLeg_falls (fun x => x.off_falls sd t) h
  dsimp only [edgeOff]
  split
  · split
    · exact legFault_falls h1
    · exact h1
  · exact h1

theorem adaptMeasure_falls {l : Nat} {sd : Side} {t : Time} (h : GatesFall m s.legs) :
    GatesFall m (adaptMeasure l sd t s).legs :=
  updLeg_falls (fun _ => by cases sd <;> exact ⟨id, id⟩) h

theorem rebaseLeg_falls {t : Time} {l : Nat} (h : GatesFall m s.legs) : GatesFall m (rebaseLeg t l s).legs := by
  refine legBit_falls (updLeg_falls (fun x => .of_gates ?_) h)
  dsimp only
  split
  · exact place_gates ..
  · rfl

/-! ### The leg guard's fault lines, and its pages -/

theorem clusterFault_falls {t : Time} {g : Nat} (h : GatesFall m s.legs) : GatesFall m (clusterFault t g s).legs :=
  spread_falls (faultHold_falls (countEsc_falls h))

theorem fltFall_falls {c : Nat} {t : Time} (h : GatesFall m s.legs) : GatesFall m (fltFall c t s).legs := by
  refine startPoll_falls (GatesFall.of_legs ?_ (raise_legs ..))
  exact forAll_falls (fun _ _ _ => clusterFault_falls) (forAll_falls (fun _ _ _ => setLatch_falls)
    (forAll_falls (fun _ _ _ => legLow_falls) h))

theorem hardHold_falls {t : Time} {g : Nat} (h : GatesFall m s.legs) : GatesFall m (hardHold t g s).legs :=
  setHard_falls (spread_falls (enterHold_falls h))

theorem glkFlip_falls {old : State} (h : GatesFall m s.legs) : GatesFall m (glkFlip old s).legs :=
  forAll_falls (fun _ _ _ => updLeg_falls fun _ => ⟨id, id⟩) (h.of_legs (by simp -implicitDefEqProofs))

theorem glkActs_falls {old : State} (h : GatesFall m s.legs) : GatesFall m (glkActs old s).legs :=
  forAll_falls (fun _ _ _ => updLeg_falls fun _ => ⟨id, id⟩) <|
    forAll_falls (fun _ _ _ => updLeg_falls fun _ => ⟨id, id⟩) <|
    forAll_falls (fun _ _ _ => updLeg_falls fun _ => ⟨id, id⟩) h

/-! ### Pairs and sensing -/

theorem limpHold_falls {p : Nat → Bool} (h : GatesFall m s.legs) : GatesFall m (limpHold p s).legs :=
  forAll_falls (fun _ _ _ => enterHold_falls) h

theorem engLostBoundary_falls (h : GatesFall m s.legs) : GatesFall m (engLostBoundary s).legs := by
  dsimp only [engLostBoundary]
  split
  · exact h
  · split
    · rw [raise_legs]
      exact limpHold_falls (h.of_legs (by simp -implicitDefEqProofs))
    · exact limpHold_falls h

theorem startChan_falls {t : Time} {i : Nat} (h : GatesFall m s.legs) : GatesFall m (startChan t i s).legs := by
  unfold startChan
  rw [updChan_legs, reliefAgain_legs]
  exact forAll_falls (fun _ _ _ => updLeg_falls fun _ => ⟨id, id⟩) h

theorem slopeDetect_falls {t : Time} {l : Nat} (h : GatesFall m s.legs) : GatesFall m (slopeDetect t l s).legs :=
  .ite (legFaultGroup_falls (setLatch_falls (legFault_falls (legLow_falls (updLeg_falls (fun _ => ⟨id, id⟩) h))))) h

theorem slopeStep_falls {x : Word} {ok : Bool} {d t : Time} {l : Nat} (h : GatesFall m s.legs) :
    GatesFall m (slopeStep x ok d t l s).legs := by
  unfold slopeStep
  split
  · exact updLeg_falls (fun _ => ⟨id, id⟩) h
  · extract_lets past n hit s1
    have h1 : GatesFall m s1.legs := updLeg_falls (fun _ => ⟨id, id⟩) h
    split
    · exact slopeDetect_falls h1
    · exact h1

theorem overcurrent_falls {i : Nat} {r : Word} {t : Time} (h : GatesFall m s.legs) :
    GatesFall m (overcurrent i r t s).legs := by
  unfold overcurrent
  extract_lets hi lo s1
  have h1 : GatesFall m s1.legs := h.of_legs (by simp -implicitDefEqProofs [s1])
  split
  · split
    · exact slopeDetect_falls h1
    · exact h1
  · exact h

theorem bsiFlip_falls {old : State} (h : GatesFall m s.legs) : GatesFall m (bsiFlip old s).legs :=
  forAll_falls (fun _ _ _ => startChan_falls) (h.of_legs (by simp -implicitDefEqProofs))

/-! ### The safety fabric -/

theorem refresh_falls {t : Time} (h : GatesFall m s.legs) : GatesFall m (refresh t s).legs := by
  dsimp only [refresh]
  rw [forAll_legs _ _ (soutRefresh_legs t)]
  split
  · exact forAll_falls (fun _ _ _ => setKind_falls) h
  · exact h

theorem disStart_falls {fresh : Bool} {t : Time} (h : GatesFall m s.legs) : GatesFall m (disStart fresh t s).legs := by
  dsimp only [disStart]
  split
  · exact h
  · exact refresh_falls (h.of_legs (by simp -implicitDefEqProofs))

theorem disEnd_falls {st : Nat} (h : GatesFall m s.legs) : GatesFall m (disEnd st s).legs :=
  .ite (refresh_falls (h.of_legs (setFld_legs ..))) h

theorem disRequest_falls {k : Mask} {d : Word} (h : GatesFall m s.legs) : GatesFall m (disRequest k d s).legs := by
  dsimp only [disRequest]
  split
  · exact h
  · split
    · exact disStart_falls h
    · exact disEnd_falls h

theorem grpReq_falls {op : Nat} {gs : BitVec 16} (h : GatesFall m s.legs) : GatesFall m (grpReq op gs s).legs :=
  .ite h (refresh_falls (h.of_legs (by simp -implicitDefEqProofs)))

theorem grpRequest_falls {k : Mask} {d : Word} (h : GatesFall m s.legs) : GatesFall m (grpRequest k d s).legs := by
  dsimp only [grpRequest]
  split
  · exact h
  · split
    · rw [raise_legs]
      exact h
    · exact grpReq_falls h

theorem releaseEntry_falls {k : Mask} {d : Word} (h : GatesFall m s.legs) : GatesFall m (releaseEntry k d s).legs := by
  dsimp only [releaseEntry]
  exact releaseApply_falls h

theorem safEntry_falls {a : Nat} {k : Mask} {d : Word} (h : GatesFall m s.legs) : GatesFall m (safEntry a k d s).legs :=
    by
  unfold safEntry
  split
  · exact h.of_legs (soutApply_legs ..)
  · split
    · exact grpRequest_falls h
    · split
      · exact releaseEntry_falls h
      · exact disRequest_falls h

theorem sinAct_falls {p : Nat} {t : Time} (h : GatesFall m s.legs) : GatesFall m (sinAct p t s).legs := by
  unfold sinAct
  split
  · exact h.of_legs (by simp -implicitDefEqProofs)
  · split
    · exact disStart_falls h
    · exact h
  · exact h

theorem sinChange_falls {was : Bool} {dis : Option Time} {t : Time} {p : Nat} (h : GatesFall m s.legs) :
    GatesFall m (sinChange was dis t p s).legs := by
  dsimp only [sinChange]
  split
  · exact sinAct_falls (h.of_legs (by simp -implicitDefEqProofs))
  · exact h

theorem sinBegins_falls {old : State} (h : GatesFall m s.legs) : GatesFall m (sinBegins old s).legs :=
  forAll_falls (fun _ _ _ => sinChange_falls) h

theorem sinLevels_falls {a b : Bool} {t : Time} {p : Nat} (h : GatesFall m s.legs) :
    GatesFall m (sinLevels a b t p s).legs := by
  unfold sinLevels
  exact refresh_falls (sinChange_falls h)

theorem clearStodisc_falls (h : GatesFall m s.legs) : GatesFall m (clearStodisc s).legs :=
  .ite (refresh_falls (h.of_legs (by simp -implicitDefEqProofs))) h

theorem clearSind_falls {p : Nat} (h : GatesFall m s.legs) : GatesFall m (clearSind p s).legs :=
  .ite (refresh_falls h) h

theorem clearDisflt_falls (h : GatesFall m s.legs) : GatesFall m (clearDisflt s).legs :=
  .ite h (refresh_falls (h.of_legs (setFld_legs ..)))

theorem latchClear_falls {v : Word} (h : GatesFall m s.legs) : GatesFall m (latchClear v s).legs := by
  unfold latchClear
  extract_lets s1 s2 s3
  have h1 : GatesFall m s1.legs := GatesFall.ite (clearStodisc_falls h) h
  have h3 : GatesFall m s3.legs :=
    GatesFall.of_legs (forAll_falls (fun _ _ _ => clearSind_falls) h1) (forAll_legs _ _ clearSoutf_legs _)
  split
  · exact clearDisflt_falls h3
  · exact h3

theorem limEvaluate_falls (h : GatesFall m s.legs) : GatesFall m (limEvaluate s).legs :=
  refresh_falls (h.of_legs (by simp -implicitDefEqProofs))

theorem scanEnter_falls (h : GatesFall m s.legs) : GatesFall m (scanEnter s).legs := by
  dsimp only [scanEnter]
  split
  · rw [updTru_legs, endTokens_legs, updTru_legs]
    exact refresh_falls (forAll_falls (fun _ _ _ => legLow_falls) h)
  · exact h

/-! ### The ring -/

theorem steerBy_falls {d : Int} (h : GatesFall m s.legs) : GatesFall m (steerBy d s).legs :=
  forAll_falls (fun _ _ _ => updLeg_falls fun _ => ⟨id, id⟩) h

theorem placeBoundary_falls {g : TickSig} (h : GatesFall m s.legs) : GatesFall m (placeBoundary g s).legs := by
  dsimp only [placeBoundary]
  exact steerBy_falls h

theorem adoptRing_falls {g : TickSig} (h : GatesFall m s.legs) : GatesFall m (adoptRing g s).legs := by
  dsimp only [adoptRing]
  exact forAll_falls (fun _ _ _ => rebaseLeg_falls) (h.of_legs (by simp -implicitDefEqProofs))

theorem followerTakes_falls {g : TickSig} (h : GatesFall m s.legs) : GatesFall m (followerTakes g s).legs := by
  unfold followerTakes
  extract_lets s1 s2 s3 s4
  have h3 : GatesFall m s3.legs := h.of_legs (by simp -implicitDefEqProofs [s3, s2, s1])
  rw [gathSignature_legs]
  unfold s4
  split
  · exact placeBoundary_falls h3
  · split
    · exact h3.of_legs (by simp -implicitDefEqProofs)
    · exact h3

theorem joinerTakes_falls {g : TickSig} (h : GatesFall m s.legs) : GatesFall m (joinerTakes g s).legs := by
  unfold joinerTakes
  extract_lets s1
  have h1 : GatesFall m s1.legs := h
  split
  · split
    · exact h1.of_legs (joinRefused_legs ..)
    · exact h1.of_legs (sendMgmt_legs ..)
  · split
    · split
      · exact h1
      · rw [creditReset_legs]
        exact adoptRing_falls h1
    · exact h1

theorem ringBoundary_falls {p : Nat} (h : GatesFall m s.legs) : GatesFall m (ringBoundary p s).legs := by
  unfold ringBoundary
  extract_lets s1 s2
  have h1 : GatesFall m s1.legs := h.of_legs (by simp -implicitDefEqProofs [s1])
  rw [grantAll_legs, updSpn_legs]
  unfold s2
  split
  · exact h1.of_legs (followerBoundary_legs ..)
  · split
    · exact h1.of_legs (leadBoundary_legs ..)
    · split
      · split
        · exact adoptRing_falls h1
        · exact h1
      · exact h1.of_legs (announceBoundary_legs ..)

theorem receive_falls {x : Sig} {t : Time} {f bad : State → State}
    (hf : ∀ y : State, GatesFall m y.legs → GatesFall m (f y).legs)
    (hb : ∀ y : State, GatesFall m y.legs → GatesFall m (bad y).legs) (h : GatesFall m s.legs) :
    GatesFall m (receive x t f bad s).legs := by
  unfold receive
  extract_lets s1 s2 s3
  have h1 : GatesFall m s1.legs := h.of_legs (by simp -implicitDefEqProofs [s1])
  have h2 : GatesFall m s2.legs := h1.of_legs (forward_legs ..)
  have h3 : GatesFall m s3.legs := h2.of_legs (noteSide_legs ..)
  split
  · exact h1
  · split
    · exact h1.of_legs (spnHdrErr_legs ..)
    · split
      · exact h2
      · split
        · exact hf _ (h3.of_legs (noteSeq_legs ..))
        · exact hb _ (h3.of_legs (raise_legs ..))

/-! ### Stores -/

theorem atWork_falls {w : Who} {f : State → State} (hf : ∀ x : State, GatesFall m x.legs → GatesFall m (f x).legs)
    (h : GatesFall m s.legs) : GatesFall m (atWork w f s).legs := by
  unfold atWork
  split
  · exact hf _ (h.of_legs (by simp -implicitDefEqProofs))
  · exact h

theorem access_falls {w : Who} {k : Access} {a : Word} {z : Nat} {f : State → State}
    (hf : ∀ x : State, GatesFall m x.legs → GatesFall m (f x).legs) (h : GatesFall m s.legs) :
    GatesFall m (access w k a z f s).legs := by
  unfold access
  split
  · exact h.of_legs (except_legs ..)
  · split
    · exact hf s h
    · exact h.of_legs (except_legs ..)

theorem clearBits_falls {a c : Nat} {v : Word} (h : GatesFall m s.legs) : GatesFall m (clearBits a c v s).legs := by
  unfold clearBits
  split
  · exact h
  split
  · exact h.of_legs (runApply_legs ..)
  split
  · exact h
  split
  · exact latchClear_falls h
  split
  · exact h
  split
  · exact scanEnter_falls h
  split
  · exact h.of_legs (by simp -implicitDefEqProofs)
  split
  · exact h.of_legs (by simp -implicitDefEqProofs)
  · exact h

theorem clearApply_falls {e : Entry} (h : GatesFall m s.legs) : GatesFall m (clearApply e s).legs := by
  unfold clearApply
  split
  · exact clearBits_falls h
  · exact h

/-- Of the entries of the colophon only those of SAF reach the legs. -/
theorem clApply_falls {e : Entry} (h : GatesFall m s.legs) : GatesFall m (clApply e s).legs := by
  dsimp only [clApply]
  split
  case h_7 => exact safEntry_falls h
  all_goals exact h.of_legs (by simp -implicitDefEqProofs)

theorem storeCl_falls {w : Who} {a : Nat} {k : Mask} {d : Word} (h : GatesFall m s.legs) :
    GatesFall m (storeCl w a k d s).legs :=
  .ite (h.of_legs (putEntry_legs ..)) (clApply_falls h)

theorem storeClear_falls {w : Who} {a : Nat} {k : Mask} {d : Word} (h : GatesFall m s.legs) :
    GatesFall m (storeClear w a k d s).legs :=
  .ite h (clearApply_falls h)

theorem regStore_falls {w : Who} {a : Word} {k : Mask} {d : Word} (h : GatesFall m s.legs) :
    GatesFall m (regStore w a k d s).legs := by
  unfold regStore
  extract_lets n win mm
  split
  · exact h
  split
  · exact h.of_legs (storeFault_legs ..)
  split
  · exact h
  split
  · exact h
  split
  · exact h.of_legs (stopped_legs ..)
  · extract_lets s1 s2
    have h1 : GatesFall m s1.legs := h.of_legs ((storeRws_legs ..).trans (storeRw_legs ..))
    have h2 : GatesFall m s2.legs := by
      unfold s2
      split
      exacts [storeClear_falls h1, h1]
    split
    · exact storeCl_falls h2
    · exact h2

theorem store_falls {w : Who} {a : Word} {z : Size} {d : Word} (h : GatesFall m s.legs) :
    GatesFall m (store w a z d s).legs := by
  refine atWork_falls (fun x hx => access_falls (fun y hy => ?_) hx) h
  split
  · exact regStore_falls hy
  · exact hy.of_legs (memoryStore_legs ..)

/-! ### Rebinding -/

theorem flipHook_falls {run : Bool} {old : State} {b : Nat} (h : GatesFall m s.legs) :
    GatesFall m (flipHook run old b s).legs := by
  unfold flipHook
  split
  · exact glkFlip_falls h
  · exact bsiFlip_falls h
  · exact h.of_legs (sarFlip_legs ..)
  · exact h.of_legs (fbkFlip_legs ..)
  · split
    · exact h
    · exact refresh_falls (sinBegins_falls h)
  · exact h.of_legs (spnFlip_legs ..)
  · exact h.of_legs (canFlip_legs ..)
  · exact h

theorem flipPages_falls {run : Bool} {part : BitVec 13} {n : Nat} (h : GatesFall m s.legs) :
    GatesFall m (flipPages run part n s).legs := by
  dsimp only [flipPages]
  rw [raiseTkc_legs, setReg_legs, setReg_legs, setFld_legs, updTick_legs, setFld_legs]
  exact forAll_falls (fun _ _ _ => flipHook_falls) h

theorem rebindAttempt_falls (h : GatesFall m s.legs) : GatesFall m (rebindAttempt s).legs := by
  unfold rebindAttempt
  extract_lets s0 part nr s1
  have h1 : GatesFall m s1.legs := h.of_legs (by simp -implicitDefEqProofs [s1, s0])
  split
  · split
    · exact flipPages_falls h1
    · exact h1
  · exact h

theorem legMoves_falls {old : State} {t : Time} {l : Nat} (h : GatesFall m s.legs) :
    GatesFall m (legMoves old t l s).legs :=
  .ite (legLow_falls (updLeg_falls (fun _ => ⟨id, id⟩) h)) h

theorem pagesAct_falls {part : BitVec 13} {t : Time} (h : GatesFall m s.legs) : GatesFall m (pagesAct part t s).legs :=
    by
  unfold pagesAct
  extract_lets a1 a2 s1 s2
  have h2 : GatesFall m s2.legs := GatesFall.ite (forAll_falls (fun _ _ _ => legMoves_falls) h) h
  split
  · exact glkActs_falls h2
  · exact h2

/-! ### The boundary -/

theorem dutyCheck_falls {l : Nat} (h : GatesFall m s.legs) : GatesFall m (dutyCheck l s).legs := by
  unfold dutyCheck
  split
  · exact legBit_falls h
  · split
    · refine updLeg_falls (fun _ => ⟨id, id⟩) ?_
      split
      · exact legBit_falls h
      · exact legFault_falls h
    · exact updLeg_falls (fun _ => ⟨id, id⟩) h

theorem commit_falls (h : GatesFall m s.legs) : GatesFall m (commit s).legs := by
  dsimp only [commit]
  rw [updTick_legs, latchResults_legs, commitCells_legs]
  exact forAll_falls (fun _ _ _ => dutyCheck_falls) h

theorem bitsNewTick_falls (h : GatesFall m s.legs) : GatesFall m (bitsNewTick s).legs := by
  unfold bitsNewTick
  rw [portsNewTick_legs]
  exact forAll_falls (fun _ _ _ => updLeg_falls fun _ => ⟨id, id⟩) h

theorem sampling_falls (h : GatesFall m s.legs) : GatesFall m (sampling s).legs := by
  dsimp only [sampling]
  rw [latchFabric_legs, dischModel_legs]
  refine limEvaluate_falls (bitsNewTick_falls ?_)
  rw [dcxCheck_legs, latchValid_legs, latchSample_legs, forAll_legs _ _ (standstill_legs _), calDone_legs]
  exact forAll_falls (fun _ _ _ => endAsk_falls) h

theorem applyQueues_falls {first : Bool} {qs cs : List Entry} (h : GatesFall m s.legs) :
    GatesFall m (applyQueues first qs cs s).legs := by
  unfold applyQueues
  extract_lets s1 s2
  have h1 : GatesFall m s1.legs :=
    GatesFall.of_legs (forAll_falls (fun _ _ _ => clearApply_falls) h) (hbBoundary_legs ..)
  exact forAll_falls (fun _ _ _ => clApply_falls) (h1.of_legs (by simp -implicitDefEqProofs [s2]))

theorem guardBoundary_falls (h : GatesFall m s.legs) : GatesFall m (guardBoundary s).legs := by
  dsimp only [guardBoundary]
  rw [forAll_legs _ _ fun _ _ => updGrp_legs ..]
  exact releasesDue_falls (forAll_falls (fun _ _ _ => selfEnd_falls) (h.of_legs (by simp -implicitDefEqProofs)))

theorem pairBoundary_falls (h : GatesFall m s.legs) : GatesFall m (pairBoundary s).legs :=
  GatesFall.of_legs (engLostBoundary_falls h) (by simp -implicitDefEqProofs [pairBoundary])

theorem portBoundary_falls {p : Nat} (h : GatesFall m s.legs) : GatesFall m (portBoundary p s).legs := by
  have h1 : GatesFall m (ringBoundary p (truBoundary (ringStart s))).legs :=
    ringBoundary_falls (h.of_legs (by simp -implicitDefEqProofs))
  exact h1.of_legs (by simp -implicitDefEqProofs [portBoundary])

theorem afterCommit_falls {p : Nat} {old : State} {all first : Bool} (h : GatesFall m s.legs) :
    GatesFall m (afterCommit p old all first s).legs := by
  unfold afterCommit
  extract_lets s1 s2 qs cs s2a s3 s4 s5
  have h1 : GatesFall m s1.legs := forAll_falls (fun _ _ _ => rebaseLeg_falls) (h.of_legs (stagedWrites_legs ..))
  have h2 : GatesFall m s2.legs := sampling_falls h1
  have h2a : GatesFall m s2a.legs := pairBoundary_falls (h2.of_legs (checkpoints_legs ..))
  have h3 : GatesFall m s3.legs := h2a.of_legs (by simp -implicitDefEqProofs [s3])
  have h4 : GatesFall m s4.legs :=
    GatesFall.of_legs (portBoundary_falls h3) ((startTable_legs ..).trans (clearAborted_legs ..))
  have h5 : GatesFall m s5.legs :=
    guardBoundary_falls (GatesFall.of_legs (applyQueues_falls h4) ((calCheck_legs ..).trans (latchHb_legs ..)))
  clear_value s5
  exact h5.of_legs (raiseTkc_legs ..)

theorem boundary_falls (h : GatesFall m s.legs) : GatesFall m (boundary s).legs := by
  unfold boundary
  extract_lets s0 s1 s2 s3
  have h1 : GatesFall m s1.legs :=
    GatesFall.of_legs (rebindAttempt_falls (h.of_legs (by simp -implicitDefEqProofs [s0])))
      ((capCommit_legs ..).trans (rebindAbandon_legs ..))
  exact afterCommit_falls (commit_falls (GatesFall.of_legs (pagesAct_falls h1) (countTick_legs ..)))

theorem holdAll_falls (h : GatesFall m s.legs) : GatesFall m (holdAll s).legs :=
  forAll_falls (fun _ _ _ hx => enterHold_falls hx) (h.of_legs (by simp -implicitDefEqProofs))

theorem firstBoundary_falls (h : GatesFall m s.legs) : GatesFall m (firstBoundary s).legs := by
  unfold firstBoundary
  extract_lets part s0 nr s1 s2 s3 s4 s5
  split
  · exact h.of_legs (runFails_legs ..)
  · have h1 : GatesFall m s1.legs := by
      unfold s1
      rw [setFld_legs, setFld_legs]
      exact flipPages_falls h
    have h3 : GatesFall m s3.legs := by
      unfold s3 s2
      rw [updSaf_legs, setFld_legs, setFld_legs, openFirst_legs]
      exact h1
    clear_value s3
    have h4 : GatesFall m s4.legs := sinBegins_falls (holdAll_falls (pagesAct_falls h3))
    clear_value s4
    have h5 : GatesFall m s5.legs := afterCommit_falls (h4.of_legs ((latchResults_legs ..).trans (commitCells_legs ..)))
    clear_value s5
    exact h5

end

/-! ### Commands of the modulator, the leg guard and the fabric that raise no gate -/

theorem execConfirmTimeout_lowers (l sd t s) : Lowers s (execConfirmTimeout l sd t s) := by
  refine lowers_next.mpr ?_
  split
  · split
    · exact legFaultGroup_falls (setLatch_falls (legFault_falls (legLow_falls (.refl _))))
    · exact .refl _
  · exact .refl _

theorem execStuckGate_lowers (l sd t s) : Lowers s (execStuckGate l sd t s) := by
  unfold execStuckGate
  extract_lets s1 g gr s2 s3 s4
  refine lowers_next.mpr ?_
  have h2 : GatesFall s.legs s2.legs := updLeg_falls (fun _ => LegSt.setGate_falls id) (.refl _)
  have h3 : GatesFall s.legs s3.legs := GatesFall.ite (markUnus_falls (legFault_falls h2)) (markStuckOn_falls h2)
  split
  · exact setHard_falls (sideChange_falls (spread_falls (enterHold_falls (legLow_falls (setLatch_falls h3)))))
  · exact .refl _

theorem execSamplingInstant_lowers (g t s) : Lowers s (execSamplingInstant g t s) :=
  lowers_next.mpr (.ite (forAll_falls (fun _ _ _ => updLeg_falls fun _ => ⟨id, id⟩) (.refl _)) (.refl _))

theorem execModUndiag_lowers (l s) : Lowers s (execModUndiag l s) :=
  lowers_next.mpr (.ite (legFault_falls (updLeg_falls (fun _ => ⟨id, id⟩) (.refl _))) (.refl _))

theorem execDiagPulseInsert_lowers (l s) : Lowers s (execDiagPulseInsert l s) :=
  lowers_next.mpr (.ite (legBit_falls (updLeg_falls (fun _ => .of_gates (diagPulse_gates ..)) (.refl _))) (.refl _))

theorem execDebugHalt_lowers (u t s) : Lowers s (execDebugHalt u t s) := by
  unfold execDebugHalt
  extract_lets s1 s2
  refine lowers_next.mpr ?_
  have h2 : GatesFall s.legs s2.legs := (GatesFall.refl _).of_legs (by simp -implicitDefEqProofs [s2, s1])
  split
  · exact .refl _
  · split
    · exact forAll_falls (fun _ _ _ => enterHold_falls) h2
    · exact h2

theorem execTimebaseLoss_lowers (t s) : Lowers s (execTimebaseLoss t s) := by
  unfold execTimebaseLoss
  extract_lets s1 dis s2 s3
  refine lowers_next.mpr ?_
  have h2 : GatesFall s.legs s2.legs := (GatesFall.refl _).of_legs (forAll_legs _ _ (fun _ _ => updCl_legs ..) _)
  have h3 : GatesFall s.legs s3.legs := undrive_falls h2
  split
  · exact .refl _
  · exact forAll_falls (fun _ _ _ => runSeq_falls) (forAll_falls (fun _ _ _ => enterHold_falls) h3)

theorem execFltFall_lowers (c t s) : Lowers s (execFltFall c t s) :=
  lowers_next.mpr (.ite (fltFall_falls (.refl _)) (.refl _))

theorem execFltRise_lowers (c t s) : Lowers s (execFltRise c t s) :=
  lowers_next.mpr (.ite (startPoll_falls (.refl _)) (.refl _))

theorem execFltHard_lowers (c t s) : Lowers s (execFltHard c t s) := by
  refine lowers_next.mpr ?_
  split
  · rw [raise_legs]
    exact forAll_falls (fun _ _ _ => hardHold_falls) (.refl _)
  · exact .refl _

theorem execFaultPollRepeat_lowers (c t s) : Lowers s (execFaultPollRepeat c t s) :=
  lowers_next.mpr (.ite (startPoll_falls (.refl _)) (.refl _))

theorem execPeriodicPoll_lowers (c s) : Lowers s (execPeriodicPoll c s) := by
  refine lowers_next.mpr ?_
  dsimp only
  split
  · split
    · exact .refl _
    · exact startPoll_falls (.refl _)
  · exact .refl _

theorem execStatusRequest_lowers (c a t s) : Lowers s (execStatusRequest c a t s) := by
  refine lowers_next.mpr ?_
  split
  · exact .refl _
  split
  · exact startPoll_falls (.refl _)
  split
  · exact .refl _
  · exact endAsk_falls (.refl _)

theorem execPollReply_lowers (c a r t s) : Lowers s (execPollReply c a r t s) := by
  unfold execPollReply
  extract_lets s1 x l ask fault s2
  refine lowers_next.mpr ?_
  have h1 : GatesFall s.legs s1.legs := endAsk_falls (.refl _)
  have h2 : GatesFall s.legs s2.legs := h1
  split
  · exact h1
  split
  · exact h2
  split
  · exact absentReply_falls h2
  · exact takeReply_falls h2

theorem execPollComplete_lowers (c t s) : Lowers s (execPollComplete c t s) := by
  unfold execPollComplete
  extract_lets s1 x miss s2 s3
  refine lowers_next.mpr ?_
  have h1 : GatesFall s.legs s1.legs := endAsk_falls (.refl _)
  have h3 : GatesFall s.legs s3.legs := forAll_falls (fun _ _ _ => absentReply_falls) h1
  split
  · split
    · split
      · exact startPoll_falls h3
      · exact h3
    · exact h1
  · exact h1

theorem execEdgeProfile_lowers (l sd t s) : Lowers s (execEdgeProfile l sd t s) := by
  unfold execEdgeProfile
  extract_lets s1 k c pay late s2
  refine lowers_next.mpr ?_
  have h2 : GatesFall s.legs s2.legs :=
    sendFrame_falls (fun _ => updLeg_falls fun _ => LegSt.setGate_falls id) (.refl _)
  split
  · split
    · exact legBit_falls h2
    · exact h2
  · exact .refl _

theorem execConfigurationFrame_lowers (l t s) : Lowers s (execConfigurationFrame l t s) := by
  refine lowers_next.mpr ?_
  dsimp only
  split
  · exact sendFrame_falls (fun _ => updLeg_falls fun _ => ⟨id, id⟩) (.refl _)
  · exact .refl _

theorem execAscVerifyTimeout_lowers (l t s) : Lowers s (execAscVerifyTimeout l t s) := by
  refine lowers_next.mpr ?_
  dsimp only
  split
  · split
    · exact sideChange_falls (markUnus_falls (.refl _))
    · exact .refl _
  · exact .refl _

theorem execSafeStateWaitTimeout_lowers (l t s) : Lowers s (execSafeStateWaitTimeout l t s) := by
  refine lowers_next.mpr ?_
  dsimp only
  split
  · split
    · exact sideChange_falls (markStuckOn_falls (.refl _))
    · exact .refl _
  · exact .refl _

theorem execSafRelease_lowers (gs s) : Lowers s (execSafRelease gs s) := lowers_next.mpr (releaseApply_falls (.refl _))

theorem execHoldLeaveComplete_lowers (g t s) : Lowers s (execHoldLeaveComplete g t s) :=
  lowers_next.mpr (.ite (endHold_falls (.refl _)) (.refl _))

theorem execHoldLeaveTimeout_lowers (g t s) : Lowers s (execHoldLeaveTimeout g t s) := by
  refine lowers_next.mpr ?_
  dsimp only
  split
  · refine setHard_falls (runSeq_falls ?_)
    exact forAll_falls (fun _ _ _ => markStuckOn_falls) (.refl _)
  · exact .refl _

theorem execPwrBankBor_lowers (c t s) : Lowers s (execPwrBankBor c t s) := by
  unfold execPwrBankBor
  extract_lets s1 x s2 s3
  refine lowers_next.mpr ?_
  have h2 : GatesFall s.legs s2.legs := (GatesFall.refl _).of_legs ((raise_legs ..).trans (setFldBit_legs ..))
  have h3 : GatesFall s.legs s3.legs := fltFall_falls h2
  split
  · rw [raise_legs]
    exact forAll_falls (fun _ _ _ => hardHold_falls) h3
  · exact .refl _

theorem execFastResult_lowers (i bs t s) : Lowers s (execFastResult i bs t s) := by
  unfold execFastResult
  extract_lets s1 osr raw ok d s1a s2 s3
  refine lowers_next.mpr ?_
  have h2 : GatesFall s.legs s2.legs := (GatesFall.refl _).of_legs (by simp -implicitDefEqProofs [s2, s1a, s1])
  have h3 : GatesFall s.legs s3.legs := forAll_falls (fun _ _ _ => slopeStep_falls) h2
  split
  · exact .refl _
  · split
    · exact overcurrent_falls h3
    · exact h3

theorem execBsckRecover_lowers (k p s) : Lowers s (execBsckRecover k p s) :=
  lowers_next.mpr <|
    .ite (forAll_falls (fun _ _ _ => startChan_falls) ((GatesFall.refl _).of_legs (setFldBit_legs ..))) (.refl _)

theorem execDischargeStart_lowers (s) : Lowers s (execDischargeStart s) := lowers_next.mpr (disStart_falls (.refl _))
theorem execDischargeStop_lowers (s) : Lowers s (execDischargeStop s) := lowers_next.mpr (disEnd_falls (.refl _))

theorem execDischDone_lowers (s) : Lowers s (execDischDone s) := by
  refine lowers_next.mpr ?_
  split
  · rw [raise_legs]
    exact disEnd_falls (.refl _)
  · exact .refl _

theorem execDischFault_lowers (t s) : Lowers s (execDischFault t s) := by
  refine lowers_next.mpr ?_
  split
  · rw [raise_legs]
    exact disEnd_falls ((GatesFall.refl _).of_legs (setFld_legs ..))
  · exact .refl _

theorem execStoPinFall_lowers (b t s) : Lowers s (execStoPinFall b t s) := by
  unfold execStoPinFall
  extract_lets s1 was s2
  have h2 : GatesFall s.legs s2.legs :=
    refresh_falls ((GatesFall.refl _).of_legs ((raise_legs ..).trans (stoSet_legs ..)))
  exact lowers_next.mpr (GatesFall.ite (.refl _) (GatesFall.ite (disStart_falls h2) h2))

theorem execStoPinRise_lowers (b t s) : Lowers s (execStoPinRise b t s) :=
  lowers_next.mpr (GatesFall.ite (refresh_falls ((GatesFall.refl _).of_legs (stoSet_legs ..))) (.refl _))

theorem execSafStoDisc_lowers (t s) : Lowers s (execSafStoDisc t s) := by
  refine lowers_next.mpr ?_
  split
  · split
    · exact refresh_falls ((GatesFall.refl _).of_legs (by simp -implicitDefEqProofs))
    · exact .refl _
  · exact .refl _

theorem execSs1Expire_lowers (g t s) : Lowers s (execSs1Expire g t s) := by
  refine lowers_next.mpr ?_
  split
  · split
    · exact refresh_falls ((GatesFall.refl _).of_legs (raise_legs ..))
    · exact .refl _
  · exact .refl _

theorem execGrpreqClear_lowers (gs s) : Lowers s (execGrpreqClear gs s) := lowers_next.mpr (grpReq_falls (.refl _))
theorem execGrpreqHold_lowers (gs s) : Lowers s (execGrpreqHold gs s) := lowers_next.mpr (grpReq_falls (.refl _))
theorem execGrpreqAsc_lowers (gs s) : Lowers s (execGrpreqAsc gs s) := lowers_next.mpr (grpReq_falls (.refl _))
theorem execGrpreqAllOff_lowers (gs s) : Lowers s (execGrpreqAllOff gs s) := lowers_next.mpr (grpReq_falls (.refl _))
theorem execGrpreqSto_lowers (gs s) : Lowers s (execGrpreqSto gs s) := lowers_next.mpr (grpReq_falls (.refl _))
theorem execGrpreqSs1Start_lowers (gs s) : Lowers s (execGrpreqSs1Start gs s) := lowers_next.mpr
    (grpReq_falls (.refl _))
theorem execGrpreqSs1Stop_lowers (gs s) : Lowers s (execGrpreqSs1Stop gs s) := lowers_next.mpr (grpReq_falls (.refl _))

theorem execSafeInputDemand_lowers (p a b t s) : Lowers s (execSafeInputDemand p a b t s) :=
  lowers_next.mpr (.ite (sinLevels_falls (.refl _)) (.refl _))

theorem execSafeInputDemandEnd_lowers (p t s) : Lowers s (execSafeInputDemandEnd p t s) :=
  lowers_next.mpr (.ite (sinLevels_falls (.refl _)) (.refl _))

theorem execSinDiscrepancy_lowers (p t s) : Lowers s (execSinDiscrepancy p t s) := by
  refine lowers_next.mpr ?_
  split
  · split
    · exact refresh_falls ((GatesFall.refl _).of_legs (by simp -implicitDefEqProofs))
    · exact .refl _
  · exact .refl _

theorem execSafFrozen_lowers (s) : Lowers s (execSafFrozen s) :=
  lowers_next.mpr (.ite (refresh_falls ((GatesFall.refl _).of_legs (raise_legs ..))) (.refl _))

theorem execLatchClearStodisc_lowers (s) : Lowers s (execLatchClearStodisc s) := lowers_next.mpr
    (clearStodisc_falls (.refl _))
theorem execLatchClearSind_lowers (p s) : Lowers s (execLatchClearSind p s) := lowers_next.mpr
    (clearSind_falls (.refl _))
theorem execLatchClearDisflt_lowers (s) : Lowers s (execLatchClearDisflt s) := lowers_next.mpr
    (clearDisflt_falls (.refl _))
theorem execTstScanEnter_lowers (s) : Lowers s (execTstScanEnter s) := lowers_next.mpr (scanEnter_falls (.refl _))

theorem execTickSignature_lowers (x t s) : Lowers s (execTickSignature x t s) := by
  refine lowers_next.mpr (receive_falls (fun y hy => ?_) (fun _ => id) (.refl _))
  split
  · exact hy
  · extract_lets g s2 s3
    have h2 : GatesFall s.legs s2.legs := hy
    have h3 : GatesFall s.legs s3.legs := h2.of_legs (followLead_legs ..)
    split
    · exact joinerTakes_falls h2
    · split
      · exact h2
      · split
        · exact followerTakes_falls h3
        · exact h3

theorem execTimeResyncStep_lowers (s) : Lowers s (execTimeResyncStep s) := by
  refine lowers_next.mpr ?_
  dsimp only
  split
  · exact .refl _
  · split
    · rw [setDisc_legs]
      exact forAll_falls (fun _ _ _ => rebaseLeg_falls) (.refl _)
    · exact .refl _

theorem execSarSeqStart_lowers (c k t s) : Lowers s (execSarSeqStart c k t s) := by
  simp -implicitDefEqProofs [execSarSeqStart]

theorem execRebindAttempt_lowers (s) : Lowers s (execRebindAttempt s) := lowers_next.mpr (rebindAttempt_falls (.refl _))

/-! ### Commands that store to a register or a memory -/

theorem execPairStore_lowers (w a z d s) : Lowers s (execPairStore w a z d s) := lowers_next.mpr (store_falls (.refl _))

theorem execStateMemoryStore_lowers (w a z d s) : Lowers s (execStateMemoryStore w a z d s) := by
  refine lowers_next.mpr ?_
  split
  · exact store_falls (.refl _)
  · exact .refl _

theorem execLimpResultStore_lowers (w a z d s) : Lowers s (execLimpResultStore w a z d s) := by
  refine lowers_next.mpr ?_
  split
  · split
    · exact store_falls (.refl _)
    · exact .refl _
  · exact .refl _

theorem execClStore_lowers (w a z d s) : Lowers s (execClStore w a z d s) :=
  lowers_next.mpr (.ite (store_falls (.refl _)) (.refl _))

theorem execClearQueueStore_lowers (w a z d s) : Lowers s (execClearQueueStore w a z d s) :=
  lowers_next.mpr (.ite (store_falls (.refl _)) (.refl _))

theorem execRegisterWrite_lowers (w a k d s) : Lowers s (execRegisterWrite w a k d s) := by
  refine lowers_next.mpr ?_
  split
  · split
    · exact atWork_falls (fun _ => access_falls fun _ => regStore_falls) (.refl _)
    · exact .refl _
  · exact .refl _

/-- TICK_BOUNDARY raises no gate, whatever acts, is latched or is released at it. -/
theorem execTickBoundary_lowers (s) : Lowers s (execTickBoundary s) := by
  refine lowers_next.mpr ?_
  split
  · exact .refl _
  · exact firstBoundary_falls (.refl _)
  · exact boundary_falls (.refl _)

/-! ### Gates that rise under the interlock (R230)

The commands that turn a gate on do it through `turnOnIfReady`, which asks the interlock of R230. What the interlock
found still stands in the state that the command leads to. -/

/-- Gate `sd` of leg `l` has risen under the interlock of R230: the opposite gate is low, has been low for the dead time
as it rose, and its status input is high. -/
def RoseOk (x : State) (l : Nat) (sd : Side) : Prop :=
  ((leg x l).gate sd.other).on = false ∧ ((leg x l).gate sd.other).cfm = true ∧
    ((leg x l).gate sd.other).edgeAt + deadTime x l ≤ ((leg x l).gate sd).edgeAt

/-- Every gate that is low in `s` and high in `x` has risen under the interlock. -/
def RisesGuarded (s x : State) : Prop :=
  ∀ (l : Nat) (sd : Side), ((leg s l).gate sd).on = false → ((leg x l).gate sd).on = true → RoseOk x l sd

/-- Every gate that rises in a command's outcome rises under the interlock. -/
def Guarded (s : State) (o : Out) : Prop := ∀ t, o = .next t → RisesGuarded s t

/-- What the interlock looks at is the same in both states: command, edge and status of every gate, and the dead
times. -/
def SameGuard (x y : State) : Prop :=
  (∀ l sd, ((leg y l).gate sd).on = ((leg x l).gate sd).on ∧ 
    ((leg y l).gate sd).edgeAt = ((leg x l).gate sd).edgeAt ∧ ((leg y l).gate sd).cfm = ((leg x l).gate sd).cfm) ∧
    ∀ l, deadTime y l = deadTime x l

theorem gate_setGate (x : LegSt) (sd sd' : Side) (g : Gate) :
    (x.setGate sd g).gate sd' = if sd' = sd then g else x.gate sd' := by
  cases sd <;> cases sd' <;> rfl

theorem Side.other_ne (sd : Side) : sd.other ≠ sd := by cases sd <;> decide
theorem Side.eq_other {sd sd' : Side} (h : sd' ≠ sd) : sd' = sd.other := by
  cases sd <;> cases sd' <;> simp_all [Side.other]

section
variable {s x y : State}

theorem guarded_next : Guarded s (.next x) ↔ RisesGuarded s x :=
  ⟨fun h => h x rfl, fun h _ hu => by cases hu; exact h⟩

theorem GatesFall.risesGuarded (h : GatesFall s.legs x.legs) : RisesGuarded s x :=
  fun l sd h0 h1 => absurd (h l sd h1) (by simpa [leg] using h0)

theorem Lowers.guarded {o : Out} (h : Lowers s o) : Guarded s o := fun t ht => (h t ht).risesGuarded

/-- What leaves the interlock's view alone keeps that gates have risen under it. -/
theorem RisesGuarded.of_same (h : RisesGuarded s x) (e : SameGuard x y) : RisesGuarded s y := by
  intro l sd h0 h1
  obtain ⟨hg, hd⟩ := e
  obtain ⟨hon, hedge, -⟩ := hg l sd
  obtain ⟨hon', hedge', hcfm'⟩ := hg l sd.other
  obtain ⟨a, b, c⟩ := h l sd h0 (hon ▸ h1)
  exact ⟨hon'.trans a, hcfm'.trans b, by rw [hedge', hedge, hd]; exact c⟩

theorem SameGuard.of_legs (hl : y.legs = x.legs) (hd : ∀ l, deadTime y l = deadTime x l) : SameGuard x y :=
  ⟨fun l _ => by simp [leg, hl], hd⟩

/-- A request for a turn-on drives nothing. -/
theorem ask_same (l : Nat) (sd : Side) (w : Time) : SameGuard x (updLeg l (fun z => z.ask sd w) x) := by
  refine ⟨fun k sd' => ?_, fun _ => rfl⟩
  rw [leg_updLeg]
  split
  · next e =>
    subst e
    unfold LegSt.ask
    rw [gate_setGate]
    split
    · next e => subst e; exact ⟨rfl, rfl, rfl⟩
    · exact ⟨rfl, rfl, rfl⟩
  · exact ⟨rfl, rfl, rfl⟩

/-- What GATE_TURN_ON does: nothing, or an edge of its gate under the interlock, with the leg's band noted. -/
theorem turnOnIfReady_cases (l : Nat) (sd : Side) (t : Time) (x : State) :
    turnOnIfReady l sd t x = x ∨ interlockOk x l sd t = true ∧
      turnOnIfReady l sd t x =
        updLeg l (fun z => { z.setGate sd ((z.gate sd).edge true t) with band := bandOf x l }) x := by
  unfold turnOnIfReady
  split
  · split
    · next h => exact .inr ⟨h.2.1, rfl⟩
    · exact .inl rfl
  · exact .inl rfl

/-- The gates after an edge of gate `sd` of leg `l`. -/
theorem gate_edge (l k : Nat) (sd sd' : Side) (t : Time) (b : Nat) :
    (leg (updLeg l (fun z => { z.setGate sd ((z.gate sd).edge true t) with band := b }) x) k).gate sd' =
      if k = l ∧ sd' = sd then ((leg x l).gate sd).edge true t else (leg x k).gate sd' := by
  rw [leg_updLeg]
  by_cases hk : k = l
  · subst hk
    cases sd <;> cases sd' <;> simp [LegSt.setGate, LegSt.gate]
  · simp [hk]

/-- Turning a gate on under the interlock keeps that gates have risen under it: the gate itself meets the interlock, and
the opposite one is low. -/
theorem RisesGuarded.turnOn {l : Nat} {sd : Side} {t : Time} (h : RisesGuarded s x) :
    RisesGuarded s (turnOnIfReady l sd t x) := by
  rcases turnOnIfReady_cases l sd t x with e | ⟨hi, e⟩ <;> rw [e]
  · exact h
  simp only [interlockOk, Bool.and_eq_true, Bool.not_eq_true', decide_eq_true_eq] at hi
  obtain ⟨⟨hoff, hcfm⟩, hdead⟩ := hi
  intro k sd' h0 h1
  rw [gate_edge] at h1
  unfold RoseOk
  simp only [gate_edge]
  change _ ∧ _ ∧ _ + deadTime x k ≤ _
  by_cases hk : k = l
  · subst hk
    by_cases hs : sd' = sd
    · subst hs
      simpa [Side.other_ne] using ⟨hoff, hcfm, hdead⟩
    · rw [Side.eq_other hs] at h1
      simp [Side.other_ne, hoff] at h1
  · simp only [hk, false_and, if_false] at h1 ⊢
    exact h k sd' h0 h1

/-! ### Commands that turn gates on -/

theorem alwaysOnStart_guarded (l : Nat) (t : Time) (h : GatesFall s.legs x.legs) :
    RisesGuarded s (alwaysOnStart l t x) := by
  unfold alwaysOnStart
  extract_lets s1 z
  have h1 : RisesGuarded s s1 := (latchCheck_falls h).risesGuarded
  split
  · exact (h1.of_same (ask_same ..)).turnOn
  · exact h1

theorem carrierPoint_guarded (l : Nat) (pt : Point) (upd : Bool) (t : Time) (h : GatesFall s.legs x.legs) :
    RisesGuarded s (carrierPoint l pt upd t x) := by
  unfold carrierPoint
  extract_lets drv s0 s1 d bad s2 s3
  have h0 : GatesFall s.legs s0.legs := by
    unfold s0
    split
    exacts [updLeg_falls (fun _ => ⟨id, id⟩) (periodEnd_falls h), h]
  have h1 : GatesFall s.legs s1.legs := updLeg_falls (fun _ => ⟨id, id⟩) h0
  have h2 : GatesFall s.legs s2.legs := by
    unfold s2
    split
    exacts [updLeg_falls (fun _ => ⟨id, id⟩) h1, h1]
  have h3 : GatesFall s.legs s3.legs := updLeg_falls (fun _ => .of_gates (decide_gates ..)) h2
  split
  · exact h1.risesGuarded
  split
  · exact GatesFall.risesGuarded (updLeg_falls (fun _ => ⟨id, id⟩) (legLow_falls h2))
  split
  · exact alwaysOnStart_guarded l t h3
  · exact h3.risesGuarded

theorem followEdge_guarded (l : Nat) (rise : Bool) (t : Time) (h : GatesFall s.legs x.legs) :
    RisesGuarded s (followEdge l rise t x) := by
  unfold followEdge
  extract_lets on s1
  have h1 : RisesGuarded s s1 := GatesFall.risesGuarded (updLeg_falls (fun _ => ⟨id, id⟩) (edgeOff_falls h))
  exact (h1.of_same (ask_same ..)).turnOn

theorem turnOnSide_guarded (sd : Side) (t : Time) (g : Nat) (h : RisesGuarded s x) :
    RisesGuarded s (turnOnSide sd t g x) := by
  unfold turnOnSide
  refine RisesGuarded.of_same ?_ (.of_legs rfl fun _ => rfl)
  exact forAll_keeps (RisesGuarded s) _ _ (fun _ _ _ hy => (hy.of_same (ask_same ..)).turnOn) x h

theorem verifyDone_guarded (g : Nat) (h : RisesGuarded s x) : RisesGuarded s (verifyDone g x) := by
  unfold verifyDone
  split
  · exact h
  · split
    · exact h.of_same (.of_legs rfl fun _ => rfl)
    · exact h

theorem execCarrierUpdatePoint_guarded (l t s) : Guarded s (execCarrierUpdatePoint l t s) := by
  refine guarded_next.mpr ?_
  split
  · exact carrierPoint_guarded _ _ _ _ (.refl _)
  · exact GatesFall.risesGuarded (.refl _)

theorem execCarrierPeriodStart_guarded (l t s) : Guarded s (execCarrierPeriodStart l t s) := by
  refine guarded_next.mpr ?_
  split
  · exact carrierPoint_guarded _ _ _ _ (.refl _)
  · exact GatesFall.risesGuarded (.refl _)

theorem execModEdge_guarded (l s) : Guarded s (execModEdge l s) := by
  refine guarded_next.mpr ?_
  split
  · exact GatesFall.risesGuarded (.refl _)
  split
  · exact GatesFall.risesGuarded (.refl _)
  extract_lets s1 s2 s3
  have h2 : GatesFall s.legs s2.legs := updLeg_falls (fun _ => ⟨id, id⟩) (.refl _)
  have h3 : GatesFall s.legs s3.legs := GatesFall.ite (latchCheck_falls h2) h2
  split
  · exact h3.risesGuarded
  · exact followEdge_guarded _ _ _ h3

theorem execDeadTimeExpire_guarded (l sd t s) : Guarded s (execDeadTimeExpire l sd t s) := by
  have h : RisesGuarded s (upto t s) := GatesFall.risesGuarded (.refl _)
  exact guarded_next.mpr h.turnOn

/-- A status edge is followed by the turn-on of the opposite gate only: its effect on the interlock comes before. -/
theorem execStatusInputEdge_guarded (l sd v t s) : Guarded s (execStatusInputEdge l sd v t s) := by
  unfold execStatusInputEdge
  extract_lets s1 g s2 s3
  refine guarded_next.mpr ?_
  have h2 : GatesFall s.legs s2.legs := updLeg_falls (fun _ => LegSt.setGate_falls id) (.refl _)
  have h3 : GatesFall s.legs s3.legs := GatesFall.ite (adaptMeasure_falls h2) h2
  split
  · exact GatesFall.risesGuarded (.refl _)
  · exact verifyDone_guarded _ (h3.risesGuarded.turnOn)

theorem execAscTurnOn_guarded (g t s) : Guarded s (execAscTurnOn g t s) := by
  unfold execAscTurnOn
  extract_lets s1 x fresh
  refine guarded_next.mpr ?_
  have off (f : GrpSt → GrpSt) : RisesGuarded s (grpEvent g.val (step1 t g.val (updGrp g.val f s1))) := by
    refine GatesFall.risesGuarded ?_
    rw [grpEvent_legs]
    exact step1_falls (.refl _)
  split
  · exact GatesFall.risesGuarded (.refl _)
  split
  · split
    · exact off _
    · extract_lets s2
      have h2 : RisesGuarded s s2 :=
        GatesFall.risesGuarded (GatesFall.ite (.refl _) ((GatesFall.refl _).of_legs (grpEvent_legs ..)))
      split
      · exact turnOnSide_guarded _ _ _ h2
      · exact h2
  · exact off _
  · exact GatesFall.risesGuarded (.refl _)

end

/-! ### Every command, and the step -/

/-- Whatever the command, the gates that rise in it rise under the interlock. -/
theorem exec_guarded (c : Instr) (s : State) : Guarded s (exec c s) :=
  match c with
  | .tickBoundary => (execTickBoundary_lowers s).guarded
  | .commitWindowOpen => (execCommitWindowOpen_lowers s).guarded
  | .tkcBudgetWarn u t => (execTkcBudgetWarn_lowers u t s).guarded
  | .tkcCbar w t => (execTkcCbar_lowers w t s).guarded
  | .cbarDrainComplete w t => (execCbarDrainComplete_lowers w t s).guarded
  | .clStore w a z d => (execClStore_lowers w a z d s).guarded
  | .clearQueueStore w a z d => (execClearQueueStore_lowers w a z d s).guarded
  | .tkcRun t => (execTkcRun_lowers t s).guarded
  | .tkcQuotaWrite u m d => (execTkcQuotaWrite_lowers u m d s).guarded
  | .tcntLRead w rb => (execTcntLRead_lowers w rb s).guarded
  | .rebindRequest m d => (execRebindRequest_lowers m d s).guarded
  | .rebindAttempt => (execRebindAttempt_lowers s).guarded
  | .rebindTimeout => (execRebindTimeout_lowers s).guarded
  | .shadowRefillDone b t => (execShadowRefillDone_lowers b t s).guarded
  | .pairStore w a z d => (execPairStore_lowers w a z d s).guarded
  | .stateMemoryStore w a z d => (execStateMemoryStore_lowers w a z d s).guarded
  | .limpResultStore w a z d => (execLimpResultStore_lowers w a z d s).guarded
  | .uncEccAccess w a fetch => (execUncEccAccess_lowers w a fetch s).guarded
  | .pairReplay u k a t => (execPairReplay_lowers u k a t s).guarded
  | .prcPermFault w k t => (execPrcPermFault_lowers w k t s).guarded
  | .mirrorTransferDone d t => (execMirrorTransferDone_lowers d t s).guarded
  | .prcStart n => (execPrcStart_lowers n s).guarded
  | .prcHoreq m d => (execPrcHoreq_lowers m d s).guarded
  | .handoverTakeEffect => (execHandoverTakeEffect_lowers s).guarded
  | .prcSplit n => (execPrcSplit_lowers n s).guarded
  | .prcRejoin n => (execPrcRejoin_lowers n s).guarded
  | .leaseAcquire w d => (execLeaseAcquire_lowers w d s).guarded
  | .leaseRenew w d => (execLeaseRenew_lowers w d s).guarded
  | .leaseRelease w d => (execLeaseRelease_lowers w d s).guarded
  | .leaseRevoke w d => (execLeaseRevoke_lowers w d s).guarded
  | .leaseExpire k => (execLeaseExpire_lowers k s).guarded
  | .engPermFault mem t => (execEngPermFault_lowers mem t s).guarded
  | .evrTopRead w c b => (execEvrTopRead_lowers w c b s).guarded
  | .evrPendRead w c b k => (execEvrPendRead_lowers w c b k s).guarded
  | .passComplete law => (execPassComplete_lowers s law).guarded
  | .passBudgetAbort => (execPassBudgetAbort_lowers s).guarded
  | .engineRerun lane => (execEngineRerun_lowers lane s).guarded
  | .nop e => (execNop_lowers e s).guarded
  | .endP e => (execEnd_lowers e s).guarded
  | .bru e => (execBru_lowers e s).guarded
  | .loop e => (execLoop_lowers e s).guarded
  | .fenceC e => (execFenceC_lowers e s).guarded
  | .fenceR e => (execFenceR_lowers e s).guarded
  | .fenceS e => (execFenceS_lowers e s).guarded
  | .evt e => (execEvt_lowers e s).guarded
  | .lds e => (execLds_lowers e s).guarded
  | .sts e => (execSts_lowers e s).guarded
  | .ldx e => (execLdx_lowers e s).guarded
  | .str e => (execStr_lowers e s).guarded
  | .ldt e => (execLdt_lowers e s).guarded
  | .ldc e => (execLdc_lowers e s).guarded
  | .stc e => (execStc_lowers e s).guarded
  | .fadd e => (execFadd_lowers e s).guarded
  | .fsub e => (execFsub_lowers e s).guarded
  | .fmul e => (execFmul_lowers e s).guarded
  | .fma e => (execFma_lowers e s).guarded
  | .fnma e => (execFnma_lowers e s).guarded
  | .fmin e => (execFmin_lowers e s).guarded
  | .fmax e => (execFmax_lowers e s).guarded
  | .fabs e => (execFabs_lowers e s).guarded
  | .fneg e => (execFneg_lowers e s).guarded
  | .fclamp e => (execFclamp_lowers e s).guarded
  | .fcmp e => (execFcmp_lowers e s).guarded
  | .frcp e => (execFrcp_lowers e s).guarded
  | .frsq e => (execFrsq_lowers e s).guarded
  | .fcvt e => (execFcvt_lowers e s).guarded
  | .qadd e => (execQadd_lowers e s).guarded
  | .qmul e => (execQmul_lowers e s).guarded
  | .qmac e => (execQmac_lowers e s).guarded
  | .qshr e => (execQshr_lowers e s).guarded
  | .qsat e => (execQsat_lowers e s).guarded
  | .qcvt e => (execQcvt_lowers e s).guarded
  | .sincos e => (execSincos_lowers e s).guarded
  | .atan2 e => (execAtan2_lowers e s).guarded
  | .wrap e => (execWrap_lowers e s).guarded
  | .tlu e => (execTlu_lowers e s).guarded
  | .hys e => (execHys_lowers e s).guarded
  | .clk3 e => (execClk3_lowers e s).guarded
  | .prk e => (execPrk_lowers e s).guarded
  | .iprk e => (execIprk_lowers e s).guarded
  | .svm e => (execSvm_lowers e s).guarded
  | .pis e => (execPis_lowers e s).guarded
  | .msel e => (execMsel_lowers e s).guarded
  | .lpf e => (execLpf_lowers e s).guarded
  | .bcast e => (execBcast_lowers e s).guarded
  | .shfl e => (execShfl_lowers e s).guarded
  | .reduce e => (execReduce_lowers e s).guarded
  | .laneid e => (execLaneid_lowers e s).guarded
  | .inj e => (execInj_lowers e s).guarded
  | .cap e => (execCap_lowers e s).guarded
  | .trap e => (execTrap_lowers e s).guarded
  | .igStart n m d => (execIgStart_lowers n m d s).guarded
  | .igStop n m d => (execIgStop_lowers n m d s).guarded
  | .igPrbsAdvance n => (execIgPrbsAdvance_lowers n s).guarded
  | .engIgDone n => (execEngIgDone_lowers n s).guarded
  | .carrierUpdatePoint l t => execCarrierUpdatePoint_guarded l t s
  | .modEdge l => execModEdge_guarded l s
  | .deadTimeExpire l sd t => execDeadTimeExpire_guarded l sd t s
  | .statusInputEdge l sd v t => execStatusInputEdge_guarded l sd v t s
  | .confirmTimeout l sd t => (execConfirmTimeout_lowers l sd t s).guarded
  | .stuckGate l sd t => (execStuckGate_lowers l sd t s).guarded
  | .samplingInstant g t => (execSamplingInstant_lowers g t s).guarded
  | .modUndiag l => (execModUndiag_lowers l s).guarded
  | .diagPulseInsert l => (execDiagPulseInsert_lowers l s).guarded
  | .debugHalt u t => (execDebugHalt_lowers u t s).guarded
  | .timebaseLoss t => (execTimebaseLoss_lowers t s).guarded
  | .fltFall c t => (execFltFall_lowers c t s).guarded
  | .fltRise c t => (execFltRise_lowers c t s).guarded
  | .fltHard c t => (execFltHard_lowers c t s).guarded
  | .faultPollRepeat c t => (execFaultPollRepeat_lowers c t s).guarded
  | .periodicPoll c => (execPeriodicPoll_lowers c s).guarded
  | .statusRequest c a t => (execStatusRequest_lowers c a t s).guarded
  | .edgeProfile l sd t => (execEdgeProfile_lowers l sd t s).guarded
  | .configurationFrame l t => (execConfigurationFrame_lowers l t s).guarded
  | .pollReply c a r t => (execPollReply_lowers c a r t s).guarded
  | .pollComplete c t => (execPollComplete_lowers c t s).guarded
  | .ascTurnOn g t => execAscTurnOn_guarded g t s
  | .ascVerifyTimeout l t => (execAscVerifyTimeout_lowers l t s).guarded
  | .safRelease gs => (execSafRelease_lowers gs s).guarded
  | .holdLeaveComplete g t => (execHoldLeaveComplete_lowers g t s).guarded
  | .holdLeaveTimeout g t => (execHoldLeaveTimeout_lowers g t s).guarded
  | .mainResult ch bs t => (execMainResult_lowers ch bs t s).guarded
  | .fastResult ch bs t => (execFastResult_lowers ch bs t s).guarded
  | .bsckLost k t => (execBsckLost_lowers k t s).guarded
  | .bsckRecover k t => (execBsckRecover_lowers k t s).guarded
  | .calRequest m d => (execCalRequest_lowers m d s).guarded
  | .calTimeout => (execCalTimeout_lowers s).guarded
  | .reliefStart => (execReliefStart_lowers s).guarded
  | .reliefCompare eq t => (execReliefCompare_lowers eq t s).guarded
  | .filterSelftestDone u mean t => (execFilterSelftestDone_lowers u mean t s).guarded
  | .sarSeqStart c k t => (execSarSeqStart_lowers c k t s).guarded
  | .sarSeqGo c t => (execSarSeqGo_lowers c t s).guarded
  | .sarUrgentRequest c sw t => (execSarUrgentRequest_lowers c sw t s).guarded
  | .sarSlotResult c v t => (execSarSlotResult_lowers c v t s).guarded
  | .sarRefSettled t => (execSarRefSettled_lowers t s).guarded
  | .fbPinEdge p v t => (execFbPinEdge_lowers p v t s).guarded
  | .fbEdgeAccept p t => (execFbEdgeAccept_lowers p t s).guarded
  | .cmpPulseEnd c t => (execCmpPulseEnd_lowers c t s).guarded
  | .fbStandstill f t => (execFbStandstill_lowers f t s).guarded
  | .fbkLposRead w f => (execFbkLposRead_lowers w f s).guarded
  | .serialReadStart f t => (execSerialReadStart_lowers f t s).guarded
  | .serialReading f raw t => (execSerialReading_lowers f raw t s).guarded
  | .recap f => (execRecap_lowers f s).guarded
  | .cmpArm c => (execCmpArm_lowers c s).guarded
  | .cmpDisarm c => (execCmpDisarm_lowers c s).guarded
  | .emOutputEdge e t => (execEmOutputEdge_lowers e t s).guarded
  | .fbkPlsTmo p t => (execFbkPlsTmo_lowers p t s).guarded
  | .auxClassify b => (execAuxClassify_lowers b s).guarded
  | .auxBrakeEnd b => (execAuxBrakeEnd_lowers b s).guarded
  | .auxLock b => (execAuxLock_lowers b s).guarded
  | .auxStartFail b k => (execAuxStartFail_lowers b k s).guarded
  | .auxBackoffExpire b => (execAuxBackoffExpire_lowers b s).guarded
  | .stoPinFall pinB t => (execStoPinFall_lowers pinB t s).guarded
  | .stoPinRise pinB t => (execStoPinRise_lowers pinB t s).guarded
  | .safStoDisc t => (execSafStoDisc_lowers t s).guarded
  | .safeInputDemand p a b t => (execSafeInputDemand_lowers p a b t s).guarded
  | .sinDiscrepancy p t => (execSinDiscrepancy_lowers p t s).guarded
  | .soutSet m d => (execSoutSet_lowers m d s).guarded
  | .soutTestPulse o t => (execSoutTestPulse_lowers o t s).guarded
  | .soutFault o r => (execSoutFault_lowers o r s).guarded
  | .sbcDeenergise o t => (execSbcDeenergise_lowers o t s).guarded
  | .ss1Expire g t => (execSs1Expire_lowers g t s).guarded
  | .grpreqClear gs => (execGrpreqClear_lowers gs s).guarded
  | .grpreqHold gs => (execGrpreqHold_lowers gs s).guarded
  | .grpreqAsc gs => (execGrpreqAsc_lowers gs s).guarded
  | .grpreqAllOff gs => (execGrpreqAllOff_lowers gs s).guarded
  | .grpreqSto gs => (execGrpreqSto_lowers gs s).guarded
  | .grpreqSs1Start gs => (execGrpreqSs1Start_lowers gs s).guarded
  | .grpreqSs1Stop gs => (execGrpreqSs1Stop_lowers gs s).guarded
  | .safReqErr d => (execSafReqErr_lowers d s).guarded
  | .safFrozen => (execSafFrozen_lowers s).guarded
  | .safUnfreeze => (execSafUnfreeze_lowers s).guarded
  | .latchClearStodisc => (execLatchClearStodisc_lowers s).guarded
  | .latchClearSind p => (execLatchClearSind_lowers p s).guarded
  | .latchClearSoutf o => (execLatchClearSoutf_lowers o s).guarded
  | .latchClearDisflt => (execLatchClearDisflt_lowers s).guarded
  | .dischargeStart => (execDischargeStart_lowers s).guarded
  | .dischargeStop => (execDischargeStop_lowers s).guarded
  | .dischDone => (execDischDone_lowers s).guarded
  | .dischFault t => (execDischFault_lowers t s).guarded
  | .tickSignatureSend t => (execTickSignatureSend_lowers t s).guarded
  | .tickSignature x t => (execTickSignature_lowers x t s).guarded
  | .spnLock => (execSpnLock_lowers s).guarded
  | .spnHoldover t => (execSpnHoldover_lowers t s).guarded
  | .timeResyncStep => (execTimeResyncStep_lowers s).guarded
  | .statusSignatureSend t => (execStatusSignatureSend_lowers t s).guarded
  | .statusSignature x t => (execStatusSignature_lowers x t s).guarded
  | .periodicSignature x t => (execPeriodicSignature_lowers x t s).guarded
  | .asyncSend q port t => (execAsyncSend_lowers q port t s).guarded
  | .asyncSignature x t => (execAsyncSignature_lowers x t s).guarded
  | .rxRecordLoad w a t => (execRxRecordLoad_lowers w a t s).guarded
  | .txqStoreComplete w t => (execTxqStoreComplete_lowers w t s).guarded
  | .spnTxqWp q m d => (execSpnTxqWp_lowers q m d s).guarded
  | .spnRxqRp q m d => (execSpnRxqRp_lowers q m d s).guarded
  | .linkLoss port t => (execLinkLoss_lowers port t s).guarded
  | .spnLinkUp port delay t => (execSpnLinkUp_lowers port delay t s).guarded
  | .spnMemberLost a => (execSpnMemberLost_lowers a s).guarded
  | .announce x t => (execAnnounce_lowers x t s).guarded
  | .ringForm t => (execRingForm_lowers t s).guarded
  | .leadTakeover => (execLeadTakeover_lowers s).guarded
  | .leadHandoff => (execLeadHandoff_lowers s).guarded
  | .spnJoin t => (execSpnJoin_lowers t s).guarded
  | .joinSignature x p t => (execJoinSignature_lowers x p t s).guarded
  | .memberAdmit => (execMemberAdmit_lowers s).guarded
  | .spnLeave => (execSpnLeave_lowers s).guarded
  | .leaveEffect ports => (execLeaveEffect_lowers s ports).guarded
  | .managementSignature x t => (execManagementSignature_lowers x t s).guarded
  | .spnPlock => (execSpnPlock_lowers s).guarded
  | .canTxDoorbell n f m d => (execCanTxDoorbell_lowers n f m d s).guarded
  | .canTxComplete n t => (execCanTxComplete_lowers n t s).guarded
  | .canTxFail n arb t => (execCanTxFail_lowers n arb t s).guarded
  | .canRxFrame n fr t => (execCanRxFrame_lowers n fr t s).guarded
  | .canBusError n e t => (execCanBusError_lowers n e t s).guarded
  | .canBorec n => (execCanBorec_lowers n s).guarded
  | .canRecovered n t => (execCanRecovered_lowers n t s).guarded
  | .canFlush n fs => (execCanFlush_lowers n fs s).guarded
  | .canRxrp n m d => (execCanRxrp_lowers n m d s).guarded
  | .canDetreq n m d => (execCanDetreq_lowers n m d s).guarded
  | .canDetWindow n err t => (execCanDetWindow_lowers n err t s).guarded
  | .qspDbwp p m d => (execQspDbwp_lowers p m d s).guarded
  | .qspResume p => (execQspResume_lowers p s).guarded
  | .qspTransactionStart p t => (execQspTransactionStart_lowers p t s).guarded
  | .qspTransactionDone p rd rck t => (execQspTransactionDone_lowers p rd rck t s).guarded
  | .qspMmf p t => (execQspMmf_lowers p t s).guarded
  | .xipRead w a fetch blk t => (execXipRead_lowers w a fetch blk t s).guarded
  | .qspTargetSelect p x t => (execQspTargetSelect_lowers p x t s).guarded
  | .qspTargetRelease p t => (execQspTargetRelease_lowers p t s).guarded
  | .qspTrp p m d => (execQspTrp_lowers p m d s).guarded
  | .truInstallKey d => (execTruInstallKey_lowers d s).guarded
  | .truPresentToken d => (execTruPresentToken_lowers d s).guarded
  | .truLeaveService d => (execTruLeaveService_lowers d s).guarded
  | .truStageBytes d => (execTruStageBytes_lowers d s).guarded
  | .truSeal d => (execTruSeal_lowers d s).guarded
  | .truOpenManifest d => (execTruOpenManifest_lowers d s).guarded
  | .truSwitch d => (execTruSwitch_lowers d s).guarded
  | .truReportOk d => (execTruReportOk_lowers d s).guarded
  | .truReportFailed d => (execTruReportFailed_lowers d s).guarded
  | .truCommit d => (execTruCommit_lowers d s).guarded
  | .truAbort d => (execTruAbort_lowers d s).guarded
  | .truRollback d => (execTruRollback_lowers d s).guarded
  | .truWriteCalRecord d => (execTruWriteCalRecord_lowers d s).guarded
  | .truLoadPair d => (execTruLoadPair_lowers d s).guarded
  | .truCmdInvalid d => (execTruCmdInvalid_lowers d s).guarded
  | .truCmdDone t => (execTruCmdDone_lowers t s).guarded
  | .lcreqProvisioned => (execLcreqProvisioned_lowers s).guarded
  | .lcreqField => (execLcreqField_lowers s).guarded
  | .lcreqReturn => (execLcreqReturn_lowers s).guarded
  | .lcreqScrapped => (execLcreqScrapped_lowers s).guarded
  | .returnEraseDone t => (execReturnEraseDone_lowers t s).guarded
  | .truRevoke d => (execTruRevoke_lowers d s).guarded
  | .truTokenEnd t => (execTruTokenEnd_lowers t s).guarded
  | .truProbTimeout => (execTruProbTimeout_lowers s).guarded
  | .gathTimeout t => (execGathTimeout_lowers t s).guarded
  | .memtestVisit k fail t => (execMemtestVisit_lowers k fail t s).guarded
  | .blockTestRequest d t => (execBlockTestRequest_lowers d t s).guarded
  | .blockTestDone r t => (execBlockTestDone_lowers r t s).guarded
  | .tstPad l r => (execTstPad_lowers l r s).guarded
  | .tstScanEnter => (execTstScanEnter_lowers s).guarded
  | .resetAssert k t => (execResetAssert_lowers k t s).guarded
  | .resetRelease t => (execResetRelease_lowers t s).guarded
  | .bootComplete t => (execBootComplete_lowers t s).guarded
  | .pwrBankBor c t => (execPwrBankBor_lowers c t s).guarded
  | .okAccept bkup v t => (execOkAccept_lowers bkup v t s).guarded
  | .hoReturnStart t => (execHoReturnStart_lowers t s).guarded
  | .hoSwitch mainPin t => (execHoSwitch_lowers mainPin t s).guarded
  | .pwrHoDone t => (execPwrHoDone_lowers t s).guarded
  | .thermAssert k deg t => (execThermAssert_lowers k deg t s).guarded
  | .thermRelease t0 t1 t2 t3 t => (execThermRelease_lowers t0 t1 t2 t3 t s).guarded
  | .registerWrite w a m d => (execRegisterWrite_lowers w a m d s).guarded
  | .debugResume u => (execDebugResume_lowers u s).guarded
  | .safeInputDemandEnd p t => (execSafeInputDemandEnd_lowers p t s).guarded
  | .safeStateWaitTimeout l t => (execSafeStateWaitTimeout_lowers l t s).guarded
  | .carrierPeriodStart l t => execCarrierPeriodStart_guarded l t s
  | .joinTimeout t => (execJoinTimeout_lowers t s).guarded
  | .gathRollbackTimeout t => (execGathRollbackTimeout_lowers t s).guarded
  | .singleBitEccError k => (execSingleBitEccError_lowers k s).guarded

theorem step_guarded (s : State) : Guarded s (step s) := by
  unfold step
  split
  · exact guarded_next.mpr (GatesFall.risesGuarded (.refl _))
  · next c r _ => exact exec_guarded c { s with pending := r }

/-- Settles O6: a command that turns no gate on only lowers gates (`Lowers`), and the six that do turn one on go through
GATE_TURN_ON's interlock, whose findings nothing later in the step undoes (`RisesGuarded`). -/
theorem gatesRiseOnlyUnderTheInterlock : Obligations.GatesRiseOnlyUnderTheInterlock := by
  unfold Obligations.GatesRiseOnlyUnderTheInterlock
  exact fun s t l sd hst => step_guarded s t hst l sd

end Sys2Proof.Machine
end

section
namespace Sys2Proof.Machine
open Sys2Proof Sys2Proof.Claim

section
variable {e : Nat} {s x y : State}

/-! ### Latches that stay set -/

theorem deadEvent_lt (h : deadEvent s e = false) : e < 631 := by
  simp only [deadEvent, Bool.or_eq_false_iff, decide_eq_false_iff_not] at h
  omega

/-- A bit of a word in which a bit has been set. -/
theorem getLsbD_setBit (w : Word) (i j : Nat) (hj : j < 32) :
    (BitVec.ofNat 32 (setBit w.toNat i)).getLsbD j = (w.getLsbD j || decide (i = j)) := by
  rw [BitVec.getLsbD_ofNat, setBit, Nat.testBit_or, Nat.one_shiftLeft, Nat.testBit_two_pow, BitVec.testBit_toNat]
  simp [hj]

theorem reg_latchEvent (a i b : Nat) (s : State) :
    reg (latchEvent a i s) b = if b = a then BitVec.ofNat 32 (setBit (reg s a).toNat i) else reg s b :=
  reg_setReg s a b _

theorem reg_queueRemote (e : Nat) (s : State) {a : Nat} (h : a ≠ SPN_CNT2) : reg (queueRemote e s) a = reg s a := by
  unfold queueRemote
  split
  · rfl
  · exact reg_setFld_ne s _ _ a h

theorem latchEvent_bit (b k : Nat) (s : State) {a i : Nat} (h : (reg s a).getLsbD i = true) :
    (reg (latchEvent b k s) a).getLsbD i = true := by
  rw [reg_latchEvent]
  split
  · next e => rw [getLsbD_setBit _ _ _ (BitVec.lt_of_getLsbD h), ← e, h, Bool.true_or]
  · exact h

/-- A bit that is set stays set when an event is raised, but in the count of dropped events. -/
theorem raise_bit (e : Nat) (s : State) {a i : Nat} (ha : a ≠ SPN_CNT2) (h : (reg s a).getLsbD i = true) :
    (reg (raise e s) a).getLsbD i = true := by
  unfold raise
  extract_lets c s1
  have h1 : (reg s1 a).getLsbD i = true := by
    unfold s1
    split
    · rwa [reg_queueRemote e s ha]
    · exact h
  split
  · exact h
  · split
    · exact h1
    · exact latchEvent_bit _ _ _ h1

/-- Every latch of the event controllers that is set in `x` is set in `y`. -/
def KeepsLatches (x y : State) : Prop := ∀ a i, winOf a = 3 → (reg x a).getLsbD i = true → (reg y a).getLsbD i = true

theorem KeepsLatches.trans {z : State} (h : KeepsLatches x y) (k : KeepsLatches y z) : KeepsLatches x z :=
  fun a i ha hx => k a i ha (h a i ha hx)

theorem KeepsLatches.of_reg (h : ∀ a, winOf a = 3 → reg y a = reg x a) : KeepsLatches x y :=
  fun a _ ha hx => h a ha ▸ hx

theorem keepsLatches_setReg {a : Nat} (ha : winOf a ≠ 3) (v : Word) : KeepsLatches s (setReg a v s) :=
  .of_reg fun _ hb => reg_setReg_ne _ _ fun h => ha (h ▸ hb)

theorem keepsLatches_raise (e : Nat) (s : State) : KeepsLatches s (raise e s) :=
  fun _ _ ha => raise_bit e s (fun h => absurd (h ▸ ha) (by decide))

/-! ### Routes of events -/

/-- Two states lead events to the same controllers. -/
structure SameRoutes (s x : State) : Prop where
  variant : x.variant = s.variant
  live : x.live = s.live
  prc : x.prc = s.prc
  duty : ∀ a, winOf a = 2 → reg x a = reg s a

theorem SameRoutes.evTarget (h : SameRoutes s x) (e : Nat) : evTarget x e = evTarget s e := by
  have hw : winOf (PRC_DUTY_CFG (lfld s (EVR_ROUTE_DUTY e))) = 2 := by
    have hlt : lfld s (EVR_ROUTE_DUTY e) < 2 ^ 4 := bits_lt _ _ _
    unfold winOf PRC_DUTY_CFG
    omega
  have hd : fld x (PRC_DUTY_CFG_PRIM (lfld s (EVR_ROUTE_DUTY e))) =
      fld s (PRC_DUTY_CFG_PRIM (lfld s (EVR_ROUTE_DUTY e))) :=
    congrArg (Fld.of _) (h.duty _ hw)
  have hb (f : Fld) : lflag x f = lflag s f := congrArg (· == 1) (lfld_congr h.live f)
  simp only [Machine.evTarget, hb, lfld_congr h.live, h.prc, hd]

end

end Sys2Proof.Machine

namespace Sys2Proof.Claim
open Sys2Proof Sys2Proof.Machine

section
variable {e : Nat} {s x y : State} {l : List Nat}

/-! ### Events that stay pending -/

/-- An event that has just been raised is pending. -/
theorem pends_raise (e : Nat) (s : State) : Pends e s (raise e s) := by
  intro hd hc hu
  have he := deadEvent_lt hd
  unfold raise
  rw [if_neg (by simp [hd]; omega), if_neg (by simp [hu]; omega), reg_latchEvent, if_pos rfl,
    getLsbD_setBit _ _ _ (Nat.mod_lt _ (by decide))]
  simp

/-- What is pending stays pending where latches stay set. -/
theorem Pends.keep (h : Pends e s x) (k : KeepsLatches x y) : Pends e s y := by
  intro hd hc hu
  refine k _ _ ?_ (h hd hc hu)
  have := pendReg_window _ e hc (by have := deadEvent_lt hd; omega)
  unfold winOf
  omega

/-- What pends by the routes of one state pends by those of another that leads events alike. -/
theorem Pends.of_routes (h : Pends e x y) (r : SameRoutes s x) : Pends e s y := by
  intro hd hc hu
  have hi : is9610 x = is9610 s := by simp only [is9610, r.variant]
  have ht := r.evTarget e
  have h' := h (by simpa only [deadEvent, hi] using hd) (ht ▸ hc) (by simpa only [hasUnit, hi, ht] using hu)
  rwa [ht] at h'

/-- An event raised where events are led as in `s` pends, and stays so as long as latches stay set. -/
theorem pends_of_raise (k : KeepsLatches (raise e x) y) (r : SameRoutes s x) : Pends e s y :=
  Pends.of_routes (Pends.keep (pends_raise e x) k) r

/-! ### Registers that keep their value -/

theorem RegsBut.refl (s : State) : RegsBut l s s := fun _ _ _ _ => rfl

theorem RegsBut.trans (h : RegsBut l s x) (k : RegsBut l x y) : RegsBut l s y :=
  fun a ha hc hl => (k a ha hc hl).trans (h a ha hc hl)

theorem RegsBut.weaken (h : RegsBut [] s x) : RegsBut l s x := fun a ha hc _ => h a ha hc List.not_mem_nil

theorem RegsBut.of_regs (h : x.regs = s.regs) : RegsBut l s x := fun a _ _ _ => reg_congr h a

theorem regsBut_raise (e : Nat) (s : State) : RegsBut l s (raise e s) := fun a ha hc _ =>
  reg_raise e s a (fun h => ha (by unfold winOf; omega)) hc

theorem regsBut_setFld (f : Fld) (v : Nat) (s : State) : RegsBut [f.reg] s (setFld f v s) :=
  fun a _ _ ha => reg_setFld_ne s f v a (by simpa using ha)

theorem RegsBut.fld (h : RegsBut l s x) {f : Fld} (h3 : winOf f.reg ≠ 3) (hc : f.reg ≠ SPN_CNT2) (hl : f.reg ∉ l) :
    fld x f = fld s f := congrArg f.of (h f.reg h3 hc hl)

end

end Sys2Proof.Claim
end

section
namespace Sys2Proof.Machine
open Sys2Proof Sys2Proof.Claim

/-! ### Loops that visit a member once -/

theorem forAll_append {α : Type} (l r : List α) (f : α → State → State) (s : State) :
    forAll (l ++ r) f s = forAll r f (forAll l f s) := List.foldl_append

/-- A loop over distinct members visits a member once: those before it and those after it are others. -/
theorem forAll_split {α : Type} {xs : List α} {a : α} (ha : a ∈ xs) (hn : xs.Nodup) : ∃ l r : List α, a ∉ l ∧ a ∉ r ∧
    ∀ (f : α → State → State) (s : State), forAll xs f s = forAll r f (f a (forAll l f s)) := by
  obtain ⟨l, r, rfl⟩ := List.append_of_mem ha
  have h := List.nodup_middle.mp hn
  obtain ⟨hl, hr⟩ : a ∉ l ∧ a ∉ r := by simpa using (List.nodup_cons.mp h).1
  exact ⟨l, r, hl, hr, fun f s => forAll_append l (a :: r) f s⟩

/-- What a member's turn brings about and every turn keeps holds after the loop. -/
theorem forAll_reaches {α : Type} (P : State → Prop) {xs : List α} {a : α} {f : α → State → State} (ha : a ∈ xs)
    (hset : ∀ y, P (f a y)) (hkeep : ∀ b y, P y → P (f b y)) (s : State) : P (forAll xs f s) := by
  obtain ⟨l, r, rfl⟩ := List.append_of_mem ha
  rw [forAll_append]
  exact forAll_keeps P r f (fun b _ => hkeep b) _ (hset _)

theorem mem_those {n k : Nat} {p : Nat → Bool} : k ∈ those n p ↔ k < n ∧ p k = true := by simp [those]

/-! ### What the demands may change -/

/-- What a group keeps as its acting kind changes: what demands it, and its hold. -/
def GrpSt.Keeps (x y : GrpSt) : Prop :=
  y.man = x.man ∧ y.ss1 = x.ss1 ∧ y.ss1Exp = x.ss1Exp ∧ (x.hold = true → y.hold = true)

/-- The groups in `G` and their legs, and the safe outputs, have followed the demands, which stand as they stood: no hold
has ended, no gate has risen, and of the registers only latches of events and the count of dropped ones have changed. -/
structure Follows (G : Nat → Prop) (s x : State) : Prop where
  frame : ∃ r o n m g so, x =
    { s with regs := r, observed := o, spn := n, legs := m, grps := g, saf := { s.saf with souts := so } }
  regs : RegsBut [] s x
  latches : KeepsLatches s x
  groups : ∀ g, (grp s g).Keeps (grp x g)
  others : ∀ g, ¬ G g → grp x g = grp s g
  gates : GatesFall s.legs x.legs

namespace Follows
section
variable {G H : Nat → Prop} {s x y : State}

theorem refl (s : State) : Follows G s s :=
  ⟨⟨_, _, _, _, _, _, rfl⟩, RegsBut.refl s, fun _ _ _ h => h, fun _ => ⟨rfl, rfl, rfl, id⟩, fun _ _ => rfl, .refl _⟩

theorem trans (h : Follows G s x) (k : Follows G x y) : Follows G s y where
  frame := by
    obtain ⟨_, _, _, _, _, _, rfl⟩ := h.frame
    obtain ⟨r, o, n, m, g, so, e⟩ := k.frame
    exact ⟨r, o, n, m, g, so, e⟩
  regs := RegsBut.trans h.regs k.regs
  latches := h.latches.trans k.latches
  groups g := by
    obtain ⟨hm, hs, he, hh⟩ := h.groups g
    obtain ⟨km, ks, ke, kh⟩ := k.groups g
    exact ⟨km.trans hm, ks.trans hs, ke.trans he, kh ∘ hh⟩
  others g hg := (k.others g hg).trans (h.others g hg)
  gates l sd hl := h.gates l sd (k.gates l sd hl)

theorem mono (h : Follows G s x) (hG : ∀ g, G g → H g) : Follows H s x :=
  { h with others := fun g hg => h.others g (hg ∘ hG g) }

theorem variant (h : Follows G s x) : x.variant = s.variant := by obtain ⟨_, _, _, _, _, _, rfl⟩ := h.frame; rfl
theorem live (h : Follows G s x) : x.live = s.live := by obtain ⟨_, _, _, _, _, _, rfl⟩ := h.frame; rfl
theorem act (h : Follows G s x) : x.act = s.act := by obtain ⟨_, _, _, _, _, _, rfl⟩ := h.frame; rfl
theorem mem (h : Follows G s x) : x.mem = s.mem := by obtain ⟨_, _, _, _, _, _, rfl⟩ := h.frame; rfl
theorem tst (h : Follows G s x) : x.tst = s.tst := by obtain ⟨_, _, _, _, _, _, rfl⟩ := h.frame; rfl
theorem saf (h : Follows G s x) : ∃ so, x.saf = { s.saf with souts := so } := by
  obtain ⟨_, _, _, _, _, so, rfl⟩ := h.frame
  exact ⟨so, rfl⟩

theorem hold (h : Follows G s x) {g : Nat} (hg : (grp s g).hold = true) : (grp x g).hold = true :=
  (h.groups g).2.2.2 hg

/-- No gate has risen. -/
theorem falls (h : Follows G s x) (l : Nat) : (leg s l).Falls (leg x l) :=
  ⟨h.gates l .high, h.gates l .low⟩

theorem gatesOff (h : Follows G s x) {l : Nat} (hl : GatesOff s l) : GatesOff x l :=
  ⟨Bool.eq_false_iff.mpr fun e => Bool.eq_false_iff.mp hl.1 ((h.falls l).1 e),
   Bool.eq_false_iff.mpr fun e => Bool.eq_false_iff.mp hl.2 ((h.falls l).2 e)⟩

/-- A field outside EVR and SPN keeps its value. -/
theorem fld (h : Follows G s x) {f : Fld} (h3 : winOf f.reg ≠ 3) (hc : f.reg ≠ SPN_CNT2) : fld x f = fld s f :=
  RegsBut.fld h.regs h3 hc List.not_mem_nil

theorem inGroups (h : Follows G s x) (f : Fld) (g : Nat) : inGroups x f g = inGroups s f g := by
  simp only [Machine.inGroups, lfld_congr h.live]

theorem grpLegs (h : Follows G s x) (g : Nat) : grpLegs x g = grpLegs s g := by
  obtain ⟨_, _, _, _, _, _, rfl⟩ := h.frame
  rfl

theorem ofUpdGrp {g : Nat} {f : GrpSt → GrpSt} (hf : ∀ z : GrpSt, z.Keeps (f z)) :
    Follows (· = g) s (updGrp g f s) where
  frame := ⟨_, _, _, _, _, _, rfl⟩
  regs := RegsBut.of_regs rfl
  latches _ _ _ h := h
  groups k := by
    rw [grp_updGrp]
    split
    · next e => exact e ▸ hf _
    · exact ⟨rfl, rfl, rfl, id⟩
  others k hk := by rw [grp_updGrp, if_neg hk]
  gates := .refl _

theorem ofUpdLeg {l : Nat} {f : LegSt → LegSt} (hf : ∀ z : LegSt, z.Falls (f z)) : Follows G s (updLeg l f s) where
  frame := ⟨_, _, _, _, _, _, rfl⟩
  regs := RegsBut.of_regs rfl
  latches _ _ _ h := h
  groups _ := ⟨rfl, rfl, rfl, id⟩
  others _ _ := rfl
  gates := updLeg_falls hf (.refl _)

theorem ofRaise (e : Nat) (s : State) : Follows G s (raise e s) where
  frame := by
    obtain ⟨r, o, n, h⟩ := raise_frame e s
    exact ⟨r, o, n, s.legs, s.grps, s.saf.souts, h⟩
  regs := regsBut_raise e s
  latches := keepsLatches_raise e s
  groups g := by rw [grp_raise]; exact ⟨rfl, rfl, rfl, id⟩
  others g _ := grp_raise ..
  gates := by rw [raise_legs]; exact .refl _

theorem ofUpdSout (o : Nat) (f : SoutSt → SoutSt) (s : State) : Follows G s (updSout o f s) where
  frame := ⟨_, _, _, _, _, _, rfl⟩
  regs := RegsBut.of_regs rfl
  latches _ _ _ h := h
  groups _ := ⟨rfl, rfl, rfl, id⟩
  others _ _ := rfl
  gates := .refl _

theorem ofForAll {α : Type} {xs : List α} {f : α → State → State} (hf : ∀ a ∈ xs, ∀ y, Follows G y (f a y))
    (s : State) : Follows G s (forAll xs f s) :=
  forAll_keeps (Follows G s) xs f (fun a ha y hy => hy.trans (hf a ha y)) s (.refl s)

end
end Follows

/-! ### The strongest demand (R345) -/

theorem le_foldl_max {k : Nat} {xs : List Nat} (h : k ∈ xs) : k ≤ xs.foldl max 0 := by
  rw [List.foldl_eq_foldr]
  exact List.le_max_of_le h le_rfl

theorem foldl_max_le {b : Nat} {xs : List Nat} (h : ∀ k ∈ xs, k ≤ b) : xs.foldl max 0 ≤ b := by
  rw [List.foldl_eq_foldr]
  exact List.max_le_of_forall_le xs b h

theorem funcKind_le (n : Nat) : funcKind n ≤ 5 := by unfold funcKind; split <;> decide
theorem opKind_le (n : Nat) : opKind n ≤ 5 := by unfold opKind; split <;> decide

theorem demandKind_le (s : State) (g : Nat) : demandKind s g ≤ 5 := by
  refine foldl_max_le fun k hk => ?_
  simp only [List.mem_append, List.mem_map, List.mem_cons, List.not_mem_nil, or_false] at hk
  rcases hk with (h | ⟨p, _, rfl⟩) | ⟨p, _, rfl⟩
  · have := opKind_le (grp s g).man
    rcases h with rfl | rfl | rfl | rfl | rfl | rfl
    · split <;> omega
    · omega
    all_goals split <;> omega
  · exact funcKind_le _
  · exact opKind_le _

/-- The STO pins and their latch demand the strongest kind of their groups. -/
theorem demandKind_of_sto {s : State} {g : Nat} (h : stoDemand s = true) (hg : inGroups s SAF_STO_GROUPS g = true) :
    demandKind s g = 5 := by
  refine le_antisymm (demandKind_le s g) (le_foldl_max ?_)
  simp [h, hg]

/-- A safe input's FUNC demands its kind of its groups. -/
theorem funcKind_le_demandKind {s : State} {p g : Nat} (hp : p < 8) (h : sinDemand s p = true)
    (hg : inGroups s (SAF_SIN_GRP_GROUPS p) g = true) : funcKind (lfld s (SAF_SIN_CFG_FUNC p)) ≤ demandKind s g :=
  have hmem : p ∈ (List.range 8).filter fun q => sinDemands s q g :=
    List.mem_filter.mpr ⟨List.mem_range.mpr hp, by simp [sinDemands, h, hg]⟩
  le_foldl_max (List.mem_append_left _ (List.mem_append_right _ (List.mem_map_of_mem hmem)))

section
variable {G : Nat → Prop} {s x : State}

/-- What demands does not change as the groups follow it. -/
theorem Follows.stoDemand (h : Follows G s x) : stoDemand x = stoDemand s := by
  obtain ⟨so, hs⟩ := h.saf
  simp only [Machine.stoDemand, flag, hs, h.fld (f := SAF_LATCH_STODISC) (by decide) (by decide)]

theorem Follows.disRuns (h : Follows G s x) : disRuns x = disRuns s := by
  simp only [Machine.disRuns, h.fld (f := SAF_DIS_ST_STATE) (by decide) (by decide)]

theorem Follows.sin (h : Follows G s x) (p : Nat) : sin x p = sin s p := by
  obtain ⟨so, hs⟩ := h.saf
  simp only [Machine.sin, hs]

theorem Follows.anyDemand (h : Follows G s x) (p : Nat) : anyDemand x p = anyDemand s p := by
  simp only [Machine.anyDemand, chDemand, lflag, h.sin, lfld_congr h.live]

theorem Follows.sinLatch (h : Follows G s x) (p : Nat) : sinLatch x p = sinLatch s p := by
  simp only [Machine.sinLatch, h.fld (f := SAF_LATCH_SIND) (by decide) (by decide)]

theorem Follows.sinDemand (h : Follows G s x) (p : Nat) : sinDemand x p = sinDemand s p := by
  obtain ⟨so, hs⟩ := h.saf
  simp only [Machine.sinDemand, sinOn, lflag, h.sinLatch, h.anyDemand, hs, lfld_congr h.live]

theorem Follows.flag (h : Follows G s x) {f : Fld} (h3 : winOf f.reg ≠ 3)
    (hc : f.reg ≠ SPN_CNT2) : flag x f = flag s f := by
  simp only [Machine.flag, h.fld h3 hc]

theorem Follows.disGroup (h : Follows G s x) : disGroup x = disGroup s :=
  lfld_congr h.live _

theorem Follows.demandKind (h : Follows G s x) (g : Nat) :
    demandKind x g = demandKind s g := by
  obtain ⟨hm, -, he, -⟩ := h.groups g
  simp only [Machine.demandKind, sinDemands, limDemands, h.stoDemand, h.disRuns, h.disGroup, h.sinDemand, h.inGroups,
    hm, he, h.tst, lfld_congr h.live, h.flag (f := SAF_LATCH_DISFLT) (by decide) (by decide),
    h.fld (f := SAF_LIMST_TRIP) (by decide) (by decide)]

end

/-! ### A group's acting kind follows (R236, R345, R346) -/

section
variable {s : State} {g : Nat}

/-- Both gates of a leg are off after its turn-off. -/
theorem LegSt.lowBoth_off (x : LegSt) (t : Time) : (x.lowBoth t).h.on = false ∧ (x.lowBoth t).l.on = false := by
  have hoff (y : LegSt) (sd : Side) : ((y.off sd t).gate sd).on = false := by
    unfold LegSt.off
    dsimp only
    split
    · cases sd <;> rfl
    · next h => cases sd <;> exact Bool.eq_false_iff.mpr h
  refine ⟨?_, hoff _ .low⟩
  have hf := ((x.off .high t).off_falls .low t).1
  exact Bool.eq_false_iff.mpr fun h => Bool.eq_false_iff.mp (hoff x .high) (hf h)

theorem legLow_follows {G : Nat → Prop} (t : Time) (l : Nat) (s : State) : Follows G s (legLow t l s) :=
  .ofUpdLeg fun x => x.lowBoth_falls t

theorem legLow_off (t : Time) (l : Nat) (s : State) : GatesOff (legLow t l s) l := by
  unfold GatesOff legLow
  rw [leg_updLeg, if_pos rfl]
  exact LegSt.lowBoth_off _ t

theorem step1_follows (t : Time) (g : Nat) (s : State) : Follows (· = g) s (step1 t g s) :=
  (Follows.ofForAll (fun l _ y => legLow_follows t l y) s).trans (.ofUpdGrp fun _ => ⟨rfl, rfl, rfl, id⟩)

/-- Step 1 of a sequence lowers every gate of the group. -/
theorem step1_off (t : Time) {l : Nat} (h : l ∈ grpLegs s g) : GatesOff (step1 t g s) l :=
  forAll_reaches (GatesOff · l) h (legLow_off t l) (fun b y => (legLow_follows (G := fun _ => True) t b y).gatesOff) s

theorem step1_kind (t : Time) (g : Nat) (s : State) : (grp (step1 t g s) g).kind = (grp s g).kind := by
  have h := (Follows.ofForAll (G := fun _ => False) (fun l _ y => legLow_follows t l y) s (xs := grpLegs s g)).others g id
  rw [step1, grp_updGrp, if_pos rfl, h]

/-- A sequence of a group has started: its kind stands, and every gate of it is low. -/
structure Starts (g : Nat) (s x : State) : Prop where
  follows : Follows (· = g) s x
  kind : (grp x g).kind = (grp s g).kind
  off : ∀ l ∈ grpLegs s g, GatesOff x l

/-- What comes before a sequence, of the group itself and of legs that keep their gates, is part of it. -/
theorem Starts.after {x y : State} (h : Follows (· = g) s x) (hk : (grp x g).kind = (grp s g).kind) (hx : Starts g x y) :
    Starts g s y :=
  ⟨h.trans hx.follows, hx.kind.trans hk, fun l hl => hx.off l (h.grpLegs g ▸ hl)⟩

theorem step1_starts (t : Time) (g : Nat) (s : State) : Starts g s (grpEvent g (step1 t g s)) where
  follows := (step1_follows t g s).trans (.ofRaise ..)
  kind := by rw [grpEvent, grp_raise, step1_kind]
  off _ hl := (Follows.ofRaise (G := (· = g)) ..).gatesOff (step1_off t hl)

theorem runSeq_starts (t : Time) (g : Nat) (s : State) : Starts g s (runSeq t g s) := by
  refine .after (.ofUpdGrp ?_) ?_ (step1_starts t g _)
  · exact fun _ => ⟨rfl, rfl, rfl, id⟩
  · rw [grp_updGrp, if_pos rfl]

/-- A loop over legs that keeps their gates. -/
theorem legs_follow {G : Nat → Prop} (xs : List Nat) {f : LegSt → LegSt} (hf : ∀ z : LegSt, z.Falls (f z))
    (s : State) : Follows G s (forAll xs (fun l => updLeg l f) s) := .ofForAll (fun _ _ _ => .ofUpdLeg hf) s

theorem grp_congr {s x : State} (h : x.grps = s.grps) (g : Nat) : grp x g = grp s g := by simp only [grp, h]

/-- A loop over legs leaves the groups alone. -/
theorem legs_grp (xs : List Nat) (f : LegSt → LegSt) (s : State) : (forAll xs (fun l => updLeg l f) s).grps = s.grps :=
  forAll_same State.grps xs (fun l => updLeg l f) (fun _ _ _ => rfl) s

/-- A group that is not held, or that leaves its hold, enters one. -/
theorem enterHold_starts (c : Nat) (soft : Bool) (t : Time) (h : ((grp s g).hold && (grp s g).step != 6) = false) :
    Starts g s (enterHold c soft t g s) ∧ (grp (enterHold c soft t g s) g).hold = true := by
  unfold enterHold
  extract_lets x s1
  rw [if_neg (by simp [x, h])]
  have h1 : Follows (· = g) s s1 := .ofUpdGrp fun _ => ⟨rfl, rfl, rfl, fun _ => rfl⟩
  have hs1 : (grp s1 g).kind = (grp s g).kind ∧ (grp s1 g).hold = true := by
    unfold s1
    rw [grp_updGrp, if_pos rfl]
    exact ⟨rfl, rfl⟩
  have h2 : Follows (· = g) s1 (forAll (grpLegs s1 g) (fun l => updLeg l fun y =>
      if y.pollBad then y.undrive.exclude else y.undrive) s1) :=
    legs_follow _ (fun z => by split <;> exact ⟨id, id⟩) s1
  have h3 := Starts.after h2 (by rw [grp_congr (legs_grp ..)]) (runSeq_starts t g _)
  exact ⟨.after h1 hs1.1 h3, h3.follows.hold hs1.2⟩

/-- What a change of a group's acting kind brings about. -/
structure Turns (k g : Nat) (s x : State) : Prop where
  follows : Follows (· = g) s x
  kind : (grp x g).kind = k
  hold : k ≠ 0 → (grp x g).hold = true
  off : k = 5 ∨ k = 2 → ∀ l ∈ grpLegs s g, GatesOff x l

/-- A group whose acting kind changes. -/
theorem setKind_turns {k : Nat} (t : Time) (h : (grp s g).kind ≠ k) : Turns k g s (setKind k t g s) := by
  unfold setKind
  extract_lets old stoAt was s1 s2 s3
  rw [if_neg (Ne.symm h)]
  have hs1 : Follows (· = g) s s1 := .ofUpdGrp fun _ => ⟨rfl, rfl, rfl, id⟩
  have h1 : Follows (· = g) s s2 := by
    unfold s2
    split
    · exact hs1.trans (legs_follow _ (f := LegSt.undrive) (fun _ => ⟨id, id⟩) _)
    · exact hs1
  have hg : grp s2 g = { grp s g with kind := k, stoAt := stoAt } := by
    have : s2.grps = s1.grps := by
      unfold s2
      split
      exacts [legs_grp .., rfl]
    rw [grp_congr this, grp_updGrp, if_pos rfl]
  have hk : (grp s2 g).kind = k := by rw [hg]
  have hwas : was = ((grp s2 g).hold && (grp s2 g).step != 6) := by rw [hg]
  split
  · next h0 =>
    split
    · have hr := runSeq_starts t g s2
      exact ⟨h1.trans hr.follows, hr.kind.trans hk, fun h => absurd h0 h, by omega⟩
    · exact ⟨h1, hk, fun h => absurd h0 h, by omega⟩
  · split
    · next hw =>
      obtain ⟨he, hh⟩ := enterHold_starts (s := s2) (g := g) 9 false t (hwas ▸ by simpa using hw)
      exact ⟨h1.trans he.follows, he.kind.trans hk, fun _ => hh, fun _ l hl => he.off l (h1.grpLegs g ▸ hl)⟩
    · next hw =>
      obtain ⟨hh, -⟩ := Bool.and_eq_true_iff.mp (hwas.symm.trans (by simpa using hw))
      have h3 : Follows (· = g) s2 s3 := .ofUpdGrp fun _ => ⟨rfl, rfl, rfl, id⟩
      have hk3 : (grp s3 g).kind = (grp s2 g).kind := by
        unfold s3
        rw [grp_updGrp, if_pos rfl]
      split
      · next h1' =>
        simp only [Bool.and_eq_true, decide_eq_true_eq] at h1'
        exact ⟨h1.trans h3, hk3.trans hk, fun _ => h3.hold hh, by omega⟩
      · have hr := Starts.after h3 hk3 (runSeq_starts t g s3)
        exact ⟨h1.trans hr.follows, hr.kind.trans hk, fun _ => hr.follows.hold hh,
          fun _ l hl => hr.off l (h1.grpLegs g ▸ hl)⟩

/-- The turn of a group in `refresh`. -/
theorem setKind_follows (k : Nat) (t : Time) (g : Nat) (s : State) : Follows (· = g) s (setKind k t g s) := by
  by_cases h : (grp s g).kind = k
  · rw [setKind, if_pos h.symm]
    exact .refl s
  · exact (setKind_turns t h).follows

/-! ### The groups and the outputs follow the demands -/

theorem soutRefresh_follows {G : Nat → Prop} (t : Time) (o : Nat) (s : State) : Follows G s (soutRefresh t o s) := by
  unfold soutRefresh
  extract_lets may x
  split
  · exact .ofUpdSout ..
  · split
    exacts [.ofUpdSout .., .refl s]

theorem setKinds_follow (t : Time) (xs : List Nat) (s : State) :
    Follows (· ∈ xs) s (forAll xs (fun g x => setKind (demandKind x g) t g x) s) :=
  .ofForAll (fun g hg y => (setKind_follows _ t g y).mono fun _ h => h ▸ hg) s

theorem souts_follow {G : Nat → Prop} (t : Time) (s : State) : Follows G s (forAll (List.range 4) (soutRefresh t) s) :=
  .ofForAll (fun o _ => soutRefresh_follows t o) s

theorem refresh_follows (t : Time) (s : State) : Follows (fun _ => True) s (refresh t s) := by
  unfold refresh
  extract_lets s1
  refine Follows.trans ?_ (souts_follow t s1)
  unfold s1
  split
  · exact (setKinds_follow t _ s).mono fun _ _ => trivial
  · exact .refl s

/-- The turn of group `g` while the tick runs: it is as in `s` before it, and nothing more happens to it after it. -/
theorem refresh_turn (t : Time) (h : ticking s = true) (hg : g < 16) : ∃ y : State, Follows (· ≠ g) s y ∧
    Follows (· ≠ g) (setKind (demandKind s g) t g y) (refresh t s) := by
  obtain ⟨l, r, hl, hr, hsplit⟩ := forAll_split (List.mem_range.mpr hg) List.nodup_range
  have hy := (setKinds_follow t l s).mono (H := (· ≠ g)) fun k hk (e : k = g) => hl (e ▸ hk)
  refine ⟨_, hy, ?_⟩
  unfold refresh
  rw [if_pos h, hsplit]
  dsimp only
  rw [hy.demandKind]
  exact ((setKinds_follow t r _).mono fun k hk (e : k = g) => hr (e ▸ hk)).trans (souts_follow t _)

theorem refresh_kind (t : Time) (h : ticking s = true) (hg : g < 16) : (grp (refresh t s) g).kind = demandKind s g := by
  obtain ⟨y, hy, hx⟩ := refresh_turn t h hg
  rw [hx.others g (· rfl)]
  by_cases hk : (grp y g).kind = demandKind s g
  · rw [setKind, if_pos hk.symm, hk]
  · exact (setKind_turns t hk).kind

/-- A kind that newly acts holds the group, and ALL-OFF and STO lower its gates (R344, R346). -/
theorem refresh_turns (t : Time) (h : ticking s = true) (hg : g < 16) (hk : (grp s g).kind ≠ demandKind s g) :
    (demandKind s g ≠ 0 → (grp (refresh t s) g).hold = true) ∧
    (demandKind s g = 5 ∨ demandKind s g = 2 → ∀ l ∈ grpLegs s g, GatesOff (refresh t s) l) := by
  obtain ⟨y, hy, hx⟩ := refresh_turn t h hg
  have ht := setKind_turns t ((hy.others g (· rfl)).symm ▸ hk)
  exact ⟨fun h0 => hx.hold (ht.hold h0), fun h5 l hl => hx.gatesOff (ht.off h5 l (hy.grpLegs g ▸ hl))⟩

end

end Sys2Proof.Machine
end

section
namespace Sys2Proof.Machine
open Sys2Proof Sys2Proof.Claim

/-! ### What a demand may start -/

/-- The fabric has acted: its state and the STO pins stand as they stood, no hold has ended, no gate has risen, and no
latch of an event is lost. A discharge and the timers of groups may have started. -/
structure Acts (s x : State) : Prop where
  frame : ∃ r o n m g f, x = { s with regs := r, observed := o, spn := n, legs := m, grps := g, saf := f }
  stoA : x.saf.stoA = s.saf.stoA
  stoB : x.saf.stoB = s.saf.stoB
  stoDifAt : x.saf.stoDifAt = s.saf.stoDifAt
  sstate : x.saf.sstate = s.saf.sstate
  latches : KeepsLatches s x
  hold : ∀ g, (grp s g).hold = true → (grp x g).hold = true
  gates : ∀ l, GatesOff s l → GatesOff x l

section
variable {s x y : State} {g : Nat}

theorem Acts.refl (s : State) : Acts s s :=
  ⟨⟨_, _, _, _, _, _, rfl⟩, rfl, rfl, rfl, rfl, fun _ _ _ h => h, fun _ h => h, fun _ h => h⟩

theorem Acts.trans (h : Acts s x) (k : Acts x y) : Acts s y where
  frame := by
    obtain ⟨_, _, _, _, _, _, rfl⟩ := h.frame
    obtain ⟨r, o, n, m, g, f, e⟩ := k.frame
    exact ⟨r, o, n, m, g, f, e⟩
  stoA := k.stoA.trans h.stoA
  stoB := k.stoB.trans h.stoB
  stoDifAt := k.stoDifAt.trans h.stoDifAt
  sstate := k.sstate.trans h.sstate
  latches := h.latches.trans k.latches
  hold g hg := k.hold g (h.hold g hg)
  gates l hl := k.gates l (h.gates l hl)

theorem Acts.live (h : Acts s x) : x.live = s.live := by obtain ⟨_, _, _, _, _, _, rfl⟩ := h.frame; rfl
theorem Acts.mem (h : Acts s x) : x.mem = s.mem := by obtain ⟨_, _, _, _, _, _, rfl⟩ := h.frame; rfl
theorem Acts.ticking (h : Acts s x) : ticking x = ticking s := by obtain ⟨_, _, _, _, _, _, rfl⟩ := h.frame; rfl

theorem Follows.acts {G : Nat → Prop} (h : Follows G s x) : Acts s x := by
  obtain ⟨r, o, n, m, g, so, e⟩ := h.frame
  obtain ⟨so', hs⟩ := h.saf
  exact ⟨⟨r, o, n, m, g, _, e⟩, by rw [hs], by rw [hs], by rw [hs], by rw [hs], h.latches, fun _ => h.hold,
    fun _ => h.gatesOff⟩

/-- The state in which a discharge has started at `t`, and its start boundary is still to come. -/
def disBegun (t : Time) (s : State) : State :=
  setReg SAF_DIS_ST 0x40000000#32 (updSaf (fun x => { x with disAt := t, disN := 0, disFresh := true }) s)

theorem disBegun_acts (t : Time) (s : State) : Acts s (disBegun t s) :=
  ⟨⟨_, _, _, _, _, _, rfl⟩, rfl, rfl, rfl, rfl, keepsLatches_setReg (by decide) _, fun _ h => h, fun _ h => h⟩

/-- A discharge starts where the fabric acts, the page enables it and none runs (R358). -/
theorem disStart_starts (t : Time) (hb : s.saf.sstate ≠ 0) (he : lflag s SAF_DIS_CFG_EN = true)
    (hr : disRuns s = false) : disStart true t s = refresh t (disBegun t s) := by
  unfold disStart
  rw [if_neg (by simp [hb, he, hr])]
  rfl

theorem disStart_cases (t : Time) (s : State) :
    disStart true t s = s ∨ disStart true t s = refresh t (disBegun t s) := by
  unfold disStart
  split
  exacts [.inl rfl, .inr rfl]

theorem disStart_acts (t : Time) (s : State) : Acts s (disStart true t s) := by
  rcases disStart_cases t s with h | h <;> rw [h]
  · exact .refl s
  · exact (disBegun_acts t s).trans (refresh_follows t _).acts

theorem stoDemand_disBegun (t : Time) (s : State) : stoDemand (disBegun t s) = stoDemand s := by
  simp only [stoDemand, flag, fld, disBegun, reg_setReg_ne _ _ (show SAF_LATCH_STODISC.reg ≠ SAF_DIS_ST by decide)]
  rfl

theorem Acts.inGroups (h : Acts s x) (f : Fld) (g : Nat) : inGroups x f g = inGroups s f g := by
  simp only [Machine.inGroups, lfld_congr h.live]

/-! ### STO pins (R347, R348) -/

theorem latchStodisc_fits : SAF_LATCH_STODISC.fits := by unfold Fld.fits; decide

/-- A group of the STO pins while they or their latch demand. -/
theorem refresh_sto (t : Time) (h : ticking s = true) (hg : g < 16) (hd : stoDemand s = true)
    (hin : inGroups s SAF_STO_GROUPS g = true) : (grp (refresh t s) g).kind = 5 ∧ ((grp s g).kind ≠ 5 →
      (grp (refresh t s) g).hold = true ∧ ∀ l ∈ grpLegs s g, GatesOff (refresh t s) l) := by
  have h5 := demandKind_of_sto hd hin
  refine ⟨(refresh_kind t h hg).trans h5, fun hk => ?_⟩
  obtain ⟨hh, ho⟩ := refresh_turns t h hg (h5 ▸ hk)
  exact ⟨hh (by omega), ho (.inl h5)⟩

theorem stoSet_pins (pinB v : Bool) (t : Time) (s : State) :
    (if pinB then (stoSet pinB v t s).saf.stoB else (stoSet pinB v t s).saf.stoA) = v ∧
    (if pinB then (stoSet pinB v t s).saf.stoA = s.saf.stoA else (stoSet pinB v t s).saf.stoB = s.saf.stoB) ∧
    (stoSet pinB v t s).saf.stoDifAt = (if (stoSet pinB v t s).saf.stoA = (stoSet pinB v t s).saf.stoB then none
      else some (s.saf.stoDifAt.getD t)) := by
  cases pinB <;> exact ⟨rfl, rfl, rfl⟩

/-- What holds of the pins holds after the fabric has acted. -/
theorem Acts.pins {pinB v : Bool} {t : Time} (h : Acts (stoSet pinB v t s) x) :
    (if pinB then x.saf.stoB else x.saf.stoA) = v ∧
    (if pinB then x.saf.stoA = s.saf.stoA else x.saf.stoB = s.saf.stoB) ∧
    x.saf.stoDifAt = (if x.saf.stoA = x.saf.stoB then none else some (s.saf.stoDifAt.getD t)) := by
  rw [h.stoA, h.stoB, h.stoDifAt]
  exact stoSet_pins pinB v t s

theorem exec_stoPinFall (pinB : Bool) (t : Time) (h : (if pinB then s.saf.stoB else s.saf.stoA) = false) : ∃ x : State,
    exec (.stoPinFall pinB t) s = .next x ∧ (x = refresh t (raise 416 (stoSet pinB true t (upto t s))) ∨
      x = disStart true t (refresh t (raise 416 (stoSet pinB true t (upto t s))))) := by
  refine ⟨_, rfl, ?_⟩
  dsimp only
  rw [if_neg (Bool.eq_false_iff.mp h)]
  split
  exacts [.inr rfl, .inl rfl]

theorem stoDemand_of_pin {pinB : Bool} (h : (if pinB then s.saf.stoB else s.saf.stoA) = true) : stoDemand s = true := by
  cases pinB <;> simp_all [stoDemand]

/-- The groups of the STO pins once a pin has fallen, whether a discharge starts with it or not. -/
theorem stoPinFall_groups {z : State} (t : Time) (h : ticking z = true) (hg : g < 16) (hd : stoDemand z = true)
    (hin : inGroups z SAF_STO_GROUPS g = true) (hk : (grp z g).kind ≠ 5)
    (hx : x = refresh t z ∨ x = disStart true t (refresh t z)) :
    (grp x g).kind = 5 ∧ (grp x g).hold = true ∧ ∀ l ∈ grpLegs z g, GatesOff x l := by
  have hf := refresh_follows t z
  obtain ⟨hk5, hturn⟩ := refresh_sto t h hg hd hin
  obtain ⟨hh, ho⟩ := hturn hk
  rcases hx with e | e <;> rw [e]
  · exact ⟨hk5, hh, ho⟩
  · have ha := disStart_acts t (refresh t z)
    refine ⟨?_, ha.hold g hh, fun l hl => ha.gates l (ho l hl)⟩
    rcases disStart_cases t (refresh t z) with e | e <;> rw [e]
    · exact hk5
    · have hb := hf.acts.trans (disBegun_acts t _)
      exact (refresh_sto t (hb.ticking.trans h) hg ((stoDemand_disBegun ..).trans (hf.stoDemand.trans hd))
        ((hb.inGroups _ g).trans hin)).1

theorem stoPinFall_demands (pinB : Bool) (t : Time) (s : State) (h : (if pinB then s.saf.stoB else s.saf.stoA) = false) :
    ∃ x : State, exec (.stoPinFall pinB t) s = .next x ∧ (if pinB then x.saf.stoB else x.saf.stoA) = true ∧
    Pends 416 s x ∧ (if pinB then x.saf.stoA = s.saf.stoA else x.saf.stoB = s.saf.stoB) ∧ x.mem = s.mem ∧
    x.saf.stoDifAt = (if x.saf.stoA = x.saf.stoB then none else some (s.saf.stoDifAt.getD t)) ∧
    (∀ g, g < 16 → ticking s = true → inGroups s SAF_STO_GROUPS g = true → (grp s g).kind ≠ 5 →
      (grp x g).kind = 5 ∧ (grp x g).hold = true ∧ ∀ l ∈ grpLegs s g, GatesOff x l) := by
  obtain ⟨x, he, hx⟩ := exec_stoPinFall pinB t h
  have hz : Follows (fun _ => False) (stoSet pinB true t (upto t s)) _ := .ofRaise 416 _
  have hzx : Acts (raise 416 (stoSet pinB true t (upto t s))) x := by
    have hf := refresh_follows t (raise 416 (stoSet pinB true t (upto t s)))
    rcases hx with e | e <;> rw [e]
    exacts [hf.acts, hf.acts.trans (disStart_acts ..)]
  obtain ⟨hp, hq, hd⟩ := (hz.acts.trans hzx).pins
  refine ⟨x, he, hp, pends_of_raise hzx.latches ⟨rfl, rfl, rfl, fun _ _ => rfl⟩, hq, (hz.acts.trans hzx).mem, hd,
    fun g hg ht hin hk => ?_⟩
  have hlegs : grpLegs _ g = grpLegs s g := hz.grpLegs g
  rw [← hlegs]
  exact stoPinFall_groups t (hz.acts.ticking.trans ht) hg (hz.stoDemand.trans (stoDemand_of_pin (stoSet_pins ..).1))
    ((hz.inGroups _ g).trans hin) (hz.others g id ▸ hk) hx

theorem stoPinRise_ends (pinB : Bool) (t : Time) (s : State) (h : (if pinB then s.saf.stoB else s.saf.stoA) = true) :
    ∃ x : State, exec (.stoPinRise pinB t) s = .next x ∧ (if pinB then x.saf.stoB else x.saf.stoA) = false ∧
    (if pinB then x.saf.stoA = s.saf.stoA else x.saf.stoB = s.saf.stoB) ∧ x.mem = s.mem ∧
    x.saf.stoDifAt = (if x.saf.stoA = x.saf.stoB then none else some (s.saf.stoDifAt.getD t)) ∧
    (∀ g, (grp s g).hold = true → (grp x g).hold = true) ∧ RegsBut [] s x := by
  have hf := refresh_follows t (stoSet pinB false t (upto t s))
  obtain ⟨hp, hq, hd⟩ := hf.acts.pins
  exact ⟨_, congrArg Host.Outcome.next (if_pos h), hp, hq, hf.mem, hd, fun _ => hf.hold,
    hf.regs⟩

/-- Pins that have differed for longer than SDISC set the latch. -/
theorem safStoDisc_latches (t u : Time) (s : State) (hu : s.saf.stoDifAt = some u)
    (ht : u + lfld s SAF_STO_SDISC * ms < t) (hl : flag s SAF_LATCH_STODISC = false) :
    ∃ x : State, exec (.safStoDisc t) s = .next x ∧ fld x SAF_LATCH_STODISC = 1 ∧ fld x SAF_LATCH_SIND = fld s SAF_LATCH_SIND ∧ Pends 417 s x ∧
    RegsBut [SAF_LATCH] s x ∧ x.mem = s.mem := by
  have hset : RegsBut [SAF_LATCH] s (setFld SAF_LATCH_STODISC 1 s) := regsBut_setFld SAF_LATCH_STODISC _ s
  have hz : Follows (fun _ => True) (stoNote t (setFld SAF_LATCH_STODISC 1 (upto t s))) _ := .ofRaise 417 _
  have hx := refresh_follows t (raise 417 (stoNote t (setFld SAF_LATCH_STODISC 1 (upto t s))))
  have hzx := hz.trans hx
  refine ⟨_, by
      change execSafStoDisc t s = _
      dsimp only [execSafStoDisc]
      rw [hu]
      exact congrArg Host.Outcome.next (if_pos ⟨ht, by rw [hl]; rfl⟩),
    (hzx.fld (by decide) (by decide)).trans (fld_setFld_same s _ 1 latchStodisc_fits),
    (hzx.fld (by decide) (by decide)).trans (fld_setFld_other s _ _ 1 latchStodisc_fits (by decide)),
    pends_of_raise hx.latches ⟨rfl, rfl, rfl, fun a ha => ?_⟩, RegsBut.trans hset (RegsBut.weaken hzx.regs), hzx.mem⟩
  exact reg_setFld_ne s SAF_LATCH_STODISC 1 a fun e => absurd (e ▸ ha) (by decide)

theorem safStoDisc_waits (t : Time) (s : State)
    (h : ∀ u, s.saf.stoDifAt = some u → t ≤ u + lfld s SAF_STO_SDISC * ms) :
    exec (.safStoDisc t) s = .next (upto t s) := by
  change execSafStoDisc t s = _
  dsimp only [execSafStoDisc]
  split
  · next u hu => rw [if_neg fun hc => absurd hc.1 (Nat.not_lt.mpr (h u hu))]
  · rfl

/-- The readiness of the fabric bounds SDISC (R367). -/
theorem safReady_sdisc {part : BitVec 13} (h : safReady s part = true) :
    1 ≤ sfld s SAF_STO_SDISC ∧ sfld s SAF_STO_SDISC ≤ 1000 := by
  simp only [safReady, Bool.and_eq_true, decide_eq_true_eq] at h
  omega

theorem latchClearStodisc_clears (s : State) (ha : s.saf.stoA = false) (hb : s.saf.stoB = false) : ∃ x : State,
    exec .latchClearStodisc s = .next x ∧ fld x SAF_LATCH_STODISC = 0 ∧
    fld x SAF_LATCH_SIND = fld s SAF_LATCH_SIND ∧ RegsBut [SAF_LATCH] s x := by
  have hx := refresh_follows s.now (stoNote s.now (setFld SAF_LATCH_STODISC 0 s))
  have hset : RegsBut [SAF_LATCH] s (setFld SAF_LATCH_STODISC 0 s) := regsBut_setFld SAF_LATCH_STODISC _ s
  exact ⟨_, congrArg Host.Outcome.next (if_pos (by rw [ha, hb]; rfl)),
    (hx.fld (by decide) (by decide)).trans (fld_setFld_same s _ 0 latchStodisc_fits),
    (hx.fld (by decide) (by decide)).trans (fld_setFld_other s _ _ 0 latchStodisc_fits (by decide)),
    RegsBut.trans hset (RegsBut.weaken hx.regs)⟩

theorem latchClearStodisc_held (s : State) (h : s.saf.stoA = true ∨ s.saf.stoB = true) :
    exec .latchClearStodisc s = .next s :=
  congrArg Host.Outcome.next (if_neg (by rcases h with h | h <;> simp [h]))

end

/-- Settles O43: a group takes the strongest kind in its turn of `refresh`, which neither the turns of the other groups
nor the outputs undo (`Follows`); the pins and their latch demand STO, the strongest kind there is. -/
theorem demandsAndStoPins : Obligations.DemandsAndStoPins := by
  unfold Obligations.DemandsAndStoPins
  refine ⟨fun t s g ht hg => ?_, stoPinFall_demands, stoPinRise_ends, safStoDisc_latches, safStoDisc_waits,
    fun _ _ => safReady_sdisc, latchClearStodisc_clears, latchClearStodisc_held⟩
  have hf := refresh_follows t s
  have hturn := refresh_turns (s := s) t ht hg
  exact ⟨refresh_kind t ht hg, fun h0 hk => (hturn hk).1 h0, fun h5 hk => (hturn hk).2 h5, hf.hold, hf.mem, hf.regs,
    fun l => (hf.falls l).1, fun l => (hf.falls l).2⟩

end Sys2Proof.Machine
end

section
namespace Sys2Proof.Machine
open Sys2Proof Sys2Proof.Claim

/-! ### Bits of a field -/

theorem testBit_eq_bits (n j : Nat) : n.testBit j = decide (bits n j 1 = 1) := by
  rw [Nat.testBit_eq_decide_div_mod_eq, bits, Nat.shiftRight_eq_div_pow, pow_one]

/-- Clearing a bit replaces it by 0. -/
theorem clearBit_eq_setBits (n i : Nat) : clearBit n i = setBits n i 1 0 := by
  have h : n &&& 1 <<< i = bits n i 1 <<< i := by
    rw [Nat.one_shiftLeft, Nat.and_two_pow, Nat.shiftLeft_eq, testBit_eq_bits]
    have := bits_lt n i 1
    congr 1
    rcases (show bits n i 1 = 0 ∨ bits n i 1 = 1 by omega) with h | h <;> rw [h] <;> rfl
  change n - (n &&& 1 <<< i) = n - (bits n i 1 <<< i) + (0 % 2 ^ 1) <<< i
  rw [h, Nat.zero_mod, Nat.zero_shiftLeft, Nat.add_zero]

theorem testBit_clearBit (n i j : Nat) : (clearBit n i).testBit j = (n.testBit j && !decide (j = i)) := by
  rw [clearBit_eq_setBits, testBit_eq_bits, testBit_eq_bits]
  rcases Nat.lt_trichotomy i j with h | rfl | h
  · rw [bits_setBits_above _ _ _ _ _ _ h]
    simp [Nat.ne_of_gt h]
  · rw [bits_setBits]
    simp
  · rw [bits_setBits_below _ _ _ _ _ _ h]
    simp [Nat.ne_of_lt h]

theorem testBit_setBit (n i j : Nat) : (setBit n i).testBit j = (n.testBit j || decide (j = i)) := by
  rw [setBit, Nat.testBit_or, Nat.one_shiftLeft, Nat.testBit_two_pow]
  simp only [eq_comm]

/-- A bit of a field in which a bit has been set or cleared. -/
theorem testBit_setFldBit (s : State) {f : Fld} (hf : f.fits) (v : Bool) {i j : Nat} (hj : j < f.width) :
    (fld (setFldBit f i v s) f).testBit j = if j = i then v else (fld s f).testBit j := by
  rw [setFldBit, fld_setFld_same _ _ _ hf, Nat.testBit_mod_two_pow]
  rcases eq_or_ne j i with rfl | h
  · cases v <;> simp [hj, testBit_setBit, testBit_clearBit]
  · cases v <;> simp [hj, h, testBit_setBit, testBit_clearBit]

/-! ### Safe inputs (R349 to R351) -/

section
variable {s x y : State} {p g : Nat} {a b : Bool} {t : Time}

/-- The levels of the pins of safe input `p`. -/
def sinPins (a b : Bool) (p : Nat) (s : State) : State := updSin p (fun y => { y with a := a, b := b }) s

/-- The levels are taken over at `t`, and the disagreement of the channels counts on or ends. -/
def sinTaken (a b : Bool) (t : Time) (p : Nat) (s : State) : State :=
  updSin p (fun y => { y with
    disAt := if sinOn s p && disagree (sinPins a b p s) p then some ((sin s p).disAt.getD t) else none })
    (sinPins a b p s)

/-- The channels demand as the pins say (R349). -/
theorem chDemand_sinPins (a b : Bool) (p : Nat) (s : State) :
    chDemand (sinPins a b p s) p = (!a, b == lflag s (SAF_SIN_CFG_ANTI p)) := by
  simp only [chDemand, sinPins, sin_updSin, if_pos]
  rfl

theorem sin_sinTaken (a b : Bool) (t : Time) (p : Nat) (s : State) : sin (sinTaken a b t p s) p = { sin s p with
    a := a, b := b, disAt := if sinOn s p && (!a) != (b == lflag s (SAF_SIN_CFG_ANTI p)) then
      some ((sin s p).disAt.getD t) else none } := by
  simp only [sinTaken, disagree, chDemand_sinPins, sin_updSin, if_pos]
  simp only [sinPins, sin_updSin, if_pos]

theorem chDemand_sinTaken (a b : Bool) (t : Time) (p : Nat) (s : State) :
    chDemand (sinTaken a b t p s) p = (!a, b == lflag s (SAF_SIN_CFG_ANTI p)) := by
  simp only [chDemand, sin_sinTaken]
  rfl

theorem anyDemand_sinTaken (hd : a = false ∨ b = lflag s (SAF_SIN_CFG_ANTI p)) :
    anyDemand (sinTaken a b t p s) p = true := by
  rw [anyDemand, chDemand_sinTaken]
  rcases hd with rfl | rfl <;> simp

/-- An input that begins to demand raises its event and acts. -/
theorem sinLevels_begins (hon : sinOn s p = true) (hno : anyDemand s p = false)
    (hd : a = false ∨ b = lflag s (SAF_SIN_CFG_ANTI p)) :
    sinLevels a b t p s = refresh t (sinAct p t (raise (418 + p) (sinTaken a b t p s))) := by
  have hwas : sinActive s p = false := by rw [sinActive, hno, Bool.and_false]
  have hnow : sinActive (sinPins a b p s) p = true := by
    rw [sinActive, show sinOn (sinPins a b p s) p = true from hon, anyDemand, chDemand_sinPins]
    rcases hd with hd | hd <;> simp [hd]
  refine congrArg (refresh t) (if_pos ?_)
  change (sinActive (sinPins a b p s) p && !(sinActive s p)) = true
  rw [hnow, hwas]
  rfl

/-- An input no channel of which demands does no more than take the levels. -/
theorem sinLevels_ends : sinLevels true (!(lflag s (SAF_SIN_CFG_ANTI p))) t p s =
    refresh t (sinTaken true (!(lflag s (SAF_SIN_CFG_ANTI p))) t p s) := by
  refine congrArg (refresh t) (if_neg ?_)
  change ¬(sinActive (sinPins _ _ p s) p && _) = true
  simp [sinActive, anyDemand, chDemand_sinPins]

/-- The pins of a safe input that acts begin to demand: its event is raised (`y`), and it acts. -/
theorem safeInputDemand_begins (p : Fin 8) {h : Time} (hon : sinOn s p.val = true)
    (hp : sinPassed s p.val h t = true) (hd : a = false ∨ b = lflag s (SAF_SIN_CFG_ANTI p.val))
    (hno : anyDemand s p.val = false) : ∃ x y : State, exec (.safeInputDemand p a b ⟨h, t⟩) s = .next x ∧
    x = refresh t (sinAct p.val t y) ∧ Follows (fun _ => False) (sinTaken a b t p.val (upto t s)) y ∧
    Pends (418 + p.val) s y := by
  refine ⟨_, _, congrArg Host.Outcome.next ((if_pos ?_).trans (sinLevels_begins hon hno hd)), rfl, .ofRaise .., ?_⟩
  · rcases hd with hd | hd <;> simp [hp, hd]
  · exact Pends.of_routes (pends_raise _ _) ⟨rfl, rfl, rfl, fun _ _ => rfl⟩

/-- What a FUNC starts: timers (2), the discharge (5), or nothing. -/
theorem sinAct_timers (h : lfld s (SAF_SIN_CFG_FUNC p) = 2) : sinAct p t s =
    forAll (those 16 fun g => inGroups s (SAF_SIN_GRP_GROUPS p) g) (ss1Start t) s := by
  rw [sinAct, h]
  rfl

theorem sinAct_discharge (h : lfld s (SAF_SIN_CFG_FUNC p) = 5)
    (hin : inGroups s (SAF_SIN_GRP_GROUPS p) (disGroup s) = true) : sinAct p t s = disStart true t s := by
  rw [sinAct, h]
  exact if_pos hin

theorem sinAct_nothing (h2 : lfld s (SAF_SIN_CFG_FUNC p) ≠ 2) (h5 : lfld s (SAF_SIN_CFG_FUNC p) ≠ 5) :
    sinAct p t s = s := by
  unfold sinAct
  split
  exacts [absurd ‹_› h2, absurd ‹_› h5, rfl]

/-- What an input demands of its groups acts on them. -/
theorem refresh_func (hp : p < 8) (hd : sinDemand s p = true) (ht : ticking s = true) (hg : g < 16)
    (hin : inGroups s (SAF_SIN_GRP_GROUPS p) g = true) :
    funcKind (lfld s (SAF_SIN_CFG_FUNC p)) ≤ (grp (refresh t s) g).kind ∧
    (lfld s (SAF_SIN_CFG_FUNC p) = 1 → (grp s g).kind ≠ 5 → ∀ l ∈ grpLegs s g, GatesOff (refresh t s) l) := by
  have hk := funcKind_le_demandKind hp hd hin
  refine ⟨(refresh_kind t ht hg).symm ▸ hk, fun h1 hno => ?_⟩
  rw [h1] at hk
  have h5 : demandKind s g = 5 := le_antisymm (demandKind_le s g) hk
  exact (refresh_turns t ht hg (h5.symm ▸ hno)).2 (.inl h5)

/-- A safe input begins to demand, and its FUNC starts neither timers nor a discharge. -/
theorem safeInputDemand_kind (p : Fin 8) (a b : Bool) (h t : Time) (s : State) (hon : sinOn s p.val = true)
    (hp : sinPassed s p.val h t = true) (hd : a = false ∨ b = lflag s (SAF_SIN_CFG_ANTI p.val))
    (hno : anyDemand s p.val = false) (h2 : lfld s (SAF_SIN_CFG_FUNC p.val) ≠ 2)
    (h5 : lfld s (SAF_SIN_CFG_FUNC p.val) ≠ 5) : ∃ x : State,
    exec (.safeInputDemand p a b ⟨h, t⟩) s = .next x ∧ Pends (418 + p.val) s x ∧ (sin x p.val).a = a ∧
    (sin x p.val).b = b ∧
    ((sin x p.val).disAt = none ↔ (!a) = (b == lflag s (SAF_SIN_CFG_ANTI p.val))) ∧ RegsBut [] s x ∧
    (∀ g, g < 16 → ticking s = true → inGroups s (SAF_SIN_GRP_GROUPS p.val) g = true →
      funcKind (lfld s (SAF_SIN_CFG_FUNC p.val)) ≤ (grp x g).kind ∧
      (lfld s (SAF_SIN_CFG_FUNC p.val) = 1 → (grp s g).kind ≠ 5 → ∀ l ∈ grpLegs s g, GatesOff x l)) := by
  obtain ⟨x, y, he, hx, hy, hpend⟩ := safeInputDemand_begins p hon hp hd hno
  have hf : lfld y (SAF_SIN_CFG_FUNC p.val) = lfld s (SAF_SIN_CFG_FUNC p.val) := lfld_congr hy.live _
  rw [sinAct_nothing (hf ▸ h2) (hf ▸ h5)] at hx
  have hyx : Follows (fun _ => True) y x := hx ▸ refresh_follows t y
  have hsx := (hy.mono fun _ _ => trivial).trans hyx
  have hsin := (hsx.sin p.val).trans (sin_sinTaken a b t p.val (upto t s))
  refine ⟨x, he, Pends.keep hpend hyx.latches, by rw [hsin], by rw [hsin], ?_, hsx.regs, fun g hg ht hin => ?_⟩
  · rw [hsin]
    change (if sinOn s p.val && (!a) != (b == lflag s (SAF_SIN_CFG_ANTI p.val)) then _ else _) = none ↔ _
    generalize (b == lflag s (SAF_SIN_CFG_ANTI p.val)) = c
    cases a <;> cases c <;> simp [hon]
  · have hdem : sinDemand y p.val = true := by
      rw [hy.sinDemand, sinDemand, show sinOn (sinTaken a b t p.val (upto t s)) p.val = true from hon,
        anyDemand_sinTaken (s := upto t s) hd, Bool.and_self, Bool.or_true]
    have hfun := refresh_func (t := t) p.isLt hdem (hy.acts.ticking.trans ht) hg ((hy.inGroups _ g).trans hin)
    rw [← hx, hf, hy.others g id, hy.grpLegs g] at hfun
    exact hfun

theorem ss1Start_acts (t : Time) (k : Nat) (y : State) : Acts y (ss1Start t k y) where
  frame := ⟨_, _, _, _, _, _, rfl⟩
  stoA := rfl
  stoB := rfl
  stoDifAt := rfl
  sstate := rfl
  latches _ _ _ h := h
  hold g h := by
    rw [ss1Start, grp_updGrp]
    split
    · next e => exact e ▸ h
    · exact h
  gates _ h := h

theorem ss1Starts_act (t : Time) (xs : List Nat) (y : State) : Acts y (forAll xs (ss1Start t) y) :=
  forAll_keeps (Acts y) xs _ (fun k _ z hz => hz.trans (ss1Start_acts t k z)) y (.refl y)

/-- The timer of a group that has none running starts in its turn (R355). -/
theorem ss1Starts_timer {xs : List Nat} (hg : g ∈ xs) (hn : xs.Nodup) (h : (grp s g).ss1 = none) :
    (grp (forAll xs (ss1Start t) s) g).ss1 = some (t + lfld s (SAF_SS1T_SS1T g) * ms) := by
  obtain ⟨l, r, hl, hr, hsplit⟩ := forAll_split hg hn
  have hkeep (zs : List Nat) (hz : g ∉ zs) (y : State) : grp (forAll zs (ss1Start t) y) g = grp y g :=
    forAll_same (grp · g) zs _ (fun k hk y => by rw [ss1Start, grp_updGrp, if_neg fun e : g = k => hz (e ▸ hk)]) y
  rw [hsplit, hkeep r hr, ss1Start, grp_updGrp, if_pos rfl, hkeep l hl, h, lfld_congr (ss1Starts_act t l s).live,
    Option.getD_none]

/-- A safe input whose FUNC starts the timers of its groups (R351). -/
theorem safeInputDemand_timers (p : Fin 8) (a b : Bool) (h t : Time) (s : State) (g : Nat) (hon : sinOn s p.val = true)
    (hp : sinPassed s p.val h t = true) (hd : a = false ∨ b = lflag s (SAF_SIN_CFG_ANTI p.val))
    (hno : anyDemand s p.val = false) (h2 : lfld s (SAF_SIN_CFG_FUNC p.val) = 2) (hg : g < 16)
    (hin : inGroups s (SAF_SIN_GRP_GROUPS p.val) g = true) (hss : (grp s g).ss1 = none) : ∃ x : State,
    exec (.safeInputDemand p a b ⟨h, t⟩) s = .next x ∧ (grp x g).ss1 = some (t + lfld s (SAF_SS1T_SS1T g) * ms) ∧
    Pends (418 + p.val) s x ∧ x.mem = s.mem := by
  obtain ⟨x, y, he, hx, hy, hpend⟩ := safeInputDemand_begins p hon hp hd hno
  have hf : lfld y (SAF_SIN_CFG_FUNC p.val) = 2 := (lfld_congr hy.live _).trans h2
  rw [sinAct_timers hf] at hx
  have hss' : (grp y g).ss1 = none := (congrArg GrpSt.ss1 (hy.others g id)).trans hss
  have hmem := mem_those.mpr ⟨hg, (hy.inGroups (SAF_SIN_GRP_GROUPS p.val) g).trans hin⟩
  have htim := ss1Starts_timer (t := t) hmem (List.nodup_range.filter _) hss'
  have hact := ss1Starts_act t (those 16 fun g => inGroups y (SAF_SIN_GRP_GROUPS p.val) g) y
  have hyx := refresh_follows t (forAll (those 16 fun g => inGroups y (SAF_SIN_GRP_GROUPS p.val) g) (ss1Start t) y)
  rw [← hx] at hyx
  refine ⟨x, he, ?_, Pends.keep hpend (hact.trans hyx.acts).latches, (hy.acts.trans (hact.trans hyx.acts)).mem⟩
  have hlive : lfld y (SAF_SS1T_SS1T g) = lfld s (SAF_SS1T_SS1T g) := lfld_congr hy.live _
  rw [(hyx.groups g).2.1, htim, hlive]

theorem disRuns_disBegun (t : Time) (s : State) : disRuns (disBegun t s) = true := by
  rw [disRuns, fld, disBegun, show SAF_DIS_ST_STATE.reg = SAF_DIS_ST from rfl, reg_setReg_same]
  decide

/-- A safe input whose FUNC starts the discharge (R351). -/
theorem safeInputDemand_discharge (p : Fin 8) (a b : Bool) (h t : Time) (s : State) (hon : sinOn s p.val = true)
    (hp : sinPassed s p.val h t = true) (hd : a = false ∨ b = lflag s (SAF_SIN_CFG_ANTI p.val))
    (hno : anyDemand s p.val = false) (h5 : lfld s (SAF_SIN_CFG_FUNC p.val) = 5)
    (hin : inGroups s (SAF_SIN_GRP_GROUPS p.val) (disGroup s) = true) (hen : lflag s SAF_DIS_CFG_EN = true)
    (hrun : disRuns s = false) : ∃ x : State,
    exec (.safeInputDemand p a b ⟨h, t⟩) s = .next x ∧ disRuns x = true ∧ x.saf.disAt = t ∧
    Pends (418 + p.val) s x ∧ x.mem = s.mem := by
  obtain ⟨x, y, he, hx, hy, hpend⟩ := safeInputDemand_begins p hon hp hd hno
  have hf : lfld y (SAF_SIN_CFG_FUNC p.val) = 5 := (lfld_congr hy.live _).trans h5
  have hb : y.saf.sstate ≠ 0 := by
    have h1 : (s.saf.sstate != 0) = true := (Bool.and_eq_true_iff.mp hon).1
    exact hy.acts.sstate ▸ (bne_iff_ne.mp h1)
  rw [sinAct_discharge hf (hy.disGroup ▸ (hy.inGroups _ _).trans hin),
    disStart_starts t hb ((congrArg (· == 1) (lfld_congr hy.live _)).trans hen) (hy.disRuns.trans hrun)] at hx
  have h1 := refresh_follows t (disBegun t y)
  have hyx : Follows (fun _ => True) (disBegun t y) x := hx ▸ h1.trans (refresh_follows t _)
  obtain ⟨so, hs⟩ := hyx.saf
  have hact := (disBegun_acts t y).trans hyx.acts
  exact ⟨x, he, hyx.disRuns.trans (disRuns_disBegun t y), by rw [hs]; rfl, Pends.keep hpend hact.latches,
    (hy.acts.trans hact).mem⟩

/-- An input whose pins end both demands. -/
theorem exec_safeInputDemandEnd (p : Fin 8) {h : Time} (hp : sinPassed s p.val h t = true) : ∃ x : State,
    exec (.safeInputDemandEnd p ⟨h, t⟩) s = .next x ∧
    Follows (fun _ => True) (sinTaken true (!(lflag s (SAF_SIN_CFG_ANTI p.val))) t p.val (upto t s)) x :=
  ⟨_, congrArg Host.Outcome.next ((if_pos hp).trans sinLevels_ends), refresh_follows ..⟩

theorem safeInputDemandEnd_ends (p : Fin 8) (h t : Time) (s : State) (hp : sinPassed s p.val h t = true) : ∃ x : State,
    exec (.safeInputDemandEnd p ⟨h, t⟩) s = .next x ∧ anyDemand x p.val = false ∧ (sin x p.val).a = true ∧
    (sin x p.val).disAt = none ∧ (∀ g, (grp s g).hold = true → (grp x g).hold = true) ∧ RegsBut [] s x := by
  obtain ⟨x, he, hx⟩ := exec_safeInputDemandEnd p hp
  have hsin := (hx.sin p.val).trans (sin_sinTaken ..)
  have hb : ((!(lflag s (SAF_SIN_CFG_ANTI p.val))) == lflag (upto t s) (SAF_SIN_CFG_ANTI p.val)) = false :=
    Bool.not_beq_self _
  refine ⟨x, he, ?_, by rw [hsin], ?_, fun _ => hx.hold, hx.regs⟩
  · rw [hx.anyDemand, anyDemand, chDemand_sinTaken, hb]
    rfl
  · rw [hsin, hb]
    simp

end

end Sys2Proof.Machine
end

section
namespace Sys2Proof.Machine
open Sys2Proof Sys2Proof.Claim

section
variable {s x y : State} {t : Time}

/-! ### Discrepancies of safe inputs (R350) -/

theorem latchSind_fits : SAF_LATCH_SIND.fits := by unfold Fld.fits; decide

/-- The latches of the safe inputs once one of them has been set or cleared. -/
theorem sinLatch_setFldBit (s : State) (p q : Nat) (v : Bool) (hq : q < 8) :
    sinLatch (setFldBit SAF_LATCH_SIND p v s) q = if q = p then v else sinLatch s q :=
  testBit_setFldBit s latchSind_fits v hq

/-- Channels that have disagreed for longer than DISC set the latch. -/
theorem sinDiscrepancy_latches (p : Fin 8) (t u : Time) (s : State) (hu : (sin s p.val).disAt = some u)
    (hon : sinOn s p.val = true) (ht : u + lfld s (SAF_SIN_CFG_DISC p.val) * ms < t) (hl : sinLatch s p.val = false) :
    ∃ x : State, exec (.sinDiscrepancy p t) s = .next x ∧ sinLatch x p.val = true ∧ Pends (418 + p.val) s x ∧
    (∀ q, q < 8 → q ≠ p.val → sinLatch x q = sinLatch s q) ∧ RegsBut [SAF_LATCH] s x := by
  have hset : RegsBut [SAF_LATCH] s (setFldBit SAF_LATCH_SIND p.val true s) := regsBut_setFld SAF_LATCH_SIND _ s
  have hz : Follows (fun _ => True) (setFldBit SAF_LATCH_SIND p.val true (upto t s)) _ := .ofRaise (418 + p.val) _
  have hx := refresh_follows t (raise (418 + p.val) (setFldBit SAF_LATCH_SIND p.val true (upto t s)))
  have he : exec (.sinDiscrepancy p t) s =
      .next (refresh t (raise (418 + p.val) (setFldBit SAF_LATCH_SIND p.val true (upto t s)))) := by
    change execSinDiscrepancy p t s = _
    dsimp only [execSinDiscrepancy]
    rw [hu]
    exact congrArg Host.Outcome.next (if_pos (by simp [hon, ht, hl]))
  generalize refresh t _ = x at hx he
  have hzx := hz.trans hx
  have hlatch (q : Nat) (hq : q < 8) := (hzx.sinLatch q).trans (sinLatch_setFldBit s p.val q true hq)
  refine ⟨x, he, (hlatch _ p.isLt).trans (if_pos rfl), pends_of_raise hx.latches ⟨rfl, rfl, rfl, fun a ha => ?_⟩,
    fun q hq hne => (hlatch q hq).trans (if_neg hne), RegsBut.trans hset (RegsBut.weaken hzx.regs)⟩
  exact reg_setFld_ne s SAF_LATCH_SIND _ a fun e => absurd (e ▸ ha) (by decide)

theorem sinDiscrepancy_waits (p : Fin 8) (t : Time) (s : State)
    (h : ∀ u, (sin s p.val).disAt = some u → t ≤ u + lfld s (SAF_SIN_CFG_DISC p.val) * ms) :
    exec (.sinDiscrepancy p t) s = .next (upto t s) := by
  change execSinDiscrepancy p t s = _
  dsimp only [execSinDiscrepancy]
  split
  · next u hu => rw [if_neg (by simp [Nat.not_lt.mpr (h u hu)])]
  · rfl

/-- The readiness of the fabric bounds DISC (R367). -/
theorem safReady_disc {part : BitVec 13} {p : Nat} (hp : p < 8) (h : safReady s part = true)
    (hen : sflag s (SAF_SIN_CFG_EN p) = true) :
    1 ≤ sfld s (SAF_SIN_CFG_DISC p) ∧ sfld s (SAF_SIN_CFG_DISC p) ≤ 1000 := by
  simp only [safReady, Bool.and_eq_true, List.all_eq_true, List.mem_range] at h
  obtain ⟨⟨⟨⟨⟨-, hsin⟩, -⟩, -⟩, -⟩, -⟩ := h
  have hdisc := hsin p hp
  simp only [hen, Bool.not_true, Bool.false_or, Bool.and_eq_true, decide_eq_true_eq] at hdisc
  omega

theorem latchClearSind_clears (p : Fin 8) (s : State) (h : anyDemand s p.val = false) : ∃ x : State,
    exec (.latchClearSind p) s = .next x ∧ sinLatch x p.val = false ∧
    (∀ q, q < 8 → q ≠ p.val → sinLatch x q = sinLatch s q) ∧ RegsBut [SAF_LATCH] s x := by
  have hset : RegsBut [SAF_LATCH] s (setFldBit SAF_LATCH_SIND p.val false s) := regsBut_setFld SAF_LATCH_SIND _ s
  have hx := refresh_follows s.now (setFldBit SAF_LATCH_SIND p.val false s)
  have he : exec (.latchClearSind p) s = .next (refresh s.now (setFldBit SAF_LATCH_SIND p.val false s)) :=
    congrArg Host.Outcome.next (if_pos (by rw [h]; rfl))
  generalize refresh s.now _ = x at hx he
  have hlatch (q : Nat) (hq : q < 8) := (hx.sinLatch q).trans (sinLatch_setFldBit s p.val q false hq)
  exact ⟨x, he, (hlatch _ p.isLt).trans (if_pos rfl),
    fun q hq hne => (hlatch q hq).trans (if_neg hne), RegsBut.trans hset (RegsBut.weaken hx.regs)⟩

theorem latchClearSind_held (p : Fin 8) (s : State) (h : anyDemand s p.val = true) :
    exec (.latchClearSind p) s = .next s :=
  congrArg Host.Outcome.next (if_neg (by simp [h]))

/-! ### Safe outputs (R352, R353) -/

/-- Only the safe outputs have changed. -/
def OnlySouts (s x : State) : Prop := ∃ so, x = { s with saf := { s.saf with souts := so } }

theorem OnlySouts.trans (h : OnlySouts s x) (k : OnlySouts x y) : OnlySouts s y := by
  obtain ⟨_, rfl⟩ := h
  obtain ⟨so, rfl⟩ := k
  exact ⟨so, rfl⟩

theorem onlySouts_updSout (o : Nat) (f : SoutSt → SoutSt) (s : State) : OnlySouts s (updSout o f s) := ⟨_, rfl⟩

theorem onlySouts_forAll {xs : List Nat} {f : Nat → State → State} (h : ∀ o y, OnlySouts y (f o y)) (s : State) :
    OnlySouts s (forAll xs f s) :=
  forAll_keeps (OnlySouts s) xs f (fun o _ y hy => hy.trans (h o y)) s ⟨_, rfl⟩

theorem onlySouts_soutRefresh (t : Time) (o : Nat) (s : State) : OnlySouts s (soutRefresh t o s) := by
  unfold soutRefresh
  extract_lets may x
  split
  · exact ⟨_, rfl⟩
  · split
    exacts [⟨_, rfl⟩, ⟨_, rfl⟩]

theorem sout_soutRefresh_ne (t : Time) {o k : Nat} (h : k ≠ o) (s : State) : sout (soutRefresh t o s) k = sout s k := by
  unfold soutRefresh
  extract_lets may x
  split
  · rw [sout_updSout, if_neg h]
  · split
    · rw [sout_updSout, if_neg h]
    · rfl

/-- An output whose conditions hold is on, and its arming stays. -/
theorem soutRefresh_on {o : Nat} (hm : soutMay s o = true) (hb : brakeDue s o t = false) :
    (sout (soutRefresh t o s) o).on = true ∧ (sout (soutRefresh t o s) o).armed = (sout s o).armed := by
  unfold soutRefresh
  extract_lets may x
  split
  · rw [sout_updSout, if_pos rfl]
    exact ⟨rfl, rfl⟩
  · next h =>
    have hx : (sout s o).on = true := by simpa [may, x, hm, hb] using h
    rw [if_neg (by simp [may, hm])]
    exact ⟨hx, rfl⟩

/-- An output whose conditions fail is off. -/
theorem soutRefresh_off {o : Nat} (hm : soutMay s o = false) : (sout (soutRefresh t o s) o).on = false := by
  unfold soutRefresh
  extract_lets may x
  rw [if_neg (by simp [may, hm])]
  split
  · rw [sout_updSout, if_pos rfl]
  · next h => simpa [may, x, hm] using h

/-- SAF_SOUT_SET arms the outputs whose bits it sets, but those that are latched. -/
def soutArm (m : Mask) (d : Word) (s : State) : State :=
  forAll ((List.range 4).filter fun o => m.getLsbD 0 && d.getLsbD o)
    (fun o => updSout o (fun y => { y with armed := y.armed || !((fld s SAF_LATCH_SOUTF).testBit o) }))
    (putCl SAF_SOUT_SET (clWord s SAF_SOUT_SET m d) s)

theorem soutApply_eq (m : Mask) (d : Word) (s : State) :
    soutApply m d s = forAll (List.range 4) (soutRefresh s.now) (soutArm m d s) := rfl

theorem soutArm_only (m : Mask) (d : Word) (s : State) :
    OnlySouts (putCl SAF_SOUT_SET (clWord s SAF_SOUT_SET m d) s) (soutArm m d s) :=
  onlySouts_forAll (fun _ _ => onlySouts_updSout ..) _

theorem soutApply_only (m : Mask) (d : Word) (s : State) :
    OnlySouts (putCl SAF_SOUT_SET (clWord s SAF_SOUT_SET m d) s) (soutApply m d s) :=
  (soutArm_only m d s).trans (onlySouts_forAll (onlySouts_soutRefresh s.now) _)

theorem soutArm_armed {m : Mask} {d : Word} {o : Nat} (ho : o < 4) (hm : m.getLsbD 0 = true) (hd : d.getLsbD o = true)
    (hl : (fld s SAF_LATCH_SOUTF).testBit o = false) : (sout (soutArm m d s) o).armed = true := by
  have hmem : o ∈ (List.range 4).filter fun o => m.getLsbD 0 && d.getLsbD o :=
    List.mem_filter.mpr ⟨List.mem_range.mpr ho, by rw [hm, hd]; rfl⟩
  refine forAll_reaches (fun y => (sout y o).armed = true) hmem (fun y => ?_) (fun b y h => ?_) _
  · rw [sout_updSout, if_pos rfl, hl]
    exact Bool.or_true _
  · rw [sout_updSout]
    split
    · next e => rw [← e, h, Bool.true_or]
    · exact h

/-- The turn of output `o` as the outputs follow an applied SAF_SOUT_SET. -/
theorem soutApply_turn (m : Mask) (d : Word) (s : State) {o : Nat} (ho : o < 4) : ∃ y : State,
    OnlySouts (putCl SAF_SOUT_SET (clWord s SAF_SOUT_SET m d) s) y ∧ sout y o = sout (soutArm m d s) o ∧
    sout (soutApply m d s) o = sout (soutRefresh s.now o y) o := by
  obtain ⟨l, r, hl, hr, hsplit⟩ := forAll_split (List.mem_range.mpr ho) List.nodup_range
  have hkeep (zs : List Nat) (hz : o ∉ zs) (y : State) : sout (forAll zs (soutRefresh s.now) y) o = sout y o :=
    forAll_same (sout · o) zs _ (fun k hk y => sout_soutRefresh_ne s.now (fun e : o = k => hz (e ▸ hk)) y) y
  exact ⟨_, (soutArm_only m d s).trans (onlySouts_forAll (onlySouts_soutRefresh s.now) _), hkeep l hl _,
    by rw [soutApply_eq, hsplit, hkeep r hr]⟩

/-- The bits of ON after SAF_SOUT_SET has been applied are those of the applied word. -/
theorem fld_putCl_soutSet (v : Word) (s : State) :
    fld (putCl SAF_SOUT_SET v s) SAF_SOUT_SET_ON = SAF_SOUT_SET_ON.of v := by
  have hk : keepMask SAF_SOUT_SET = 2 ^ 4 - 1 := by decide
  have hv : v.toNat % 2 ^ 4 < 2 ^ 32 := by omega
  change bits (reg (setReg SAF_SOUT_SET _ s) SAF_SOUT_SET).toNat 0 4 = bits v.toNat 0 4
  rw [reg_setReg_same, hk, Nat.and_two_pow_sub_one_eq_mod, BitVec.toNat_ofNat, Nat.mod_eq_of_lt hv]
  simp only [bits, Nat.shiftRight_zero, Nat.mod_mod]

/-- Whether an output may be on after SAF_SOUT_SET has been applied. -/
theorem soutMay_applied {v : Word} {o : Nat} (h : OnlySouts (putCl SAF_SOUT_SET v s) y) : soutMay y o =
    (s.saf.sstate != 0 && lflag s (SAF_SOUT_CFG_EN o) && (SAF_SOUT_SET_ON.of v).testBit o &&
      !((fld s SAF_LATCH_SOUTF).testBit o) && (sout y o).armed) := by
  obtain ⟨so, rfl⟩ := h
  have hlatch : fld (putCl SAF_SOUT_SET v s) SAF_LATCH_SOUTF = fld s SAF_LATCH_SOUTF :=
    congrArg (Fld.of _) (reg_setReg_ne s _ (by decide))
  rw [← fld_putCl_soutSet v s, ← hlatch]
  rfl

/-- SAF_SOUT_SET energises an output that is no brake's. -/
theorem soutSet_energises (m : Mask) (d : Word) (s : State) (o : Nat) (ho : o < 4) (hm : m.getLsbD 0 = true)
    (hd : d.getLsbD o = true) (hb : s.saf.sstate ≠ 0) (hen : lflag s (SAF_SOUT_CFG_EN o) = true)
    (hsbc : lflag s (SAF_SOUT_CFG_SBC o) = false) (hl : (fld s SAF_LATCH_SOUTF).testBit o = false)
    (hon : (SAF_SOUT_SET_ON.of (clWord s SAF_SOUT_SET m d)).testBit o = true) : ∃ x : State,
    exec (.soutSet m d) s = .next x ∧ (sout x o).on = true ∧ (sout x o).armed = true ∧
    (∀ a, a ≠ SAF_SOUT_SET → reg x a = reg s a) ∧ x.legs = s.legs ∧ x.grps = s.grps := by
  obtain ⟨y, hy, hsout, hturn⟩ := soutApply_turn m d s ho
  have harm : (sout y o).armed = true := hsout ▸ soutArm_armed ho hm hd hl
  have hbrake : brakeDue y o s.now = false := by
    obtain ⟨so, rfl⟩ := hy
    exact (Bool.and_eq_false_iff).mpr (.inl hsbc)
  obtain ⟨h1, h2⟩ := soutRefresh_on (t := s.now) (by rw [soutMay_applied hy, harm, hen, hl, hon]; simp [hb]) hbrake
  obtain ⟨so, hx⟩ := soutApply_only m d s
  refine ⟨soutApply m d s, rfl, (congrArg SoutSt.on hturn).trans h1,
    (congrArg SoutSt.armed hturn).trans (h2.trans harm), fun a ha => ?_, by rw [hx]; rfl, by rw [hx]; rfl⟩
  rw [hx]
  exact reg_setReg_ne s _ ha

/-- SAF_SOUT_SET switches an output off that it takes the bit of away. -/
theorem soutSet_switchesOff (m : Mask) (d : Word) (s : State) (o : Nat) (ho : o < 4)
    (hoff : (SAF_SOUT_SET_ON.of (clWord s SAF_SOUT_SET m d)).testBit o = false) : ∃ x : State,
    exec (.soutSet m d) s = .next x ∧ (sout x o).on = false ∧ x.legs = s.legs ∧ x.grps = s.grps := by
  obtain ⟨y, hy, -, hturn⟩ := soutApply_turn m d s ho
  have h1 := soutRefresh_off (t := s.now) (s := y) (o := o) (by rw [soutMay_applied hy, hoff]; simp)
  obtain ⟨so, hx⟩ := soutApply_only m d s
  exact ⟨soutApply m d s, rfl, (congrArg SoutSt.on hturn).trans h1, by rw [hx]; rfl, by rw [hx]; rfl⟩

/-- A test pulse on the other pin, from `t` to `e`. -/
def SoutSt.pulse (t e : Time) (x : SoutSt) : SoutSt := { x with testAt := t, testB := !x.testB, testEnd := e }

theorem exec_soutTestPulse (o : Fin 4) (t : Time) (s : State) (hon : (sout s o.val).on = true)
    (ht : (sout s o.val).testAt + lfld s (SAF_SOUT_CFG_TPP o.val) * ms ≤ t) : exec (.soutTestPulse o t) s =
      .next (updSout o.val (SoutSt.pulse t (t + lfld s (SAF_SOUT_CFG_TPW o.val) * us)) (upto t s)) := by
  change execSoutTestPulse o t s = _
  dsimp only [execSoutTestPulse]
  rw [if_pos (by rw [hon, decide_eq_true ht]; rfl)]
  rfl

theorem soutTestPulse_pulses (o : Fin 4) (t : Time) (s : State) (hon : (sout s o.val).on = true)
    (ht : (sout s o.val).testAt + lfld s (SAF_SOUT_CFG_TPP o.val) * ms ≤ t) : ∃ x : State,
    exec (.soutTestPulse o t) s = .next x ∧ (sout x o.val).testAt = t ∧
    (sout x o.val).testB = !(sout s o.val).testB ∧
    (sout x o.val).testEnd = t + lfld s (SAF_SOUT_CFG_TPW o.val) * us ∧ (sout x o.val).on = true ∧
    (∀ k, k ≠ o.val → sout x k = sout s k) ∧ x.regs = s.regs := by
  have hother (k : Nat) (hk : k ≠ o.val) (f : SoutSt → SoutSt) : sout (updSout o.val f (upto t s)) k = sout s k := by
    rw [sout_updSout, if_neg hk, sout_upto]
  refine ⟨_, exec_soutTestPulse o t s hon ht, ?_, ?_, ?_, ?_, fun k hk => hother k hk _, rfl⟩ <;>
    rw [sout_updSout, if_pos rfl]
  exacts [rfl, rfl, rfl, hon]

/-- A read-back of an energised output that is not low within 50 µs of its pin's test pulse, or is low for more than
10 µs on the other pin, fails (R353). -/
theorem rbFails_of {z : SoutSt} {pinB rb : Bool} {h : Time} (hon : z.on = true)
    (hf : z.testB = pinB ∧ z.testAt < z.testEnd ∧ rb = true ∧ h ≤ z.testAt ∧ z.testAt + 50 * us ≤ t ∨
      z.testB ≠ pinB ∧ rb = false ∧ max h z.onAt + 10 * us < t) : rbFails z pinB rb h t = true := by
  unfold rbFails
  rcases hf with ⟨h1, h2, h3, h4, h5⟩ | ⟨h1, h2, h3⟩
  · simp [hon, h1, h2, h3, h4, h5]
  · simp [hon, h1, h2, h3]

theorem rbFails_off {z : SoutSt} {pinB rb : Bool} {h : Time} (hon : z.on = false) : rbFails z pinB rb h t = false := by
  simp only [rbFails, hon, Bool.false_and]

theorem latchSoutf_fits : SAF_LATCH_SOUTF.fits := by unfold Fld.fits; decide

/-- An output whose read-back has failed. -/
def SoutSt.failed (x : SoutSt) : SoutSt := { x with on := false, armed := false }

theorem exec_soutFault (o : Fin 4) (r : ReadBack) (s : State) (hb : s.saf.sstate ≠ 0)
    (hen : lflag s (SAF_SOUT_CFG_EN o.val) = true) (hl : (fld s SAF_LATCH_SOUTF).testBit o.val = false)
    (hf : rbFails (sout s o.val) r.pinB r.level r.span.since r.span.till = true) :
    exec (.soutFault o r) s = .next (raise (426 + o.val) (setFldBit SAF_LATCH_SOUTF o.val true
      (updSout o.val SoutSt.failed (upto r.span.till s)))) := by
  change execSoutFault o r s = _
  dsimp only [execSoutFault]
  rw [if_pos (by rw [hf, hen, hl, bne_iff_ne.mpr hb]; rfl)]
  rfl

/-- A read-back that fails switches the output off, with its latch and event. -/
theorem soutFault_latches (o : Fin 4) (pinB rb : Bool) (h t : Time) (s : State) (y : SoutSt) (hb : s.saf.sstate ≠ 0)
    (hen : lflag s (SAF_SOUT_CFG_EN o.val) = true) (hl : (fld s SAF_LATCH_SOUTF).testBit o.val = false)
    (hy : y = sout s o.val) (hon : y.on = true)
    (hf : y.testB = pinB ∧ y.testAt < y.testEnd ∧ rb = true ∧ h ≤ y.testAt ∧ y.testAt + 50 * us ≤ t ∨
      y.testB ≠ pinB ∧ rb = false ∧ max h y.onAt + 10 * us < t) : ∃ x : State,
    exec (.soutFault o ⟨pinB, rb, h, t⟩) s = .next x ∧ (sout x o.val).on = false ∧ Pends (426 + o.val) s x ∧
    (sout x o.val).armed = false ∧ (fld x SAF_LATCH_SOUTF).testBit o.val = true ∧
    (∀ k, k ≠ o.val → sout x k = sout s k) ∧ RegsBut [SAF_LATCH] s x := by
  have hset : RegsBut [SAF_LATCH] s (setFldBit SAF_LATCH_SOUTF o.val true s) := regsBut_setFld SAF_LATCH_SOUTF _ s
  have hsout (k : Nat) : sout (setFldBit SAF_LATCH_SOUTF o.val true (updSout o.val SoutSt.failed (upto t s))) k =
      if k = o.val then (sout s o.val).failed else sout s k := by
    rw [sout_setFldBit, sout_updSout, sout_upto, sout_upto]
  refine ⟨_, exec_soutFault o ⟨pinB, rb, h, t⟩ s hb hen hl (hy ▸ rbFails_of hon hf),
    by rw [sout_raise, hsout, if_pos rfl]; rfl,
    pends_of_raise (fun _ _ _ h => h) ⟨rfl, rfl, rfl, fun a ha => ?_⟩, by rw [sout_raise, hsout, if_pos rfl]; rfl, ?_,
    fun k hk => by rw [sout_raise, hsout, if_neg hk], RegsBut.trans hset (regsBut_raise _ _)⟩
  · exact reg_setFld_ne s SAF_LATCH_SOUTF _ a fun e => absurd (e ▸ ha) (by decide)
  · rw [fld_raise _ _ _ (by decide) (by decide)]
    exact (testBit_setFldBit s latchSoutf_fits true o.isLt).trans (if_pos rfl)

theorem soutFault_off (o : Fin 4) (pinB rb : Bool) (h t : Time) (s : State) (hoff : (sout s o.val).on = false) :
    exec (.soutFault o ⟨pinB, rb, h, t⟩) s = .next (upto t s) := by
  change execSoutFault o _ s = _
  dsimp only [execSoutFault]
  rw [rbFails_off hoff, Bool.and_false, if_neg Bool.false_ne_true]

/-- A brake output falls SBCDLY after an STO demand. -/
theorem sbcDeenergise_falls (o : Fin 4) (t : Time) (s : State) (hon : (sout s o.val).on = true)
    (hb : brakeDue s o.val t = true) : ∃ x : State, exec (.sbcDeenergise o t) s = .next x ∧
    (sout x o.val).on = false ∧ (∀ k, k ≠ o.val → sout x k = sout s k) ∧ x.regs = s.regs ∧ x.legs = s.legs := by
  refine ⟨_, congrArg Host.Outcome.next (if_pos (by rw [hon, hb]; rfl)), ?_, fun k hk => ?_, rfl, rfl⟩
  · rw [sout_updSout, if_pos rfl]
  · rw [sout_updSout, if_neg hk, sout_upto]

theorem latchClearSoutf_clears (o : Fin 4) (s : State) : ∃ x : State, exec (.latchClearSoutf o) s = .next x ∧
    (fld x SAF_LATCH_SOUTF).testBit o.val = false ∧ (∀ k, sout x k = sout s k) ∧
    (∀ a, a ≠ SAF_LATCH → reg x a = reg s a) :=
  ⟨setFldBit SAF_LATCH_SOUTF o.val false s, rfl, (testBit_setFldBit s latchSoutf_fits false o.isLt).trans (if_pos rfl),
    fun k => sout_setFldBit s _ _ _ k,
    fun a ha => reg_setFld_ne s SAF_LATCH_SOUTF _ a ha⟩

end

/-- Settles O44: an input that begins to demand acts before `refresh`, which takes nothing of it back (`Follows`,
`Acts`); an output follows its conditions in its own turn, which the turns of the others leave alone. -/
theorem safeInputsAndOutputs : Obligations.SafeInputsAndOutputs := by
  unfold Obligations.SafeInputsAndOutputs
  exact ⟨⟨safeInputDemand_kind, safeInputDemand_timers, safeInputDemand_discharge, safeInputDemandEnd_ends,
      sinDiscrepancy_latches, sinDiscrepancy_waits, fun _ _ _ => safReady_disc, latchClearSind_clears,
      latchClearSind_held⟩,
    soutSet_energises, soutSet_switchesOff, soutTestPulse_pulses, soutFault_latches, soutFault_off, sbcDeenergise_falls,
    latchClearSoutf_clears⟩

end Sys2Proof.Machine
end

section
namespace Sys2Proof.Machine
open Sys2Proof Sys2Proof.Claim

/-! ### What the leg guard's faults leave standing (R234, R236, R245) -/

/-- The leg guard has acted on a fault of a cluster in `C`: no latch, hold or HARD that stood is lost, and of the
registers only latches of events and the count of dropped ones have changed. -/
structure Guards (C : Nat → Prop) (s x : State) : Prop where
  frame : ∃ r o n m g k, x = { s with regs := r, observed := o, spn := n, legs := m, grps := g, cls := k }
  regs : RegsBut [] s x
  clusters : ∀ c, ¬ C c → cl x c = cl s c
  latch : ∀ l, (leg s l).latch = true → (leg x l).latch = true
  hold : ∀ g, (grp s g).hold = true → (grp x g).hold = true
  hard : ∀ g, (grp s g).hard = true → (grp x g).hard = true

namespace Guards
section
variable {C : Nat → Prop} {s x y : State}

theorem refl (s : State) : Guards C s s :=
  ⟨⟨_, _, _, _, _, _, rfl⟩, RegsBut.refl s, fun _ _ => rfl, fun _ => id, fun _ => id, fun _ => id⟩

theorem trans (h : Guards C s x) (k : Guards C x y) : Guards C s y where
  frame := by
    obtain ⟨_, _, _, _, _, _, rfl⟩ := h.frame
    obtain ⟨r, o, n, m, g, c, e⟩ := k.frame
    exact ⟨r, o, n, m, g, c, e⟩
  regs := RegsBut.trans h.regs k.regs
  clusters c hc := (k.clusters c hc).trans (h.clusters c hc)
  latch l := k.latch l ∘ h.latch l
  hold g := k.hold g ∘ h.hold g
  hard g := k.hard g ∘ h.hard g

theorem mem (h : Guards C s x) : x.mem = s.mem := by obtain ⟨_, _, _, _, _, _, rfl⟩ := h.frame; rfl

theorem clLegs (h : Guards C s x) (c : Nat) : clLegs x c = clLegs s c := by
  obtain ⟨_, _, _, _, _, _, rfl⟩ := h.frame
  rfl

theorem updLeg {l : Nat} {f : LegSt → LegSt} (h : Guards C s x)
    (hf : ∀ z : LegSt, z.latch = true → (f z).latch = true) : Guards C s (updLeg l f x) :=
  h.trans { refl x with
    frame := ⟨_, _, _, _, _, _, rfl⟩
    latch := fun k hk => by
      rw [leg_updLeg]
      split
      · next e => exact e ▸ hf _ hk
      · exact hk }

theorem updGrp {g : Nat} {f : GrpSt → GrpSt} (h : Guards C s x)
    (hf : ∀ z : GrpSt, (z.hold = true → (f z).hold = true) ∧ (z.hard = true → (f z).hard = true)) :
    Guards C s (updGrp g f x) :=
  h.trans { refl x with
    frame := ⟨_, _, _, _, _, _, rfl⟩
    hold := fun k hk => by
      rw [grp_updGrp]
      split
      · next e => exact e ▸ (hf _).1 hk
      · exact hk
    hard := fun k hk => by
      rw [grp_updGrp]
      split
      · next e => exact e ▸ (hf _).2 hk
      · exact hk }

theorem updCl {c : Nat} {f : ClSt → ClSt} (h : Guards (· = c) s x) : Guards (· = c) s (updCl c f x) :=
  h.trans { refl (C := (· = c)) x with
    frame := ⟨_, _, _, _, _, _, rfl⟩
    clusters := fun k hk => by rw [cl_updCl, if_neg hk] }

theorem raise {e : Nat} (h : Guards C s x) : Guards C s (raise e x) :=
  h.trans {
    frame := by
      obtain ⟨r, o, n, h⟩ := raise_frame e x
      exact ⟨r, o, n, x.legs, x.grps, x.cls, h⟩
    regs := regsBut_raise e x
    clusters := fun _ _ => cl_raise ..
    latch := fun _ h => by rwa [leg_raise]
    hold := fun _ h => by rwa [grp_raise]
    hard := fun _ h => by rwa [grp_raise] }

theorem forAll {α : Type} {xs : List α} {f : α → State → State} (h : Guards C s x)
    (hf : ∀ a y, Guards C s y → Guards C s (f a y)) : Guards C s (forAll xs f x) :=
  forAll_keeps (Guards C s) xs f (fun a _ => hf a) x h

theorem ite {c : Prop} [Decidable c] (h : Guards C s x) (k : Guards C s y) : Guards C s (if c then x else y) := by
  split
  exacts [h, k]

end
end Guards

section
variable {C : Nat → Prop} {s x : State} {c l g : Nat} {t : Time}

/-! #### Legs -/

theorem LegSt.off_latch (x : LegSt) (sd : Side) (t : Time) : (x.off sd t).latch = x.latch := by
  unfold LegSt.off
  dsimp only
  split <;> cases sd <;> rfl

theorem legLow_guards (h : Guards C s x) : Guards C s (legLow t l x) :=
  Guards.updLeg h fun z hz => ((LegSt.off_latch _ .low t).trans (z.off_latch .high t)).trans hz

theorem legFault_guards {i : Nat} (h : Guards C s x) : Guards C s (legFault i l x) :=
  .raise (.updLeg h fun _ => id)

theorem setLatch_guards (h : Guards C s x) : Guards C s (setLatch l x) :=
  .ite h (.raise (.updLeg h fun _ _ => rfl))

theorem setLatch_latch (l : Nat) (s : State) : (leg (setLatch l s) l).latch = true := by
  unfold setLatch
  split
  · assumption
  · rw [leg_raise, leg_updLeg, if_pos rfl]

/-! #### Groups -/

theorem step1_guards (h : Guards C s x) : Guards C s (step1 t g x) :=
  .updGrp (.forAll h fun _ _ => legLow_guards) fun _ => ⟨id, id⟩

theorem runSeq_guards (h : Guards C s x) : Guards C s (runSeq t g x) :=
  .raise (step1_guards (.updGrp h fun _ => ⟨id, id⟩))

theorem enterHold_guards {cause : Nat} {soft : Bool} (h : Guards C s x) : Guards C s (enterHold cause soft t g x) := by
  unfold enterHold
  extract_lets y x1
  have h1 : Guards C s x1 := .updGrp h fun _ => ⟨fun _ => rfl, id⟩
  refine .ite (.updGrp h fun _ => ⟨id, id⟩) (runSeq_guards (.forAll h1 fun _ _ hy => .updLeg hy fun _ hz => ?_))
  split <;> exact hz

theorem enterHold_hold (cause : Nat) (soft : Bool) (t : Time) (g : Nat) (s : State) :
    (grp (enterHold cause soft t g s) g).hold = true := by
  rcases h : (grp s g).hold && (grp s g).step != 6
  · exact (enterHold_starts cause soft t h).2
  · exact (enterHold_guards (C := fun _ => True) (.refl s)).hold g (Bool.and_eq_true_iff.mp h).1

theorem restart_guards (h : Guards C s x) : Guards C s (restart t g x) :=
  .ite h (step1_guards (.updGrp h fun _ => ⟨id, id⟩))

theorem followHold_guards (h : Guards C s x) : Guards C s (followHold g x) :=
  .ite (runSeq_guards (.forAll h fun _ _ hy => .updLeg hy fun _ => id)) h

theorem setHard_guards (h : Guards C s x) : Guards C s (setHard g x) :=
  .ite h (followHold_guards (.raise (.updGrp h fun _ => ⟨id, fun _ => rfl⟩)))

theorem setHard_hard (g : Nat) (s : State) : (grp (setHard g s) g).hard = true := by
  unfold setHard
  split
  · assumption
  · refine (followHold_guards (C := fun _ => True) (.refl _)).hard g ?_
    rw [grpEvent, grp_raise, grp_updGrp, if_pos rfl]

theorem spread_guards (h : Guards C s x) : Guards C s (spread t g x) :=
  .ite (.forAll h fun _ _ hy => .updGrp (enterHold_guards hy) fun _ => ⟨id, id⟩) h

theorem faultHold_guards {cause : Nat} (h : Guards C s x) : Guards C s (faultHold cause t g x) :=
  .ite (restart_guards (enterHold_guards h)) (.ite (enterHold_guards h) h)

theorem countEsc_guards {cause : Nat} (h : Guards C s x) : Guards C s (countEsc cause t g x) := by
  unfold countEsc
  extract_lets y near hist x1 win esc x2
  have h1 : Guards C s x1 := .updGrp h fun _ => ⟨id, id⟩
  have h2 : Guards C s x2 := enterHold_guards h1
  exact .ite h (.ite (.ite h2 (followHold_guards (.raise (.updGrp h2 fun _ => ⟨id, id⟩)))) h1)

theorem clusterFault_guards (h : Guards C s x) : Guards C s (clusterFault t g x) :=
  spread_guards (faultHold_guards (countEsc_guards h))

theorem hardHold_guards (h : Guards C s x) : Guards C s (hardHold t g x) :=
  setHard_guards (spread_guards (enterHold_guards h))

/-- A hard fault of its cluster holds a group, and makes it HARD. -/
theorem hardHold_hard (t : Time) (g : Nat) (s : State) :
    (grp (hardHold t g s) g).hold = true ∧ (grp (hardHold t g s) g).hard = true :=
  ⟨(setHard_guards (spread_guards (C := fun _ => True) (.refl _))).hold g (enterHold_hold 2 false t g s),
    setHard_hard g _⟩

/-! #### Clusters -/

theorem endAsk_guards (h : Guards (· = c) s x) : Guards (· = c) s (endAsk t c x) := by
  unfold endAsk
  split
  · exact .ite h (.ite (legFault_guards (.updCl h)) (.updCl h))
  · exact h

theorem beginPoll_guards {fault : Bool} (h : Guards (· = c) s x) : Guards (· = c) s (beginPoll fault t c x) := by
  unfold beginPoll
  exact .updCl (endAsk_guards h)

theorem startPoll_guards {fault : Bool} (h : Guards (· = c) s x) : Guards (· = c) s (startPoll fault t c x) := by
  unfold startPoll
  split
  · exact h
  · split
    · exact beginPoll_guards h
    · exact .ite (.updCl h) (.updCl h)

/-- The gates of a cluster whose fault line falls are low, before its latches, groups and bus follow. -/
def fltLow (c : Nat) (t : Time) (s : State) : State :=
  forAll (those 96 fun l => l / 6 == c) (legLow t)
    (updCl c (fun x => { x with low := true, lowAt := t, hardDone := false, clean := false, dirty := true }) s)

/-- The latches of its enabled legs are set. -/
def fltLatched (c : Nat) (t : Time) (s : State) : State := forAll (clLegs s c) setLatch (fltLow c t s)

theorem fltFall_eq (c : Nat) (t : Time) (s : State) : fltFall c t s = startPoll true t c
    (raise (96 + c) (forAll (clGrps s c) (clusterFault t) (fltLatched c t s))) := rfl

theorem fltLow_guards (h : Guards (· = c) s x) : Guards (· = c) s (fltLow c t x) :=
  .forAll (.updCl h) fun _ _ => legLow_guards

/-- What follows the latches in a fall of a fault line. -/
theorem fltFall_guards_latched (h : Guards (· = c) s (fltLatched c t x)) : Guards (· = c) s (fltFall c t x) := by
  rw [fltFall_eq]
  exact startPoll_guards (.raise (.forAll h fun _ _ => clusterFault_guards))

theorem fltFall_guards (h : Guards (· = c) s x) : Guards (· = c) s (fltFall c t x) :=
  fltFall_guards_latched (.forAll (fltLow_guards h) fun _ _ => setLatch_guards)

/-- A fall of a fault line sets the latches of the cluster's enabled legs (R244). -/
theorem fltFall_latch (t : Time) (h : l ∈ clLegs s c) : (leg (fltFall c t s) l).latch = true :=
  (fltFall_guards_latched (.refl _)).latch l <|
    forAll_reaches (fun y => (leg y l).latch = true) h (setLatch_latch l)
      (fun _ y => (setLatch_guards (C := fun _ => True) (.refl y)).latch l) _

/-- Where no gate rises, a leg whose gates are off keeps them off. -/
theorem GatesFall.gatesOff (h : GatesFall s.legs x.legs) (hl : GatesOff s l) : GatesOff x l :=
  ⟨Bool.eq_false_iff.mpr fun e => Bool.eq_false_iff.mp hl.1 (h l .high e),
   Bool.eq_false_iff.mpr fun e => Bool.eq_false_iff.mp hl.2 (h l .low e)⟩

/-- A fall of a fault line turns every gate of the cluster off (R234). -/
theorem fltFall_gatesOff (t : Time) (s : State) (hl : l < 96) (hc : l / 6 = c) : GatesOff (fltFall c t s) l := by
  have hlow : GatesOff (fltLow c t s) l :=
    forAll_reaches (GatesOff · l) (mem_those.mpr ⟨hl, decide_eq_true hc⟩) (legLow_off t l)
      (fun _ y => (legLow_falls (.refl y.legs)).gatesOff) _
  rw [fltFall_eq]
  refine GatesFall.gatesOff (startPoll_falls (GatesFall.of_legs ?_ (raise_legs ..))) hlow
  exact forAll_falls (fun _ _ _ => clusterFault_falls) (forAll_falls (fun _ _ _ => setLatch_falls) (.refl _))

end

end Sys2Proof.Machine
end

section
namespace Sys2Proof.Machine
open Sys2Proof Sys2Proof.Claim

/-! ### Bank monitors (R482) -/

section
variable {C : Nat → Prop} {c l g : Nat} {t : Time} {s y : State}

/-- The brown-out of a bank is noted in its bit, with its event. -/
def borNoted (c : Nat) (t : Time) (s : State) : State := raise 612 (setFldBit PWR_BANK_BOR c true (upto t s))

/-- The fall of a fault line that the brown-out acts as; the line's own level is as it was. -/
def borFallen (c : Nat) (t : Time) (s : State) : State :=
  updCl c (fun y => { y with low := (cl s c).low, lowAt := (cl s c).lowAt, hardDone := (cl s c).hardDone })
    (fltFall c t (borNoted c t s))

/-- The hard fault of the cluster's groups, which comes with it. -/
def borHard (c : Nat) (t : Time) (s : State) : State :=
  raise (96 + c) (forAll (clGrps s c) (hardHold t) (borFallen c t s))

theorem exec_pwrBankBor (c : Fin 16) (t : Time) (s : State) (h : hasCluster s c.val = true) :
    exec (.pwrBankBor c t) s = .next (borHard c.val t s) := congrArg Host.Outcome.next (if_pos h)

theorem borFallen_guards (h : Guards (· = c) y (fltFall c t (borNoted c t s))) : Guards (· = c) y (borFallen c t s) :=
  .updCl h

theorem borHard_guards (h : Guards C y (borFallen c t s)) : Guards C y (borHard c t s) :=
  .raise (.forAll h fun _ _ => hardHold_guards)

theorem borHard_guards_bit (c : Nat) (t : Time) (s : State) :
    Guards (· = c) (setFldBit PWR_BANK_BOR c true (upto t s)) (borHard c t s) :=
  borHard_guards (borFallen_guards (fltFall_guards (.raise (.refl _))))

theorem bankBor_fits : PWR_BANK_BOR.fits := by unfold Fld.fits; decide

theorem borHard_bit (t : Time) (s : State) (hc : c < 16) : (fld (borHard c t s) PWR_BANK_BOR).testBit c = true := by
  rw [RegsBut.fld (borHard_guards_bit c t s).regs (by decide) (by decide) List.not_mem_nil]
  exact (testBit_setFldBit (upto t s) bankBor_fits true hc).trans (if_pos rfl)

/-- The hard fault of the groups leaves the lines of all clusters alone. -/
theorem borHard_low (c : Nat) (t : Time) (s : State) : (cl (borHard c t s) c).low = (cl s c).low := by
  rw [(borHard_guards (C := fun _ => False) (.refl _)).clusters c id, borFallen, cl_updCl, if_pos rfl]

theorem borHard_gatesOff (t : Time) (s : State) (hl : l < 96) (hc : l / 6 = c) : GatesOff (borHard c t s) l := by
  refine GatesFall.gatesOff (s := fltFall c t (borNoted c t s)) ?_ (fltFall_gatesOff t _ hl hc)
  rw [borHard, raise_legs]
  exact forAll_falls (fun _ _ _ => hardHold_falls) (.refl (fltFall c t (borNoted c t s)).legs)

theorem borHard_latch (t : Time) (h : l ∈ clLegs s c) : (leg (borHard c t s) l).latch = true := by
  have hlegs : clLegs (borNoted c t s) c = clLegs s c := (Guards.raise (C := (· = c)) (.refl _)).clLegs c
  exact (borHard_guards (borFallen_guards (.refl _))).latch l (fltFall_latch t (hlegs ▸ h))

theorem borHard_hard (t : Time) (h : g ∈ clGrps s c) :
    (grp (borHard c t s) g).hold = true ∧ (grp (borHard c t s) g).hard = true := by
  rw [borHard, grp_raise]
  refine forAll_reaches (fun y => (grp y g).hold = true ∧ (grp y g).hard = true) h (hardHold_hard t g)
    (fun k y hy => ?_) _
  have hk := hardHold_guards (C := fun _ => True) (t := t) (g := k) (.refl y)
  exact ⟨hk.hold g hy.1, hk.hard g hy.2⟩

theorem pwrBankBor_acts (c : Fin 16) (t : Time) (s : State) (h : hasCluster s c.val = true) : ∃ x,
    exec (.pwrBankBor c t) s = .next x ∧ (fld x PWR_BANK_BOR).testBit c.val = true ∧
    (cl x c.val).low = (cl s c.val).low ∧
    (∀ l, l < 96 → l / 6 = c.val → (leg x l).h.on = false ∧ (leg x l).l.on = false) ∧
    (∀ l ∈ clLegs s c.val, (leg x l).latch = true) ∧
    (∀ g ∈ clGrps s c.val, (grp x g).hold = true ∧ (grp x g).hard = true) ∧ x.mem = s.mem :=
  ⟨_, exec_pwrBankBor c t s h, borHard_bit t s c.isLt, borHard_low c.val t s, fun _ => borHard_gatesOff t s,
    fun _ => borHard_latch t, fun _ => borHard_hard t, (borHard_guards_bit c.val t s).mem⟩

end

/-! ### Logic-supply hand-over (R483 to R487) -/

section
variable {s x y : State} {t : Time}

/-- What the hand-over logic leaves alone: the accepted levels, SRC_SEL, the memories and the legs. -/
structure SuppliesStay (s x : State) : Prop where
  mainOk : x.pwr.mainOk = s.pwr.mainOk
  bkupOk : x.pwr.bkupOk = s.pwr.bkupOk
  src : x.pwr.src = s.pwr.src
  mem : x.mem = s.mem
  legs : x.legs = s.legs

theorem SuppliesStay.refl (s : State) : SuppliesStay s s := ⟨rfl, rfl, rfl, rfl, rfl⟩

theorem SuppliesStay.ite {c : Prop} [Decidable c] (h : SuppliesStay s x) (k : SuppliesStay s y) :
    SuppliesStay s (if c then x else y) := by
  split
  exacts [h, k]

theorem suppliesStay_raise {e : Nat} (h : SuppliesStay s x) : SuppliesStay s (raise e x) := by
  obtain ⟨h1, h2, h3, h4, h5⟩ := h
  exact ⟨by rwa [raise_pwr], by rwa [raise_pwr], by rwa [raise_pwr], by rwa [raise_mem], by rwa [raise_legs]⟩

/-- A hand-over that starts raises HOLD_REQ and changes no source yet. -/
theorem hoStart_stays (forced : Bool) (t : Time) (s : State) : SuppliesStay s (hoStart forced t s) :=
  suppliesStay_raise ⟨rfl, rfl, rfl, rfl, rfl⟩

theorem hoStart_holds (forced : Bool) (t : Time) (s : State) : (hoStart forced t s).pwr.stage = .hold ∧
    (hoStart forced t s).pwr.forced = forced ∧ (hoStart forced t s).pwr.holdReq = true := by
  unfold hoStart
  rw [raise_pwr]
  exact ⟨rfl, rfl, rfl⟩

/-- Both sources are lost: HOLD_REQ is high and SRC_SEL stays (R487). -/
def hoLost (s : State) : State := raise 611 (updPwr (fun p => { p with stage := .lost, holdReq := true }) s)

theorem hoLost_stays (s : State) : SuppliesStay s (hoLost s) := suppliesStay_raise ⟨rfl, rfl, rfl, rfl, rfl⟩

theorem hoLost_pwr (s : State) : (hoLost s).pwr = { s.pwr with stage := .lost, holdReq := true } := raise_pwr ..

theorem hoCheck_good (h : selOk s.pwr = true) : hoCheck t s = s := if_pos h

theorem hoCheck_bad (h : selOk s.pwr = false) :
    hoCheck t s = if othOk s.pwr then hoStart true t s else hoLost s := if_neg (Bool.eq_false_iff.mp h)

theorem hoCheck_stays (t : Time) (s : State) : SuppliesStay s (hoCheck t s) :=
  .ite (.refl s) (.ite (hoStart_stays true t s) (hoLost_stays s))

/-- The level `v` of MAIN_OK, or with `bkup` of BKUP_OK, is accepted at `t`. -/
def okTaken (bkup v : Bool) (t : Time) (s : State) : State :=
  updPwr (fun p => { p with
    mainOk := if bkup then p.mainOk else v
    bkupOk := if bkup then v else p.bkupOk
    mainSince := if bkup then p.mainSince else if v then some t else none }) (upto t s)

/-- A level that differs and has passed the filter is accepted. -/
theorem okAccept_due (bkup : Bool) {v : Bool} {e : Time} (hv : (if bkup then s.pwr.bkupOk else s.pwr.mainOk) ≠ v)
    (h : okHeld s (max e s.pwr.railsFrom) t = true) :
    ¬ ((if bkup then s.pwr.bkupOk else s.pwr.mainOk) = v ∨ okHeld s (max e s.pwr.railsFrom) t = false) :=
  not_or.mpr ⟨hv, ne_false_of_eq_true h⟩

/-- What the hand-over logic does with an accepted level leaves SRC_SEL and the levels as they are. -/
theorem okAccept_stays (bkup : Bool) {v : Bool} {e : Time} (hv : (if bkup then s.pwr.bkupOk else s.pwr.mainOk) ≠ v)
    (h : okHeld s (max e s.pwr.railsFrom) t = true) : ∃ x, exec (.okAccept bkup v ⟨e, t⟩) s = .next x ∧
    SuppliesStay (okTaken bkup v t s) x := by
  refine ⟨_, congrArg Host.Outcome.next (if_neg (okAccept_due bkup hv h)), ?_⟩
  refine .ite (.refl _) ?_
  split
  · exact .ite (hoCheck_stays ..) (.refl _)
  · exact .ite (.refl _) (.ite ⟨rfl, rfl, rfl, rfl, rfl⟩ (hoStart_stays ..))
  · exact .refl _

theorem okAccept_main (v : Bool) (e t : Time) (s : State) (hv : s.pwr.mainOk ≠ v)
    (h : okHeld s (max e s.pwr.railsFrom) t = true) : ∃ x, exec (.okAccept false v ⟨e, t⟩) s = .next x ∧
    x.pwr.mainOk = v ∧ x.pwr.bkupOk = s.pwr.bkupOk ∧ x.pwr.src = s.pwr.src ∧ x.mem = s.mem ∧ x.legs = s.legs := by
  obtain ⟨x, hx, hm, hb, hs, hmem, hl⟩ := okAccept_stays false hv h
  exact ⟨x, hx, hm, hb, hs, hmem, hl⟩

theorem okAccept_bkup (v : Bool) (e t : Time) (s : State) (hv : s.pwr.bkupOk ≠ v)
    (h : okHeld s (max e s.pwr.railsFrom) t = true) : ∃ x, exec (.okAccept true v ⟨e, t⟩) s = .next x ∧
    x.pwr.bkupOk = v ∧ x.pwr.mainOk = s.pwr.mainOk ∧ x.pwr.src = s.pwr.src ∧ x.mem = s.mem ∧ x.legs = s.legs := by
  obtain ⟨x, hx, hm, hb, hs, hmem, hl⟩ := okAccept_stays true hv h
  exact ⟨x, hx, hb, hm, hs, hmem, hl⟩

/-- The loss of the selected main source (R485, R487). -/
theorem okAccept_mainLost (e t : Time) (s : State) (hm : s.pwr.mainOk = true) (hsrc : s.pwr.src = false)
    (hen : hoEn s = true) (hst : s.pwr.stage = .idle) (h : okHeld s (max e s.pwr.railsFrom) t = true) : ∃ x,
    exec (.okAccept false false ⟨e, t⟩) s = .next x ∧ x.pwr.holdReq = true ∧ x.pwr.src = false ∧
    (s.pwr.bkupOk = true → x.pwr.stage = .hold ∧ x.pwr.forced = true) ∧
    (s.pwr.bkupOk = false → x.pwr.stage = .lost) := by
  have hsel : selOk (okTaken false false t s).pwr = false := by simp [selOk, okTaken, updPwr, hsrc]
  have hoth : othOk (okTaken false false t s).pwr = s.pwr.bkupOk := by simp [othOk, okTaken, updPwr, hsrc]
  have hx : exec (.okAccept false false ⟨e, t⟩) s = .next (hoCheck t (okTaken false false t s)) :=
    congrArg Host.Outcome.next ((if_neg (okAccept_due false (by simp [hm]) h)).trans (by simp [hen, hst, hsrc]; rfl))
  have hstay := (hoCheck_stays t (okTaken false false t s)).src.trans hsrc
  refine ⟨_, hx, ?_⟩
  rw [hoCheck_bad hsel, hoth] at hstay ⊢
  cases hb : s.pwr.bkupOk <;> rw [hb] at hstay
  · exact ⟨congrArg PwrSt.holdReq (hoLost_pwr _), hstay, nofun, fun _ => congrArg PwrSt.stage (hoLost_pwr _)⟩
  · obtain ⟨hs, hf, hr⟩ := hoStart_holds true t (okTaken false false t s)
    exact ⟨hr, hstay, fun _ => ⟨hs, hf⟩, nofun⟩

theorem hoReturnStart_starts (t : Time) (s : State) (hen : hoEn s = true) (hsrc : s.pwr.src = true)
    (hst : s.pwr.stage = .idle) (hd : dwelling s.pwr t = false) (hg : good20 s.pwr t = true) : ∃ x,
    exec (.hoReturnStart t) s = .next x ∧ x.pwr.stage = .hold ∧ x.pwr.forced = false ∧ x.pwr.holdReq = true ∧
    x.pwr.src = true ∧ x.mem = s.mem ∧ x.legs = s.legs := by
  obtain ⟨hs, hf, hr⟩ := hoStart_holds false t (upto t s)
  have h := hoStart_stays false t (upto t s)
  exact ⟨_, congrArg Host.Outcome.next (if_pos (by simp [hen, hsrc, hst, hd, hg])), hs, hf, hr, h.src.trans hsrc, h.mem,
    h.legs⟩

/-- THLD after HOLD_REQ the switch is due. -/
theorem hoSwitch_due (hen : hoEn s = true) (hst : s.pwr.stage = .hold)
    (ht : s.pwr.stageAt + lfld s PWR_CTRL_THLD * us ≤ t) : (hoEn s && decide (s.pwr.stage = .hold) &&
      decide (s.pwr.stageAt + lfld s PWR_CTRL_THLD * us ≤ t)) = true := by
  simp [hen, hst, ht]

theorem hoSwitch_switches (pin : Bool) (t : Time) (s : State) (hen : hoEn s = true) (hst : s.pwr.stage = .hold)
    (ht : s.pwr.stageAt + lfld s PWR_CTRL_THLD * us ≤ t) (hp : s.pwr.forced = true ∨ pin = true) : ∃ x,
    exec (.hoSwitch pin t) s = .next x ∧ x.pwr.src = !s.pwr.src ∧ x.pwr.stage = .settle ∧ x.regs = s.regs :=
  ⟨_, congrArg Host.Outcome.next ((if_pos (hoSwitch_due hen hst ht)).trans
    (if_neg (by rcases hp with hp | hp <;> simp [hp]))), rfl, rfl, rfl⟩

/-- A counter counts up to all ones. -/
theorem fld_incFld (s : State) {f : Fld} (hf : f.fits) :
    fld (incFld f s) f = min (fld s f + 1) (2 ^ f.width - 1) := by
  have := fld_lt s f
  rw [incFld, fld_setFld_same s f _ hf, satAdd]
  split
  all_goals rw [Nat.mod_eq_of_lt (by omega)]; omega

/-- The count of a hand-over that ends, or is skipped, with its selected source good. -/
theorem fld_hoEnded {f : Fld} (e : Nat) (g : PwrSt → PwrSt) (s : State) (hf : f.fits)
    (hr : f.reg / 0x10000 ≠ 0x4003) (hc : f.reg ≠ SPN_CNT2) :
    fld (raise e (incFld f (updPwr g s))) f = min (fld s f + 1) (2 ^ f.width - 1) := by
  rw [fld_raise e _ f hr hc, fld_incFld _ hf]
  rfl

theorem hocntSkip_fits : PWR_HOCNT_SKIP.fits := by unfold Fld.fits; decide
theorem hocntDone_fits : PWR_HOCNT_DONE.fits := by unfold Fld.fits; decide

theorem hoSwitch_skips (t : Time) (s : State) (hen : hoEn s = true) (hst : s.pwr.stage = .hold)
    (ht : s.pwr.stageAt + lfld s PWR_CTRL_THLD * us ≤ t) (hf : s.pwr.forced = false) (hok : selOk s.pwr = true) : ∃ x,
    exec (.hoSwitch false t) s = .next x ∧ x.pwr.src = s.pwr.src ∧ x.pwr.stage = .idle ∧ x.pwr.holdReq = false ∧
    fld x PWR_HOCNT_SKIP = min (fld s PWR_HOCNT_SKIP + 1) 65535 := by
  refine ⟨_, congrArg Host.Outcome.next (((if_pos (hoSwitch_due hen hst ht)).trans
    (if_pos (by simp [hf]))).trans (hoCheck_good ?_)), ?_, ?_, ?_,
    fld_hoEnded 610 _ (upto t s) hocntSkip_fits (by decide) (by decide)⟩
  all_goals rw [raise_pwr]
  exacts [hok, rfl, rfl, rfl]

theorem pwrHoDone_ends (t : Time) (s : State) (hen : hoEn s = true) (hst : s.pwr.stage = .settle)
    (ht : s.pwr.stageAt + (lfld s PWR_CTRL_THLD + lfld s PWR_CTRL_TSET) * us ≤ t) (hok : selOk s.pwr = true) : ∃ x,
    exec (.pwrHoDone t) s = .next x ∧ x.pwr.stage = .idle ∧ x.pwr.holdReq = false ∧ x.pwr.doneAt = some t ∧
    x.pwr.src = s.pwr.src ∧ fld x PWR_HOCNT_DONE = min (fld s PWR_HOCNT_DONE + 1) 65535 := by
  refine ⟨_, congrArg Host.Outcome.next ((if_pos (by simp [hen, hst, ht])).trans (hoCheck_good ?_)), ?_, ?_, ?_,
    ?_, fld_hoEnded 609 _ (upto t s) hocntDone_fits (by decide) (by decide)⟩
  all_goals rw [raise_pwr]
  exacts [hok, rfl, rfl, rfl, rfl]

end

/-! ### Temperature (R492) -/

theorem thermAssert_trips (k : Fin 4) (deg : BitVec 8) (t : Time) (s : State) (hth : s.pwr.therm = false)
    (hdeg : thermHi s < deg.toInt) : ∃ u x, exec (.thermAssert k deg t) s = .next x ∧ x = raise 613 u ∧
    u.regs = s.regs ∧ thermN x = false ∧ x.pwr.therm = true ∧ SMap.get (fun _ => 0#8) x.pwr.ts k.val = deg ∧
    x.legs = s.legs := by
  refine ⟨_, _, congrArg Host.Outcome.next (if_pos (by simp [hth, hdeg])), rfl, rfl, ?_, ?_, ?_, raise_legs ..⟩
  · rw [thermN, raise_pwr]; rfl
  · rw [raise_pwr]; rfl
  · rw [raise_pwr]; exact SMap.get_set_same ..

theorem thermAssert_notes (k : Fin 4) (deg : BitVec 8) (t : Time) (s : State)
    (h : s.pwr.therm = true ∨ deg.toInt ≤ thermHi s) : ∃ x, exec (.thermAssert k deg t) s = .next x ∧
    x.pwr.therm = s.pwr.therm ∧ SMap.get (fun _ => 0#8) x.pwr.ts k.val = deg ∧ x.regs = s.regs ∧ x.legs = s.legs := by
  refine ⟨_, congrArg Host.Outcome.next (if_neg ?_), rfl, SMap.get_set_same .., rfl, rfl⟩
  rcases h with h | h <;> simp [h]

theorem thermRelease_releases (a b c d : BitVec 8) (t : Time) (s : State) (hth : s.pwr.therm = true)
    (hlo : ∀ v, v ∈ [a, b, c, d] → v.toInt < thermLo s) : ∃ u x, exec (.thermRelease a b c d t) s = .next x ∧
    x = raise 614 u ∧ u.regs = s.regs ∧ thermN x = !s.pwr.inReset ∧ x.pwr.therm = false ∧ x.legs = s.legs := by
  have hdue : (s.pwr.therm && [a, b, c, d].all (fun v => decide (v.toInt < thermLo s))) = true :=
    Bool.and_eq_true_iff.mpr ⟨hth, List.all_eq_true.mpr fun v hv => decide_eq_true (hlo v hv)⟩
  refine ⟨_, _, congrArg Host.Outcome.next (if_pos hdue), rfl, rfl, ?_, ?_, raise_legs ..⟩
  · simp [thermN, updPwr]
  · rw [raise_pwr]; rfl

theorem thermRelease_notes (a b c d : BitVec 8) (t : Time) (s : State)
    (h : s.pwr.therm = false ∨ ∃ v, v ∈ [a, b, c, d] ∧ thermLo s ≤ v.toInt) : ∃ x,
    exec (.thermRelease a b c d t) s = .next x ∧ x.pwr.therm = s.pwr.therm ∧ x.regs = s.regs ∧ x.legs = s.legs := by
  refine ⟨_, congrArg Host.Outcome.next (if_neg ?_), rfl, rfl, rfl⟩
  rcases h with h | ⟨v, hv, hlo⟩
  · simp [h]
  · exact fun hc => absurd (of_decide_eq_true (List.all_eq_true.mp (Bool.and_eq_true_iff.mp hc).2 v hv)) (not_lt.mpr hlo)

/-- Settles O60: a brown-out is a fall of the cluster's line and a hard fault of its groups, none of which takes back a
latch, a hold or HARD (`Guards`) or lets a gate rise; the hand-over logic and the sensors act on the supplies' own state. -/
theorem suppliesAndTemperature : Obligations.SuppliesAndTemperature := by
  unfold Obligations.SuppliesAndTemperature
  exact ⟨⟨okAccept_main, okAccept_bkup, okAccept_mainLost, hoReturnStart_starts, hoSwitch_switches, hoSwitch_skips,
    pwrHoDone_ends⟩, pwrBankBor_acts, thermAssert_trips, thermAssert_notes, thermRelease_releases, thermRelease_notes⟩

end Sys2Proof.Machine
end
